-- ==== Sys2Proof/Word.lean ====
section
/-! DEFINITION. The word types of the XV-16 and the plainest arithmetic on them (R7: bit ranges [msb:lsb], little-endian bytes). -/

namespace Sys2Proof

/-- A byte of any memory, packet or image. -/
abbrev Byte := BitVec 8

/-- A management register (R8, "Registers are 32 bits wide"). -/
abbrev Word := BitVec 32

/-- The bits `[hi:lo]` of a word, as a number. -/
def bitsOf (x hi lo : Nat) : Nat := (x >>> lo) % 2 ^ (hi + 1 - lo)

/-- A number placed at bit `lo` of a word. -/
def field (x lo : Nat) : Nat := x <<< lo

/-- Whether bit `i` of a word is set. -/
def bitOf (x i : Nat) : Bool := (x >>> i) % 2 == 1

/-- 1 or 0 for a flag. -/
def flag (b : Bool) : Nat := if b then 1 else 0

/-- The least whole number at or above `a / b`. -/
def ceilDiv (a b : Nat) : Nat := (a + b - 1) / b

/-- The little-endian bytes of a number, `n` of them (R7). -/
def leBytes : Nat → Nat → List Byte
  | 0, _ => []
  | n + 1, v => BitVec.ofNat 8 v :: leBytes n (v / 256)

/-- The number whose little-endian bytes are given (R7). -/
def leNat : List Byte → Nat
  | [] => 0
  | b :: bs => b.toNat + 256 * leNat bs

/-- The number whose big-endian bytes are given (keys and signatures, R320, R389). -/
def beNat (bs : List Byte) : Nat := leNat bs.reverse

/-- The big-endian bytes of a number, `n` of them. -/
def beBytes (n v : Nat) : List Byte := (leBytes n v).reverse

/-- The two's-complement value of the low `w` bits of a number. -/
def sext (w x : Nat) : Int :=
  let y := x % 2 ^ w
  if y < 2 ^ (w - 1) then (y : Int) else (y : Int) - 2 ^ w

/-- The low `w` bits of an integer in two's complement. -/
def trunc (w : Nat) (x : Int) : Nat := (x % (2 ^ w : Int)).toNat

/-- The floor of `a / b` for `b > 0`. -/
def floorDiv (a : Int) (b : Nat) : Int := a.fdiv b

/-- An integer held between two bounds. -/
def clampInt (lo hi x : Int) : Int := if x < lo then lo else if hi < x then hi else x

end Sys2Proof
end

