-- ==== Sys2Proof/Syntax.lean ====
section
/-! DEFINITION. The commands of the XV-16: one constructor of `Instr` per row of spec/opcode_table.json, with the operand types of R57 to R81 (stream instructions), R300 to R313 (host packets) and of the events. No row has bits; operands are structured data. -/

namespace Sys2Proof

/-- The three pressure modes (R15). Codes 0, 1, 2 of R307. -/
inductive Mode where
  | full | half | light
deriving DecidableEq, Repr

/-- The element formats of R74 and R199, codes 0 to 9 in this order. -/
inductive Fmt where
  | fp32 | bf16 | e4m3 | e5m2 | int8 | uint8 | int4 | int16 | int48 | record
deriving DecidableEq, Repr

/-- The array input formats of R61 and R89. -/
inductive InFmt where
  | int8 | int4 | uint8
deriving DecidableEq, Repr

/-- A job is named by its queue and its job tag (R308, R309). -/
structure JobId where
  queue : BitVec 15
  tag : BitVec 32
deriving DecidableEq, Repr

/-- Where a stream word issues: its job, the logical region, the logical core (none: the region sequencer) and the
body tick (R51, R52). -/
structure Site where
  job : JobId
  region : Fin 16
  core : Option (Fin 32)
  tick : Nat
deriving DecidableEq, Repr

/-- A block whose tag reached the consumer of a block-quantised tensor other than it left its source (R217): its index and the tag found. -/
structure TagMiss where
  block : Nat
  found : BitVec 4
deriving DecidableEq, Repr

/-- A residue or lock-step mismatch (R365): the unit code of R380 and, of an optical shift-and-add, the plot, counted from the first of the
operation. -/
structure Residue where
  unit : Fin 12
  plot : Nat := 0
deriving DecidableEq, Repr

/-- What the codes and checks of the path report while an operation runs: codewords corrected and the
addresses of the uncorrectable ones (R252), errors that the stack's on-die code corrected and whether the first uncorrectable one is a parity
error (R239), the residue and lock-step mismatches (R365), the instruction word's
own codeword (R82, R363), the codewords of the accumulator memory (R186), table reads (R236) and block tags (R217). -/
structure Path where
  corrected : Nat
  bad : List Nat
  ondie : Nat
  parity : Bool
  accCorrected : Nat
  accBad : Bool
  residue : List Residue
  fetchBad : Bool
  tableCorrected : Nat
  tableBad : Bool
  tag : Option TagMiss
deriving DecidableEq, Repr

/-- A path on which every check passes. -/
def Path.clean : Path :=
  { corrected := 0, bad := [], ondie := 0, parity := false, accCorrected := 0, accBad := false, residue := [], fetchBad := false, tableCorrected := 0, tableBad := false
    tag := none }

/-- ARR.TILE operands (R61). -/
structure TileOp where
  array : Fin 16
  tier : Fin 64
  tile : Bool
  accumulate : Bool
  inFmt : InFmt
  wInt4 : Bool
  readPort : Bool
  rows : Nat
  zeroPoint : Byte
  src : BitVec 16
deriving DecidableEq, Repr

/-- One column conversion of a tile-op that did not read as the exact sum of the stored digits, or was flagged: its
tile row, plane, row group, logical column, the error of the code and the margin flag (R91, R118). Every conversion not
listed reads exactly and unflagged. -/
structure Reading where
  row : Nat
  plane : Nat
  rowGroup : Fin 16
  column : Fin 256
  err : Int
  flagged : Bool
deriving DecidableEq, Repr

/-- A benchmark reading that differs from its exact sum: row group and sense cycle (R123). -/
structure BenchMiss where
  rowGroup : Fin 16
  cycle : Nat
deriving DecidableEq, Repr

/-- ARR.DRAIN operands (R65). -/
structure DrainOp where
  array : Fin 16
  tile : Bool
  dst : BitVec 16
deriving DecidableEq, Repr

/-- OPT.TILE operands (R66). -/
structure OptOp where
  first : Fin 128
  count : Nat
  rows : Nat
  kblk : Nat
  aInt4 : Bool
  bInt4 : Bool
  rdPorts : BitVec 4
  wrPorts : BitVec 2
  aAddr : BitVec 20
  bAddr : BitVec 20
  dst : BitVec 20
  even : Bool
deriving DecidableEq, Repr

/-- One detector conversion that did not read as the exact count, or was flagged (R141, R142). -/
structure OptReading where
  row : Nat
  aPlane : Nat
  bPlane : Nat
  group : Nat
  pos : Nat
  column : Fin 16
  err : Int
  flagged : Bool
deriving DecidableEq, Repr

/-- H2R and R2H operands (R70). Addresses and lengths in 16-byte units. -/
structure HbmMove where
  rPort : Fin 4
  slotRef : BitVec 12
  length : BitVec 20
  addr : BitVec 20
  hbm : BitVec 36
deriving DecidableEq, Repr

/-- R2C, C2R, C2C and R2R operands (R70). -/
structure CopyMove where
  cPort : Bool
  rPort : Fin 4
  length : BitVec 20
  addrA : BitVec 20
  addrB : BitVec 20
deriving DecidableEq, Repr

/-- A source of a VEC operation (R74). -/
inductive Src where
  | staging (addr : BitVec 16)
  | acc (array : Fin 16) (tile : Bool)
  | none
deriving DecidableEq, Repr

/-- VEC operands but for SEED (R74). -/
structure VecOp where
  srcA : Src
  srcB : Src
  dst : BitVec 16
  length : BitVec 16
  fmtIn : Fmt
  fmtOut : Fmt
  mode : BitVec 8
  release : Bool
  sr : Bool
deriving DecidableEq, Repr

/-- XCH.CORE and XCH.REGION operands (R79). -/
structure XchOp where
  port : Bool
  length : BitVec 20
  add : Bool
  dstCore : Fin 32
  dstRegion : Fin 16
  dst : BitVec 16
  src : BitVec 16
deriving DecidableEq, Repr

/-- LSEND and LRECV operands (R79). -/
structure LinkOp where
  port : Fin 4
  slotRef : BitVec 12
  lport : Fin 16
  length : BitVec 20
  addr : BitVec 20
deriving DecidableEq, Repr

/-- What of the transport header matters after R301 step 1: the port it came on, queue, sequence, ack, job tag, the
body length field and the bytes of the UDP payload (R300). -/
structure Hdr where
  port : Fin 2
  queue : BitVec 15
  seq : BitVec 32
  ack : BitVec 32
  tag : BitVec 32
  length : Nat
  payload : Nat
deriving DecidableEq, Repr

/-- The JOB body after its action byte (R307). -/
structure JobBody where
  pressure : Byte
  flags : BitVec 16
  res1 : BitVec 32
  imageId : BitVec 256
  windowBase : BitVec 64
  jobSeed : BitVec 64
  genBase : BitVec 64
  saveArea : BitVec 64
  salvageArea : BitVec 64
  fleetStart : BitVec 64
  inOff : BitVec 64
  inBytes : BitVec 64
  outOff : BitVec 64
  outBytes : BitVec 64
  extOff : BitVec 64
  extBytes : BitVec 64
  regionMap : List Byte
  portMap : List Byte
  res2 : BitVec 64
deriving DecidableEq, Repr

/-- A survey unit (R335). -/
inductive SurveyUnit where
  | periphery (g : Fin 16) (c : Fin 34) (a : Fin 17)
  | plot (g : Fin 16) (o : Fin 136)
  | lane (p : Fin 16) (l : Fin 9)
deriving DecidableEq, Repr

/-- What a survey measured and set on one plot (row group, physical column group): residual margin in 1/256 LSB and
flag rate (R135, R336). -/
structure PlotSurvey where
  rowGroup : Fin 16
  colGroup : Fin 17
  margin : BitVec 8
deriving DecidableEq, Repr

/-- A converter, detector or receive-lane tap that a survey set (R92, R141, R335): which one, and its two values. -/
structure TapSet where
  index : Nat
  first : BitVec 8
  second : BitVec 6
deriving DecidableEq, Repr

/-- What a survey of an optical plot set on one bank (R335): amplitude, the six feed-forward values of R173, and the
trims of its rings. -/
structure BankSurvey where
  bank : Fin 18
  amplitude : BitVec 8
  ff : List Int
  trims : List (BitVec 7)
deriving DecidableEq, Repr

/-- The outcome of a survey (R336): whether it succeeded, the temperature in 1/16 °C, plot figures, taps, bank settings. -/
structure SurveyResult where
  ok : Bool
  temp : BitVec 12
  plots : List PlotSurvey
  taps : List TapSet
  banks : List BankSurvey
deriving DecidableEq, Repr

/-- A laser: a compute laser of a region, or a link laser (R159, R163). -/
inductive LaserRef where
  | compute (g : Fin 16) (n : Fin 10)
  | link (n : Fin 20)
deriving DecidableEq, Repr

/-- A ring bank of a physical optical plot (R138, R171). -/
structure BankRef where
  g : Fin 16
  o : Fin 136
  b : Fin 18
deriving DecidableEq, Repr

/-- The outcome of decoding a frame's or line's codewords (R251). -/
inductive CodeResult where
  | clean
  | corrected (n : Nat)
  | uncorrectable
deriving DecidableEq, Repr

/-- What the codes report of an HBM transfer outside the slots (R239, R252): codewords corrected, errors that the on-die code corrected, the
physical address of the first uncorrectable codeword, and whether that is a parity error. -/
structure HbmCode where
  corrected : Nat
  ondie : Nat
  bad : Option Nat
  parity : Bool
deriving DecidableEq, Repr
def HbmCode.clean : HbmCode := { corrected := 0, ondie := 0, bad := none, parity := false }

/-- What the code of the register fabric reports (R252): words corrected, and the first access of a run whose word is uncorrectable. -/
structure Fabric where
  corrected : Nat
  bad : Option Nat
deriving DecidableEq, Repr
def Fabric.clean : Fabric := { corrected := 0, bad := none }

/-- A copy of a tier's ledger entry in HBM that met an uncorrectable codeword when it was read (R248). -/
structure LedgerMiss where
  tier : Nat
  copy : Fin 2
deriving DecidableEq, Repr

/-- The fields of a Lamni frame header (R260). -/
structure FrameHdr where
  type : BitVec 4
  mode : BitVec 2
  easy : Bool
  blockTag : BitVec 4
  lane : BitVec 3
  index : BitVec 13
  last : Bool
  stroke : BitVec 48
  sendTick : BitVec 12
  payloadLen : Nat
  digestFrag : Byte
  reservedZero : Bool
deriving DecidableEq, Repr

/-- A frame as it travels: header and payload bytes (R260). -/
structure Frame where
  hdr : FrameHdr
  payload : List Byte
deriving DecidableEq, Repr

/-- A CATCH payload (R285). -/
structure CatchMsg where
  member : BitVec 10
  leadIn : Bool
  easySet : Bool
  distance : BitVec 8
  origin : BitVec 10
  jobStroke : BitVec 48
  epoch : BitVec 32
  imageId : BitVec 256
  start : BitVec 48
  mode : BitVec 8
deriving DecidableEq, Repr

/-- A WEIGH payload (R281). -/
structure WeighMsg where
  version : Byte
  joined : Bool
  member : BitVec 10
  fleetId : BitVec 10
  port : BitVec 8
  lastReason : BitVec 8
  apid : BitVec 32
  fleetDigest : BitVec 512
  portImage : BitVec 256
  fleetStroke : BitVec 48
  serial : BitVec 128
deriving DecidableEq, Repr

/-- A FAULT payload (R287). -/
structure SignalMsg where
  kind : BitVec 8
  hops : BitVec 8
  origin : BitVec 10
  sequence : BitVec 32
  epoch : BitVec 32
  stroke : BitVec 48
  lane : BitVec 4
  status : BitVec 8
  imageId : BitVec 256
deriving DecidableEq, Repr

/-- A LANE_CTRL payload (R260, R269, R271): action 0 retire request, 1 acknowledge, 2 rotate out, 3 return. -/
structure LaneMsg where
  action : Fin 4
  lane : Fin 9
  target : BitVec 48
deriving DecidableEq, Repr

/-- A MEASURE payload (R260): the sender's timestamp, the timestamp that it echoes, 0 while it has none to echo, and the turnaround. -/
structure MeasureMsg where
  sent : BitVec 64
  echoed : BitVec 64
  turnaround : BitVec 64
deriving DecidableEq, Repr

/-- The outcome of one port's bring-up (R268): the receive lanes that locked and were numbered right, the transmit lanes that the far device's
LANE_CTRL frames report usable, the eyes measured, and the round trips less turnaround of the MEASURE exchanges, in ns. -/
structure BringUp where
  rxUsable : List Bool
  txUsable : List Bool
  heights : List (BitVec 8)
  widths : List (BitVec 8)
  trips : List Nat
deriving DecidableEq, Repr

/-- A peak that a re-sweep recorded (R176): its heater code and the two frames read there. -/
structure SweepPeak where
  code : BitVec 16
  frame0 : BitVec 32
  frame1 : BitVec 32
deriving DecidableEq, Repr

/-- A rail of R373. -/
inductive Rail where
  | main
  | alwaysOn
  | regionReg (g : Fin 16)
  | stackReg (s : Fin 8)
  | portReg (p : Fin 16)
deriving DecidableEq, Repr

/-- A unit that a start-up self-test found failed (R325 phase 4). -/
inductive FailedUnit where
  | periphery (g : Fin 16) (c : Fin 34) (a : Fin 17)
  | core (g : Fin 16) (c : Fin 34)
  | plot (g : Fin 16) (o : Fin 136)
  | region (g : Fin 16)
deriving DecidableEq, Repr

/-- A cell that failed verify: tier row, logical column and measured digit (R102). -/
structure FailedCell where
  row : Fin 256
  column : Fin 256
  digit : BitVec 2
deriving DecidableEq, Repr

/-- How an instruction word without a data path of its own came to issue: whole; uncorrectable by its own code (R82); with the lock-step pair
that issues it in disagreement (R365). -/
inductive Fetch where
  | good | bad | split
deriving DecidableEq, Repr

/-- What the start-up read of a survey store bank found (R341, MON_STORE_STATUS): 0 valid, 1 uncommitted,
2 CRC or magic failed, 3 blank. -/
abbrev BankState := BitVec 2

/-- The commands, one constructor per row of spec/opcode_table.json, in the table's order. -/
inductive Instr where
  -- SYN (R57)
  | synNop (site : Site) (fetch : Fetch)
  | synPiece (site : Site) (bodyPiece : BitVec 32) (fetch : Fetch)
  | synCatch (site : Site) (fetch : Fetch)
  | synChange (site : Site) (phase : BitVec 6) (fetch : Fetch)
  | synWake (site : Site) (target : Fin 16) (fetch : Fetch)
  | synSleep (site : Site) (target : Fin 16) (fetch : Fetch)
  -- arrays and the cox
  | arrTile (site : Site) (op : TileOp) (readings : List Reading) (bench : List BenchMiss) (path : Path)
  | tileReady (job : JobId) (region : Fin 16) (core : Fin 32) (array : Fin 16) (tile : Bool)
  | arrDrain (site : Site) (op : DrainOp) (path : Path)
  | coxSlot (job : JobId) (region : Fin 16) (core : Fin 32) (start : Nat) (path : Path)
  | checkPathExercise (g : Fin 16) (c : Fin 34) (a : Fin 17) (compareFailed : Bool)
  | opticalCheckPathExercise (g : Fin 16) (o : Fin 136) (compareFailed : Bool)
  -- optical engine
  | optTile (site : Site) (op : OptOp) (readings : List OptReading) (path : Path)
  | optDummy (site : Site) (first : Fin 128) (count : Nat) (span : BitVec 16) (even : Bool) (fetch : Fetch)
  -- STG (R70)
  | stgH2r (site : Site) (op : HbmMove) (path : Path)
  | stgR2h (site : Site) (op : HbmMove) (path : Path)
  | stgR2c (site : Site) (op : CopyMove) (path : Path)
  | stgC2r (site : Site) (op : CopyMove) (path : Path)
  | stgC2c (site : Site) (op : CopyMove) (path : Path)
  | stgR2r (site : Site) (op : CopyMove) (path : Path)
  | stgStride (site : Site) (repStride : BitVec 32) (repMod : BitVec 16) (fetch : Fetch)
  -- VEC (R75)
  | vecAdd (site : Site) (op : VecOp) (path : Path)
  | vecMul (site : Site) (op : VecOp) (path : Path)
  | vecFma (site : Site) (op : VecOp) (path : Path)
  | vecMax (site : Site) (op : VecOp) (path : Path)
  | vecMin (site : Site) (op : VecOp) (path : Path)
  | vecCvt (site : Site) (op : VecOp) (path : Path)
  | vecQuant (site : Site) (op : VecOp) (path : Path)
  | vecDeq (site : Site) (op : VecOp) (path : Path)
  | vecReq (site : Site) (op : VecOp) (path : Path)
  | vecDatum (site : Site) (op : VecOp) (path : Path)
  | vecUndatum (site : Site) (op : VecOp) (path : Path)
  | vecRadd (site : Site) (op : VecOp) (path : Path)
  | vecRrow (site : Site) (op : VecOp) (path : Path)
  | vecExp2 (site : Site) (op : VecOp) (path : Path)
  | vecLog2 (site : Site) (op : VecOp) (path : Path)
  | vecRcp (site : Site) (op : VecOp) (path : Path)
  | vecRsqrt (site : Site) (op : VecOp) (path : Path)
  | vecAct (site : Site) (op : VecOp) (path : Path)
  | vecSoftmax (site : Site) (op : VecOp) (path : Path)
  | vecNorm (site : Site) (op : VecOp) (path : Path)
  | vecRmax (site : Site) (op : VecOp) (path : Path)
  | vecSeed (site : Site) (base : BitVec 48) (tensor : BitVec 16) (fetch : Fetch)
  -- XCH (R79)
  | xchCore (site : Site) (op : XchOp) (path : Path)
  | xchRegion (site : Site) (op : XchOp) (path : Path)
  | xchLsend (site : Site) (op : LinkOp) (path : Path)
  | xchLrecv (site : Site) (op : LinkOp) (path : Path)
  -- strokes, commits and re-row
  | strokeBoundary (g : Fin 16) (fillMisses : List (Fin 136 × Nat)) (ledgerBad : List LedgerMiss)
  | chipStroke
  | pieceCommit (job : JobId)
  | rerow (job : JobId)
  | coreCopyHoldEnd (job : JobId)
  -- jobs
  | jobSubmit (h : Hdr) (body : JobBody)
  | jobPause (h : Hdr) (body : JobBody)
  | jobResume (h : Hdr) (body : JobBody)
  | jobAbort (h : Hdr) (body : JobBody)
  | pressureChangeRequest (h : Hdr) (body : JobBody)
  | pressureChangeApply (job : JobId)
  | jobAdmit (job : JobId)
  | class0Admit (job : JobId)
  | jobStart (job : JobId)
  | pauseDrainEnd (job : JobId)
  | deadlineCheck (job : JobId)
  | regionZeroDone (g : Fin 16)
  -- loading
  | loadSegment (h : Hdr) (res : BitVec 24) (segLen : Nat) (imageOffset : BitVec 64) (offset : BitVec 64) (data : List Byte)
  | loadUnload (h : Hdr) (res : BitVec 24) (segLen : Nat) (offset : BitVec 64) (imageId : BitVec 256)
  | checkComplete (queue : BitVec 15) (readBad : Bool)
  | imageReplace (imageId : BitVec 256)
  -- registers
  | regRead (h : Hdr) (res : Byte) (addr : BitVec 32) (count : Nat) (fabric : Fabric)
  | regWrite (h : Hdr) (res : Byte) (addr : BitVec 32) (values : List Word) (fabric : Fabric)
  | registerWrite (addr : BitVec 32) (value : Word) (fabric : Fabric)
  | rcFieldRead (addr : BitVec 32) (fabric : Fabric)
  | latchedLowRead (addr : BitVec 32) (fabric : Fabric)
  | monQueuePop
  -- bulk data and acks
  | bulkWriteData (h : Hdr) (res : BitVec 24) (len : Nat) (addr : BitVec 64) (data : List Byte) (code : HbmCode)
  | bulkReadData (h : Hdr) (res : BitVec 24) (len : Nat) (addr : BitVec 64) (code : HbmCode)
  | bulkWriteInputStream (h : Hdr) (res : BitVec 24) (len : Nat) (offset : BitVec 64) (data : List Byte) (code : HbmCode)
  | hostAck (h : Hdr)
  | hostAckResend (h : Hdr)
  | malformedDatagram (port : Fin 2)
  | discardedFrame (port : Fin 2) (failedCheck : Bool) (fec : Nat)
  | arpRequest (port : Fin 2) (target : BitVec 32) (sender : BitVec 48)
  | neighborSolicitation (port : Fin 2) (target : BitVec 128) (sender : BitVec 48)
  | icmpEcho (port : Fin 2) (v6 : Bool) (target : BitVec 128) (data : List Byte)
  | ptpMessage (port : Fin 2) (offsetNs : Int)
  | moduleInserted (port : Fin 2)
  | hostLinkFallback (port : Fin 2)
  | hostLinkDown (port : Fin 2)
  | queueReset
  -- tiers and swaps
  | tierProgram (g : Fin 16) (c : Fin 34) (a : Fin 17) (tier : Fin 64) (int4 : Bool) (sourceBad : Bool)
  | tierErase (g : Fin 16) (c : Fin 34) (a : Fin 17) (tier : Fin 64)
  | tierProgramDone (g : Fin 16) (c : Fin 34) (a : Fin 17) (failed : List FailedCell)
  | tierEraseDone (g : Fin 16) (c : Fin 34) (a : Fin 17)
  | swapStage (g : Fin 16) (c : Fin 34) (a : Fin 17) (tierA tierB : Fin 64)
  | swapCancel (g : Fin 16) (c : Fin 34) (a : Fin 17)
  | swapArm (g : Fin 16)
  | swapWithdraw (g : Fin 16)
  | swapApply (g : Fin 16)
  | plotCopyDone (g : Fin 16) (c : Fin 34) (a : Fin 17) (rowGroup : Fin 16) (ledgerBad : List LedgerMiss)
  | plotSubstitution (g : Fin 16) (c : Fin 34) (a : Fin 17) (rowGroup : Fin 16)
  | cellBlockCopyDone (g : Fin 16) (c : Fin 34) (a : Fin 17) (ledgerBad : List LedgerMiss)
  | cellBlockSubstitution (g : Fin 16) (c : Fin 34) (a : Fin 17)
  | spareCoreArrayMove (g : Fin 16) (core : Fin 32) (array : Fin 16)
  | tableEntryFilled (g : Fin 16) (c : Fin 34) (entry : Fin 16)
  | plotHoldTimeout (g : Fin 16) (o : Fin 136)
  | plotHoldReturn (g : Fin 16) (o : Fin 136)
  -- survey, store, temperature
  | surveyTest (unit : SurveyUnit) (meanTemp : BitVec 12) (drift : Bool)
  | surveyStart (unit : SurveyUnit)
  | surveyEnd (unit : SurveyUnit) (result : SurveyResult)
  | storeCommit
  | temperatureWatchSample (reading : BitVec 13)
  | easyEntry (g : Fin 16)
  | easyExit (g : Fin 16)
  | thermalStop
  -- the level
  | levelPeriodEnd (raw : Int)
  | monInjectRequest (channel : BitVec 7)
  | monSelfCalibrate
  | levelCalibrationDone (readings : List Int)
  -- lasers, locks, heaters
  | lineMonitorMeasure (laser : LaserRef) (powers : List Nat) (readbackBad : Bool)
  | fadeThresholdCrossed (laser : LaserRef)
  | lasHandoverOrder (g : Fin 16)
  | spareLaserReady (laser : LaserRef)
  | handoverStart (laser : LaserRef)
  | handoverComplete (laser : LaserRef)
  | laserStandbyReached (laser : LaserRef)
  | spareLaserActive (laser : LaserRef)
  | lockLoopUpdate (bank : BankRef) (err : Int)
  | heaterLoadStrobe (g : Fin 16)
  | heaterChannelCheck (bank : BankRef) (measured : Nat)
  | pilotFrame (bank : BankRef) (chips : BitVec 32)
  | resweepDone (bank : BankRef) (peaks : List SweepPeak)
  -- HBM
  | scrub (s : Fin 8) (line : Nat) (outcome : CodeResult) (ondie : Nat) (parity : Bool) (progress : BitVec 8)
  | stackDegrade (s : Fin 8)
  -- Lamni frames
  | dataFrame (p : Fin 16) (l : Fin 9) (frame : Frame) (code : CodeResult)
  | catchFrame (p : Fin 16) (l : Fin 9) (hdr : FrameHdr) (msg : CatchMsg) (offset : Int) (code : CodeResult)
  | weighFrame (p : Fin 16) (l : Fin 9) (hdr : FrameHdr) (msg : WeighMsg) (behind : Nat) (nearBoundary : Bool) (code : CodeResult)
  | measureFrame (p : Fin 16) (l : Fin 9) (hdr : FrameHdr) (msg : MeasureMsg) (arrival : Nat) (code : CodeResult)
  | laneCtrlFrame (p : Fin 16) (l : Fin 9) (hdr : FrameHdr) (msg : LaneMsg) (code : CodeResult)
  | faultFrame (p : Fin 16) (l : Fin 9) (hdr : FrameHdr) (msg : SignalMsg) (code : CodeResult)
  | hopMeasure (p : Fin 16)
  | eyeMonitorSample (p : Fin 16) (l : Fin 9) (width height : BitVec 8) (corrected : Nat)
  | laneRetireApply (p : Fin 16)
  | laneRotationOut (p : Fin 16) (l : Fin 9)
  | laneRotationReturn (p : Fin 16) (l : Fin 9)
  | lnkRetireLane (p : Fin 16)
  | lnkBringUp (p : Fin 16)
  | portBringUpDone (p : Fin 16) (result : BringUp)
  | weighInRetry (p : Fin 16)
  | linkExclude (p : Fin 16)
  | linkLanesLost (p : Fin 16)
  -- fleet
  | fleetStroke
  | fsyncEdge (position : Int)
  | fsyncLost
  | fleetJobStart (job : JobId)
  | fleetRerow (job : JobId)
  | fleetEasy (job : JobId)
  | fleetPause (job : JobId)
  | fleetAbort (job : JobId)
  | salvage (job : JobId)
  -- clocks, rails, power, start-up
  | refclkLost
  | refclkRestored
  | railOutOfWindow (rail : Rail)
  | railBreachAbort (rail : Rail)
  | railReturn (rail : Rail)
  | mainPowerLoss
  | powerOff
  | powerGood
  | resetRelease
  | identityPhase (keyOk : Bool)
  | configurationPhase (readFailed0 readFailed1 : Bool)
  | memoryPhase (trainingFailed : List (Fin 8 × Fin 32)) (bank0 bank1 : BankState) (ledgerBad : List LedgerMiss)
  | benchmarkSelfTest (failed : List FailedUnit)
  | levelCalibrationPhase (readings : List Int)
  | lightPhase (failedLasers : List LaserRef) (failedBanks : List BankRef)
  | surveyPhase (results : List (SurveyUnit × SurveyResult))
  | linksPhase (results : List (Fin 16 × BringUp))
  -- configuration, access, audit, test port
  | configWrite
  | configWriteDone (readBackOk : Bool)
  | accessPassword (length : BitVec 7)
  | accessChallenge
  | accessSignedRequest
  | accessReturnLevel0
  | accessExpiry
  | lockoutEnd
  | challengeExpiry
  | attest
  | attestationReportWritten
  | ownerRecord
  | diagRead
  | tapBypass
  | tapIdcode
  | tapSamplePreload (chain : List Bool)
  | tapExtest
  | tapClamp
  | tapHighz
  -- links and stores, continued
  | hostLinkUp (port : Fin 2) (speed400 : Bool)
  | pfcFrame (port : Fin 2) (enabled : BitVec 8) (paused : BitVec 8)
  | ptpMasterLost
  | idleFrame (p : Fin 16) (l : Fin 9) (hdr : FrameHdr) (code : CodeResult)
  | markerError (p : Fin 16) (l : Fin 9) (error : Bool)
  | stackTemperatureRead (s : Fin 8) (celsius : BitVec 8)
  | symbolPllUnlock (g : Fin 16)
  | storeCommitDone (crcOk : Bool)
deriving DecidableEq, Repr

end Sys2Proof
end

