-- ==== Sys2Proof/Config.lean ====
section
/-! DEFINITION. The free values of the model: what the spec leaves open and the machine still produces. None has a body, so no proof can rest on one. Each is applied to the operands it depends on or to the free-value counter of the state (log entry 4). -/

namespace Sys2Proof

/-- The ECDSA signature, r and s, that the device key makes over a message digest (R320, R388, R389): the key is not readable and
the nonce is drawn, so the value is open. -/
opaque Config.signature : (digest ctr : Nat) → Nat × Nat

/-- The challenge that the device draws (R392). -/
opaque Config.challenge : (ctr : Nat) → BitVec 256

/-- The public part of the device key, x and y (R384): set at manufacture. -/
opaque Config.deviceKey : Nat × Nat

/-- The lead in ticks of a frame's payload over its release tick (R275 min_lead): it depends on the flight time, which no command
carries. -/
opaque Config.lead : (ctr : Nat) → BitVec 16

/-- A value that the device reports and no command carries, by the width asked (analogue and timing figures). -/
opaque Config.figure : (ctr : Nat) → Nat

end Sys2Proof
end

