-- ==== Sys2Proof/Machine/State.lean ====
section
/-! DEFINITION. The state of the XV-16 as plain data: every register, buffer, map, memory and mode that spec/ gives the machine, the queue of waiting commands, and the state after reset. Indices: core = g*34+c, array = core*17+a, tier = array*64+t, optical plot = g*136+o, bank = plot*18+b, lane = p*9+l, logical core = g*32+lc, logical array = lcore*16+la. -/

namespace Sys2Proof.Machine

/-- A sparse table: keys strictly rising, no entry equal to what an absent key stands for. -/
abbrev SMap (V : Type) := List (Nat × V)

/-- A byte memory: cells at strictly rising addresses, none of them 0; an address not listed reads 0 (R246; DESIGN
CHOICE 2 and 11 where the spec gives no content). -/
abbrev Mem := List Host.Cell

/-- How a step can stop with a fault. -/
inductive Fault where
  /-- A staging access whose range passes the end of its staging (R62, R70, R76 refuse such an image at load, so no
  loaded image makes one). Raised by stream instructions. Safe: the part never runs such a word. -/
  | outsideStaging (addr : Nat)
deriving DecidableEq, Repr

/-- How a command can be refused. -/
inductive Refusal where
  /-- No meaning yet. Raised by no meaning; kept for the dispatch of a command that is not modelled. Safe. -/
  | notModelled (mnemonic : String)
  /-- An operand form the spec refuses at load or gives no meaning (R46, R74, R222): raised by stream instructions
  whose word no loaded image can hold. Safe: the part never issues such a word. -/
  | illFormed (why : String)
deriving DecidableEq, Repr

/-! ## Event log -/

/-- An event record (R377). -/
structure EventRec where
  source : BitVec 16
  cls : BitVec 8
  flags : BitVec 8
  seq : BitVec 32
  stroke : BitVec 48
  code : BitVec 16
  logTime : BitVec 64
  locus : BitVec 32
  detail : BitVec 32
deriving DecidableEq, Repr

/-- A source ring (R378): its records, oldest first, the next sequence number, the dropped count, and whether it ever
wrote a record. -/
structure Ring where
  recs : List EventRec := []
  next : BitVec 32 := 0
  dropped : BitVec 16 := 0
  any : Bool := false
deriving DecidableEq, Repr

/-- The event log: the rings by source, the retain ring with its indices (R381), the new flags (R407). -/
structure Log where
  rings : SMap Ring := []
  retain : List (BitVec 32 × EventRec) := []
  retainNext : BitVec 32 := 0
  retainAny : Bool := false
  newChip : BitVec 32 := 0
  newRgn : BitVec 32 := 0
deriving DecidableEq, Repr

/-! ## Clocks, start-up, configuration -/

/-- Clocks and times (R19, R279, R299, R351, R361). `aon` is the 25 MHz always-on cycle count. -/
structure Clk where
  aon : Nat := 0
  chipStroke : BitVec 48 := 0
  refclkOk : Bool := false
  onBackup : Bool := false
  masterLock : Bool := false
  refLosses : BitVec 16 := 0
  symbolUnlock : BitVec 16 := 0
  crossClass : BitVec 5 := 0
  crossInst : BitVec 8 := 0
  fleetStroke : BitVec 48 := 0
  fleetRunning : Bool := false
  fleetLatch : BitVec 16 := 0
  fsyncOk : Bool := false
  sinceFsync : Nat := 0
  strayCount : Nat := 0
  strayPos : Int := 0
  ptpFollowing : Bool := false
  ptpOffset : Int := 0
  logLatch : BitVec 32 := 0
deriving DecidableEq, Repr

/-- Start-up (R325, R327, R334, R413): the phase under way or last; `restored` once phase 3 has restored what the survey store keeps
(R404), `memory` once it has trained the HBM and restored the ledger, `cold` from power-up until it has read the survey store;
`since` is the time of power-good. -/
structure Start where
  powered : Bool := false
  powerGood : Bool := false
  phase : BitVec 4 := 0
  ready : Bool := false
  recovery : Bool := false
  reason : BitVec 4 := 0
  startMs : BitVec 16 := 0
  since : Nat := 0
  restored : Bool := false
  memory : Bool := false
  cold : Bool := true
deriving DecidableEq, Repr

/-- A host port's part of the configuration image (R329). -/
structure CfgPort where
  mac : BitVec 48 := 0
  flags : BitVec 8 := 0
  vid : BitVec 16 := 0
  udpPort : BitVec 16 := 0
  ipv4 : BitVec 32 := 0
  ipv6 : BitVec 128 := 0
  ptpDomain : BitVec 8 := 0
deriving DecidableEq, Repr

/-- The configuration in use and its registers (R329 to R334). -/
structure Cfg where
  loaded : Bool := false
  sequence : BitVec 32 := 0
  port0 : CfgPort := {}
  port1 : CfgPort := {}
  pcp : List (BitVec 8) := []
  dscp : List (BitVec 8) := []
  fleetId : BitVec 10 := 0
  hopBudget : BitVec 16 := 0
  reach : BitVec 8 := 0
  class0 : Bool := false
  expressCores : BitVec 8 := 0
  member : BitVec 10 := 0
  modes : BitVec 8 := 0
  mains : BitVec 8 := 0
  powerLimit : BitVec 16 := 0
  surveyThreshold : BitVec 16 := 0
  features : BitVec 32 := 0
  access : BitVec 8 := 0
  salt : List Byte := []
  verifier : BitVec 512 := 0
  classMap : List Byte := []
  digest : BitVec 512 := 0
  fleetDigest : BitVec 512 := 0
  inUse : BitVec 1 := 0
  reason0 : BitVec 4 := 0
  reason1 : BitVec 4 := 0
  src : BitVec 64 := 0
  result : BitVec 8 := 0
  verify : BitVec 4 := 0
  writing : Option Bool := none
deriving DecidableEq, Repr

/-- The identity vault (R384, R386, R389). -/
structure Vault where
  serial : BitVec 128 := 1
  gradeH : Bool := false
  stepping : BitVec 8 := 0x41
  apid : BitVec 32 := 0x58560001
  ownerKey : Option (Nat × Nat) := none
  ownerSeq : BitVec 32 := 0
  cert0 : List Byte := []
  cert1 : List Byte := []
  read : Bool := false
deriving DecidableEq, Repr

/-- What the test port's selected instruction is (R393). -/
inductive Tap where
  | idle | bypass | idcode | samplePreload | extest | clamp | highz
deriving DecidableEq, Repr

/-- Access levels, challenges, attestation and the diagnostic window (R387 to R396). -/
structure Access where
  level : BitVec 2 := 0
  expiry : Nat := 0
  result : BitVec 8 := 0
  failures : BitVec 8 := 0
  lockoutUntil : Option Nat := none
  lockoutLen : Nat := 0
  pw : List Byte := []
  challenge : Option (BitVec 256 × Nat) := none
  src : BitVec 64 := 0
  dst : BitVec 64 := 0
  keyResult : BitVec 8 := 0
  attesting : Option (Nat × Nat) := none
  certSel : BitVec 1 := 0
  certWord : BitVec 11 := 0
  diagSpace : BitVec 2 := 0
  diagOut : Bool := false
  diagAddr : BitVec 64 := 0
  diagData : List Byte := []
  tap : Tap := .idle
  scan : List Bool := []
  chain : List Bool := []
deriving DecidableEq, Repr

/-! ## Host transport -/

/-- A JOB_END record but for its digests' bytes order (R320). -/
structure JobEnd where
  status : BitVec 8
  sub : BitVec 8
  flags : BitVec 16
  pressure : BitVec 8
  tag : BitVec 32
  rerows : BitVec 32
  pauses : BitVec 32
  imageId : BitVec 256
  nominal : BitVec 64
  lastStroke : BitVec 64
  outBytes : BitVec 64
  weightDigest : BitVec 512
  inputDigest : BitVec 512
  provenance : BitVec 512
  signature : Option (Nat × Nat)
deriving DecidableEq, Repr

/-- The RESULT bodies (R319), the status first; `ref` is the host sequence answered. -/
inductive ResultBody where
  | receipt (status sub : BitVec 8) (ref : BitVec 32)
  | loadDone (status sub : BitVec 8) (ref : BitVec 32) (imageId : BitVec 256) (entry : BitVec 32) (sec : BitVec 16)
  | jobEnd (e : JobEnd)
  | jobState (status state reason mode : BitVec 8) (tag : BitVec 32) (jobStroke chipStroke : BitVec 64)
  | regData (status : BitVec 8) (ref : BitVec 32) (count : BitVec 16) (addr : BitVec 32) (values : List Word)
  | bulkData (status : BitVec 8) (ref : BitVec 32) (offset : BitVec 64) (data : List Byte)
  | streamData (offset : BitVec 64) (data : List Byte)
deriving DecidableEq, Repr

/-- A device packet of a queue (R300, R303): a numbered RESULT, or an ACK carrying the next host sequence expected; `tagged` holds the VID and
the PCP of an IEEE 802.1Q tag, `dscp` the DSCP of its IP header (R297). -/
structure Packet where
  queue : BitVec 15
  port : Fin 2
  tagged : Option (BitVec 12 × BitVec 3) := none
  dscp : BitVec 6 := 0
  seq : BitVec 32
  tag : BitVec 32
  time : BitVec 64
  body : Option ResultBody
deriving DecidableEq, Repr

/-- A packet waiting for a sequence number: its job tag and body, the host sequence it answers if it is an answer, and the port booked for it
if it is output of a stream (R314). -/
structure Waiting where
  tag : BitVec 32
  answers : Option (BitVec 32)
  body : ResultBody
  port : Option (Fin 2) := none
deriving DecidableEq, Repr

/-- A queue of the transport (R302, R303). -/
structure QState where
  expected : BitVec 32 := 0
  next : BitVec 32 := 0
  acked : BitVec 32 := 0
  ahead : BitVec 8 := 0
  retained : List Packet := []
  withheld : List Waiting := []
  answers : List (BitVec 32 × Packet) := []
  port : Fin 2 := 0
deriving DecidableEq, Repr

/-- A host port (R297, R298, R324): `paused` holds a bit for each priority that the far end has paused, `waiting` what waits for its release. -/
structure HPort where
  speed : BitVec 2 := 0
  present : Bool := false
  fallback : Bool := false
  fec : BitVec 16 := 0
  malformed : BitVec 16 := 0
  foreign : BitVec 16 := 0
  paused : BitVec 8 := 0
  waiting : List Packet := []
deriving DecidableEq, Repr

/-- A frame answered below the transport (R297): ARP and Neighbor Discovery carry our MAC, echo carries the data back. -/
inductive Reply where
  | arp (port : Fin 2) (ip : BitVec 32) (mac : BitVec 48) (dest : BitVec 48)
  | advert (port : Fin 2) (ip : BitVec 128) (mac : BitVec 48) (dest : BitVec 48)
  | echo (port : Fin 2) (v6 : Bool) (data : List Byte)
deriving DecidableEq, Repr

/-- The host ports and the transport (R297 to R324). `sent` is what the device put on the wire, oldest first. -/
structure HostSt where
  port0 : HPort := {}
  port1 : HPort := {}
  queueSel : BitVec 15 := 0
  queues : SMap QState := []
  queueCtrl : BitVec 2 := 0
  pausesIn : BitVec 16 := 0
  pausesOut : BitVec 16 := 0
  sent : List Packet := []
  replies : List Reply := []
deriving DecidableEq, Repr

/-! ## Images -/

/-- The instructions of a stream word (R57 to R81). -/
inductive StreamOp where
  | nop
  | piece (bodyPiece : Nat)
  | catch
  | change (phase : Nat)
  | wake (target : Nat)
  | sleep (target : Nat)
  | tile (op : TileOp)
  | drain (op : DrainOp)
  | opt (op : OptOp)
  | dummy (first count span : Nat) (even : Bool)
  | h2r (op : HbmMove)
  | r2h (op : HbmMove)
  | r2c (op : CopyMove)
  | c2r (op : CopyMove)
  | c2c (op : CopyMove)
  | r2r (op : CopyMove)
  | stride (repStride repMod : Nat)
  | vec (opcode : Nat) (op : VecOp)
  | seed (base : BitVec 48) (tensor : BitVec 16)
  | xchCore (op : XchOp)
  | xchRegion (op : XchOp)
  | lsend (op : LinkOp)
  | lrecv (op : LinkOp)
deriving DecidableEq, Repr

/-- A stream word: its issue delta and instruction (R50). -/
structure IWord where
  delta : Nat
  op : StreamOp
deriving DecidableEq, Repr

/-- A stream (R45): phase, logical region, logical core or sequencer, words, and the index of its first word in 16-byte
units from its section's start. -/
structure Stream where
  phase : Nat
  region : Nat
  core : Option Nat
  words : List IWord
  index : Nat
deriving DecidableEq, Repr

/-- A slot entry (R45). -/
structure Slot where
  phase : Nat
  unit : Nat
  start : Nat
  len : Nat
  out : Bool
  use : Nat
  region : Nat
  core : Nat
  sequencer : Bool
  bytes : Nat
deriving DecidableEq, Repr

/-- A resource map entry (R45). -/
structure ResEntry where
  region : Nat
  optical : Bool
  coreMask : Nat
  opticalMask : Nat
  coreStaging : Nat
  regionStaging : Nat
deriving DecidableEq, Repr

/-- A phase list entry (R45). -/
structure PhaseEntry where
  changeover : Bool
  mask : Nat
  bodyPieces : Nat
  reps : Nat
deriving DecidableEq, Repr

/-- A profile record (R45): phase, scope, and its values. Duty: one number a stroke. Power: three. -/
structure Profile where
  phase : Nat
  scope : Nat
  values : List Nat
deriving DecidableEq, Repr

/-- A checked image (R45, R46): where it lies and what it says. -/
structure Image where
  id : BitVec 256
  digest : BitVec 512
  base : Nat
  length : Nat
  apid : BitVec 32
  pressureRange : Nat
  floating : Bool
  express : Nat
  L : Nat
  D : Nat
  lamniMask : Nat
  hostMask : Nat
  window : Nat
  regions : List ResEntry
  phases : List PhaseEntry
  coreStreams : List Stream
  seqStreams : List Stream
  memSlots : List Slot
  linkSlots : List Slot
  hostSlots : List Slot
  coxSlots : List Slot
  duty : List Profile
  power : List Profile
deriving DecidableEq, Repr

/-- A load in progress (R311): its queue, place, declared length, bytes received, the answer it owes, and whether it
may only replace (R47). -/
structure Load where
  queue : BitVec 15
  base : Nat
  length : Nat
  got : Nat
  ref : BitVec 32
  tag : BitVec 32
  complete : Bool
  replaceOnly : Bool
deriving DecidableEq, Repr

/-- The schedule loader's registers and images (R46, R47, R49, R296); `unlisted` counts FAULT frames of a kind that R287 does not list. -/
structure Sched where
  images : List Image := []
  loads : List Load := []
  replacing : List Image := []
  lastStatus : BitVec 8 := 0
  lastSub : BitVec 8 := 0
  lastSection : BitVec 16 := 0
  lastEntry : BitVec 32 := 0
  rerowTotal : BitVec 32 := 0
  raised : BitVec 8 := 0
  stale : BitVec 8 := 0
  forwarded : BitVec 16 := 0
  unlisted : BitVec 8 := 0
  fleetSeq : BitVec 32 := 0
deriving DecidableEq, Repr

/-! ## Jobs -/

/-- Why a job is held (R82, R154, R367). -/
inductive Hold where
  | image
  | absentPlots
  | coreCopy
deriving DecidableEq, Repr

/-- Where a job stands (R36, R41). -/
inductive JobSt where
  | pending
  | admitted
  | running
  | held (why : Hold)
  | draining
  | paused
deriving DecidableEq, Repr

/-- A pause to come (R41, R309, R317): its boundary in job strokes, the JOB_STATE reason, the save area. -/
structure PauseReq where
  boundary : Nat
  reason : BitVec 8
  area : BitVec 64
deriving DecidableEq, Repr

/-- A running SHA-512 (R42): working words, bytes digested, the bytes not yet filling a block. -/
structure ShaSt where
  h : List (BitVec 64)
  count : Nat
  tail : List Byte
deriving DecidableEq, Repr

/-- A known fleet signal of a job but REROW (R287, R289): `due` is its boundary x + Δf + 1 in job strokes, `applied` once it has taken
effect. -/
structure Signal where
  kind : BitVec 8
  origin : BitVec 10
  seq : BitVec 32
  due : Nat
  status : BitVec 8
  applied : Bool := false
deriving DecidableEq, Repr

/-- A swap of a boundary, not yet final (R107): the physical array, its two physical tiers, the boundary, and which of the two it left
HELD: named before it and not after. -/
structure SwapDone where
  array : Nat
  tierA : Fin 64
  tierB : Fin 64
  boundary : Nat
  heldA : Bool := false
  heldB : Bool := false
deriving DecidableEq, Repr

/-- The stride and modulus that a sequencer stream's STRIDE set (R72). -/
structure Stride where
  repStride : BitVec 32 := 0
  repMod : BitVec 16 := 0
deriving DecidableEq, Repr

/-- A job (R27 to R44, R277 to R295, R307 to R321). `modeReq` is the mode asked for, none inside for the fastest, and the stroke count of its
lowest region from which it applies; `easyFrom` is the job stroke from which the easy state is what it is (R274); `leftAt` the stroke at which the last re-row left; `fleetPause` is what a host command or a deadline asked for until its PAUSE signal takes effect;
`saveAt` is where its save record lies; `pausedAt` is when it was saved. -/
structure Job where
  id : JobId
  body : JobBody
  order : Nat
  cls : Nat
  image : BitVec 256
  fleet : Bool
  isResume : Bool := false
  st : JobSt := .pending
  mode : Mode := .full
  map : List (Nat × Nat) := []
  stroke : Nat := 0
  committed : Nat := 0
  rerow : Bool := false
  lastRerow : Option Nat := none
  leftAt : Nat := 0
  rerowCount : Nat := 0
  rerows : BitVec 32 := 0
  pauses : BitVec 32 := 0
  nominal : Nat := 0
  easy : Bool := false
  easyFrom : Nat := 0
  modeReq : Option (Option Mode × Nat) := none
  pause : Option PauseReq := none
  fleetPause : Option PauseReq := none
  epoch : BitVec 32 := 0
  origin : BitVec 10 := 0
  distance : BitVec 8 := 0
  leadIns : SMap Nat := []
  peerDist : SMap Nat := []
  knownX : Option Nat := none
  signals : List Signal := []
  easySet : List (BitVec 10) := []
  pIn : Nat := 0
  inRanges : List (Nat × Nat) := []
  aOut : Nat := 0
  outSent : Nat := 0
  swaps : List SwapDone := []
  redo : List SwapDone := []
  digestW : Option ShaSt := none
  digestI : Option ShaSt := none
  weightDue : List (Nat × List Byte) := []
  lastCommit : Nat := 0
  coreHold : Nat := 0
  badWords : List (Nat × Nat × Nat) := []
  lostWord : Bool := false
  strides : SMap Stride := []
  holdNext : Option Hold := none
  abortReq : Option (Nat × Nat) := none
  pausedAt : Nat := 0
  saveAt : Option Nat := none
  asleep : List (Nat × List Nat) := []
deriving DecidableEq, Repr

/-! ## Regions, cores, arrays -/

/-- A conversion group of an optical operation with flagged or wrong codes (R122, R134): its job, the tick at which it is posted, from the first
tick of the region's stroke on, its physical plot and group, its flagged and out-of-range detectors, whether its sum differs. -/
structure OptDue where
  job : JobId
  tick : Nat
  plot : Nat
  group : Nat
  items : Nat
  oors : Nat
  miss : Bool
deriving DecidableEq, Repr

/-- A logical plot's switching (R148): from how many strokes ahead to how many. -/
structure Duty where
  plot : Nat
  start : Nat
  last : Nat
deriving DecidableEq, Repr

/-- A physical region: `wakeAt` is the tick of this stroke from which a woken region issues, `rewake` the same of a WAKE that followed a SLEEP
in one stroke; `optDue` the optical items to come, `dutyPlots` the logical plots of the last stroke's duty, `fill` those that run fill during a
hold, `strobeAt` the strobe at which the stroke began (R16 to R25, R60, R116, R137, R148, R157, R183, R246, R256, R334, R368, R406). -/
structure Region where
  stroke : BitVec 48 := 0
  power : BitVec 2 := 0
  wakes : BitVec 16 := 0
  wakeNo : Nat := 0
  wokeAt : Nat := 0
  mode : BitVec 2 := 3
  halved : Bool := false
  sleepAtEnd : Bool := false
  wakeAt : Option Nat := none
  rewake : Option Nat := none
  zeroing : BitVec 2 := 0
  lost : Bool := false
  swapAt : BitVec 48 := 0
  swapTarget : Nat := 0
  armed : Bool := false
  swapResult : BitVec 3 := 0
  stgCorrected : BitVec 16 := 0
  stgUncorr : BitVec 16 := 0
  optPeak : BitVec 8 := 0
  optLast : BitVec 8 := 0
  optDue : List OptDue := []
  optServed : BitVec 32 := 0
  optOverflows : BitVec 16 := 0
  dutyNow : List Duty := []
  dutyPlots : List Nat := []
  fill : List Nat := []
  dutyLast : BitVec 8 := 0
  held154 : Bool := false
  plotSel : BitVec 8 := 0
  lasLine : BitVec 4 := 0
  lasLaser : BitVec 4 := 0
  lasResult : BitVec 8 := 0
  htrPlot : BitVec 8 := 0
  htrBank : BitVec 5 := 0
  htrRing : BitVec 4 := 0
  strobes : Nat := 0
  strobeAt : Nat := 0
  fifo : Nat := 0
deriving DecidableEq, Repr

/-- A weak-plot table entry (R129): state 0 unused, 1 waiting, 2 filling, 3 valid; strokes of its fill done; `loaded` the address of the
shadow that holds its data. -/
structure TableEntry where
  state : BitVec 2 := 0
  strokes : Nat := 0
  loaded : Option Nat := none
  array : Nat := 0
  rowGroup : Nat := 0
  colGroup : Nat := 0
  margin : BitVec 8 := 0
deriving DecidableEq, Repr

/-- A flagged item of the cox (R126): what was posted, its deadline, and all that its correction needs (R128). `array` is the periphery whose
tile it corrects, `logical` the logical array. -/
structure CoxItem where
  array : Nat
  logical : Nat
  cells : Nat
  tile : Bool
  tier : Nat
  rowGroup : Nat
  column : Nat
  row : Nat
  plane : Nat
  rowBits : Nat
  codeUsed : Int
  scale : Int
  posted : Nat
  deadline : Nat
  entry : Nat
deriving DecidableEq, Repr

/-- A failed sense check: tile row, plane, row group, ΔA, ΔB modulo 2^16, the active rows (R121). -/
structure Mismatch where
  row : Nat
  plane : Nat
  i : Nat
  dA : Int
  dB : Nat
  mask : Nat
deriving DecidableEq, Repr

/-- A sense check held until the cox has served every flagged item of its row group and cycle (R121): its TILE by periphery and deadline, the
cell block and tier, the mismatch that is then found, and the rows that the TILE's other cycles cleared at its column (R366). -/
structure HeldCheck where
  array : Nat
  deadline : Nat
  cells : Nat
  tier : Nat
  miss : Mismatch
  clear : Nat
deriving DecidableEq, Repr

/-- A physical core (R121, R125 to R137, R192, R198, R220, R238, R256). `coming` are items whose posting tick lies ahead, `items` the pending
ones; `lost` holds, for each overflow of this stroke, its kind, body tick and item's plot. -/
structure CoreSt where
  retired : Bool := false
  peakItems : BitVec 8 := 0
  lastItems : BitVec 8 := 0
  itemsNow : Nat := 0
  served : BitVec 32 := 0
  noEntry : BitVec 16 := 0
  slotsLost : BitVec 16 := 0
  benchFails : BitVec 16 := 0
  senseFails : BitVec 16 := 0
  stuckArray : BitVec 5 := 0
  stuckEntry : BitVec 6 := 0
  tableSel : BitVec 4 := 0
  table : SMap TableEntry := []
  coming : List CoxItem := []
  items : List CoxItem := []
  heldChecks : List HeldCheck := []
  posted : List (Nat × Nat) := []
  lost : List (Nat × Nat × Nat) := []
  escapes : Nat := 0
  datumConv : BitVec 16 := 0
  datumAdd : BitVec 16 := 0
  datumInvalid : BitVec 32 := 0
  datumOp : BitVec 8 := 0
  datumG : BitVec 8 := 0
  datumStroke : BitVec 16 := 0
  datumLogged : Bool := false
  accRange : BitVec 8 := 0
  accUncorr : BitVec 8 := 0
  accCorr : BitVec 16 := 0
  quantOutlier : BitVec 16 := 0
  quantRange : BitVec 16 := 0
  quantOverrun : BitVec 8 := 0
  quantInvalid : BitVec 8 := 0
  quantFlat : BitVec 16 := 0
  tagExpected : BitVec 4 := 0
  tagFound : BitVec 4 := 0
  streamFaults : BitVec 16 := 0
  vecInvalid : BitVec 16 := 0
  vecOverflow : BitVec 16 := 0
  emptyRows : BitVec 16 := 0
  tableUncorr : BitVec 8 := 0
  tableCorr : BitVec 8 := 0
  stgCorrected : BitVec 16 := 0
  stgUncorr : BitVec 16 := 0
  seed : Option (BitVec 48 × BitVec 16) := none
deriving DecidableEq, Repr

/-- A stuck-list entry (R120): tier, row, physical column, intended digit, stuck digit. -/
structure Stuck where
  tier : Fin 64
  row : Fin 256
  column : Nat
  intended : BitVec 2
  stuck : Int
deriving DecidableEq, Repr

/-- A row group's spare plot (R110, ARR_PLOT_SUBn): `since` is when its copy began, none while the copy waits for one of the core's four;
`copied` once it is over and waits for its switch. -/
structure PlotSub where
  active : Bool := false
  copying : Bool := false
  since : Option Nat := none
  copied : Bool := false
  spareFailed : Bool := false
  group : BitVec 5 := 0
deriving DecidableEq, Repr

/-- A plot's survey figures (R135, ARR_PLOT_QUALITY). -/
structure Quality where
  margin : BitVec 8 := 0
  cls : BitVec 2 := 0
deriving DecidableEq, Repr

/-- Survey state of a unit (R337 to R339, ARR_SURVEY): under survey, due since when and why, last survey; `wakeNo` is the last wake of its region that it was surveyed after (R338). -/
structure SurveySt where
  active : Bool := false
  due : Bool := false
  cause : BitVec 2 := 0
  dueAt : Nat := 0
  time : Nat := 0
  temp : BitVec 12 := 0
  deferred : Bool := false
  wakeNo : Nat := 0
deriving DecidableEq, Repr

/-- A bank of the input mirror (R125): the TILE it holds, its applied rows, its last row read and its ready tick. -/
structure Mirror where
  tile : Bool
  tier : Nat
  int4 : Bool
  rows : List (List Int)
  lastRead : Nat
  ready : Nat
deriving DecidableEq, Repr

/-- The diagnosis of one locus (R366): tier, row group, logical column; the candidate rows, the common difference, the
stroke of the events and when the set was last narrowed. -/
structure Cand where
  tier : Nat
  rowGroup : Nat
  column : Nat
  rows : Nat
  err : Option Int
  stroke : Nat
  time : Nat
deriving DecidableEq, Repr

/-- A programming or erase in progress (R99, R100). -/
structure Prog where
  tier : Fin 64
  erase : Bool
  int4 : Bool
deriving DecidableEq, Repr

/-- A physical array: its periphery and its cell block (R84, R96 to R116, R120, R135, R349). `copyAt`: when the copy of its cell block began,
none while the copy waits; `waiting`: failed cells that wait for a plot's switch to free entries (R102); `senses`, `senseLeft`, `flags`: the
strokes in which it sensed, how many more its TILEs reach, and the number of such a stroke for each flagged item of a plot (R135); `away`: the
cell block whose seat the periphery has left for survey (R112). -/
structure Arr where
  retiredPeri : Bool := false
  retiredCells : Bool := false
  candidate : Bool := false
  copyAt : Option Nat := none
  copying : Bool := false
  copied : Bool := false
  moveTo : Option Nat := none
  survey : SurveySt := {}
  map : SMap (Fin 64) := []
  progSrc : BitVec 25 := 0
  progResult : BitVec 8 := 0
  stuckAdded : BitVec 8 := 0
  prog : Option Prog := none
  progTier : BitVec 6 := 0
  swapA : BitVec 6 := 0
  swapB : BitVec 6 := 0
  staged : Bool := false
  swapResult : BitVec 3 := 0
  wearSel : BitVec 6 := 0
  subs : SMap PlotSub := []
  qselCol : BitVec 5 := 0
  qselRow : BitVec 4 := 0
  quality : SMap Quality := []
  oor : SMap Nat := []
  stuck : List Stuck := []
  waiting : List Stuck := []
  cands : List Cand := []
  benchFail : SMap Nat := []
  exerciseFail : Bool := false
  taps : SMap (BitVec 8 × BitVec 6) := []
  lastTile : Option Nat := none
  mirror : List Mirror := []
  seen : SMap Nat := []
  seenStroke : Nat := 0
  senses : Nat := 0
  senseLeft : Nat := 0
  flags : SMap (List Nat) := []
  impaired : Bool := false
  away : Option Nat := none
deriving DecidableEq, Repr

/-- The six tier states of R96. -/
inductive TierSt where
  | blank | programming | ready | held | worn | failed
deriving DecidableEq, Repr

/-- A physical tier (R96, R103): state, format INT4 or not, erase cycles. -/
structure Tier where
  st : TierSt := .blank
  int4 : Bool := false
  count : BitVec 14 := 0
deriving DecidableEq, Repr

/-- A tile's state (R64). -/
inductive TileSt where
  | free | filling | ready | draining
deriving DecidableEq, Repr

/-- An output tile of an array (R64): its state, the job and TILE chain that own it, the tick at which the chain is ready, or the drain over. -/
structure Tile where
  st : TileSt := .free
  job : Option JobId := none
  since : Nat := 0
deriving DecidableEq, Repr

/-! ## Optics and light -/

/-- A physical optical plot (R135, R152 to R157, R335): `senses` counts the strokes in which it switched, `flags` holds the number of such a
stroke for each of its flagged items, `away` is set while it is out of its seat for a rotation. -/
structure Plot where
  state : BitVec 3 := 0
  reason : BitVec 4 := 0
  seat : BitVec 8 := 0
  parked : Bool := false
  margin : BitVec 8 := 0
  cls : BitVec 2 := 0
  checkFails : BitVec 16 := 0
  oor : BitVec 16 := 0
  senses : Nat := 0
  flags : List Nat := []
  survey : SurveySt := {}
  exerciseFail : Bool := false
  taps : SMap (BitVec 8 × BitVec 6) := []
  wrongLocks : BitVec 16 := 0
  resweeps : BitVec 16 := 0
  away : Bool := false
  drift : Bool := false
  absentSince : Option Nat := none
deriving DecidableEq, Repr

/-- A compute or link laser (R159 to R168, R183): its fade in 0.01 dB, its line powers, its commissioning values by mode and line, the
measurements in a row beyond each point of R166, `ready` once preparing is over, `leaving` 1 by fade or 2 by order while a handover from
it is wanted. -/
structure Laser where
  state : BitVec 3 := 0
  group : BitVec 4 := 0
  reason : BitVec 4 := 0
  fade : BitVec 16 := 0
  power : SMap Nat := []
  commission : SMap Nat := []
  below : SMap Nat := []
  crossed : SMap Bool := []
  ready : Bool := false
  leaving : BitVec 2 := 0
deriving DecidableEq, Repr

/-- A laser group's equaliser (R164): P_eq in 0.1 µW, what each channel takes off, in 2^-20 of the power that it lets through, and the gain
trims, 2^40 over the power that they are set for (log entry 131). -/
structure Group where
  level : Nat := 0
  att : SMap Nat := []
  gain : Nat := 0
deriving DecidableEq, Repr

/-- A ring bank's lock, heater and pilot state (R171 to R180, R183): `ffAgain` a load at the express window (R178), `last` the last locked bias
(R176). -/
structure Bank where
  lock : BitVec 3 := 0
  bias : Int := 0
  amplitude : BitVec 8 := 0
  ff : List Int := []
  ffDue : Option Int := none
  ffAgain : Bool := false
  ffState : Nat := 0
  last : Int := 0
  rails : BitVec 16 := 0
  residual : Int := 0
  peak : BitVec 8 := 0
  squares : List Nat := []
  tagOk : Bool := false
  tagLine : BitVec 4 := 0
  wrongFrames : Nat := 0
  lostFrames : Nat := 0
  fault : Bool := false
  heater : BitVec 16 := 0
deriving DecidableEq, Repr

/-! ## Memory, links, survey, safety -/

/-- An HBM stack (R254, R256). -/
structure Stack where
  temp : BitVec 8 := 0
  state : BitVec 2 := 0
  failed : BitVec 32 := 0
  corrected : BitVec 16 := 0
  uncorr : BitVec 16 := 0
  ondie : BitVec 16 := 0
  parity : BitVec 16 := 0
  passes : BitVec 16 := 0
  progress : BitVec 8 := 0
  failing : BitVec 32 := 0
deriving DecidableEq, Repr

/-- A buffered DATA frame (R266). -/
structure Buffered where
  lane : Nat
  frame : Frame
deriving DecidableEq, Repr

/-- A Lamni port (R262 to R275, R280 to R286, R296): its registers, the elastic buffer, `delays` the round trips less turnaround of the last
256 exchanges and `echo` the far timestamp to echo with its arrival, the WEIGH frames received in a row, `weighing` while a quarantined port
weighs in, `remeasure` while only step 5 of the bring-up is repeated, `begun` from its first bring-up on, `catches` the catches for which a
CATCH frame is to come, the catch offsets in a row beyond 20 ns, the lane changes asked for or agreed for a boundary in each direction
(with whether ours is acknowledged), the lanes rotated out in each direction. -/
structure Port where
  state : BitVec 4 := 0
  retiredRx : BitVec 9 := 0
  retiredTx : BitVec 9 := 0
  mapRx : BitVec 32 := 0x76543210
  mapTx : BitVec 32 := 0x76543210
  hop : BitVec 16 := 0
  delays : List Nat := []
  laneSel : BitVec 4 := 0
  headerFaults : BitVec 8 := 0
  timingFaults : BitVec 8 := 0
  markerFaults : BitVec 8 := 0
  codewordFaults : BitVec 8 := 0
  peak : BitVec 16 := 0
  minLead : BitVec 16 := 0xFFFF
  cmdResult : BitVec 8 := 0
  weighReason : BitVec 4 := 0
  attempts : BitVec 16 := 0
  weighCount : Nat := 0
  peerPort : BitVec 4 := 0
  peerFleet : BitVec 10 := 0
  peerMember : BitVec 10 := 0
  distance : BitVec 8 := 0xFF
  offset : BitVec 16 := 0
  catchMiss : Nat := 0
  ctrlResult : BitVec 2 := 0
  buffer : List Buffered := []
  pendRx : List (LaneMsg × Bool) := []
  pendTx : List LaneMsg := []
  rotOut : Option Nat := none
  rotTx : Option Nat := none
  echo : Option (BitVec 64 × Nat) := none
  weighing : Bool := false
  remeasure : Bool := false
  begun : Bool := false
  catches : List (Nat × BitVec 32) := []
  retryAt : Nat := 0
deriving DecidableEq, Repr

/-- A receive lane of a port (R269, R270, R275): its eye figures, the cause of its retirement, its error counts, the marker
errors in a row, whether a warning was logged, its survey. -/
structure Lane where
  width : BitVec 8 := 0
  height : BitVec 8 := 0
  commission : BitVec 8 := 0
  reason : BitVec 3 := 0
  corrected : BitVec 16 := 0
  uncorr : BitVec 16 := 0
  markers : Nat := 0
  warned : Bool := false
  survey : SurveySt := {}
  taps : SMap (BitVec 8 × BitVec 6) := []
deriving DecidableEq, Repr

/-- What a frame carries (R260): the payload bytes of a DATA frame, or the message of a frame of another type. -/
inductive LinkMsg where
  | idle
  | data (payload : List Byte)
  | catch (m : CatchMsg)
  | weigh (m : WeighMsg)
  | measure (m : MeasureMsg)
  | lane (m : LaneMsg)
  | signal (m : SignalMsg)
deriving DecidableEq, Repr

/-- A frame that the device put on a fibre (R260), on a physical lane; without a lane it stands for every frame position of a stroke, on all
lanes, that no other frame takes. -/
structure FleetOut where
  port : Nat
  lane : Option Nat
  hdr : FrameHdr
  msg : LinkMsg
deriving DecidableEq, Repr

/-- An entry of the level's queue (R345). -/
abbrev LevelEntry := BitVec 64

/-- The level (R343 to R347): the factors; the calibration that waits (1) or runs (2) and the injected conversions it waits for; the
injected channels pending; the conversion under way, and whether it is injected; the last regular channel; the queue and the latch of
its high half; the latest value of every channel as MON_CH_VALUE shows it. -/
structure Level where
  offset : BitVec 32 := 0
  gain : BitVec 32 := 0x00400000
  cal : BitVec 2 := 0
  calWait : Nat := 0
  calResult : BitVec 8 := 0
  inject : List Nat := []
  injectRefused : BitVec 8 := 0
  dropped : BitVec 9 := 0
  mask : BitVec 96 := 0
  now : Option (Nat × Bool) := none
  last : Option Nat := none
  queue : List LevelEntry := []
  latch : BitVec 32 := 0
  chSel : BitVec 7 := 0
  values : SMap (BitVec 32) := []
deriving DecidableEq, Repr

/-- What the survey store keeps of a Lamni port: its lane maps and retired lanes. -/
structure KeptPort where
  mapRx : BitVec 32 := 0x76543210
  mapTx : BitVec 32 := 0x76543210
  retiredRx : BitVec 9 := 0
  retiredTx : BitVec 9 := 0
deriving DecidableEq, Repr

/-- The payload of a survey store bank (R340, R381). -/
structure Kept where
  arrays : SMap Arr := []
  tiers : SMap Tier := []
  peri : SMap Nat := []
  cells : SMap Nat := []
  seats : SMap Nat := []
  retiredCores : List Nat := []
  lostRegions : List Nat := []
  plots : SMap Plot := []
  lasers : SMap Laser := []
  linkLasers : SMap Laser := []
  banks : SMap Bank := []
  trims : SMap (BitVec 7) := []
  lanes : SMap Lane := []
  ports : SMap KeptPort := []
  hbmStacks : SMap Stack := []
  retain : List (BitVec 32 × EventRec) := []
  retainNext : BitVec 32 := 0
  retainAny : Bool := false
deriving DecidableEq, Repr

/-- A bank of the survey store (R340, R341): its sequence, its payload, none while blank, and whether its commit word is written. -/
structure StoreBank where
  sequence : Nat := 0
  payload : Option Kept := none
  committed : Bool := false
deriving DecidableEq, Repr

/-- Surveys and the survey store (R335 to R342). -/
structure Mon where
  done : BitVec 32 := 0
  abandoned : BitVec 16 := 0
  running : List SurveyUnit := []
  inUse : Bool := false
  factory : Bool := false
  writing : Bool := false
  found0 : BitVec 2 := 0
  found1 : BitVec 2 := 0
  bank0 : StoreBank := {}
  bank1 : StoreBank := {}
  commitAt : Nat := 0
deriving DecidableEq, Repr

/-- The loci of R363 that keep event times (R364). -/
inductive Locus where
  | periphery (array : Nat)
  | digital (core : Nat)
  | plot (plot : Nat)
  | region (g : Nat)
  | stream (kind unit : Nat)
  | regulator (r : Rail)
  | pseudo (stack pc : Nat)
  | lane (lane : Nat)
  | port (p : Nat)
deriving DecidableEq, Repr

/-- The times of a locus's last two events, and the stroke of the last one (R364). -/
structure LocusTimes where
  locus : Locus
  times : List Nat
  stroke : Nat
deriving DecidableEq, Repr

/-- A remedy waiting for the restart boundary (R363). -/
inductive Remedy where
  | stuck (array : Nat) (e : Stuck)
  | periphery (array : Nat)
  | core (core : Nat)
  | coxEntry (core array rowGroup colGroup : Nat)
  | plotHeld (plot : Nat)
  | plot (plot : Nat) (reason : BitVec 4)
  | region (g : Nat)
  | spareFailed (array rowGroup : Nat)
  | lane (p lane : Nat)
  | portOut (p : Nat)
  | group (gk : Nat)
deriving DecidableEq, Repr

/-- A rail breach in progress or over (R373). -/
structure Breach where
  rail : Rail
  active : Bool
  since : Nat
  returned : Nat
  aborted : Bool
deriving DecidableEq, Repr

/-- Safety (R363 to R376, R383). -/
structure Saf where
  railsOk : Bool := false
  breaches : List Breach := []
  easy : Bool := false
  thermalStop : Bool := false
  thermalDue : Bool := false
  hot : Nat := 0
  dieTemp : BitVec 13 := 0
  transient : BitVec 16 := 0
  permanent : BitVec 16 := 0
  dangCompute : BitVec 16 := 0
  dangLight : BitVec 8 := 0
  dangRail : BitVec 8 := 0
  spareSel : BitVec 4 := 0
  logSel : BitVec 16 := 0
  logIndex : BitVec 32 := 0
  loci : List LocusTimes := []
  remedies : List Remedy := []
deriving DecidableEq, Repr

/-- The byte memories: HBM by physical address (R240), region and core staging (R246), the intended tier images (R88),
the ledger store (R249), the configuration flash (R328). -/
structure Mems where
  hbm : Mem := []
  rstg : Mem := []
  cstg : Mem := []
  tiers : Mem := []
  ledger : Mem := []
  flash : Mem := []
deriving DecidableEq, Repr

/-- Everything but the queue. -/
structure Chip where
  freeCtr : Nat := 0
  clk : Clk := {}
  start : Start := {}
  cfg : Cfg := {}
  vault : Vault := {}
  acc : Access := {}
  host : HostSt := {}
  sch : Sched := {}
  jobs : List Job := []
  nextOrder : Nat := 0
  regions : SMap Region := []
  cores : SMap CoreSt := []
  seats : SMap Nat := []
  arrays : SMap Arr := []
  tiers : SMap Tier := []
  peri : SMap Nat := []
  cells : SMap Nat := []
  tiles : SMap Tile := []
  accs : SMap (BitVec 48) := []
  dev : SMap (BitVec 2) := []
  plots : SMap Plot := []
  lasers : SMap Laser := []
  linkLasers : SMap Laser := []
  linkSel : SMap (BitVec 5) := []
  groups : SMap Group := []
  banks : SMap Bank := []
  trims : SMap (BitVec 7) := []
  hbmStacks : SMap Stack := []
  ports : SMap Port := []
  lanes : SMap Lane := []
  fleetOut : List FleetOut := []
  mon : Mon := {}
  lvl : Level := {}
  saf : Saf := {}
  log : Log := {}
  mem : Mems := {}
deriving DecidableEq, Repr

/-- The machine: the commands waiting, first in, first out, and the block. -/
structure State extends Chip where
  pending : List Instr := []
deriving DecidableEq, Repr

/-- The machine right after reset: power applied, power-good not yet seen (R404, R413), every register at the value the
spec's register tables give, the queue empty. -/
def State.reset : State := { toChip := {}, pending := [] }

end Sys2Proof.Machine
end

