-- ==== Sys2Proof/Machine/Flags.lean ====
section
/-! DEFINITION. Counters that hold at their all-ones value, and serial-number comparison of sequences (R302, R324, R383). -/

namespace Sys2Proof.Machine

/-- A counter advanced by `n`, holding at its all-ones value ("counters hold at their all-ones value and do not wrap"). -/
def satAdd {w : Nat} (x : BitVec w) (n : Nat) : BitVec w :=
  if 2 ^ w - 1 ≤ x.toNat + n then BitVec.allOnes w else BitVec.ofNat w (x.toNat + n)

/-- A counter advanced by one when a condition holds. -/
def satIf {w : Nat} (b : Bool) (x : BitVec w) : BitVec w := if b then satAdd x 1 else x

/-- The least value of a width that holds a number at its all-ones value. -/
def satOf (w n : Nat) : BitVec w := if 2 ^ w - 1 ≤ n then BitVec.allOnes w else BitVec.ofNat w n

/-- `x` precedes `y` as serial numbers modulo 2^32 (R302). -/
def precedes (x y : BitVec 32) : Bool :=
  let d := (y - x).toNat
  1 ≤ d && d ≤ 2 ^ 31 - 1

end Sys2Proof.Machine
end

