-- ==== Sys2Proof/Machine/Ops.lean ====
section
/-! DEFINITION. The shared operations: sparse tables and memories in canonical form, the components of the block, log time, event records and rings, fault loci, re-row calls, fleet signals. -/

namespace Sys2Proof.Machine

/-! ## Sparse tables and memories -/

/-- What a table holds at a key; `d` is what an absent key stands for. -/
def look {V : Type} (d : V) : SMap V → Nat → V
  | [], _ => d
  | (k, v) :: m, i => if i = k then v else look d m i

/-- A table with key `i` removed. -/
def drop {V : Type} : SMap V → Nat → SMap V
  | [], _ => []
  | (k, v) :: m, i => if i = k then drop m i else (k, v) :: drop m i

/-- A table with key `i` holding `v`, listed. -/
def insertAt {V : Type} : SMap V → Nat → V → SMap V
  | [], i, v => [(i, v)]
  | (k, w) :: m, i, v =>
    if i < k then (i, v) :: (k, w) :: m
    else if i = k then (i, v) :: m
    else (k, w) :: insertAt m i v

/-- A table in which key `i` holds `v`: the entry is removed when `v` is what an absent key stands for. -/
def put {V : Type} [DecidableEq V] (d : V) (m : SMap V) (i : Nat) (v : V) : SMap V :=
  if v = d then drop m i else insertAt m i v

/-- The keys of a list rise strictly from above `lo`. -/
def keysRise {V : Type} : Nat → SMap V → Bool
  | _, [] => true
  | lo, (k, _) :: m => decide (lo ≤ k) && keysRise (k + 1) m

/-- The canonical form of a byte memory: addresses strictly rising, no listed byte 0. -/
def Mem.wf (m : Mem) : Bool := keysRise 0 m && m.all (fun p => p.2 != 0)

/-- One byte of a memory. -/
def getByte (m : Mem) (a : Nat) : Byte := look 0 m a

/-- One byte written. -/
def setByte (m : Mem) (a : Nat) (b : Byte) : Mem := put 0 m a b

/-- `n` bytes read from address `a`. -/
def readBytes (m : Mem) (a : Nat) : Nat → List Byte
  | 0 => []
  | n + 1 => getByte m a :: readBytes m (a + 1) n

/-- Bytes written from address `a` up. -/
def writeBytes (m : Mem) (a : Nat) : List Byte → Mem
  | [] => m
  | b :: bs => writeBytes (setByte m a b) (a + 1) bs

/-- The bytes from `a` up to `a + n` become 0: the cells listed there go. -/
def zeroBytes (m : Mem) (a n : Nat) : Mem := m.filter (fun p => !(decide (a ≤ p.1) && decide (p.1 < a + n)))

/-- A little-endian number of `n` bytes in a memory. -/
def readLE (m : Mem) (a n : Nat) : Nat := leNat (readBytes m a n)

/-- The bytes of a list from `i`, `n` of them. -/
def slice {α : Type} (l : List α) (i n : Nat) : List α := (l.drop i).take n

/-- The little-endian number in bytes `i` to `i + n - 1` of a list. -/
def leAt (l : List Byte) (i n : Nat) : Nat := leNat (slice l i n)

/-- The first numbers below `n` that hold, in order. -/
def firstBelow (n : Nat) (p : Nat → Bool) : Option Nat := (List.range n).find? p

/-- How many numbers below `n` hold. -/
def countBelow (n : Nat) (p : Nat → Bool) : Nat := ((List.range n).filter p).length

/-- A list with its element `i` replaced. -/
def setIdx {α : Type} : List α → Nat → α → List α
  | [], _, _ => []
  | _ :: l, 0, v => v :: l
  | x :: l, i + 1, v => x :: setIdx l i v

/-- Apply a change for each element of a list, in order. -/
def overAll {α : Type} (l : List α) (f : Chip → α → Chip) (c : Chip) : Chip := l.foldl f c

/-! ## Outcomes -/

/-- A command whose effect changes the block and leaves the queue. -/
def act (f : Chip → Chip) (s : State) : Host.Outcome State Fault Refusal := .next { s with toChip := f s.toChip }

/-- A change made only when a condition holds. -/
def Chip.when (c : Chip) (b : Bool) (f : Chip → Chip) : Chip := if b then f c else c

/-! ## Components, as shipped where nothing is listed (log entry 12) -/

/-- A physical optical plot as shipped: plot 17k + n holds logical plot 16k + n, and plot 17k + 16 is free (R157). -/
def shippedPlot (k : Nat) : Plot :=
  let o := k % 136
  if o % 17 < 16 then { state := 0, seat := BitVec.ofNat 8 (16 * (o / 17) + o % 17) } else { state := 1, seat := 0xFF }

/-- A compute laser as shipped: lasers 0 to 7 serve groups 0 to 7, laser 8 is standby, laser 9 is cold (R159, R160). -/
def shippedLaser (k : Nat) : Laser :=
  let n := k % 10
  if n < 8 then { state := 4, group := BitVec.ofNat 4 n } else if n = 8 then { state := 2, group := 0xF } else { state := 0, group := 0xF }

/-- A link laser as shipped: lasers 0 to 15 serve their ports, 16 to 19 stand by (R163). -/
def shippedLinkLaser (k : Nat) : Laser :=
  if k < 16 then { state := 4, group := BitVec.ofNat 4 k } else { state := 2, group := 0xF }

/-- Region `k` of the block. -/
def Chip.region (c : Chip) (k : Nat) : Region := look {} c.regions k

/-- The block with Region `k` changed. -/
def Chip.upRegion (c : Chip) (k : Nat) (f : Region → Region) : Chip :=
  { c with regions := put {} c.regions k (f (c.region k)) }

/-- CoreSt `k` of the block. -/
def Chip.core (c : Chip) (k : Nat) : CoreSt := look {} c.cores k

/-- The block with CoreSt `k` changed. -/
def Chip.upCore (c : Chip) (k : Nat) (f : CoreSt → CoreSt) : Chip :=
  { c with cores := put {} c.cores k (f (c.core k)) }

/-- Arr `k` of the block. -/
def Chip.arr (c : Chip) (k : Nat) : Arr := look {} c.arrays k

/-- The block with Arr `k` changed. -/
def Chip.upArr (c : Chip) (k : Nat) (f : Arr → Arr) : Chip :=
  { c with arrays := put {} c.arrays k (f (c.arr k)) }

/-- Tier `k` of the block. -/
def Chip.tier (c : Chip) (k : Nat) : Tier := look {} c.tiers k

/-- The block with Tier `k` changed. -/
def Chip.upTier (c : Chip) (k : Nat) (f : Tier → Tier) : Chip :=
  { c with tiers := put {} c.tiers k (f (c.tier k)) }

/-- Tile `k` of the block. -/
def Chip.tile (c : Chip) (k : Nat) : Tile := look {} c.tiles k

/-- The block with Tile `k` changed. -/
def Chip.upTile (c : Chip) (k : Nat) (f : Tile → Tile) : Chip :=
  { c with tiles := put {} c.tiles k (f (c.tile k)) }

/-- Plot `k` of the block. -/
def Chip.plot (c : Chip) (k : Nat) : Plot := look (shippedPlot k) c.plots k

/-- The block with Plot `k` changed. -/
def Chip.upPlot (c : Chip) (k : Nat) (f : Plot → Plot) : Chip :=
  { c with plots := put (shippedPlot k) c.plots k (f (c.plot k)) }

/-- Laser `k` of the block. -/
def Chip.laser (c : Chip) (k : Nat) : Laser := look (shippedLaser k) c.lasers k

/-- The block with Laser `k` changed. -/
def Chip.upLaser (c : Chip) (k : Nat) (f : Laser → Laser) : Chip :=
  { c with lasers := put (shippedLaser k) c.lasers k (f (c.laser k)) }

/-- Laser `k` of the block. -/
def Chip.linkLaser (c : Chip) (k : Nat) : Laser := look (shippedLinkLaser k) c.linkLasers k

/-- The block with Laser `k` changed. -/
def Chip.upLinkLaser (c : Chip) (k : Nat) (f : Laser → Laser) : Chip :=
  { c with linkLasers := put (shippedLinkLaser k) c.linkLasers k (f (c.linkLaser k)) }

/-- Group `k` of the block. -/
def Chip.group (c : Chip) (k : Nat) : Group := look {} c.groups k

/-- The block with Group `k` changed. -/
def Chip.upGroup (c : Chip) (k : Nat) (f : Group → Group) : Chip :=
  { c with groups := put {} c.groups k (f (c.group k)) }

/-- Bank `k` of the block. -/
def Chip.bank (c : Chip) (k : Nat) : Bank := look {} c.banks k

/-- The block with Bank `k` changed. -/
def Chip.upBank (c : Chip) (k : Nat) (f : Bank → Bank) : Chip :=
  { c with banks := put {} c.banks k (f (c.bank k)) }

/-- Stack `k` of the block. -/
def Chip.stack (c : Chip) (k : Nat) : Stack := look {} c.hbmStacks k

/-- The block with Stack `k` changed. -/
def Chip.upStack (c : Chip) (k : Nat) (f : Stack → Stack) : Chip :=
  { c with hbmStacks := put {} c.hbmStacks k (f (c.stack k)) }

/-- Port `k` of the block. -/
def Chip.port (c : Chip) (k : Nat) : Port := look {} c.ports k

/-- The block with Port `k` changed. -/
def Chip.upPort (c : Chip) (k : Nat) (f : Port → Port) : Chip :=
  { c with ports := put {} c.ports k (f (c.port k)) }

/-- Lane `k` of the block. -/
def Chip.lane (c : Chip) (k : Nat) : Lane := look {} c.lanes k

/-- The block with Lane `k` changed. -/
def Chip.upLane (c : Chip) (k : Nat) (f : Lane → Lane) : Chip :=
  { c with lanes := put {} c.lanes k (f (c.lane k)) }


/-! ## Time and the event log -/

/-- Always-on cycles in a number of milliseconds: REFCLK runs at 25 MHz (R279: a fleet stroke is 64 cycles, 2.56 µs). -/
def msCycles (n : Nat) : Nat := n * 25000

/-- The log time (R299): nanoseconds, bit 63 set while no PTP master is followed. -/
def Chip.logTime (c : Chip) : BitVec 64 :=
  let t := trunc 63 ((c.clk.aon : Int) * 40 + (if c.clk.ptpFollowing then c.clk.ptpOffset else 0))
  BitVec.ofNat 64 (t + if c.clk.ptpFollowing then 0 else 2 ^ 63)

/-- The region of a source of R378, or none for a chip-level source. -/
def srcRegion (src : Nat) : Option Nat :=
  if 0x1000 ≤ src then some ((src - 0x1000) / 64) else if 0x100 ≤ src then some (src - 0x100) else none

/-- The sources of R378. -/
def srcRgn (g : Nat) : Nat := 0x100 + g
def srcCore (core : Nat) : Nat := 0x1000 + 64 * (core / 34) + core % 34
def srcStack (s : Nat) : Nat := 0x10 + s
def srcPort (p : Nat) : Nat := 0x20 + p

/-- How many records the ring of a source holds (R378). -/
def ringSize (src : Nat) : Nat := if 0x1000 ≤ src then 64 else 1024

/-- The stroke count an event of a source carries: its region's, or the chip's (R377). -/
def Chip.srcStroke (c : Chip) (src : Nat) : BitVec 48 :=
  match srcRegion src with
  | some g => (c.region g).stroke
  | none => c.clk.chipStroke

/-- The locus word of R377: region, unit, sub-unit, and the low byte; none gives 0xFF. -/
def locusWord (g u a : Option Nat) (low : Nat := 0xFF) : BitVec 32 :=
  BitVec.ofNat 32 (field (g.getD 0xFF) 24 + field (u.getD 0xFF) 16 + field (a.getD 0xFF) 8 + low)

/-- The new-record flag of a source (R407): the chip word's bit, or the region word's. -/
def newChipBit (src : Nat) : BitVec 32 :=
  if src < 6 then 1 <<< src
  else if 0x10 ≤ src && src < 0x18 then 1 <<< (8 + (src - 0x10))
  else if 0x20 ≤ src && src < 0x30 then 1 <<< (16 + (src - 0x20)) else 0
def newRgnBit (src : Nat) : BitVec 32 :=
  if 0x1000 ≤ src then 1 <<< (16 + (src - 0x1000) / 64)
  else if 0x100 ≤ src then 1 <<< (src - 0x100) else 0

/-- A list put in rising order of a rank, equal ranks as they came. -/
def insertBy {α : Type} (rank : α → Nat) (x : α) : List α → List α
  | [] => [x]
  | y :: l => if rank x < rank y then x :: y :: l else y :: insertBy rank x l
def sortBy {α : Type} (rank : α → Nat) (l : List α) : List α := l.foldl (fun m x => insertBy rank x m) []

/-- A record appended to a ring that keeps the newest `n` (R378). -/
def appendKeep {α : Type} (n : Nat) (l : List α) (x : α) : List α :=
  let l := l ++ [x]
  l.drop (l.length - n)

/-- Whether the region's crossing FIFO is full for a source behind it (R358 class 2). -/
def Chip.fifoFull (c : Chip) (src : Nat) : Bool :=
  match srcRegion src with
  | some g => decide (64 ≤ (c.region g).fifo)
  | none => false

/-- The record an event writes (R377). -/
def Chip.record (c : Chip) (src cls code : Nat) (rerow : Bool) (locus : BitVec 32) (detail : Nat) : EventRec :=
  { source := BitVec.ofNat 16 src, cls := BitVec.ofNat 8 cls
    flags := BitVec.ofNat 8 (flag rerow + 2 * flag (decide (2 ≤ cls)) + 4 * flag (!c.clk.ptpFollowing))
    seq := (look ({} : Ring) c.log.rings src).next, stroke := c.srcStroke src, code := BitVec.ofNat 16 code
    logTime := c.logTime, locus := locus, detail := BitVec.ofNat 32 detail }

/-- The log with a record of a source: written to its ring and, for the classes permanent, degradation and safety,
copied into the retain ring; dropped, its sequence number consumed, when the region's FIFO is full (R378, R381, R407). -/
def Log.write (l : Log) (full : Bool) (src : Nat) (r : EventRec) : Log :=
  let ring : Ring := look {} l.rings src
  let ring := if full then { ring with next := ring.next + 1, dropped := satAdd ring.dropped 1, any := true }
    else { ring with recs := appendKeep (ringSize src) ring.recs r, next := ring.next + 1, any := true }
  let keep := !full && decide (2 ≤ r.cls.toNat)
  { l with
    rings := put {} l.rings src ring
    retain := if keep then appendKeep 1024 l.retain (l.retainNext, r) else l.retain
    retainNext := if keep then l.retainNext + 1 else l.retainNext
    retainAny := l.retainAny || keep
    newChip := l.newChip ||| newChipBit src ||| (if keep then 0x20 else 0)
    newRgn := l.newRgn ||| newRgnBit src }

/-- An event is recorded (R362, R377): the log, and the counters of SAF_EVENTS for the classes transient and permanent. -/
def Chip.event (c : Chip) (src cls code : Nat) (rerow : Bool) (locus : BitVec 32) (detail : Nat) : Chip :=
  let full := c.fifoFull src
  let c1 := { c with
    log := c.log.write full src (c.record src cls code rerow locus detail)
    saf := { c.saf with
      transient := satIf (cls == 1) c.saf.transient
      permanent := satIf (cls == 2) c.saf.permanent } }
  match srcRegion src with
  | some g => if full then c1 else c1.upRegion g (fun r => { r with fifo := r.fifo + 1 })
  | none => c1

/-- A value that no command carries and the spec does not state, and the counter it is drawn at (log entry 4). -/
def Chip.draw (c : Chip) : Nat × Chip := (c.freeCtr, { c with freeCtr := c.freeCtr + 1 })

/-- The event codes that R380 lists; no other is ever written. -/
def eventCodes : List Nat :=
  [0x1, 0x2, 0x3, 0x4, 0x5, 0x101, 0x102, 0x103, 0x104, 0x105, 0x106, 0x107, 0x108, 0x109, 0x10A, 0x110, 0x111, 0x112, 0x113, 0x114]
    ++ [0x201, 0x202, 0x203, 0x204, 0x205, 0x206, 0x207, 0x301, 0x302, 0x303, 0x304, 0x305, 0x401, 0x402, 0x403, 0x404, 0x405]

/-- An event that the spec orders without naming its code: one of the codes of R380, a free value (log entry 31). -/
def Chip.eventOpen (c : Chip) (src cls : Nat) (locus : BitVec 32) (detail : Nat) : Chip :=
  c.draw.2.event src cls ((eventCodes[Config.figure c.draw.1 % eventCodes.length]?).getD 0) false locus detail

/-! ## Jobs and placement -/

/-- A job of the block by its queue and tag. -/
def Chip.job? (c : Chip) (id : JobId) : Option Job := c.jobs.find? (fun j => j.id == id)

/-- The block with a job changed. -/
def Chip.upJob (c : Chip) (id : JobId) (f : Job → Job) : Chip :=
  { c with jobs := c.jobs.map (fun j => if j.id = id then f j else j) }

/-- The block with a job removed. -/
def Chip.dropJob (c : Chip) (id : JobId) : Chip := { c with jobs := c.jobs.filter (fun j => decide (j.id ≠ id)) }

/-- The loaded image of a job. -/
def Chip.imageOf (c : Chip) (j : Job) : Option Image := c.sch.images.find? (fun i => i.id == j.image)

/-- The physical region of a job's logical region. -/
def Job.phys (j : Job) (lr : Nat) : Option Nat := (j.map.find? (fun p => p.1 == lr)).map (·.2)

/-- The logical region that a job holds in a physical region. -/
def Job.logical (j : Job) (g : Nat) : Option Nat := (j.map.find? (fun p => p.2 == g)).map (·.1)

/-- Whether a job has its regions: from admission to its end (R40). -/
def Job.holds (j : Job) : Bool :=
  match j.st with
  | .admitted | .running | .held _ | .draining => true
  | _ => false

/-- Whether a job is paused and not yet resumed: saved, or waiting to be taken up again where it was saved (R41, R43). -/
def Job.onPause (j : Job) : Bool := j.st == .paused || (j.isResume && (j.st == .pending || j.st == .admitted) && j.pauses != 0)

/-- Whether a job has started and not ended or been saved. -/
def Job.live (j : Job) : Bool :=
  match j.st with
  | .running | .held _ | .draining => true
  | _ => false

/-- S0 (R277): bits [47:0] of a packet's fleet_start (R307). -/
def startStroke (b : JobBody) : Nat := b.fleetStart.toNat % 2 ^ 48

/-- Whether a job holds physical region `g`. -/
def Job.inRegion (j : Job) (g : Nat) : Bool := j.holds && (j.map.any (fun p => p.2 == g))

/-- The lowest physical region a job holds (R380). -/
def Job.lowRegion (j : Job) : Nat := j.map.foldl (fun m p => min m p.2) 255

/-- The region whose strokes count a job's strokes (log entry 6). -/
def Job.leads (j : Job) (g : Nat) : Bool := j.holds && j.lowRegion == g

/-- The physical core that is the digital seat of a logical core (R367). -/
def Chip.seat (c : Chip) (g lc : Nat) : Nat := look (g * 34 + lc) c.seats (g * 32 + lc)

/-- The physical array whose cell block holds a logical array (R84, R114, R369): as shipped, its own. -/
def Chip.cellsOf (c : Chip) (g lc la : Nat) : Nat :=
  look ((g * 34 + lc) * 17 + la) c.cells ((g * 32 + lc) * 16 + la)

/-- The physical array whose periphery senses a cell block (R109 to R113): as shipped, its own. -/
def Chip.periOf (c : Chip) (cellArr : Nat) : Nat := look cellArr c.peri cellArr

/-- The fixed lengths a job's image declares, or 1 and 1 while it has none. -/
def Chip.lengths (c : Chip) (j : Job) : Nat × Nat :=
  match c.imageOf j with
  | some i => (max 1 i.L, i.D)
  | none => (1, 1)

/-- The Lamni ports of a job: logical and physical (R307). -/
def Job.ports (j : Job) (mask : Nat) : List (Nat × Nat) :=
  (List.range 16).filterMap (fun n =>
    if bitOf mask n then (j.body.portMap[n]?).map (fun b => (n, b.toNat)) else none)

/-- The fleet signal latency Δf (R288): 0 for an image without Lamni ports; H is the hop budget in ticks at the fastest
mode of the image's range (R56). -/
def fleetLatency (reach hop : Nat) : Nat := max 3 (1 + reach * ceilDiv (hop + 128) 4096)

/-- The tick period in units of 1/4,800 ns... the ticks of one microsecond at a mode: 1,600, 1,200, 800 (R15). -/
def ticksPerUs (m : Mode) : Nat :=
  match m with
  | .full => 1600
  | .half => 1200
  | .light => 800

/-- The fastest mode of a pressure range. -/
def fastest (range : Nat) : Mode := if bitOf range 0 then .full else if bitOf range 1 then .half else .light

/-- The hop budget in ticks at the fastest mode of a range, rounded up; the configuration gives it in ns (R56, R329). -/
def hopTicks (budgetNs range : Nat) : Nat := ceilDiv (budgetNs * ticksPerUs (fastest range)) 1000

/-- Δf of a job's image (R288). -/
def Chip.deltaF (c : Chip) (i : Image) : Nat :=
  if i.lamniMask = 0 then 0 else fleetLatency c.cfg.reach.toNat (hopTicks c.cfg.hopBudget.toNat i.pressureRange)

/-- Δf of a job, 0 while its image is not held. -/
def Chip.jobDeltaF (c : Chip) (j : Job) : Nat :=
  match c.imageOf j with
  | some i => c.deltaF i
  | none => 0

/-- The physical Lamni ports of a job. -/
def Chip.jobPorts (c : Chip) (j : Job) : List Nat :=
  match c.imageOf j with
  | some i => (j.ports i.lamniMask).map (·.2)
  | none => []

/-! ## Frames sent -/

/-- The code of a mode (R307). -/
def modeCode : Mode → Nat
  | .full => 0 | .half => 1 | .light => 2

/-- The physical lane of a logical lane in a map, 0xF for none (R275). -/
def mapAt (m : BitVec 32) (i : Nat) : Nat := bitsOf m.toNat (4 * i + 3) (4 * i)

/-- The job that holds a port (R275 in_use). -/
def Chip.portJob (c : Chip) (p : Nat) : Option Job := c.jobs.find? (fun j => j.holds && (c.jobPorts j).contains p)

/-- The stroke count of a port (R260): of the job that uses it, else of the fleet. -/
def Chip.portStroke (c : Chip) (p : Nat) : Nat := match c.portJob p with | some j => j.stroke | none => c.clk.fleetStroke.toNat

/-- The byte of an image identifier that a stroke's frames carry (R260). -/
def digestFrag (id : BitVec 256) (stroke : Nat) : Byte := (id >>> (8 * (stroke % 32))).setWidth 8

/-- The types of R260. -/
def LinkMsg.type : LinkMsg → BitVec 4
  | .idle => 0 | .data _ => 1 | .catch _ => 2 | .weigh _ => 3 | .measure _ => 4 | .lane _ => 5 | .signal _ => 6

/-- The valid payload bytes of a frame. -/
def LinkMsg.length : LinkMsg → Nat
  | .idle => 0 | .data d => d.length | _ => 208

/-- The header of a frame that no slot occurrence carries (R260, R281): the tick state, the stroke and the image of the job that uses the port,
0 with none, and in a WEIGH frame the fleet stroke. DESIGN CHOICE: on logical lane 0, with tag, index and send tick 0 (log entry 137). -/
def Chip.portHdr (c : Chip) (p : Nat) (m : LinkMsg) : FrameHdr :=
  let j := c.portJob p
  let stroke := match m with | .weigh w => w.fleetStroke.toNat | _ => c.portStroke p
  { type := m.type, mode := match j with | some j => BitVec.ofNat 2 (modeCode j.mode) | none => 0
    easy := match j with | some j => j.easy | none => false, blockTag := 0, lane := 0, index := 0, last := false
    stroke := BitVec.ofNat 48 stroke, sendTick := 0, payloadLen := m.length
    digestFrag := match j with | some j => digestFrag j.image stroke | none => 0, reservedZero := true }

/-- A control frame of a port, on the present map of its transmit lanes. -/
def Chip.frameOn (c : Chip) (p : Nat) (m : LinkMsg) : FleetOut :=
  { port := p, lane := some (mapAt (c.port p).mapTx 0), hdr := c.portHdr p m, msg := m }

/-- The ports of a list that carry DATA, CATCH and FAULT frames: those that are up (R283). -/
def Chip.upPorts (c : Chip) (ps : List Nat) : List Nat := ps.filter (fun p => (c.port p).state == 4)

/-- A CATCH or FAULT frame sent on the ports of a list that are up. -/
def Chip.sendOn (c : Chip) (ps : List Nat) (m : LinkMsg) : Chip :=
  { c with fleetOut := c.fleetOut ++ (c.upPorts ps).map (fun p => c.frameOn p m) }

/-! ## Fleet signals and re-row calls -/

/-- A fleet signal is raised (R287, R288): it is known to this member, counted, and sent on every port of the job that is up. -/
def Chip.raiseSignal (c : Chip) (j : Job) (kind : Nat) (x : Nat) (lane status : Nat) : Chip :=
  let m : SignalMsg :=
    { kind := BitVec.ofNat 8 kind, hops := 0, origin := c.cfg.member, sequence := c.sch.fleetSeq, epoch := j.epoch
      stroke := BitVec.ofNat 48 x, lane := BitVec.ofNat 4 lane, status := BitVec.ofNat 8 status, imageId := j.image }
  let c := ({ c with sch := { c.sch with raised := satAdd c.sch.raised 1, fleetSeq := c.sch.fleetSeq + 1 } }).sendOn (c.jobPorts j) (.signal m)
  c.upJob j.id (fun j => { j with
    signals := if kind = 1 then j.signals
      else j.signals ++ [{ kind := m.kind, origin := m.origin, seq := m.sequence, due := x + c.jobDeltaF j + 1, status := m.status }]
    knownX := if kind = 1 then some x else j.knownX })

/-- A job is called to re-row: locally at the end of the stroke (R32); in a fleet job by a REROW signal, unless an
earlier stroke is already known in its epoch (R291 rule 2). -/
def Chip.callJob (c : Chip) (j : Job) (lane : Nat := 0xF) : Chip :=
  if !j.live then c
  else if j.fleet then
    match j.knownX with
    | some x => if j.stroke < x then c.raiseSignal j 1 j.stroke lane 0 else c
    | none => c.raiseSignal j 1 j.stroke lane 0
  else c.upJob j.id (fun j => { j with rerow := true })

/-- Every job that holds a region is called to re-row. -/
def Chip.callRegion (c : Chip) (g : Nat) : Chip :=
  overAll (c.jobs.filter (fun j => j.inRegion g)) (fun c j => c.callJob j) c

/-- Every job is called to re-row for which a condition holds. -/
def Chip.callWhere (c : Chip) (p : Job → Bool) : Chip := overAll (c.jobs.filter p) (fun c j => c.callJob j) c

/-! ## Loci and permanence (R363, R364) -/

/-- The region a locus lies in, or none at chip level. -/
def locusRegion : Locus → Option Nat
  | .periphery a => some (a / 578)
  | .digital core => some (core / 34)
  | .plot k => some (k / 136)
  | .region g => some g
  | .stream 0 core => some (core / 34)
  | _ => none

/-- The stroke count of a locus (R364). -/
def Chip.locusStroke (c : Chip) (l : Locus) : Nat :=
  match locusRegion l with
  | some g => (c.region g).stroke.toNat
  | none => c.clk.chipStroke.toNat

/-- Ten seconds of always-on time. -/
def tenSeconds : Nat := 250000000

/-- An event at a locus: the block with its times, and whether it is the `need`-th event within 10 s. Several events of
one stroke count as one. -/
def Chip.hit (c : Chip) (l : Locus) (need : Nat) : Chip × Bool :=
  let now := c.clk.aon
  let stroke := c.locusStroke l
  let old := c.saf.loci.find? (fun e => e.locus == l)
  let rest := c.saf.loci.filter (fun e => e.locus != l)
  let store (ts : List Nat) : Chip :=
    { c with saf := { c.saf with loci := rest ++ [{ locus := l, times := ts, stroke := stroke }] } }
  match old with
  | none => if need ≤ 1 then (store [], true) else (store [now], false)
  | some e =>
    if e.stroke = stroke then (c, false)
    else
      let recent := e.times.filter (fun t => decide (now ≤ t + tenSeconds))
      if need ≤ recent.length + 1 then (store [], true)
      else (store ((recent ++ [now]).drop (recent.length - 1)), false)

/-- A remedy that waits for the restart boundary (R363). -/
def Chip.addRemedy (c : Chip) (r : Remedy) : Chip :=
  { c with saf := { c.saf with remedies := if c.saf.remedies.contains r then c.saf.remedies else c.saf.remedies ++ [r] } }

/-- A fault event at a locus: logged transient or permanent, its remedy waiting when permanent. -/
def Chip.fault (c : Chip) (src code : Nat) (locus : BitVec 32) (detail : Nat) (l : Locus) (need : Nat)
    (remedy : Remedy) : Chip :=
  let r := c.hit l need
  let c := r.1.event src (if r.2 then 2 else 1) code true locus detail
  if r.2 then c.addRemedy remedy else c

/-- A dangerous event of the compute path (R371): counted, logged, and every job of the region called to re-row. -/
def Chip.danger (c : Chip) (g src code : Nat) (locus : BitVec 32) (detail : Nat) (l : Locus) (need : Nat)
    (remedy : Remedy) : Chip :=
  let c := { c with saf := { c.saf with dangCompute := satAdd c.saf.dangCompute 1 } }
  (c.fault src code locus detail l need remedy).callRegion g

/-- A dangerous event of the light-control path (R181). -/
def Chip.dangerLight (c : Chip) (g src code : Nat) (locus : BitVec 32) (detail : Nat) (cls : Nat) : Chip :=
  let c := { c with saf := { c.saf with dangLight := satAdd c.saf.dangLight 1 } }
  (c.event src cls code true locus detail).callRegion g

/-- The locus word of an array: region, core, array, row group, and the tier group where the event is of one tier (log entry 123). -/
def arrLocus (array : Nat) (rowGroup : Option Nat) (tier : Option Nat := none) : BitVec 32 :=
  locusWord (some (array / 578)) (some (array / 17 % 34)) (some (array % 17))
    (match rowGroup with | some i => field i 4 + (match tier with | some t => t / 4 | none => 0xF) | none => 0xFF)

/-- The locus word of a core. -/
def coreLocus (core : Nat) : BitVec 32 := locusWord (some (core / 34)) (some (core % 34)) none

/-- The locus word of an optical plot. -/
def plotLocus (k : Nat) : BitVec 32 := locusWord (some (k / 136)) none (some (k % 136))

/-- A residue or lock-step mismatch by its unit code of R380 (R365): units 1 to 3 are loci of an array periphery, 4 to 8 of
a core's digital block, 9 of an optical plot, 10 and 11 of the region (R363). -/
def Chip.residue (c : Chip) (unit g core array plot : Nat) : Chip :=
  if unit = 0 then c
  else if unit ≤ 3 then
    c.danger g (srcCore core) 0x105 (arrLocus array none) unit (.periphery array) 3 (.periphery array)
  else if unit ≤ 8 then c.danger g (srcCore core) 0x105 (coreLocus core) unit (.digital core) 3 (.core core)
  else if unit = 9 then c.danger g (srcRgn g) 0x105 (plotLocus plot) unit (.plot plot) 3 (.plot plot 4)
  else c.danger g (srcRgn g) 0x105 (locusWord (some g) none none) unit (.region g) 3 (.region g)

/-- The residue and lock-step mismatches that a command reports (R365); `plot` gives the physical plot of one of the operation. -/
def Chip.residues (c : Chip) (rs : List Residue) (g core array : Nat) (plot : Nat → Nat) : Chip :=
  overAll rs (fun c r => c.residue r.unit.val g core array (plot r.plot)) c

/-- A location that a job's read found uncorrectable (R252): kept with the piece and the re-rows so far; found again after a
re-row, the data are lost. Locations: an HBM address, 2^40 plus a core staging address, 2^41 plus a region staging address. -/
def Chip.badRead (c : Chip) (id : JobId) (loc : Nat) : Chip :=
  let piece (j : Job) : Nat := j.stroke / (c.lengths j).1
  c.upJob id (fun j =>
    if j.badWords.any (fun w => w.1 == loc && decide (w.2.2 < j.rerows.toNat)) then { j with lostWord := true }
    else { j with badWords := j.badWords ++ [(loc, piece j, j.rerows.toNat)] })

/-- An uncorrectable codeword of a core's memory: 1 core staging, 3 instruction buffer, 4 function table (R380). -/
def Chip.coreCode (c : Chip) (core kind : Nat) : Chip :=
  c.danger (core / 34) (srcCore core) 0x10A (coreLocus core) kind (.digital core) 3 (.core core)

/-- An uncorrectable codeword of a region's memory: 2 region staging, 3 instruction buffer. -/
def Chip.regionCode (c : Chip) (g kind : Nat) : Chip :=
  c.danger g (srcRgn g) 0x10A (locusWord (some g) none none) kind (.region g) 3 (.region g)

/-- A refusal at run time (R82): logged as a permanent schedule fault; the job is held at the next stroke boundary until
its image is replaced, and every other job that holds the region is called to re-row (R32). In a fleet job an ABORT signal with
IMAGE_DIGEST takes the place of the hold (R292). -/
def Chip.scheduleFault (c : Chip) (j : Job) (g src : Nat) (locus : BitVec 32) (index : Nat) : Chip :=
  let c := c.event src 2 0x109 true locus index
  let c := overAll (c.jobs.filter (fun k => decide (k.id ≠ j.id) && k.inRegion g)) (fun c k => c.callJob k) c
  if j.fleet then c.raiseSignal j 5 j.stroke 0xF 0x05
  else c.upJob j.id (fun j => { j with rerow := true, holdNext := some .image })

/-! ## Issue sites -/

/-- Whether a region issues at a tick: awake, or waking with its 2,048 ticks past (R18, R60). -/
def Chip.ticks (c : Chip) (g tick : Nat) : Bool :=
  let r := c.region g
  decide (2 ≤ r.power.toNat) || (r.power == 1 && (match r.wakeAt with | some t => decide (t ≤ tick % 4096) | none => false))

/-- The running job of a stream with the physical region, awake or not: the SYN words that occupy nothing count as issued in a sleeping
region too (R60); none when no such job runs. -/
def Chip.atStream (c : Chip) (st : Site) : Option (Job × Nat) :=
  match c.job? st.job with
  | none => none
  | some j => if j.st = .running then (j.phys st.region.val).map (fun g => (j, g)) else none

/-- The running job of an issue site with the physical region, when its region is awake. -/
def Chip.atSite (c : Chip) (st : Site) : Option (Job × Nat) :=
  match c.atStream st with
  | none => none
  | some (j, g) => if c.ticks g st.tick then some (j, g) else none

/-- A stream instruction of a core: its effect on the job, the region and the digital seat; nothing comes about when no
such job runs there (log entry 5). -/
def Chip.onCore (c : Chip) (st : Site) (f : Chip → Job → Nat → Nat → Chip) : Chip :=
  match c.atSite st, st.core with
  | some (j, g), some lc => f c j g (c.seat g lc.val)
  | _, _ => c

/-- A stream instruction of a region sequencer. -/
def Chip.onSeq (c : Chip) (st : Site) (f : Chip → Job → Nat → Chip) : Chip :=
  match c.atSite st with
  | some (j, g) => f c j g
  | none => c

/-- An instruction word that its own code finds uncorrectable (R82, R363): it is not performed, and its core's or region's path reports it. -/
def Chip.badFetch (c : Chip) (st : Site) (g : Nat) : Chip :=
  match st.core with
  | some lc => c.coreCode (c.seat g lc.val) 3
  | none => c.regionCode g 3

/-- A disagreement of the lock-step pair that issues a stream (R365): the issue logic of its core, or the region's sequencer. -/
def Chip.lockstep (c : Chip) (st : Site) (g : Nat) : Chip :=
  match st.core with
  | some lc => c.residue 8 g (c.seat g lc.val) 0 0
  | none => c.residue 10 g 0 0 0

/-- A word without path outcomes of its own: its effect, its corrupt fetch in its place, or a disagreement after it. -/
def Chip.fetched (c : Chip) (st : Site) (g : Nat) (fetch : Fetch) (f : Chip → Chip) : Chip :=
  match fetch with
  | .good => f c
  | .bad => c.badFetch st g
  | .split => (f c).lockstep st g

/-- A word of a stream that counts as issued in a sleeping region too (R60). -/
def Chip.onStream (c : Chip) (st : Site) (fetch : Fetch) (f : Chip → Job → Nat → Chip) : Chip :=
  match c.atStream st with
  | some (j, g) => c.fetched st g fetch (fun c => f c j g)
  | none => c

/-- A word of a region sequencer without path outcomes of its own. -/
def Chip.onSeqWord (c : Chip) (st : Site) (fetch : Fetch) (f : Chip → Job → Nat → Chip) : Chip :=
  c.onSeq st (fun c j g => c.fetched st g fetch (fun c => f c j g))

end Sys2Proof.Machine
end

