-- ==== Sys2Proof/Machine/Tables.lean ====
section
/-! DEFINITION. The fixed tables of the vector engine (R227, R228, R230), each entry the nearest integer to the
formula the rule gives; the entries were computed from those formulas with 120 digits and more. The activation
tables hold the half x ≤ 0 (tanh: x ≥ 0); the other half follows exactly from f(x) = x + f(−x) (GELU, SiLU,
Softplus), f(x) = 1 − f(−x) (Sigmoid) and f(−x) = −f(x) (tanh), because x × 2^24 is an integer at every entry. -/

namespace Sys2Proof.Machine

/-- Entries 0 to 31 of `tabTE`. -/
def tabTEPart0 : List Nat :=
  [2147483648, 2170868212, 2194507417, 2218404036, 2242560872, 2266980759, 2291666561, 2316621173, 2341847524,
   2367348571, 2393127307, 2419186755, 2445529972, 2472160047, 2499080105, 2526293303, 2553802834, 2581611923,
   2609723834, 2638141863, 2666869345, 2695909648, 2725266179, 2754942382, 2784941738, 2815267765, 2845924021,
   2876914102, 2908241642, 2939910317, 2971923842, 3004285971]

/-- Entries 32 to 63 of `tabTE`. -/
def tabTEPart1 : List Nat :=
  [3037000500, 3070071267, 3103502151, 3137297074, 3171459999, 3205994934, 3240905930, 3276197082, 3311872529,
   3347936457, 3384393094, 3421246719, 3458501653, 3496162267, 3534232978, 3572718252, 3611622603, 3650950594,
   3690706840, 3730896002, 3771522796, 3812591987, 3854108391, 3896076880, 3938502376, 3981389855, 4024744348,
   4068570940, 4112874773, 4157661043, 4202935003, 4248701965]

/-- R227: TE[k] = round(2^(k/64) × 2^31), k = 0 to 63. -/
def tabTE : List Nat :=
  tabTEPart0 ++ tabTEPart1

/-- Entries 0 to 31 of `tabT2`. -/
def tabT2Part0 : List Nat :=
  [0, 48220695, 96069025, 143550699, 190671291, 237436253, 283850912, 329920477, 375650043, 421044590, 466108993,
   510848017, 555266330, 599368495, 643158981, 686642163, 729822324, 772703658, 815290272, 857586191, 899595355,
   941321628, 982768792, 1023940559, 1064840562, 1105472367, 1145839467, 1185945290, 1225793196, 1265386481,
   1304728379, 1343822060]

/-- Entries 32 to 63 of `tabT2`. -/
def tabT2Part1 : List Nat :=
  [1382670639, 1421277169, 1459644648, 1497776018, 1535674166, 1573341930, 1610782092, 1647997388, 1684990500,
   1721764068, 1758320682, 1794662886, 1830793181, 1866714024, 1902427829, 1937936969, 1973243777, 2008350545,
   2043259528, 2077972941, 2112492963, 2146821738, 2180961373, 2214913940, 2248681479, 2282265995, 2315669461,
   2348893820, 2381940981, 2414812824, 2447511201, 2480037932]

/-- Entries 64 to 95 of `tabT2`. -/
def tabT2Part2 : List Nat :=
  [2512394810, 2544583599, 2576606038, 2608463835, 2640158677, 2671692221, 2703066101, 2734281925, 2765341278,
   2796245722, 2826996792, 2857596005, 2888044853, 2918344806, 2948497313, 2978503803, 3008365682, 3038084339,
   3067661140, 3097097433, 3126394546, 3155553791, 3184576458, 3213463820, 3242217134, 3270837638, 3299326552,
   3327685082, 3355914416, 3384015725, 3411990165, 3439838878]

/-- Entries 96 to 127 of `tabT2`. -/
def tabT2Part3 : List Nat :=
  [3467562987, 3495163602, 3522641820, 3549998721, 3577235372, 3604352825, 3631352118, 3658234277, 3685000315,
   3711651229, 3738188006, 3764611620, 3790923031, 3817123189, 3843213029, 3869193478, 3895065449, 3920829844,
   3946487554, 3972039458, 3997486426, 4022829316, 4048068976, 4073206244, 4098241947, 4123176902, 4148011918,
   4172747791, 4197385310, 4221925255, 4246368396, 4270715492]

/-- R228: T2[k] = round(log2(1 + k/128) × 2^32), k = 0 to 127. -/
def tabT2 : List Nat :=
  tabT2Part0 ++ tabT2Part1 ++ tabT2Part2 ++ tabT2Part3

/-- Entries 0 to 31 of `tabGelu`. -/
def tabGeluPart0 : List Int :=
  [0, -255609, -498160, -727692, -944267, -1147976, -1338930, -1517267, -1683148, -1836756, -1978297, -2107999,
   -2226107, -2332889, -2428629, -2513627, -2588200, -2652681, -2707412, -2752750, -2789060, -2816719, -2836107,
   -2847614, -2851632, -2848558, -2838790, -2822726, -2800765, -2773301, -2740727, -2703430]

/-- Entries 32 to 63 of `tabGelu`. -/
def tabGeluPart1 : List Int :=
  [-2661793, -2616192, -2566992, -2514554, -2459227, -2401349, -2341249, -2279244, -2215636, -2150719, -2084769,
   -2018052, -1950819, -1883307, -1815739, -1748324, -1681258, -1614721, -1548881, -1483891, -1419891, -1357008,
   -1295356, -1235038, -1176142, -1118747, -1062921, -1008718, -956187, -905363, -856273, -808938]

/-- Entries 64 to 95 of `tabGelu`. -/
def tabGeluPart2 : List Int :=
  [-763368, -719566, -677530, -637249, -598708, -561886, -526758, -493293, -461458, -431216, -402525, -375344,
   -349627, -325328, -302398, -280790, -260452, -241335, -223388, -206560, -190802, -176063, -162295, -149449,
   -137478, -126336, -115978, -106360, -97440, -89177, -81531, -74465]

/-- Entries 96 to 127 of `tabGelu`. -/
def tabGeluPart3 : List Int :=
  [-67943, -61928, -56389, -51293, -46611, -42313, -38372, -34764, -31463, -28447, -25694, -23184, -20898, -18819,
   -16930, -15215, -13660, -12252, -10978, -9826, -8787, -7850, -7005, -6246, -5563, -4950, -4400, -3907, -3466,
   -3072, -2720, -2405]

/-- Entries 128 to 159 of `tabGelu`. -/
def tabGeluPart4 : List Int :=
  [-2125, -1876, -1655, -1458, -1283, -1128, -991, -869, -762, -667, -584, -510, -446, -389, -339, -295, -257, -223,
   -193, -168, -145, -126, -109, -94, -81, -70, -60, -52, -44, -38, -33, -28]

/-- Entries 160 to 191 of `tabGelu`. -/
def tabGeluPart5 : List Int :=
  [-24, -21, -18, -15, -13, -11, -9, -8, -7, -6, -5, -4, -3, -3, -2, -2, -2, -1, -1, -1, -1, -1, -1, -1, 0, 0, 0, 0,
   0, 0, 0, 0]

/-- Entries 192 to 223 of `tabGelu`. -/
def tabGeluPart6 : List Int :=
  [0, 0, 0, 0, 0, 0, 0, 0, 0, 0, 0, 0, 0, 0, 0, 0, 0, 0, 0, 0, 0, 0, 0, 0, 0, 0, 0, 0, 0, 0, 0, 0]

/-- Entries 224 to 255 of `tabGelu`. -/
def tabGeluPart7 : List Int :=
  [0, 0, 0, 0, 0, 0, 0, 0, 0, 0, 0, 0, 0, 0, 0, 0, 0, 0, 0, 0, 0, 0, 0, 0, 0, 0, 0, 0, 0, 0, 0, 0]

/-- Entries 256 to 287 of `tabGelu`. -/
def tabGeluPart8 : List Int :=
  [0, 0, 0, 0, 0, 0, 0, 0, 0, 0, 0, 0, 0, 0, 0, 0, 0, 0, 0, 0, 0, 0, 0, 0, 0, 0, 0, 0, 0, 0, 0, 0]

/-- Entries 288 to 319 of `tabGelu`. -/
def tabGeluPart9 : List Int :=
  [0, 0, 0, 0, 0, 0, 0, 0, 0, 0, 0, 0, 0, 0, 0, 0, 0, 0, 0, 0, 0, 0, 0, 0, 0, 0, 0, 0, 0, 0, 0, 0]

/-- Entries 320 to 351 of `tabGelu`. -/
def tabGeluPart10 : List Int :=
  [0, 0, 0, 0, 0, 0, 0, 0, 0, 0, 0, 0, 0, 0, 0, 0, 0, 0, 0, 0, 0, 0, 0, 0, 0, 0, 0, 0, 0, 0, 0, 0]

/-- Entries 352 to 383 of `tabGelu`. -/
def tabGeluPart11 : List Int :=
  [0, 0, 0, 0, 0, 0, 0, 0, 0, 0, 0, 0, 0, 0, 0, 0, 0, 0, 0, 0, 0, 0, 0, 0, 0, 0, 0, 0, 0, 0, 0, 0]

/-- Entries 384 to 415 of `tabGelu`. -/
def tabGeluPart12 : List Int :=
  [0, 0, 0, 0, 0, 0, 0, 0, 0, 0, 0, 0, 0, 0, 0, 0, 0, 0, 0, 0, 0, 0, 0, 0, 0, 0, 0, 0, 0, 0, 0, 0]

/-- Entries 416 to 447 of `tabGelu`. -/
def tabGeluPart13 : List Int :=
  [0, 0, 0, 0, 0, 0, 0, 0, 0, 0, 0, 0, 0, 0, 0, 0, 0, 0, 0, 0, 0, 0, 0, 0, 0, 0, 0, 0, 0, 0, 0, 0]

/-- Entries 448 to 479 of `tabGelu`. -/
def tabGeluPart14 : List Int :=
  [0, 0, 0, 0, 0, 0, 0, 0, 0, 0, 0, 0, 0, 0, 0, 0, 0, 0, 0, 0, 0, 0, 0, 0, 0, 0, 0, 0, 0, 0, 0, 0]

/-- Entries 480 to 511 of `tabGelu`. -/
def tabGeluPart15 : List Int :=
  [0, 0, 0, 0, 0, 0, 0, 0, 0, 0, 0, 0, 0, 0, 0, 0, 0, 0, 0, 0, 0, 0, 0, 0, 0, 0, 0, 0, 0, 0, 0, 0]

/-- Entries 512 to 512 of `tabGelu`. -/
def tabGeluPart16 : List Int :=
  [0]

/-- R230 mod 1: round(f(−j/32) × 2^24) for GELU, j = 0 to 512. -/
def tabGelu : List Int :=
  tabGeluPart0 ++ tabGeluPart1 ++ tabGeluPart2 ++ tabGeluPart3 ++ tabGeluPart4 ++ tabGeluPart5 ++ tabGeluPart6 ++ tabGeluPart7 ++ tabGeluPart8 ++ tabGeluPart9 ++ tabGeluPart10 ++ tabGeluPart11 ++ tabGeluPart12 ++ tabGeluPart13 ++ tabGeluPart14 ++ tabGeluPart15 ++ tabGeluPart16

/-- Entries 0 to 31 of `tabSilu`. -/
def tabSiluPart0 : List Int :=
  [0, -258048, -507909, -749595, -983125, -1208528, -1425838, -1635101, -1836365, -2029690, -2215141, -2392791,
   -2562720, -2725014, -2879765, -3027072, -3167041, -3299780, -3425407, -3544042, -3655809, -3760840, -3859267,
   -3951229, -4036866, -4116323, -4189747, -4257287, -4319095, -4375323, -4426127, -4471664]

/-- Entries 32 to 63 of `tabSilu`. -/
def tabSiluPart1 : List Int :=
  [-4512088, -4547559, -4578234, -4604270, -4625825, -4643056, -4656119, -4665169, -4670360, -4671846, -4669775,
   -4664299, -4655563, -4643713, -4628891, -4611237, -4590889, -4567981, -4542646, -4515013, -4485208, -4453355,
   -4419572, -4383977, -4346685, -4307804, -4267443, -4225706, -4182693, -4138502, -4093227, -4046959]

/-- Entries 64 to 95 of `tabSilu`. -/
def tabSiluPart2 : List Int :=
  [-3999786, -3951793, -3903060, -3853667, -3803689, -3753197, -3702262, -3650949, -3599322, -3547442, -3495366,
   -3443150, -3390847, -3338506, -3286176, -3233900, -3181723, -3129684, -3077821, -3026172, -2974769, -2923645,
   -2872831, -2822353, -2772238, -2722512, -2673197, -2624314, -2575883, -2527922, -2480448, -2433477]

/-- Entries 96 to 127 of `tabSilu`. -/
def tabSiluPart3 : List Int :=
  [-2387022, -2341097, -2295713, -2250881, -2206609, -2162907, -2119781, -2077238, -2035284, -1993923, -1953158,
   -1912994, -1873431, -1834472, -1796117, -1758367, -1721222, -1684680, -1648740, -1613401, -1578659, -1544513,
   -1510958, -1477993, -1445611, -1413810, -1382584, -1351930, -1321841, -1292313, -1263339, -1234915]

/-- Entries 128 to 159 of `tabSilu`. -/
def tabSiluPart4 : List Int :=
  [-1207034, -1179690, -1152877, -1126589, -1100818, -1075559, -1050804, -1026547, -1002781, -979499, -956694,
   -934359, -912487, -891071, -870103, -849578, -829486, -809823, -790579, -771749, -753326, -735301, -717669,
   -700423, -683555, -667059, -650928, -635155, -619734, -604659, -589921, -575516]

/-- Entries 160 to 191 of `tabSilu`. -/
def tabSiluPart5 : List Int :=
  [-561437, -547677, -534231, -521091, -508253, -495709, -483455, -471484, -459791, -448369, -437214, -426319,
   -415680, -405291, -395146, -385241, -375571, -366130, -356913, -347917, -339135, -330563, -322198, -314033,
   -306066, -298290, -290703, -283300, -276077, -269029, -262153, -255446]

/-- Entries 192 to 223 of `tabSilu`. -/
def tabSiluPart6 : List Int :=
  [-248902, -242519, -236293, -230220, -224297, -218520, -212886, -207391, -202033, -196808, -191713, -186744,
   -181900, -177177, -172573, -168083, -163707, -159440, -155281, -151227, -147275, -143423, -139668, -136009,
   -132443, -128967, -125579, -122278, -119061, -115926, -112871, -109895]

/-- Entries 224 to 255 of `tabSilu`. -/
def tabSiluPart7 : List Int :=
  [-106994, -104168, -101415, -98732, -96119, -93572, -91092, -88675, -86321, -84027, -81793, -79617, -77498, -75433,
   -73422, -71463, -69556, -67698, -65888, -64126, -62410, -60738, -59111, -57526, -55983, -54480, -53016, -51591,
   -50204, -48853, -47537, -46257]

/-- Entries 256 to 287 of `tabSilu`. -/
def tabSiluPart8 : List Int :=
  [-45010, -43796, -42614, -41464, -40343, -39253, -38191, -37158, -36152, -35173, -34219, -33291, -32388, -31509,
   -30653, -29821, -29010, -28221, -27453, -26706, -25978, -25270, -24581, -23911, -23259, -22624, -22006, -21404,
   -20819, -20250, -19696, -19157]

/-- Entries 288 to 319 of `tabSilu`. -/
def tabSiluPart9 : List Int :=
  [-18632, -18121, -17625, -17141, -16671, -16214, -15769, -15335, -14914, -14504, -14105, -13717, -13340, -12972,
   -12615, -12267, -11929, -11600, -11280, -10969, -10666, -10372, -10085, -9806, -9535, -9271, -9015, -8765, -8523,
   -8287, -8057, -7834]

/-- Entries 320 to 351 of `tabSilu`. -/
def tabSiluPart10 : List Int :=
  [-7616, -7405, -7200, -7000, -6806, -6617, -6433, -6254, -6080, -5911, -5747, -5587, -5431, -5280, -5133, -4990,
   -4851, -4715, -4584, -4456, -4332, -4211, -4093, -3979, -3868, -3760, -3655, -3552, -3453, -3356, -3262, -3171]

/-- Entries 352 to 383 of `tabSilu`. -/
def tabSiluPart11 : List Int :=
  [-3082, -2996, -2912, -2830, -2751, -2674, -2599, -2526, -2455, -2386, -2319, -2254, -2191, -2129, -2069, -2011,
   -1954, -1899, -1846, -1794, -1744, -1694, -1647, -1600, -1555, -1511, -1469, -1427, -1387, -1348, -1310, -1273]

/-- Entries 384 to 415 of `tabSilu`. -/
def tabSiluPart12 : List Int :=
  [-1237, -1202, -1168, -1135, -1103, -1072, -1042, -1012, -983, -956, -929, -902, -877, -852, -828, -804, -782, -759,
   -738, -717, -697, -677, -658, -639, -621, -603, -586, -569, -553, -538, -522, -507]

/-- Entries 416 to 447 of `tabSilu`. -/
def tabSiluPart13 : List Int :=
  [-493, -479, -465, -452, -439, -427, -415, -403, -391, -380, -369, -359, -349, -339, -329, -320, -311, -302, -293,
   -285, -277, -269, -261, -254, -246, -239, -232, -226, -219, -213, -207, -201]

/-- Entries 448 to 479 of `tabSilu`. -/
def tabSiluPart14 : List Int :=
  [-195, -190, -184, -179, -174, -169, -164, -159, -155, -150, -146, -142, -138, -134, -130, -126, -123, -119, -116,
   -112, -109, -106, -103, -100, -97, -94, -92, -89, -87, -84, -82, -79]

/-- Entries 480 to 511 of `tabSilu`. -/
def tabSiluPart15 : List Int :=
  [-77, -75, -73, -71, -69, -67, -65, -63, -61, -59, -57, -56, -54, -53, -51, -50, -48, -47, -46, -44, -43, -42, -40,
   -39, -38, -37, -36, -35, -34, -33, -32, -31]

/-- Entries 512 to 512 of `tabSilu`. -/
def tabSiluPart16 : List Int :=
  [-30]

/-- R230 mod 2: round(f(−j/32) × 2^24) for SiLU, j = 0 to 512. -/
def tabSilu : List Int :=
  tabSiluPart0 ++ tabSiluPart1 ++ tabSiluPart2 ++ tabSiluPart3 ++ tabSiluPart4 ++ tabSiluPart5 ++ tabSiluPart6 ++ tabSiluPart7 ++ tabSiluPart8 ++ tabSiluPart9 ++ tabSiluPart10 ++ tabSiluPart11 ++ tabSiluPart12 ++ tabSiluPart13 ++ tabSiluPart14 ++ tabSiluPart15 ++ tabSiluPart16

/-- Entries 0 to 31 of `tabSigmoid`. -/
def tabSigmoidPart0 : List Int :=
  [8388608, 8257547, 8126549, 7995680, 7865002, 7734578, 7604472, 7474745, 7345459, 7216675, 7088452, 6960848,
   6833920, 6707726, 6582320, 6457754, 6334081, 6211351, 6089613, 5968912, 5849295, 5730803, 5613479, 5497362,
   5382488, 5268894, 5156612, 5045674, 4936108, 4827943, 4721203, 4615911]

/-- Entries 32 to 63 of `tabSigmoid`. -/
def tabSigmoidPart1 : List Int :=
  [4512088, 4409754, 4308926, 4209618, 4111844, 4015616, 3920942, 3827831, 3736288, 3646319, 3557924, 3471106,
   3385864, 3302196, 3220098, 3139565, 3060592, 2983171, 2907294, 2832950, 2760128, 2688818, 2619006, 2550678,
   2483820, 2418416, 2354452, 2291908, 2230770, 2171018, 2112633, 2055598]

/-- Entries 64 to 95 of `tabSigmoid`. -/
def tabSigmoidPart2 : List Int :=
  [1999893, 1945498, 1892393, 1840557, 1789971, 1740613, 1692462, 1645498, 1599699, 1555043, 1511510, 1469077,
   1427725, 1387431, 1348175, 1309934, 1272689, 1236418, 1201101, 1166717, 1133245, 1100667, 1068960, 1038107,
   1008087, 978881, 950470, 922836, 895959, 869823, 844408, 819698]

/-- Entries 96 to 127 of `tabSigmoid`. -/
def tabSigmoidPart3 : List Int :=
  [795674, 772321, 749621, 727557, 706115, 685277, 665029, 645356, 626241, 607672, 589633, 572110, 555091, 538560,
   522507, 506917, 491778, 477077, 462804, 448946, 435492, 422431, 409751, 397443, 385496, 373900, 362645, 351722,
   341120, 330832, 320848, 311160]

/-- Entries 128 to 159 of `tabSigmoid`. -/
def tabSigmoidPart4 : List Int :=
  [301759, 292636, 283785, 275197, 266865, 258781, 250938, 243330, 235949, 228788, 221842, 215104, 208568, 202229,
   196080, 190115, 184330, 178719, 173278, 168000, 162881, 157917, 153103, 148434, 143906, 139516, 135258, 131129,
   127125, 123243, 119478, 115827]

/-- Entries 160 to 191 of `tabSigmoid`. -/
def tabSigmoidPart5 : List Int :=
  [112287, 108855, 105527, 102300, 99171, 96138, 93196, 90344, 87579, 84898, 82299, 79779, 77336, 74967, 72671, 70444,
   68286, 66193, 64164, 62197, 60291, 58442, 56650, 54913, 53229, 51596, 50013, 48479, 46992, 45550, 44152, 42797]

/-- Entries 192 to 223 of `tabSigmoid`. -/
def tabSigmoidPart6 : List Int :=
  [41484, 40210, 38976, 37780, 36620, 35496, 34406, 33349, 32325, 31333, 30370, 29438, 28533, 27657, 26807, 25984,
   25186, 24412, 23662, 22935, 22230, 21547, 20885, 20243, 19621, 19018, 18434, 17867, 17318, 16786, 16270, 15770]

/-- Entries 224 to 255 of `tabSigmoid`. -/
def tabSigmoidPart7 : List Int :=
  [15285, 14815, 14360, 13918, 13490, 13076, 12674, 12284, 11906, 11540, 11185, 10841, 10508, 10185, 9872, 9568, 9274,
   8989, 8712, 8445, 8185, 7933, 7689, 7453, 7224, 7001, 6786, 6577, 6375, 6179, 5989, 5805]

/-- Entries 256 to 287 of `tabSigmoid`. -/
def tabSigmoidPart8 : List Int :=
  [5626, 5453, 5285, 5123, 4965, 4813, 4665, 4521, 4382, 4247, 4117, 3990, 3867, 3748, 3633, 3521, 3413, 3308, 3206,
   3108, 3012, 2919, 2830, 2742, 2658, 2576, 2497, 2420, 2346, 2274, 2204, 2136]

/-- Entries 288 to 319 of `tabSigmoid`. -/
def tabSigmoidPart9 : List Int :=
  [2070, 2007, 1945, 1885, 1827, 1771, 1716, 1664, 1612, 1563, 1515, 1468, 1423, 1379, 1337, 1296, 1256, 1217, 1180,
   1143, 1108, 1074, 1041, 1009, 978, 948, 919, 890, 863, 837, 811, 786]

/-- Entries 320 to 351 of `tabSigmoid`. -/
def tabSigmoidPart10 : List Int :=
  [762, 738, 716, 693, 672, 651, 631, 612, 593, 575, 557, 540, 523, 507, 492, 477, 462, 448, 434, 421, 408, 395, 383,
   371, 360, 349, 338, 328, 318, 308, 298, 289]

/-- Entries 352 to 383 of `tabSigmoid`. -/
def tabSigmoidPart11 : List Int :=
  [280, 272, 263, 255, 247, 240, 232, 225, 218, 212, 205, 199, 193, 187, 181, 175, 170, 165, 160, 155, 150, 145, 141,
   137, 132, 128, 124, 121, 117, 113, 110, 106]

/-- Entries 384 to 415 of `tabSigmoid`. -/
def tabSigmoidPart12 : List Int :=
  [103, 100, 97, 94, 91, 88, 85, 83, 80, 78, 75, 73, 71, 69, 67, 65, 63, 61, 59, 57, 55, 53, 52, 50, 49, 47, 46, 44,
   43, 42, 40, 39]

/-- Entries 416 to 447 of `tabSigmoid`. -/
def tabSigmoidPart13 : List Int :=
  [38, 37, 36, 35, 33, 32, 31, 30, 30, 29, 28, 27, 26, 25, 24, 24, 23, 22, 22, 21, 20, 20, 19, 18, 18, 17, 17, 16, 16,
   15, 15, 14]

/-- Entries 448 to 479 of `tabSigmoid`. -/
def tabSigmoidPart14 : List Int :=
  [14, 14, 13, 13, 12, 12, 12, 11, 11, 11, 10, 10, 10, 9, 9, 9, 8, 8, 8, 8, 7, 7, 7, 7, 7, 6, 6, 6, 6, 6, 5, 5]

/-- Entries 480 to 511 of `tabSigmoid`. -/
def tabSigmoidPart15 : List Int :=
  [5, 5, 5, 5, 5, 4, 4, 4, 4, 4, 4, 4, 4, 3, 3, 3, 3, 3, 3, 3, 3, 3, 3, 3, 2, 2, 2, 2, 2, 2, 2, 2]

/-- Entries 512 to 512 of `tabSigmoid`. -/
def tabSigmoidPart16 : List Int :=
  [2]

/-- R230 mod 3: round(f(−j/32) × 2^24) for Sigmoid, j = 0 to 512. -/
def tabSigmoid : List Int :=
  tabSigmoidPart0 ++ tabSigmoidPart1 ++ tabSigmoidPart2 ++ tabSigmoidPart3 ++ tabSigmoidPart4 ++ tabSigmoidPart5 ++ tabSigmoidPart6 ++ tabSigmoidPart7 ++ tabSigmoidPart8 ++ tabSigmoidPart9 ++ tabSigmoidPart10 ++ tabSigmoidPart11 ++ tabSigmoidPart12 ++ tabSigmoidPart13 ++ tabSigmoidPart14 ++ tabSigmoidPart15 ++ tabSigmoidPart16

/-- Entries 0 to 31 of `tabTanh`. -/
def tabTanhPart0 : List Int :=
  [0, 524117, 1047213, 1568272, 2086297, 2600313, 3109375, 3612577, 4109053, 4597990, 5078627, 5550257, 6012239,
   6463992, 6905000, 7334811, 7753039, 8159364, 8553528, 8935332, 9304639, 9661368, 10005488, 10337020, 10656031,
   10962629, 11256960, 11539205, 11809576, 12068313, 12315676, 12551949]

/-- Entries 32 to 63 of `tabTanh`. -/
def tabTanhPart1 : List Int :=
  [12777430, 12992430, 13197274, 13392291, 13577819, 13754197, 13921766, 14080867, 14231838, 14375014, 14510725,
   14639296, 14761043, 14876276, 14985298, 15088400, 15185868, 15277975, 15364986, 15447157, 15524733, 15597951,
   15667035, 15732202, 15793661, 15851608, 15906232, 15957713, 16006223, 16051926, 16094975, 16135520]

/-- Entries 64 to 95 of `tabTanh`. -/
def tabTanhPart2 : List Int :=
  [16173699, 16209646, 16243486, 16275339, 16305319, 16333532, 16360079, 16385057, 16408555, 16430661, 16451454,
   16471010, 16489403, 16506700, 16522966, 16538261, 16552641, 16566162, 16578873, 16590824, 16602058, 16612618,
   16622544, 16631875, 16640645, 16648888, 16656635, 16663916, 16670758, 16677189, 16683232, 16688912]

/-- Entries 96 to 127 of `tabTanh`. -/
def tabTanhPart3 : List Int :=
  [16694249, 16699264, 16703976, 16708404, 16712566, 16716475, 16720149, 16723601, 16726845, 16729892, 16732756,
   16735446, 16737974, 16740349, 16742580, 16744677, 16746646, 16748497, 16750235, 16751869, 16753403, 16754845,
   16756200, 16757472, 16758668, 16759791, 16760846, 16761838, 16762769, 16763644, 16764466, 16765238]

/-- Entries 128 to 159 of `tabTanh`. -/
def tabTanhPart4 : List Int :=
  [16765964, 16766645, 16767285, 16767887, 16768452, 16768983, 16769481, 16769950, 16770390, 16770804, 16771192,
   16771557, 16771900, 16772222, 16772524, 16772809, 16773076, 16773326, 16773562, 16773783, 16773991, 16774187,
   16774370, 16774543, 16774705, 16774857, 16775000, 16775134, 16775260, 16775379, 16775490, 16775594]

/-- Entries 160 to 191 of `tabTanh`. -/
def tabTanhPart5 : List Int :=
  [16775693, 16775785, 16775872, 16775953, 16776030, 16776102, 16776169, 16776232, 16776292, 16776348, 16776401,
   16776450, 16776496, 16776540, 16776581, 16776619, 16776656, 16776690, 16776721, 16776751, 16776780, 16776806,
   16776831, 16776854, 16776876, 16776897, 16776916, 16776934, 16776951, 16776967, 16776982, 16776997]

/-- Entries 192 to 223 of `tabTanh`. -/
def tabTanhPart6 : List Int :=
  [16777010, 16777022, 16777034, 16777045, 16777055, 16777065, 16777074, 16777083, 16777091, 16777099, 16777106,
   16777112, 16777119, 16777125, 16777130, 16777135, 16777140, 16777145, 16777149, 16777153, 16777157, 16777161,
   16777164, 16777167, 16777170, 16777173, 16777175, 16777178, 16777180, 16777182, 16777184, 16777186]

/-- Entries 224 to 255 of `tabTanh`. -/
def tabTanhPart7 : List Int :=
  [16777188, 16777190, 16777191, 16777193, 16777194, 16777196, 16777197, 16777198, 16777199, 16777200, 16777201,
   16777202, 16777203, 16777204, 16777204, 16777205, 16777206, 16777206, 16777207, 16777207, 16777208, 16777208,
   16777209, 16777209, 16777210, 16777210, 16777211, 16777211, 16777211, 16777211, 16777212, 16777212]

/-- Entries 256 to 287 of `tabTanh`. -/
def tabTanhPart8 : List Int :=
  [16777212, 16777212, 16777213, 16777213, 16777213, 16777213, 16777213, 16777214, 16777214, 16777214, 16777214,
   16777214, 16777214, 16777214, 16777214, 16777215, 16777215, 16777215, 16777215, 16777215, 16777215, 16777215,
   16777215, 16777215, 16777215, 16777215, 16777215, 16777215, 16777215, 16777215, 16777215, 16777215]

/-- Entries 288 to 319 of `tabTanh`. -/
def tabTanhPart9 : List Int :=
  [16777215, 16777216, 16777216, 16777216, 16777216, 16777216, 16777216, 16777216, 16777216, 16777216, 16777216,
   16777216, 16777216, 16777216, 16777216, 16777216, 16777216, 16777216, 16777216, 16777216, 16777216, 16777216,
   16777216, 16777216, 16777216, 16777216, 16777216, 16777216, 16777216, 16777216, 16777216, 16777216]

/-- Entries 320 to 351 of `tabTanh`. -/
def tabTanhPart10 : List Int :=
  [16777216, 16777216, 16777216, 16777216, 16777216, 16777216, 16777216, 16777216, 16777216, 16777216, 16777216,
   16777216, 16777216, 16777216, 16777216, 16777216, 16777216, 16777216, 16777216, 16777216, 16777216, 16777216,
   16777216, 16777216, 16777216, 16777216, 16777216, 16777216, 16777216, 16777216, 16777216, 16777216]

/-- Entries 352 to 383 of `tabTanh`. -/
def tabTanhPart11 : List Int :=
  [16777216, 16777216, 16777216, 16777216, 16777216, 16777216, 16777216, 16777216, 16777216, 16777216, 16777216,
   16777216, 16777216, 16777216, 16777216, 16777216, 16777216, 16777216, 16777216, 16777216, 16777216, 16777216,
   16777216, 16777216, 16777216, 16777216, 16777216, 16777216, 16777216, 16777216, 16777216, 16777216]

/-- Entries 384 to 415 of `tabTanh`. -/
def tabTanhPart12 : List Int :=
  [16777216, 16777216, 16777216, 16777216, 16777216, 16777216, 16777216, 16777216, 16777216, 16777216, 16777216,
   16777216, 16777216, 16777216, 16777216, 16777216, 16777216, 16777216, 16777216, 16777216, 16777216, 16777216,
   16777216, 16777216, 16777216, 16777216, 16777216, 16777216, 16777216, 16777216, 16777216, 16777216]

/-- Entries 416 to 447 of `tabTanh`. -/
def tabTanhPart13 : List Int :=
  [16777216, 16777216, 16777216, 16777216, 16777216, 16777216, 16777216, 16777216, 16777216, 16777216, 16777216,
   16777216, 16777216, 16777216, 16777216, 16777216, 16777216, 16777216, 16777216, 16777216, 16777216, 16777216,
   16777216, 16777216, 16777216, 16777216, 16777216, 16777216, 16777216, 16777216, 16777216, 16777216]

/-- Entries 448 to 479 of `tabTanh`. -/
def tabTanhPart14 : List Int :=
  [16777216, 16777216, 16777216, 16777216, 16777216, 16777216, 16777216, 16777216, 16777216, 16777216, 16777216,
   16777216, 16777216, 16777216, 16777216, 16777216, 16777216, 16777216, 16777216, 16777216, 16777216, 16777216,
   16777216, 16777216, 16777216, 16777216, 16777216, 16777216, 16777216, 16777216, 16777216, 16777216]

/-- Entries 480 to 511 of `tabTanh`. -/
def tabTanhPart15 : List Int :=
  [16777216, 16777216, 16777216, 16777216, 16777216, 16777216, 16777216, 16777216, 16777216, 16777216, 16777216,
   16777216, 16777216, 16777216, 16777216, 16777216, 16777216, 16777216, 16777216, 16777216, 16777216, 16777216,
   16777216, 16777216, 16777216, 16777216, 16777216, 16777216, 16777216, 16777216, 16777216, 16777216]

/-- Entries 512 to 512 of `tabTanh`. -/
def tabTanhPart16 : List Int :=
  [16777216]

/-- R230 mod 4: round(f(j/32) × 2^24) for tanh, j = 0 to 512. -/
def tabTanh : List Int :=
  tabTanhPart0 ++ tabTanhPart1 ++ tabTanhPart2 ++ tabTanhPart3 ++ tabTanhPart4 ++ tabTanhPart5 ++ tabTanhPart6 ++ tabTanhPart7 ++ tabTanhPart8 ++ tabTanhPart9 ++ tabTanhPart10 ++ tabTanhPart11 ++ tabTanhPart12 ++ tabTanhPart13 ++ tabTanhPart14 ++ tabTanhPart15 ++ tabTanhPart16

/-- Entries 0 to 31 of `tabSoftplus`. -/
def tabSoftplusPart0 : List Int :=
  [11629080, 11368984, 11112983, 10861073, 10613251, 10369508, 10129836, 9894225, 9662660, 9435128, 9211612, 8992093,
   8776552, 8564966, 8357311, 8153562, 7953692, 7757672, 7565472, 7377060, 7192404, 7011468, 6834217, 6660613,
   6490618, 6324194, 6161299, 6001892, 5845930, 5693370, 5544169, 5398280]

/-- Entries 32 to 63 of `tabSoftplus`. -/
def tabSoftplusPart1 : List Int :=
  [5255659, 5116259, 4980034, 4846935, 4716917, 4589929, 4465924, 4344854, 4226669, 4111319, 3998757, 3888933,
   3781797, 3677300, 3575393, 3476027, 3379154, 3284724, 3192690, 3103002, 3015615, 2930479, 2847548, 2766775,
   2688115, 2611522, 2536949, 2464353, 2393690, 2324916, 2257987, 2192862]

/-- Entries 64 to 95 of `tabSoftplus`. -/
def tabSoftplusPart2 : List Int :=
  [2129499, 2067855, 2007892, 1949568, 1892844, 1837682, 1784043, 1731890, 1681187, 1631897, 1583985, 1537416,
   1492157, 1448173, 1405431, 1363901, 1323550, 1284348, 1246264, 1209269, 1173335, 1138432, 1104534, 1071613,
   1039644, 1008599, 978455, 949187, 920770, 893182, 866399, 840399]

/-- Entries 96 to 127 of `tabSoftplus`. -/
def tabSoftplusPart3 : List Int :=
  [815160, 790662, 766884, 743804, 721405, 699666, 678569, 658096, 638228, 618950, 600243, 582092, 564481, 547394,
   530816, 514733, 499129, 483992, 469307, 455062, 441244, 427840, 414838, 402227, 389994, 378130, 366622, 355461,
   344636, 334137, 323956, 314081]

/-- Entries 128 to 159 of `tabSoftplus`. -/
def tabSoftplusPart4 : List Int :=
  [304505, 295219, 286213, 277479, 269010, 260798, 252834, 245112, 237623, 230362, 223322, 216495, 209876, 203458,
   197234, 191201, 185350, 179678, 174179, 168847, 163677, 158665, 153806, 149095, 144527, 140099, 135806, 131644,
   127609, 123697, 119905, 116229]

/-- Entries 160 to 191 of `tabSoftplus`. -/
def tabSoftplusPart5 : List Int :=
  [112665, 109210, 105860, 102613, 99466, 96414, 93456, 90588, 87809, 85114, 82502, 79969, 77515, 75135, 72828, 70592,
   68425, 66324, 64287, 62313, 60399, 58544, 56746, 55003, 53313, 51676, 50088, 48549, 47058, 45612, 44210, 42852]

/-- Entries 192 to 223 of `tabSoftplus`. -/
def tabSoftplusPart6 : List Int :=
  [41535, 40259, 39022, 37822, 36660, 35533, 34441, 33383, 32356, 31362, 30398, 29463, 28558, 27680, 26829, 26004,
   25205, 24430, 23679, 22951, 22245, 21561, 20898, 20255, 19633, 19029, 18444, 17877, 17327, 16794, 16278, 15777]

/-- Entries 224 to 255 of `tabSoftplus`. -/
def tabSoftplusPart7 : List Int :=
  [15292, 14822, 14366, 13924, 13496, 13081, 12678, 12288, 11911, 11544, 11189, 10845, 10511, 10188, 9875, 9571, 9277,
   8991, 8715, 8447, 8187, 7935, 7691, 7454, 7225, 7003, 6787, 6579, 6376, 6180, 5990, 5806]

/-- Entries 256 to 287 of `tabSoftplus`. -/
def tabSoftplusPart8 : List Int :=
  [5627, 5454, 5286, 5124, 4966, 4813, 4665, 4522, 4383, 4248, 4117, 3990, 3868, 3749, 3633, 3522, 3413, 3308, 3207,
   3108, 3012, 2920, 2830, 2743, 2658, 2577, 2497, 2420, 2346, 2274, 2204, 2136]

/-- Entries 288 to 319 of `tabSoftplus`. -/
def tabSoftplusPart9 : List Int :=
  [2070, 2007, 1945, 1885, 1827, 1771, 1716, 1664, 1612, 1563, 1515, 1468, 1423, 1379, 1337, 1296, 1256, 1217, 1180,
   1143, 1108, 1074, 1041, 1009, 978, 948, 919, 890, 863, 837, 811, 786]

/-- Entries 320 to 351 of `tabSoftplus`. -/
def tabSoftplusPart10 : List Int :=
  [762, 738, 716, 694, 672, 651, 631, 612, 593, 575, 557, 540, 523, 507, 492, 477, 462, 448, 434, 421, 408, 395, 383,
   371, 360, 349, 338, 328, 318, 308, 298, 289]

/-- Entries 352 to 383 of `tabSoftplus`. -/
def tabSoftplusPart11 : List Int :=
  [280, 272, 263, 255, 247, 240, 232, 225, 218, 212, 205, 199, 193, 187, 181, 175, 170, 165, 160, 155, 150, 145, 141,
   137, 132, 128, 124, 121, 117, 113, 110, 106]

/-- Entries 384 to 415 of `tabSoftplus`. -/
def tabSoftplusPart12 : List Int :=
  [103, 100, 97, 94, 91, 88, 85, 83, 80, 78, 75, 73, 71, 69, 67, 65, 63, 61, 59, 57, 55, 53, 52, 50, 49, 47, 46, 44,
   43, 42, 40, 39]

/-- Entries 416 to 447 of `tabSoftplus`. -/
def tabSoftplusPart13 : List Int :=
  [38, 37, 36, 35, 33, 32, 31, 30, 30, 29, 28, 27, 26, 25, 24, 24, 23, 22, 22, 21, 20, 20, 19, 18, 18, 17, 17, 16, 16,
   15, 15, 14]

/-- Entries 448 to 479 of `tabSoftplus`. -/
def tabSoftplusPart14 : List Int :=
  [14, 14, 13, 13, 12, 12, 12, 11, 11, 11, 10, 10, 10, 9, 9, 9, 8, 8, 8, 8, 7, 7, 7, 7, 7, 6, 6, 6, 6, 6, 5, 5]

/-- Entries 480 to 511 of `tabSoftplus`. -/
def tabSoftplusPart15 : List Int :=
  [5, 5, 5, 5, 5, 4, 4, 4, 4, 4, 4, 4, 4, 3, 3, 3, 3, 3, 3, 3, 3, 3, 3, 3, 2, 2, 2, 2, 2, 2, 2, 2]

/-- Entries 512 to 512 of `tabSoftplus`. -/
def tabSoftplusPart16 : List Int :=
  [2]

/-- R230 mod 5: round(f(−j/32) × 2^24) for Softplus, j = 0 to 512. -/
def tabSoftplus : List Int :=
  tabSoftplusPart0 ++ tabSoftplusPart1 ++ tabSoftplusPart2 ++ tabSoftplusPart3 ++ tabSoftplusPart4 ++ tabSoftplusPart5 ++ tabSoftplusPart6 ++ tabSoftplusPart7 ++ tabSoftplusPart8 ++ tabSoftplusPart9 ++ tabSoftplusPart10 ++ tabSoftplusPart11 ++ tabSoftplusPart12 ++ tabSoftplusPart13 ++ tabSoftplusPart14 ++ tabSoftplusPart15 ++ tabSoftplusPart16

/-- Entries 0 to 63 of the first quarter of R179's table T, T[0] to T[256]. -/
def sinePart0 : List Nat :=
  [0, 13, 25, 38, 50, 63, 75, 88, 100, 113, 126, 138, 151, 163, 176, 188, 201, 213, 226, 238, 251, 263, 275,
   288, 300, 313, 325, 338, 350, 362, 375, 387, 399, 412, 424, 436, 449, 461, 473, 485, 497, 510, 522, 534,
   546, 558, 570, 582, 594, 606, 618, 630, 642, 654, 666, 678, 690, 701, 713, 725, 737, 748, 760, 772]

/-- Entries 64 to 127 of the first quarter of R179's table T, T[0] to T[256]. -/
def sinePart1 : List Nat :=
  [783, 795, 807, 818, 830, 841, 852, 864, 875, 887, 898, 909, 920, 932, 943, 954, 965, 976, 987, 998, 1009,
   1020, 1031, 1042, 1052, 1063, 1074, 1085, 1095, 1106, 1116, 1127, 1137, 1148, 1158, 1168, 1179, 1189, 1199,
   1209, 1219, 1229, 1239, 1249, 1259, 1269, 1279, 1289, 1299, 1308, 1318, 1328, 1337, 1347, 1356, 1365, 1375,
   1384, 1393, 1402, 1411, 1421, 1430, 1439]

/-- Entries 128 to 191 of the first quarter of R179's table T, T[0] to T[256]. -/
def sinePart2 : List Nat :=
  [1447, 1456, 1465, 1474, 1483, 1491, 1500, 1508, 1517, 1525, 1533, 1542, 1550, 1558, 1566, 1574, 1582, 1590,
   1598, 1606, 1614, 1621, 1629, 1637, 1644, 1652, 1659, 1666, 1674, 1681, 1688, 1695, 1702, 1709, 1716, 1723,
   1729, 1736, 1743, 1749, 1756, 1762, 1769, 1775, 1781, 1787, 1793, 1799, 1805, 1811, 1817, 1823, 1828, 1834,
   1840, 1845, 1850, 1856, 1861, 1866, 1871, 1876, 1881, 1886]

/-- Entries 192 to 255 of the first quarter of R179's table T, T[0] to T[256]. -/
def sinePart3 : List Nat :=
  [1891, 1896, 1901, 1905, 1910, 1914, 1919, 1923, 1927, 1932, 1936, 1940, 1944, 1948, 1951, 1955, 1959, 1962,
   1966, 1969, 1973, 1976, 1979, 1983, 1986, 1989, 1992, 1994, 1997, 2000, 2003, 2005, 2008, 2010, 2012, 2015,
   2017, 2019, 2021, 2023, 2025, 2027, 2028, 2030, 2032, 2033, 2035, 2036, 2037, 2038, 2039, 2040, 2041, 2042,
   2043, 2044, 2045, 2045, 2046, 2046, 2046, 2047, 2047, 2047]

/-- Entries 256 to 256 of the first quarter of R179's table T, T[0] to T[256]. -/
def sinePart4 : List Nat :=
  [2047]

/-- The first quarter of R179's table, round(2,047 × sin(2πk / 1,024)) for k = 0 to 256; the rest follows by symmetry. -/
def sineQuarter : List Nat := sinePart0 ++ sinePart1 ++ sinePart2 ++ sinePart3 ++ sinePart4

end Sys2Proof.Machine
end

