-- ==== Sys2Proof/Machine/Num.lean ====
section
/-! DEFINITION. The element formats and the arithmetic profile: exact values, roundings, encodings (R199, R215, R216), the element operations and table functions of the vector engine (R224 to R230). -/

namespace Sys2Proof.Machine

/-- A value of an element: NaN, an infinity, or a sign and an exact ratio. -/
inductive Val where
  | nan
  | inf (neg : Bool)
  | fin (neg : Bool) (n d : Nat)
deriving DecidableEq, Repr

/-- How a conversion rounds (R75 CVT, R215): nearest ties to even, toward −∞, toward 0, or by a 24-bit draw. -/
inductive Rnd where
  | nearest
  | down
  | zero
  | stoch (draw : Nat)
deriving DecidableEq, Repr

/-- The exact value of an integer. -/
def ofInt (x : Int) : Val := .fin (decide (x < 0)) x.natAbs 1

/-- The exact value of a signed ratio whose zero is +0. -/
def ofRatio (n : Int) (d : Nat) : Val := .fin (decide (n < 0)) n.natAbs d

/-- The ratio n/d times 2^k. -/
def scale2 (n d : Nat) (k : Int) : Nat × Nat :=
  if 0 ≤ k then (n * 2 ^ k.toNat, d) else (n, d * 2 ^ (-k).toNat)

/-- A value times 2^k. -/
def Val.scale (v : Val) (k : Int) : Val :=
  match v with
  | .fin s n d => .fin s (scale2 n d k).1 (scale2 n d k).2
  | v => v

/-- The magnitude n/d rounded to a whole number, for a value of the given sign. A draw selects the upper neighbour of the
signed value when it is below ⌊(y − lo)/(hi − lo) × 2^24⌋ (R215). -/
def roundMag (r : Rnd) (neg : Bool) (n d : Nat) : Nat :=
  let q := n / d
  let m := n % d
  if m = 0 then q
  else match r with
    | .nearest => if d < 2 * m || (2 * m = d && q % 2 = 1) then q + 1 else q
    | .down => if neg then q + 1 else q
    | .zero => q
    | .stoch draw =>
      if neg then (if draw < (d - m) * 2 ^ 24 / d then q else q + 1)
      else (if draw < m * 2 ^ 24 / d then q + 1 else q)

/-- A signed ratio rounded to an integer. -/
def roundInt (r : Rnd) (neg : Bool) (n d : Nat) : Int :=
  if neg then -(roundMag r neg n d : Int) else roundMag r neg n d

/-- A binary floating format (R199): width, precision with the hidden bit, exponent of its smallest step, largest finite
magnitude code, canonical NaN, infinity if it has one. -/
structure FloatFmt where
  width : Nat
  p : Nat
  kmin : Int
  maxBits : Nat
  nan : Nat
  inf : Option Nat
deriving DecidableEq, Repr

def fp32 : FloatFmt := { width := 32, p := 24, kmin := -149, maxBits := 0x7F7FFFFF, nan := 0x7FC00000, inf := some 0x7F800000 }
def bf16 : FloatFmt := { width := 16, p := 8, kmin := -133, maxBits := 0x7F7F, nan := 0x7FC0, inf := some 0x7F80 }
def e4m3 : FloatFmt := { width := 8, p := 4, kmin := -9, maxBits := 0x7E, nan := 0x7F, inf := none }
def e5m2 : FloatFmt := { width := 8, p := 3, kmin := -16, maxBits := 0x7B, nan := 0x7E, inf := some 0x7C }

/-- The floating format of a format code, if it is one. -/
def fmtFloat : Fmt → Option FloatFmt
  | .fp32 => some fp32
  | .bf16 => some bf16
  | .e4m3 => some e4m3
  | .e5m2 => some e5m2
  | _ => none

/-- The value of a floating encoding. -/
def decodeFloat (f : FloatFmt) (x : Nat) : Val :=
  let neg := bitOf x (f.width - 1)
  let m := x % 2 ^ (f.width - 1)
  if f.maxBits < m then (if f.inf = some m then .inf neg else .nan)
  else
    let e := m / 2 ^ (f.p - 1)
    let frac := m % 2 ^ (f.p - 1)
    let (n, k) : Nat × Int := if e = 0 then (frac, f.kmin) else (frac + 2 ^ (f.p - 1), f.kmin + (e : Int) - 1)
    .fin neg (scale2 n 1 k).1 (scale2 n 1 k).2

/-- The exponent of the leading bit of n/d. -/
def leadExp (n d : Nat) : Int :=
  let l : Int := (Nat.log2 n : Int) - Nat.log2 d
  let (a, b) := scale2 n d (-l)
  if b ≤ a then l else l - 1

/-- The magnitude code of n/d rounded on the grid of a format, extended past its range: a code above `maxBits` lies beyond
the largest finite value. -/
def roundCode (f : FloatFmt) (r : Rnd) (neg : Bool) (n d : Nat) : Nat :=
  if n = 0 then 0
  else
    let k : Int := max (leadExp n d - (f.p - 1)) f.kmin
    let (a, b) := scale2 n d (-k)
    (k - f.kmin).toNat * 2 ^ (f.p - 1) + roundMag r neg a b

/-- A magnitude code with its sign. -/
def withSign (f : FloatFmt) (neg : Bool) (m : Nat) : Nat := m + (if neg then 2 ^ (f.width - 1) else 0)

/-- One rounding to FP32 or BF16 under IEEE 754: the encoding, and whether an infinity came of a finite value (R224, R226,
R215). -/
def toFloat (f : FloatFmt) (r : Rnd) (v : Val) : Nat × Bool :=
  match v with
  | .nan => (f.nan, false)
  | .inf s => (withSign f s (f.inf.getD f.maxBits), false)
  | .fin s n d =>
    let m := roundCode f r s n d
    if f.maxBits < m then
      match r with
      | .zero => (withSign f s f.maxBits, false)
      | .down => if s then (withSign f s (f.inf.getD f.maxBits), true) else (f.maxBits, false)
      | _ => (withSign f s (f.inf.getD f.maxBits), true)
    else (withSign f s m, false)

/-- One rounding with the magnitude held at the largest finite value, and whether it was held (R194, R204, R226). -/
def toFloatSat (f : FloatFmt) (r : Rnd) (v : Val) : Nat × Bool :=
  match v with
  | .nan => (f.nan, false)
  | .inf s => (withSign f s f.maxBits, true)
  | .fin s n d =>
    let m := roundCode f r s n d
    if f.maxBits < m then (withSign f s f.maxBits, true) else (withSign f s m, false)

/-- Bits of one element of a format in staging: INT4 has 4 (R74). -/
def fmtBits : Fmt → Nat
  | .fp32 => 32
  | .bf16 | .int16 => 16
  | .e4m3 | .e5m2 | .int8 | .uint8 => 8
  | .int4 => 4
  | .int48 => 64
  | .record => 128

/-- The exact value of a stored element (R199); UINT8 and the integer formats are their codes. -/
def fmtValue (f : Fmt) (x : Nat) : Val :=
  match f with
  | .fp32 => decodeFloat fp32 x
  | .bf16 => decodeFloat bf16 x
  | .e4m3 => decodeFloat e4m3 x
  | .e5m2 => decodeFloat e5m2 x
  | .int8 => ofInt (sext 8 x)
  | .uint8 => ofInt (x : Int)
  | .int4 => ofInt (sext 4 x)
  | .int16 => ofInt (sext 16 x)
  | .int48 => ofInt (sext 48 x)
  | .record => ofInt (sext 128 x)

/-- Whether a value is a NaN. -/
def Val.isNan : Val → Bool
  | .nan => true
  | _ => false

/-- Whether a value is finite. -/
def Val.isFin : Val → Bool
  | .fin .. => true
  | _ => false

/-- The sign of a value: true for negative. -/
def Val.neg : Val → Bool
  | .nan => false
  | .inf s => s
  | .fin s _ _ => s

/-- The signed numerator of a finite value. -/
def Val.num : Val → Int
  | .fin s n _ => if s then -(n : Int) else n
  | _ => 0

/-- The denominator of a finite value. -/
def Val.den : Val → Nat
  | .fin _ _ d => d
  | _ => 1

/-- The value with the opposite sign. -/
def Val.negate : Val → Val
  | .nan => .nan
  | .inf s => .inf (!s)
  | .fin s n d => .fin (!s) n d

/-- The exact sum (R224): a zero sum of operands of opposite sign is +0, ∞ − ∞ is a NaN. -/
def Val.add (a b : Val) : Val :=
  match a, b with
  | .nan, _ | _, .nan => .nan
  | .inf s, .inf t => if s = t then .inf s else .nan
  | .inf s, _ => .inf s
  | _, .inf t => .inf t
  | .fin s n d, .fin t m e =>
    let x : Int := (if s then -(n * e : Int) else (n * e : Int)) + (if t then -(m * d : Int) else (m * d : Int))
    .fin (if x = 0 then s && t else decide (x < 0)) x.natAbs (d * e)

/-- The exact product (R224): 0 × ∞ is a NaN. -/
def Val.mul (a b : Val) : Val :=
  match a, b with
  | .nan, _ | _, .nan => .nan
  | .inf s, .inf t => .inf (s != t)
  | .inf s, .fin t m _ => if m = 0 then .nan else .inf (s != t)
  | .fin s n _, .inf t => if n = 0 then .nan else .inf (s != t)
  | .fin s n d, .fin t m e => .fin (s != t) (n * m) (d * e)

/-- The order of R225: −∞, the finite values with −0 below +0, +∞. Whether `a` is at or below `b`; NaNs do not enter. -/
def Val.le (a b : Val) : Bool :=
  match a, b with
  | .inf true, _ => true
  | _, .inf false => true
  | .inf false, _ => false
  | _, .inf true => false
  | .fin s n d, .fin t m e =>
    let x : Int := if s then -(n * e : Int) else (n * e : Int)
    let y : Int := if t then -(m * d : Int) else (m * d : Int)
    if x = y then s || !t else decide (x < y)
  | _, _ => false

/-- What one element or row of an operation counts (R192, R198, R220, R238). -/
structure Cnt where
  inv : Nat := 0
  ovf : Nat := 0
  empty : Nat := 0
  outlier : Nat := 0
  range : Nat := 0
  overrun : Nat := 0
  qinv : Nat := 0
  flat : Nat := 0
  dconv : Nat := 0
  dadd : Nat := 0
  dinv : Nat := 0
deriving DecidableEq, Repr

/-- Counts added. -/
def Cnt.add (a b : Cnt) : Cnt :=
  { inv := a.inv + b.inv, ovf := a.ovf + b.ovf, empty := a.empty + b.empty, outlier := a.outlier + b.outlier
    range := a.range + b.range, overrun := a.overrun + b.overrun, qinv := a.qinv + b.qinv, flat := a.flat + b.flat
    dconv := a.dconv + b.dconv, dadd := a.dadd + b.dadd, dinv := a.dinv + b.dinv }

/-- A floating result written under R224: rounded once to the output; a NaN from operands that were not NaN counts as
invalid, an infinity from finite operands as overflow. -/
def arith (f : FloatFmt) (v : Val) (anyNan : Bool) : Nat × Cnt :=
  let (x, o) := toFloat f .nearest v
  (x, { inv := flag (v.isNan && !anyNan), ovf := flag o })

/-- The draw of element `i` of tensor `t` (R216). -/
def drawOf (seed gen : BitVec 64) (t : BitVec 16) (i : BitVec 48) : Nat :=
  let c : BitVec 64 := gen + (t.setWidth 64 <<< 48) + i.setWidth 64
  let z : BitVec 64 := seed ^^^ c
  let z := (z ^^^ (z >>> 30)) * 0xBF58476D1CE4E5B9#64
  let z := (z ^^^ (z >>> 27)) * 0x94D049BB133111EB#64
  let z := z ^^^ (z >>> 31)
  bitsOf z.toNat 63 40

/-! ## Table functions -/

/-- ⌊x·2^k⌋ for a finite value. -/
def floorScaled (v : Val) (k : Nat) : Int := floorDiv (v.num * 2 ^ k) v.den

/-- 2^x by the steps of R227, as an exact value before its rounding; and whether it overflowed. -/
def exp2Val (v : Val) : Val × Bool :=
  match v with
  | .nan => (.nan, false)
  | .inf false => (.inf false, false)
  | .inf true => (.fin false 0 1, false)
  | .fin .. =>
    if v.num < -160 * (v.den : Int) then (.fin false 0 1, false)
    else if 128 * (v.den : Int) ≤ v.num then (.inf false, true)
    else
      let n := floorScaled v 0
      let f := (floorScaled v 24 - n * 2 ^ 24).toNat
      let k := f >>> 18
      let r := f % 2 ^ 18
      let w := r * 2977044472 / 2 ^ 24
      let p := 2 ^ 32 + w + w ^ 2 / 2 ^ 33 + w ^ 3 / (3 * 2 ^ 65)
      ((Val.fin false ((tabTE[k]?.getD 0) * p) 1).scale (n - 63), false)

/-- log2 of a positive finite value by the steps of R228. -/
def log2Val (v : Val) : Val :=
  let n := v.num.toNat
  let d : Nat := v.den
  let e := leadExp n d
  let (a, b) := scale2 n d (23 - e)
  let mt : Nat := a / b
  let k := (mt >>> 16) - 128
  let r : Nat := mt % 2 ^ 16
  let ik := (2 * 2 ^ 39 + (128 + k)) / (2 * (128 + k))
  let q : Nat := r * ik / 2 ^ 23
  let l : Int := Int.ofNat q - Int.ofNat (q ^ 2 / 2 ^ 33) + Int.ofNat (q ^ 3 / (3 * 2 ^ 64)) - Int.ofNat (q ^ 4 / 2 ^ 98)
  let z : Int := e * 2 ^ 32 + Int.ofNat (tabT2[k]?.getD 0) + floorDiv (l * 6196328019) (2 ^ 32)
  ofRatio z (2 ^ 32)

/-- The whole square root of `n`, its bits found from bit `i` down. -/
def isqrtFrom (n : Nat) : Nat → Nat → Nat
  | 0, r => if (r + 1) * (r + 1) ≤ n then r + 1 else r
  | i + 1, r => isqrtFrom n i (if (r + 2 ^ (i + 1)) * (r + 2 ^ (i + 1)) ≤ n then r + 2 ^ (i + 1) else r)

/-- √(n/d) as a ratio that rounds as the exact root does: 100 bits, with a sticky bit below. -/
def sqrtRatio (n d : Nat) : Nat × Nat :=
  let m := n * 2 ^ 200 / d
  let q := isqrtFrom m (Nat.log2 m / 2 + 1) 0
  let exact := q * q * d = n * 2 ^ 200
  (2 * q + (if exact then 0 else 1), 2 ^ 101)

/-- 1/x (R229): the value and whether it counts as overflow. -/
def rcpVal : Val → Val × Bool
  | .nan => (.nan, false)
  | .inf s => (.fin s 0 1, false)
  | .fin s n d => if n = 0 then (.inf s, true) else (.fin s d n, false)

/-- 1/√x (R229): the value, and its counts of invalid and overflow. -/
def rsqrtVal : Val → Val × Cnt
  | .nan => (.nan, {})
  | .inf false => (.fin false 0 1, {})
  | .inf true => (.nan, { inv := 1 })
  | .fin s n d =>
    if n = 0 then (.inf s, { ovf := 1 })
    else if s then (.nan, { inv := 1 })
    else (.fin false (sqrtRatio d n).1 (sqrtRatio d n).2, {})

/-- Entry k of an activation table, k from 0 to 1,024 (R230). -/
def actEntry (table k : Nat) : Int :=
  let at_ (l : List Int) (i : Nat) : Int := l[i]?.getD 0
  match table with
  | 1 => if k ≤ 512 then at_ tabGelu (512 - k) else ((k - 512 : Nat) : Int) * 2 ^ 19 + at_ tabGelu (k - 512)
  | 2 => if k ≤ 512 then at_ tabSilu (512 - k) else ((k - 512 : Nat) : Int) * 2 ^ 19 + at_ tabSilu (k - 512)
  | 3 => if k ≤ 512 then at_ tabSigmoid (512 - k) else 2 ^ 24 - at_ tabSigmoid (k - 512)
  | 4 => if 512 ≤ k then at_ tabTanh (k - 512) else -at_ tabTanh (512 - k)
  | 5 => if k ≤ 512 then at_ tabSoftplus (512 - k) else ((k - 512 : Nat) : Int) * 2 ^ 19 + at_ tabSoftplus (k - 512)
  | _ => 0

/-- The activation of a value (R230). -/
def actVal (table : Nat) (v : Val) : Val :=
  match v with
  | .nan => .nan
  | _ =>
    if table = 0 then (if v.neg then .fin false 0 1 else v)
    else
      let above := Val.le (.fin false 16 1) v
      let below := !(Val.le (.fin true 16 1) v)
      if above then (if table = 3 || table = 4 then .fin false 1 1 else v)
      else if below then (if table = 4 then .fin true 1 1 else .fin false 0 1)
      else
        let q := (floorScaled v 21 + 16 * 2 ^ 21).toNat
        let k := q >>> 16
        let w : Nat := q % 2 ^ 16
        let y := actEntry table k + floorDiv ((actEntry table (k + 1) - actEntry table k) * Int.ofNat w) (2 ^ 16)
        ofRatio y (2 ^ 24)

end Sys2Proof.Machine
end

