-- ==== Sys2Proof/WellFormed.lean ====
section
/-! DEFINITION. The operand forms of the stream instructions that a loaded image can hold (R50, R61, R66, R70, R75, R77, R79, R222). A form that fails is refused at load, so no stream issues it. -/

namespace Sys2Proof

/-- The code of a format (R74). -/
def Fmt.code : Fmt → Nat
  | .fp32 => 0 | .bf16 => 1 | .e4m3 => 2 | .e5m2 => 3 | .int8 => 4 | .uint8 => 5 | .int4 => 6 | .int16 => 7
  | .int48 => 8 | .record => 9

/-- Whether a source is core staging, an accumulator tile, or none (R74). -/
def Src.isStaging : Src → Bool
  | .staging _ => true
  | _ => false
def Src.isAcc : Src → Bool
  | .acc _ _ => true
  | _ => false
def Src.isNone : Src → Bool
  | .none => true
  | _ => false

/-- The operations of R75 by their op codes. -/
def opTwoSource : List Nat := [0x00, 0x01, 0x02, 0x03, 0x04, 0x07, 0x08, 0x0B, 0x13]
def opRow : List Nat := [0x0C, 0x12, 0x13, 0x14]
def opMod : List Nat := [0x05, 0x09, 0x0A, 0x0C, 0x11, 0x12, 0x13, 0x14]

/-- The row length of a row operation (R75). -/
def VecOp.row (op : VecOp) : Nat := 32 * (op.mode.toNat + 1)

/-- Whether a format pair is in the table of R222. -/
def vecFormats (o : Nat) (i f : Nat) : Bool :=
  if o ≤ 0x04 then i ≤ 1 && f ≤ 1
  else if o = 0x05 then [0, 1, 2, 3, 4, 6, 7, 8].contains i && [0, 1, 2, 3, 4, 6, 7].contains f && i != f
  else if o = 0x06 then i ≤ 1 && 2 ≤ f && f ≤ 6
  else if o = 0x07 then 2 ≤ i && i ≤ 6 && f ≤ 1
  else if o = 0x08 then [4, 7, 8].contains i && 4 ≤ f && f ≤ 6
  else if o = 0x09 then i ≤ 8 && f == 9
  else if o = 0x0A then i == 9 && f ≤ 3
  else if o ≤ 0x0C then i == 9 && f == 9
  else if o = 0x14 then i ≤ 1 && f == i
  else if o ≤ 0x14 then i ≤ 1 && f ≤ 1
  else false

/-- Where the scale section of a block-quantised source lies (R200, R222): its code bytes. -/
def VecOp.codeBytes (op : VecOp) : Nat :=
  if op.fmtIn = .int4 then op.length.toNat / 2 else op.length.toNat

/-- The legal forms of a VEC word (R75, R77, R200, R222). -/
def VecOp.legal (op : VecOp) (o : Nat) : Bool :=
  let i := op.fmtIn.code
  let section_ := o == 0x09 && op.srcB.isStaging
  vecFormats o i op.fmtOut.code
  && !op.srcA.isNone
  && (!op.srcA.isAcc || ((o == 0x05 || o == 0x08 || o == 0x09) && i == 8))
  && (if opTwoSource.contains o then op.srcB.isStaging
      else if o = 0x09 then !op.srcB.isAcc else op.srcB.isNone)
  && (opMod.contains o || op.mode == 0)
  && (o != 0x05 || op.mode.toNat ≤ 2)
  && (o != 0x11 || op.mode.toNat ≤ 5)
  && (!op.sr || ((o == 0x05 && op.mode == 0) || o == 0x06 || o == 0x07 || o == 0x08 || o == 0x0A))
  && (!op.release || op.srcA.isAcc)
  && (!opRow.contains o || op.length.toNat % op.row == 0)
  && (!(o == 0x06 || o == 0x07 || o == 0x08 || section_) || op.length.toNat % 32 == 0)
  && (!section_ || (2 ≤ i && i ≤ 6 && op.srcA.isStaging
      && (match op.srcA, op.srcB with
          | .staging a, .staging b => 16 * a.toNat + op.codeBytes == 16 * b.toNat
          | _, _ => false)))

/-- ARR.TILE field ranges (R61): rows at most 32, or 16 with INT4 weights; a zero point only with UINT8 inputs. -/
def TileOp.legal (op : TileOp) : Bool :=
  op.rows ≤ (if op.wInt4 then 16 else 32) && (op.inFmt == .uint8 || op.zeroPoint == 0)

/-- OPT.TILE field ranges (R66, R67): rows, blocks, count, the plot run within 127, ports when work is named. -/
def OptOp.legal (op : OptOp) : Bool :=
  op.rows ≤ 30 && op.kblk ≤ 16 && op.count ≤ 128
  && (op.count == 0 || op.first.val + (op.count - 1) * (if op.even then 2 else 1) ≤ 127)
  && ((op.count == 0 || op.rows == 0 || op.kblk == 0) || (op.rdPorts != 0 && op.wrPorts != 0))

/-- OPT.DUMMY field ranges (R69). -/
def dummyLegal (first : Fin 128) (count : Nat) (even : Bool) : Bool :=
  count ≤ 128 && (count == 0 || first.val + (count - 1) * (if even then 2 else 1) ≤ 127)

/-- STG port and address fields (R70): H2R writes ports 0 and 1 only. -/
def HbmMove.legal (op : HbmMove) (out : Bool) : Bool := out || op.rPort.val ≤ 1

/-- The copies of R70: R2C, C2R, C2C, R2R by their op codes 2 to 5. -/
def CopyMove.legal (op : CopyMove) (o : Nat) : Bool :=
  let core (a : BitVec 20) : Bool := a.toNat < 65536
  if o = 2 then !op.cPort && core op.addrB
  else if o = 3 then op.rPort.val ≤ 1 && core op.addrB
  else if o = 4 then op.rPort.val == 0 && core op.addrA && core op.addrB
  else true

/-- LRECV writes ports 0 and 1 only (R79). -/
def LinkOp.legal (op : LinkOp) (send : Bool) : Bool := send || op.port.val ≤ 1

/-- The placement of operations (R51): a core stream or the region sequencer's. -/
def Site.onCore (st : Site) : Bool := st.core.isSome
def Site.onSeq (st : Site) : Bool := st.core.isNone

end Sys2Proof
end

