-- ==== Sys2Proof/Machine/Operands.lean ====
section
/-! DEFINITION. Operand forms: elements in staging and accumulator tiles, packing of results, the chunk pipeline that applies the visibility rule of R54 inside one operation, staging ranges, occurrences of slots. -/

namespace Sys2Proof.Machine

/-- The byte address of core staging address `unit` of a physical core. -/
def coreByte (core unit : Nat) : Nat := core * 2 ^ 20 + 16 * unit

/-- The byte address of region staging address `unit` of a physical region. -/
def regionByte (g unit : Nat) : Nat := g * 2 ^ 24 + 16 * unit

/-- The entry of an accumulator tile (R184), by the array whose periphery holds it. -/
def accKey (peri : Nat) (tile : Bool) (e : Nat) : Nat := peri * 4096 + (if tile then 2048 else 0) + e

/-- The key of an output tile. -/
def tileKey (peri : Nat) (tile : Bool) : Nat := peri * 2 + flag tile

/-- The signed value of an accumulator entry. -/
def Chip.accOf (c : Chip) (peri : Nat) (tile : Bool) (e : Nat) : Int := (look 0 c.accs (accKey peri tile e)).toInt

/-- Element `i` of a format stored from byte address `base` (R199): INT4 elements are two per byte, the lower in bits [3:0]. -/
def readElem (m : Mem) (base : Nat) (f : Fmt) (i : Nat) : Nat :=
  if f = .int4 then bitsOf (getByte m (base + i / 2)).toNat (4 * (i % 2) + 3) (4 * (i % 2))
  else readLE m (base + i * (fmtBits f / 8)) (fmtBits f / 8)

/-- One element written; an INT4 element changes its half of the byte. -/
def writeElem (m : Mem) (base : Nat) (f : Fmt) (i raw : Nat) : Mem :=
  if f = .int4 then
    let old := (getByte m (base + i / 2)).toNat
    let new := if i % 2 = 0 then old / 16 * 16 + raw % 16 else old % 16 + (raw % 16) * 16
    setByte m (base + i / 2) (BitVec.ofNat 8 new)
  else writeBytes m (base + i * (fmtBits f / 8)) (leBytes (fmtBits f / 8) raw)

/-- Results waiting to be written: elements from index `first` of the destination. -/
structure Pend where
  first : Nat
  raws : List Nat
deriving DecidableEq, Repr

/-- Waiting results written. -/
def Pend.apply (p : Pend) (base : Nat) (f : Fmt) (m : Mem) : Mem :=
  (p.raws.foldl (fun (acc : Mem × Nat) r => (writeElem acc.1 base f acc.2 r, acc.2 + 1)) (m, p.first)).1

/-- The chunks of one operation in turn (R54, R76): chunk k reads what chunks before k − λ have written, and its results
wait λ ticks. `σ` is what the operation carries from chunk to chunk. -/
def runPipe {σ : Type} (lat : Nat) (base : Nat) (f : Fmt) (chunk : Mem → σ → Nat → Pend × σ) :
    Nat → Nat → Mem → List Pend → σ → Mem × σ
  | 0, _, m, pend, st => (pend.foldl (fun m p => p.apply base f m) m, st)
  | n + 1, k, m, pend, st =>
    let ready := decide (lat + 1 ≤ pend.length)
    let m := if ready then (match pend with | p :: _ => p.apply base f m | [] => m) else m
    let pend := if ready then pend.drop 1 else pend
    let (w, st) := chunk m st k
    runPipe lat base f chunk n (k + 1) m (pend ++ [w]) st

/-- Bytes moved in chunks of 256 from one place to another of one memory, chunk k readable `lat` ticks after its write
(R54, R73). -/
def moveChunks (lat src dst : Nat) : Nat → Nat → Mem → List (Nat × List Byte) → Mem
  | 0, _, m, pend => pend.foldl (fun m p => writeBytes m p.1 p.2) m
  | n + 1, left, m, pend =>
    let ready := decide (lat + 1 ≤ pend.length)
    let m := if ready then (match pend with | p :: _ => writeBytes m p.1 p.2 | [] => m) else m
    let pend := if ready then pend.drop 1 else pend
    let b := min 256 left
    moveChunks lat (src + 256) (dst + 256) n (left - b) m (pend ++ [(dst, readBytes m src b)])

/-- Whether a byte range stays within core staging. -/
def inCore (unit bytes : Nat) : Bool := decide (16 * unit + bytes ≤ 2 ^ 20)

/-- Whether a byte range stays within region staging. -/
def inRegionStg (unit bytes : Nat) : Bool := decide (16 * unit + bytes ≤ 2 ^ 24)

/-- Whether a job's image is of express mode 1: it addresses the express area of region staging from 0 (R246). -/
def Chip.isExpress (c : Chip) (j : Job) : Bool :=
  match c.imageOf j with
  | some i => i.express == 1
  | none => false

/-- The byte address of a job's region staging address `unit` (R246). -/
def Chip.regionAt (c : Chip) (j : Job) (g unit : Nat) : Nat := regionByte g (unit + if c.isExpress j then 0xE0000 else 0)

/-- Whether a byte range stays within the region staging that the issuing job may address. -/
def Chip.fitsRegion (c : Chip) (st : Site) (unit bytes : Nat) : Bool :=
  match c.job? st.job with
  | some j => decide (16 * unit + bytes ≤ if c.isExpress j then 2 ^ 21 else 2 ^ 24)
  | none => inRegionStg unit bytes

/-- The bytes of `n` elements of a format. -/
def fmtSpan (f : Fmt) (n : Nat) : Nat := ceilDiv (n * fmtBits f) 8

/-- The occurrences of a slot entry that a move takes (R71, R81): the start ticks, in body ticks, from the first at or
after `from_`, until the bytes are moved; each carries at most the entry's bytes. -/
def occurrences (start per : Nat) (bytes from_ : Nat) : List (Nat × Nat) :=
  if per = 0 then []
  else
    let first := if from_ ≤ start then 0 else ceilDiv (from_ - start) 4096
    (List.range (ceilDiv bytes per)).map (fun k => (start + 4096 * (first + k), min per (bytes - k * per)))

/-! ## Where a job stands in its image -/

/-- A job stroke's place: phase, repetition, piece in the body, stroke in the body (R27). -/
structure Pos where
  phase : Nat
  rep : Nat
  piece : Nat
  bodyStroke : Nat
deriving DecidableEq, Repr

/-- The strokes of a phase over its repetitions. -/
def phaseStrokes (L : Nat) (p : PhaseEntry) : Nat := p.bodyPieces * L * p.reps

/-- The place of a job stroke from a phase on; none past the last stroke. -/
def locateFrom (L : Nat) : List PhaseEntry → Nat → Nat → Option Pos
  | [], _, _ => none
  | p :: ps, k, stroke =>
    if stroke < phaseStrokes L p then
      let body := p.bodyPieces * L
      some { phase := k, rep := stroke / body, piece := stroke % body / L, bodyStroke := stroke % body }
    else locateFrom L ps (k + 1) (stroke - phaseStrokes L p)

/-- The place of a job stroke in an image. -/
def Image.locate (i : Image) (stroke : Nat) : Option Pos := locateFrom (max 1 i.L) i.phases 0 stroke

/-- The strokes and the pieces of a whole job (R27). -/
def Image.strokes (i : Image) : Nat := i.phases.foldl (fun n p => n + phaseStrokes (max 1 i.L) p) 0
def Image.pieces (i : Image) : Nat := i.phases.foldl (fun n p => n + p.bodyPieces * p.reps) 0

/-- The phase of a piece. -/
def Image.phaseOf (i : Image) (piece : Nat) : Nat :=
  match i.locate (piece * max 1 i.L) with
  | some p => p.phase
  | none => i.phases.length

/-- The place a job has reached. -/
def Chip.pos (c : Chip) (j : Job) : Option Pos := (c.imageOf j).bind (fun i => i.locate j.stroke)

/-- The unit code of an instruction (R50). -/
def StreamOp.unit : StreamOp → Nat
  | .tile _ | .drain _ => 1
  | .opt _ | .dummy .. => 2
  | .h2r _ | .r2h _ | .r2c _ | .c2r _ | .c2c _ | .r2r _ | .stride .. => 3
  | .vec .. | .seed .. => 4
  | .xchCore _ | .xchRegion _ | .lsend _ | .lrecv _ => 5
  | _ => 0

/-- The index of the first word of a unit that issues at a tick of a stream (R52). -/
def issueIndexFrom (tick unit : Nat) : List IWord → Nat → Nat → Option Nat
  | [], _, _ => none
  | w :: ws, k, t =>
    if t + w.delta = tick && w.op.unit = unit then some k else issueIndexFrom tick unit ws (k + 1) (t + w.delta)

/-- The streams of an image, core and sequencer. -/
def Image.streams (i : Image) : List Stream := i.coreStreams ++ i.seqStreams

/-- The stream index of the word that issues at a site (R380 code 0x0109); 0 where the image holds none. -/
def Chip.issueIndex (c : Chip) (j : Job) (st : Site) (unit : Nat) : Nat :=
  match c.imageOf j, c.pos j with
  | some i, some p =>
    match i.streams.find? (fun s => s.phase = p.phase && s.region = st.region.val && s.core = st.core.map (·.val)) with
    | some s => (issueIndexFrom st.tick unit s.words 0 0).getD 0
    | none => 0
  | _, _ => 0

end Sys2Proof.Machine
end

