-- ==== Sys2Proof/Machine/Quant.lean ====
section
/-! DEFINITION. Block-quantised tensors and the datum: QUANT, DEQ, REQ (R200 to R210), DATUM, UNDATUM and the record sums (R190 to R194, R212). -/

namespace Sys2Proof.Machine

/-- A magnitude: a ratio, or none for an infinity. -/
abbrev Mag := Option (Nat × Nat)

/-- The magnitude of a value; a NaN has none and is not asked. -/
def magOf : Val → Mag
  | .fin _ n d => some (n, d)
  | _ => none

/-- The order of magnitudes, infinities largest. -/
def magLe : Mag → Mag → Bool
  | some (n, d), some (m, e) => decide (n * e ≤ m * d)
  | none, some _ => false
  | _, none => true

/-- A magnitude put in its place of a falling list. -/
def insertMag (x : Mag) : List Mag → List Mag
  | [] => [x]
  | y :: l => if magLe y x then x :: y :: l else y :: insertMag x l

/-- Magnitudes in falling order. -/
def sortMags (l : List Mag) : List Mag := l.foldr insertMag []

/-- Whether m × 2^−E is at most q. -/
def fits (m : Mag) (e : Int) (q : Nat) : Bool :=
  match m with
  | none => false
  | some (n, d) => let (a, b) := scale2 n d (-e); decide (a ≤ q * b)

/-- The smallest E from −127 to 127 with m × 2^−E ≤ q, and 127 if there is none (R203 to R205). -/
def chooseExp (m : Mag) (q : Nat) : Int :=
  match firstBelow 255 (fun i => fits m ((i : Int) - 127) q) with
  | some i => (i : Int) - 127
  | none => 127

/-- A value rounded to an integer after scaling by 2^−E; an infinity gives the bound it is clamped to. -/
def roundScaled (r : Rnd) (v : Val) (e : Int) (bound : Int) : Int :=
  match v.scale (-e) with
  | .fin s n d => roundInt r s n d
  | .inf s => if s then -bound else bound
  | .nan => 0

/-- A quantised block: codes, scale byte, area, counts. -/
structure QBlock where
  codes : List Nat
  scale : Nat
  area : List Byte
  cnt : Cnt
deriving DecidableEq, Repr

/-- What is carried over the elements of an escape-coded block: codes and side entries so far, counts. -/
structure EscAcc where
  codes : List Nat := []
  side : List Int := []
  cnt : Cnt := {}
deriving DecidableEq, Repr

/-- One element of an escape-coded block (R203, R206, R219). -/
def quantIntElem (w q : Nat) (e : Int) (acc : EscAcc) (x : Val × Rnd) : EscAcc :=
  let (v, r) := x
  if v.isNan then { acc with codes := acc.codes ++ [0], cnt := acc.cnt.add { qinv := 1 } }
  else if fits (magOf v) e q then { acc with codes := acc.codes ++ [trunc w (roundScaled r v e 0)] }
  else if acc.side.length < 4 then
    let y := roundScaled r v e 32768
    let z := clampInt (-32767) 32767 y
    { codes := acc.codes ++ [2 ^ (w - 1)], side := acc.side ++ [z]
      cnt := acc.cnt.add { outlier := flag (y != z) } }
  else { acc with codes := acc.codes ++ [trunc w (if v.neg then -(q : Int) else q)], cnt := acc.cnt.add { outlier := 1 } }

/-- QUANT of a block to INT8 or INT4 (R203, R206). -/
def quantInt (w : Nat) (xs : List (Val × Rnd)) : QBlock :=
  let q := 2 ^ (w - 1) - 1
  let mags := sortMags ((xs.filter (fun x => !x.1.isNan)).map (fun x => magOf x.1))
  let nonzero := mags.filter (fun m => !magLe m (some (0, 1)))
  let m : Mag := if nonzero.length < 5 then mags.headD (some (0, 1)) else (nonzero[4]?).getD (some (0, 1))
  let allNan := xs.all (fun x => x.1.isNan)
  let e := chooseExp m q
  let acc := xs.foldl (quantIntElem w q e) {}
  { codes := acc.codes, scale := if allNan then 0 else (e + 127).toNat
    area := ((acc.side ++ [0, 0, 0, 0]).take 4).flatMap (fun s => leBytes 2 (trunc 16 s)), cnt := acc.cnt }

/-- QUANT of a block to FP8 (R204, R206). -/
def quantFp8 (f : FloatFmt) (largest : Nat) (xs : List (Val × Rnd)) : QBlock :=
  let mags := sortMags ((xs.filter (fun x => !x.1.isNan)).map (fun x => magOf x.1))
  let e := chooseExp (mags.headD (some (0, 1))) largest
  let allNan := xs.all (fun x => x.1.isNan)
  let outs := xs.map (fun x => (toFloatSat f x.2 (x.1.scale (-e)), x.1.isNan))
  { codes := outs.map (fun o => o.1.1), scale := if allNan then 0 else (e + 127).toNat
    area := List.replicate 8 0
    cnt := { range := (outs.filter (fun o => o.1.2)).length, qinv := (outs.filter (fun o => o.2)).length } }

/-- The smaller and the larger of two values that are not NaNs. -/
def minVal (a b : Val) : Val := if Val.le a b then a else b
def maxVal (a b : Val) : Val := if Val.le a b then b else a

/-- QUANT of a block to UINT8 (R205, R206). -/
def quantUint8 (xs : List (Val × Rnd)) : QBlock :=
  let live := (xs.filter (fun x => !x.1.isNan)).map (fun x => x.1)
  let nans := xs.length - live.length
  if live.isEmpty then
    { codes := xs.map (fun _ => 0), scale := 0, area := List.replicate 8 0, cnt := { qinv := nans } }
  else
    let lo := live.foldl minVal (.fin false 0 1)
    let hi := live.foldl maxVal (.fin false 0 1)
    let isZero (v : Val) : Bool := v.isFin && v.num == 0
    if isZero lo && isZero hi then
      { codes := xs.map (fun _ => 0), scale := 1, area := List.replicate 8 0, cnt := { qinv := nans, flat := 1 } }
    else
      let e := chooseExp (magOf (hi.add lo.negate)) 255
      let zp := clampInt 0 255 (roundScaled .nearest lo.negate e 100000)
      let outs := xs.map (fun x =>
        let y := roundScaled x.2 x.1 e 100000 + zp
        let z := clampInt 0 255 y
        if x.1.isNan then (zp.toNat, false) else (z.toNat, y != z))
      { codes := outs.map (fun o => o.1), scale := (e + 127).toNat
        area := BitVec.ofNat 8 zp.toNat :: List.replicate 7 0
        cnt := { qinv := nans, range := (outs.filter (fun o => o.2)).length } }

/-- QUANT of one block to a format. -/
def quantBlock (f : Fmt) (xs : List (Val × Rnd)) : QBlock :=
  match f with
  | .int8 => quantInt 8 xs
  | .int4 => quantInt 4 xs
  | .e4m3 => quantFp8 e4m3 448 xs
  | .e5m2 => quantFp8 e5m2 57344 xs
  | _ => quantUint8 xs

/-! ## Readers of block-quantised tensors -/

/-- A scale section as it stood at the issue tick (R222): the scale bytes and the areas of `n` blocks. -/
structure Section where
  scales : List Byte
  areas : List Byte
deriving DecidableEq, Repr

/-- The section of `n` blocks read from a byte address. -/
def readSection (m : Mem) (base n : Nat) : Section :=
  { scales := readBytes m base n, areas := readBytes m (base + n) (8 * n) }

/-- The scale byte of a block. -/
def Section.scale (sec : Section) (k : Nat) : Nat := ((sec.scales[k]?).getD 0).toNat

/-- The exponent of a block (R201). -/
def Section.exp (sec : Section) (k : Nat) : Int := (sec.scale k : Int) - 127

/-- The zero point of a block, byte 0 of its area. -/
def Section.zp (sec : Section) (k : Nat) : Nat := ((sec.areas[8 * k]?).getD 0).toNat

/-- Side entry j of a block. -/
def Section.side (sec : Section) (k j : Nat) : Int := sext 16 (leAt sec.areas (8 * k + 2 * j) 2)

/-- Whether a code is the escape of its format (R203). -/
def isEscape (f : Fmt) (raw : Nat) : Bool :=
  match f with
  | .int8 => raw == 0x80
  | .int4 => raw == 8
  | _ => false

/-- The exact value of an element of a block-quantised tensor (R207, R210), given how many escapes its block held before
it; and its count of overruns. -/
def blockValue (f : Fmt) (sec : Section) (k raw esc : Nat) : Val × Cnt :=
  let e := sec.exp k
  if isEscape f raw then
    if esc < 4 then ((ofInt (sec.side k esc)).scale e, {}) else ((fmtValue f raw).scale e, { overrun := 1 })
  else match f with
    | .uint8 => ((ofInt ((raw : Int) - sec.zp k)).scale e, {})
    | _ => ((fmtValue f raw).scale e, {})

/-- DEQ of one element (R201, R210). -/
def deqElem (f : Fmt) (out : FloatFmt) (r : Rnd) (sec : Section) (k raw esc : Nat) : Nat × Cnt :=
  if sec.scale k = 0xFF then (out.nan, { qinv := 1 })
  else
    let (v, cn) := blockValue f sec k raw esc
    let (x, o) := toFloat out r v
    (x, cn.add { ovf := flag o })

/-- REQ of one element (R201, R209). -/
def reqElem (f out : Fmt) (r : Rnd) (sec : Section) (k raw : Nat) : Nat × Cnt :=
  let zp : Int := if out = .uint8 then (sec.zp k : Int) else 0
  let w := fmtBits out
  if sec.scale k = 0xFF then (trunc w zp, { qinv := 1 })
  else
    let y := roundScaled r (fmtValue f raw) (sec.exp k) 0 + zp
    let z := if out = .uint8 then clampInt 0 255 y else clampInt (-(2 ^ (w - 1) : Int)) (2 ^ (w - 1) - 1) y
    (trunc w z, { range := flag (y != z) })

/-- The conversion of a value onto the datum 2^−G (R191). -/
def datumOf (v : Val) (g : Int) : Int × Cnt :=
  match v with
  | .nan => (0, { dinv := 1 })
  | .inf false => (2 ^ 127 - 1, { dconv := 1 })
  | .inf true => (-(2 ^ 127), { dconv := 1 })
  | v =>
    let y := v.scale g
    let n := floorDiv y.num y.den
    if 2 ^ 127 - 1 < n then (2 ^ 127 - 1, { dconv := 1 })
    else if n < -(2 ^ 127) then (-(2 ^ 127), { dconv := 1 })
    else (n, {})

/-- DATUM of one element, with its scale section if the source has one (R191, R201, R212). -/
def datumElem (f : Fmt) (g : Int) (sec : Option Section) (k raw esc : Nat) : Nat × Cnt :=
  match sec with
  | none => let (n, cn) := datumOf (fmtValue f raw) g; (trunc 128 n, cn)
  | some sec =>
    if sec.scale k = 0xFF then (0, { qinv := 1 })
    else
      let (v, c1) := blockValue f sec k raw esc
      let (n, c2) := datumOf v g
      (trunc 128 n, c1.add c2)

/-- UNDATUM of one record (R194). -/
def undatumElem (out : FloatFmt) (r : Rnd) (g : Int) (raw : Nat) : Nat × Cnt :=
  let (x, o) := toFloatSat out r ((ofInt (sext 128 raw)).scale (-g))
  (x, { dconv := flag o })

/-- An exact record sum held at the record range (R193). -/
def clampRecord (x : Int) : Nat × Cnt :=
  let y := clampInt (-(2 ^ 127)) (2 ^ 127 - 1) x
  (trunc 128 y, { dadd := flag (x != y) })

end Sys2Proof.Machine
end

