-- ==== Sys2Proof/Machine/Vec.lean ====
section
/-! DEFINITION. The vector engine (R74 to R78, R221 to R238) and the datum operations (R191 to R194): one meaning per VEC operation over the shared run of one VEC word. -/

namespace Sys2Proof.Machine

/-- What a VEC word needs of the block when it issues: its memory base, its accumulator source, its draws. -/
structure VecCtx where
  core : Nat
  peri : Nat
  accs : SMap (BitVec 48)
  op : VecOp
  seed : BitVec 64
  gen : BitVec 64
  stream : Option (BitVec 48 × BitVec 16)

/-- The byte address of a staging source of the word. -/
def VecCtx.addr (x : VecCtx) (src : Src) : Nat :=
  match src with
  | .staging a => coreByte x.core a.toNat
  | _ => coreByte x.core 0

/-- Element i of source a: staging, or an entry of the accumulator tile as an INT48 (R74). -/
def VecCtx.a (x : VecCtx) (m : Mem) (i : Nat) : Nat :=
  match x.op.srcA with
  | .acc _ tile => trunc 64 (look 0 x.accs (accKey x.peri tile i)).toInt
  | src => readElem m (x.addr src) x.op.fmtIn i

/-- Element i of source b. -/
def VecCtx.b (x : VecCtx) (m : Mem) (i : Nat) : Nat := readElem m (x.addr x.op.srcB) x.op.fmtIn i

/-- The rounding of element i: nearest, or by its draw (R78, R215, R216). -/
def VecCtx.rnd (x : VecCtx) (i : Nat) : Rnd :=
  if x.op.sr then
    match x.stream with
    | some (base, t) => .stoch (drawOf x.seed x.gen t (base + BitVec.ofNat 48 i))
    | none => .nearest
  else .nearest

/-- The floating output format of the word; FP32 where it has none. -/
def VecCtx.out (x : VecCtx) : FloatFmt := (fmtFloat x.op.fmtOut).getD fp32

/-- The elements per tick of an operation (R76). -/
def vecRate (o : Nat) (op : VecOp) : Nat :=
  let wide := max (fmtBits op.fmtIn) (fmtBits op.fmtOut)
  let lane := if [0x00, 0x01, 0x03, 0x04, 0x05].contains o && wide ≤ 16 then 128 else 64
  let r := min lane (2048 / wide)
  let r := if op.srcA.isAcc then min 8 r else r
  if o = 0x02 then r / 2 else r

/-- The latency λ of an operation (R75). -/
def vecLat (o : Nat) : Nat :=
  match o with
  | 0x05 | 0x0B => 6
  | 0x06 | 0x07 | 0x08 | 0x0C | 0x14 => 12
  | 0x09 | 0x0A => 10
  | 0x0D | 0x0E | 0x0F | 0x10 => 16
  | 0x11 => 18
  | 0x12 | 0x13 => 24
  | _ => 8

/-- What a run of a VEC word carries: its counts, and the escapes met in the block at hand. -/
structure VecAcc where
  cnt : Cnt := {}
  esc : Nat := 0
  secs : List (Nat × List Byte) := []
deriving DecidableEq, Repr

/-- The elements `first` to `first + n − 1` of an element operation, given each element's meaning. -/
def vecElems (f : Mem → VecAcc → Nat → Nat × VecAcc) (m : Mem) : Nat → Nat → VecAcc → List Nat × VecAcc
  | 0, _, st => ([], st)
  | n + 1, i, st =>
    let (x, st) := f m st i
    let (xs, st) := vecElems f m n (i + 1) st
    (x :: xs, st)

/-- An element operation over the core staging (R76, R223): chunk by chunk under the visibility rule. -/
def vecRun (x : VecCtx) (o len : Nat) (f : Mem → VecAcc → Nat → Nat × VecAcc) (m : Mem) : Mem × VecAcc :=
  let rate := vecRate o x.op
  let chunk (m : Mem) (st : VecAcc) (k : Nat) : Pend × VecAcc :=
    let (raws, st) := vecElems f m (min rate (len - k * rate)) (k * rate) st
    ({ first := k * rate, raws := raws }, st)
  runPipe (vecLat o) (coreByte x.core x.op.dst.toNat) x.op.fmtOut chunk (ceilDiv len rate) 0 m [] {}

/-- An element meaning that only counts. -/
def pureElem (f : Mem → Nat → Nat × Cnt) (m : Mem) (st : VecAcc) (i : Nat) : Nat × VecAcc :=
  let (r, cn) := f m i
  (r, { st with cnt := st.cnt.add cn })

/-- An element meaning over block-quantised codes: the escapes of the block are counted as they are met (R207). -/
def blockElem (x : VecCtx) (f : Nat → Nat → Nat → Nat → Nat × Cnt) (m : Mem) (st : VecAcc) (i : Nat) : Nat × VecAcc :=
  let raw := x.a m i
  let esc := if i % 32 = 0 then 0 else st.esc
  let (r, cn) := f i (i / 32) raw esc
  (r, { st with cnt := st.cnt.add cn, esc := esc + flag (isEscape x.op.fmtIn raw) })

/-! ## Element operations -/

/-- The value of element i of source a, of source b, and of the destination. -/
def VecCtx.va (x : VecCtx) (m : Mem) (i : Nat) : Val := fmtValue x.op.fmtIn (x.a m i)
def VecCtx.vb (x : VecCtx) (m : Mem) (i : Nat) : Val := fmtValue x.op.fmtIn (x.b m i)
def VecCtx.vd (x : VecCtx) (m : Mem) (i : Nat) : Val :=
  fmtValue x.op.fmtOut (readElem m (coreByte x.core x.op.dst.toNat) x.op.fmtOut i)

/-- ADD (R224). -/
def addElem (x : VecCtx) (m : Mem) (i : Nat) : Nat × Cnt :=
  arith x.out ((x.va m i).add (x.vb m i)) ((x.va m i).isNan || (x.vb m i).isNan)

/-- MUL (R224). -/
def mulElem (x : VecCtx) (m : Mem) (i : Nat) : Nat × Cnt :=
  arith x.out ((x.va m i).mul (x.vb m i)) ((x.va m i).isNan || (x.vb m i).isNan)

/-- FMA: dst = a × b + dst, formed exactly and rounded once (R75, R224). -/
def fmaElem (x : VecCtx) (m : Mem) (i : Nat) : Nat × Cnt :=
  arith x.out (((x.va m i).mul (x.vb m i)).add (x.vd m i))
    ((x.va m i).isNan || (x.vb m i).isNan || (x.vd m i).isNan)

/-- MAX and MIN (R225): the chosen operand unchanged, or converted once. -/
def chooseElem (x : VecCtx) (larger : Bool) (m : Mem) (i : Nat) : Nat × Cnt :=
  let a := x.va m i
  let b := x.vb m i
  if a.isNan || b.isNan then (x.out.nan, {})
  else
    let takeA := if larger then Val.le b a else Val.le a b
    if x.op.fmtIn = x.op.fmtOut then (if takeA then x.a m i else x.b m i, {})
    else
      let (r, o) := toFloat x.out .nearest (if takeA then a else b)
      (r, { ovf := flag o })

/-- CVT (R226): the rounding of mod, or a draw. -/
def cvtElem (x : VecCtx) (m : Mem) (i : Nat) : Nat × Cnt :=
  let v := x.va m i
  let r := if x.op.sr then x.rnd i
    else if x.op.mode = 0 then .nearest else if x.op.mode = 1 then .down else .zero
  match x.op.fmtOut with
  | .fp32 | .bf16 => let (y, o) := toFloat x.out r v; (y, { ovf := flag o })
  | .e4m3 | .e5m2 => let (y, o) := toFloatSat x.out r v; (y, { ovf := flag o })
  | f =>
    let w := fmtBits f
    let lo : Int := -(2 ^ (w - 1))
    let hi : Int := 2 ^ (w - 1) - 1
    match v with
    | .nan => (0, { inv := 1 })
    | .inf s => (trunc w (if s then lo else hi), { ovf := 1 })
    | .fin s n d =>
      let y := roundInt r s n d
      (trunc w (clampInt lo hi y), { ovf := flag (clampInt lo hi y != y) })

/-- EXP2 (R227). -/
def exp2Elem (x : VecCtx) (m : Mem) (i : Nat) : Nat × Cnt :=
  let (v, o) := exp2Val (x.va m i)
  let (r, p) := toFloat x.out .nearest v
  (r, { ovf := flag (o || p) })

/-- LOG2 (R228). -/
def log2Elem (x : VecCtx) (m : Mem) (i : Nat) : Nat × Cnt :=
  match x.va m i with
  | .nan => (x.out.nan, {})
  | .inf false => (withSign x.out false (x.out.inf.getD 0), {})
  | .inf true => (x.out.nan, { inv := 1 })
  | .fin s n d =>
    if n = 0 then (withSign x.out true (x.out.inf.getD 0), {})
    else if s then (x.out.nan, { inv := 1 })
    else ((toFloat x.out .nearest (log2Val (.fin s n d))).1, {})

/-- RCP (R229). -/
def rcpElem (x : VecCtx) (m : Mem) (i : Nat) : Nat × Cnt :=
  let (v, o) := rcpVal (x.va m i)
  let (r, p) := toFloat x.out .nearest v
  (r, { ovf := flag (o || p) })

/-- RSQRT (R229). -/
def rsqrtElem (x : VecCtx) (m : Mem) (i : Nat) : Nat × Cnt :=
  let (v, cn) := rsqrtVal (x.va m i)
  let (r, p) := toFloat x.out .nearest v
  (r, cn.add { ovf := flag p })

/-- ACT (R230): a NaN is counted as invalid. R238 counts no overflow of R230. -/
def actElem (x : VecCtx) (m : Mem) (i : Nat) : Nat × Cnt :=
  let v := x.va m i
  ((toFloat x.out .nearest (actVal x.op.mode.toNat v)).1, { inv := flag v.isNan })

/-- RADD (R193). -/
def raddElem (x : VecCtx) (m : Mem) (i : Nat) : Nat × Cnt :=
  clampRecord (sext 128 (x.a m i) + sext 128 (x.b m i))

/-! ## Rows -/

/-- The values of row j. -/
def VecCtx.row (x : VecCtx) (m : Mem) (j : Nat) : List Val :=
  (List.range x.op.row).map (fun i => x.va m (j * x.op.row + i))

/-- The largest of a list of values that holds no NaN (R225, R231). -/
def maxOf (l : List Val) : Val := l.foldl maxVal (.inf true)

/-- RROW of a row (R193). -/
def rrowOf (x : VecCtx) (m : Mem) (j : Nat) : List Nat × Cnt :=
  let (r, cn) := clampRecord ((List.range x.op.row).foldl (fun s i => s + sext 128 (x.a m (j * x.op.row + i))) 0)
  ([r], cn)

/-- RMAX of a row (R231). -/
def rmaxOf (x : VecCtx) (m : Mem) (j : Nat) : List Nat × Cnt :=
  let vs := x.row m j
  if vs.any (·.isNan) then ([x.out.nan], {}) else ([(toFloat x.out .nearest (maxOf vs)).1], {})

/-- One value rounded to FP32 and read back, with its counts under R224. -/
def viaFp32 (v : Val) (anyNan : Bool) : Val × Cnt :=
  let (r, cn) := arith fp32 v anyNan
  (decodeFloat fp32 r, cn)

/-- The steps of R232 for an element of a row with maximum `top`: 2^40 times its exponential, rounded down. -/
def softExp (top v : Val) : Nat :=
  let d := (viaFp32 (v.add top.negate) false).1
  let y := (viaFp32 (d.mul (decodeFloat fp32 0x3FB8AA3B)) false).1
  (floorScaled (viaFp32 (exp2Val y).1 false).1 40).toNat

/-- What the first pass of SOFTMAX finds of a row (R76, R232): none where it is invalid, else its maximum and the sum of its exponentials, with
the row's count. -/
def softmaxRow (x : VecCtx) (m : Mem) (j : Nat) : Option (Val × Nat) × Cnt :=
  let vs := x.row m j
  if vs.any (fun v => v.isNan || v == .inf false) then (none, { inv := 1 })
  else
    let top := maxOf vs
    if top == .inf true then (some (top, 0), { empty := 1 })
    else (some (top, vs.foldl (fun s v => s + softExp top v) 0), {})

/-- Element i of SOFTMAX as its second pass reads it (R232), given what the first pass found of its row. -/
def softmaxElem (x : VecCtx) (rows : List (Option (Val × Nat))) (m : Mem) (i : Nat) : Nat × Cnt :=
  match (rows[i / max 1 x.op.row]?).getD none with
  | none => (x.out.nan, {})
  | some (top, s) =>
    let v := x.va m i
    if v.isNan then (x.out.nan, {})
    else if s = 0 then (0, {})
    else ((toFloat x.out .nearest (.fin false (softExp top v) s)).1, {})

/-- The exact sum of finite values. -/
def sumVals (l : List Val) : Val := l.foldl Val.add (.fin false 0 1)

/-- What the first pass of NORM finds of a row, with the parameter block as it stood at the issue tick (R76, R222, R233): none where it is
invalid, else its mean and the reciprocal root, with the row's counts. -/
def normRow (x : VecCtx) (m : Mem) (j : Nat) : Option (Val × Val) × Cnt :=
  let r := x.op.row
  let vs := x.row m j
  let par := x.addr x.op.srcB + r * (fmtBits x.op.fmtIn / 8)
  let variant := (getByte m (par + 4)).toNat
  if vs.any (fun v => !v.isFin) || 1 < variant then (none, { inv := 1 })
  else
    let (mu, c1) : Val × Cnt :=
      if variant = 1 then viaFp32 ((sumVals vs).mul (.fin false 1 r)) false else (.fin false 0 1, {})
    let diffs := vs.map (fun v => v.add mu.negate)
    let (var_, c2) := viaFp32 ((sumVals (diffs.map (fun d => d.mul d))).mul (.fin false 1 r)) false
    let eps := decodeFloat fp32 (readLE m par 4)
    let (sum, c3) := viaFp32 (var_.add eps) eps.isNan
    let c3 : Cnt := if var_.isFin && eps.isFin then c3 else { c3 with ovf := 0 }
    let (rt, c4) := rsqrtVal sum
    let (rr, c5) := toFloat fp32 .nearest rt
    (some (mu, decodeFloat fp32 rr), c1.add (c2.add (c3.add (c4.add { ovf := flag c5 }))))

/-- Element i of NORM as its second pass reads it (R233), with the gains of the issue tick, given what the first pass found of its row. -/
def normElem (x : VecCtx) (rows : List (Option (Val × Val))) (gains : List Val) (m : Mem) (i : Nat) : Nat × Cnt :=
  match (rows[i / max 1 x.op.row]?).getD none with
  | none => (x.out.nan, {})
  | some (mu, root) =>
    let g := (gains[i % max 1 x.op.row]?).getD .nan
    let v := x.va m i
    arith x.out (((v.add mu.negate).mul root).mul g) (v.isNan || root.isNan || g.isNan)

/-- RMAX and RROW (R76): the last row is read before the first result is written, so the rows are taken from the memory as it stood at the
issue tick. -/
def vecRows (x : VecCtx) (len : Nat) (f : Mem → Nat → List Nat × Cnt) (m : Mem) : Mem × VecAcc :=
  let rows := (List.range (len / x.op.row)).map (f m)
  (({ first := 0, raws := rows.flatMap (·.1) } : Pend).apply (coreByte x.core x.op.dst.toNat) x.op.fmtOut m,
    { cnt := rows.foldl (fun s r => s.add r.2) {} })

/-- SOFTMAX and NORM (R76, R223): the first pass ends before any result is written; the second reads each element under the visibility rule
(log entry 20). -/
def vecTwice {ρ : Type} (x : VecCtx) (o len : Nat) (row : Mem → Nat → ρ × Cnt) (elem : List ρ → Mem → Nat → Nat × Cnt) (m : Mem) :
    Mem × VecAcc :=
  let rows := (List.range (len / max 1 x.op.row)).map (row m)
  let (m, st) := vecRun x o len (pureElem (elem (rows.map (·.1)))) m
  (m, { st with cnt := st.cnt.add (rows.foldl (fun s r => s.add r.2) {}) })

/-! ## Block operations -/

/-- QUANT (R200 to R206): the codes chunk by chunk, then the scale bytes and the areas. -/
def quantRun (x : VecCtx) (len : Nat) (m : Mem) : Mem × VecAcc :=
  let rate := vecRate 0x06 x.op
  let chunk (m : Mem) (st : VecAcc) (k : Nat) : Pend × VecAcc :=
    let n := min rate (len - k * rate)
    let blocks := (List.range (n / 32)).map (fun b =>
      quantBlock x.op.fmtOut ((List.range 32).map (fun e => let i := k * rate + 32 * b + e; (x.va m i, x.rnd i))))
    ({ first := k * rate, raws := blocks.flatMap (·.codes) },
      { st with cnt := blocks.foldl (fun s b => s.add b.cnt) st.cnt, secs := st.secs ++ blocks.map (fun b => (b.scale, b.area)) })
  let base := coreByte x.core x.op.dst.toNat
  let (m, st) := runPipe (vecLat 0x06) base x.op.fmtOut chunk (ceilDiv len rate) 0 m [] {}
  let sec := base + fmtSpan x.op.fmtOut len
  (writeBytes (writeBytes m sec (st.secs.map (fun s => BitVec.ofNat 8 s.1))) (sec + len / 32) (st.secs.flatMap (·.2)), st)

/-- What a VEC operation does to the core staging, with what it counts. -/
def vecEffect (x : VecCtx) (o len : Nat) (m : Mem) : Mem × VecAcc :=
  let g : Int := x.op.mode.toInt
  let sec := readSection m (x.addr x.op.srcB) (x.op.length.toNat / 32)
  match o with
  | 0x00 => vecRun x o len (pureElem (addElem x)) m
  | 0x01 => vecRun x o len (pureElem (mulElem x)) m
  | 0x02 => vecRun x o len (pureElem (fmaElem x)) m
  | 0x03 => vecRun x o len (pureElem (chooseElem x true)) m
  | 0x04 => vecRun x o len (pureElem (chooseElem x false)) m
  | 0x05 => vecRun x o len (pureElem (cvtElem x)) m
  | 0x06 => quantRun x len m
  | 0x07 => vecRun x o len (blockElem x (fun i k raw esc => deqElem x.op.fmtIn x.out (x.rnd i) sec k raw esc)) m
  | 0x08 => vecRun x o len (pureElem (fun m i => reqElem x.op.fmtIn x.op.fmtOut (x.rnd i) sec (i / 32) (x.a m i))) m
  | 0x09 =>
    let s := if x.op.srcB.isStaging then some sec else none
    vecRun x o len (blockElem x (fun _ k raw esc => datumElem x.op.fmtIn g s k raw esc)) m
  | 0x0A => vecRun x o len (pureElem (fun m i => undatumElem x.out (x.rnd i) g (x.a m i))) m
  | 0x0B => vecRun x o len (pureElem (raddElem x)) m
  | 0x0C => vecRows x len (rrowOf x) m
  | 0x0D => vecRun x o len (pureElem (exp2Elem x)) m
  | 0x0E => vecRun x o len (pureElem (log2Elem x)) m
  | 0x0F => vecRun x o len (pureElem (rcpElem x)) m
  | 0x10 => vecRun x o len (pureElem (rsqrtElem x)) m
  | 0x11 => vecRun x o len (pureElem (actElem x)) m
  | 0x12 => vecTwice x o len (softmaxRow x) (softmaxElem x) m
  | 0x13 => vecTwice x o len (normRow x)
      (fun rows => normElem x rows ((List.range x.op.row).map (fun i => fmtValue x.op.fmtIn (x.b m i)))) m
  | 0x14 => vecRows x len (rmaxOf x) m
  | _ => (m, {})

/-- The counters of a core after an operation (R198, R220, R238). -/
def CoreSt.count (k : CoreSt) (cn : Cnt) : CoreSt :=
  { k with
    vecInvalid := satAdd k.vecInvalid cn.inv, vecOverflow := satAdd k.vecOverflow cn.ovf
    emptyRows := satAdd k.emptyRows cn.empty
    quantOutlier := satAdd k.quantOutlier cn.outlier, quantRange := satAdd k.quantRange cn.range
    quantOverrun := satAdd k.quantOverrun cn.overrun, quantInvalid := satAdd k.quantInvalid cn.qinv
    quantFlat := satAdd k.quantFlat cn.flat
    datumConv := satAdd k.datumConv cn.dconv, datumAdd := satAdd k.datumAdd cn.dadd
    datumInvalid := satAdd k.datumInvalid cn.dinv }

/-- Saturations and NaNs of the datum operations: CORE_DATUM_LAST, and the first conversion saturation or NaN of a piece
on a core logged as an info event (R192, R198). -/
def Chip.datumNote (c : Chip) (core opByte g : Nat) (cn : Cnt) : Chip :=
  let stroke := (c.region (core / 34)).stroke
  let c := c.when (cn.dconv + cn.dadd + cn.dinv != 0) (fun c => c.upCore core (fun k =>
    { k with datumOp := BitVec.ofNat 8 opByte, datumG := BitVec.ofNat 8 g, datumStroke := stroke.setWidth 16 }))
  if cn.dconv + cn.dinv = 0 || (c.core core).datumLogged then c
  else (c.event (srcCore core) 0 0x112 false (coreLocus core) (opByte + field g 8)).upCore core
    (fun k => { k with datumLogged := true })

/-- The tag of a block of codes and of its scale entry (R217): its index in the operation, modulo 16. -/
def blockTag (block : Nat) : BitVec 4 := BitVec.ofNat 4 block

/-- Whether the codes and the scale section reach the operation by separate queues (R217): DEQ and REQ, and DATUM with an attached scale. -/
def taggedQueues (o : Nat) (op : VecOp) : Bool := o = 0x07 || o = 0x08 || o = 0x09 && op.srcB.isStaging

/-- The first block whose two tags differ as the operation compares them (R217). -/
def tagMiss (o : Nat) (op : VecOp) (p : Path) : Option TagMiss :=
  p.tag.filter (fun t => taggedQueues o op && decide (32 * t.block < op.length.toNat) && t.found != blockTag t.block)

/-- A stream fault at a consumer's core (R217, R218): logged, the second within 10 s permanent, the core's jobs called to
re-row. -/
def Chip.streamFaultCore (c : Chip) (core : Nat) (t : TagMiss) : Chip :=
  let want := blockTag t.block
  let c := c.upCore core (fun k => { k with tagExpected := want, tagFound := t.found, streamFaults := satAdd k.streamFaults 1 })
  let c := c.fault (srcCore core) 0x108 (coreLocus core) (want.toNat + field t.found.toNat 4) (.stream 0 core) 2 (.core core)
  c.callRegion (core / 34)

/-- What the staging codes reported while a core operation read (R252): corrections counted; an uncorrectable codeword is
a dangerous event of the core's digital block. -/
def Chip.corePath (c : Chip) (id : JobId) (core array : Nat) (p : Path) : Chip :=
  let c := c.upCore core (fun k => { k with
    stgCorrected := satAdd k.stgCorrected p.corrected, stgUncorr := satAdd k.stgUncorr p.bad.length })
  let c := overAll p.bad (fun c a => (c.coreCode core 1).badRead id (2 ^ 40 + core * 2 ^ 20 + a)) c
  c.residues p.residue (core / 34) core array (fun _ => 0)

/-- A fault of an accumulator: a sum outside its range, or an uncorrectable codeword (R186): dangerous, logged under code
0x0105 unit 2 (log entry 25). -/
def Chip.accFault (c : Chip) (core peri : Nat) : Chip := c.residue 2 (core / 34) core peri 0

/-- One fault for each addition that was held at a bound (R186). -/
def Chip.accFaults (c : Chip) (core peri : Nat) : Nat → Chip
  | 0 => c
  | n + 1 => (c.accFault core peri).accFaults core peri n

/-- What the codes of a periphery's accumulator memory reported while an operation read it (R186, CORE_ACC_FAULTS). -/
def Chip.accPath (c : Chip) (core peri : Nat) (p : Path) : Chip :=
  let c := c.upCore core (fun k => { k with accCorr := satAdd k.accCorr p.accCorrected, accUncorr := satIf p.accBad k.accUncorr })
  c.when p.accBad (fun c => c.accFault core peri)

/-- Whether the operation reads a function table or a seed (R236): those of R227 to R230, ACT but for ReLU, SOFTMAX and NORM. -/
def usesTables (o : Nat) (op : VecOp) : Bool := 0x0D ≤ o && o ≤ 0x13 && !(o == 0x11 && op.mode == 0)

/-- The bytes a VEC word writes (R76, R200). -/
def vecDstBytes (o : Nat) (op : VecOp) : Nat :=
  let len := op.length.toNat
  if o = 0x0C || o = 0x14 then fmtSpan op.fmtOut (len / op.row)
  else if o = 0x06 then fmtSpan op.fmtOut len + 9 * (len / 32)
  else fmtSpan op.fmtOut len

/-- The bytes read of source b. -/
def vecSrcBBytes (o : Nat) (op : VecOp) : Nat :=
  let len := op.length.toNat
  if o = 0x07 || o = 0x08 || o = 0x09 then 9 * (len / 32)
  else if o = 0x13 then fmtSpan op.fmtIn op.row + 16
  else fmtSpan op.fmtIn len

/-- Whether every range of the word lies in core staging. -/
def vecInRange (o : Nat) (op : VecOp) : Bool :=
  op.length == 0 ||
  (inCore op.dst.toNat (vecDstBytes o op)
  && (match op.srcA with | .staging a => inCore a.toNat (fmtSpan op.fmtIn op.length.toNat) | _ => true)
  && (match op.srcB with | .staging b => inCore b.toNat (vecSrcBBytes o op) | _ => true))

/-- The array whose periphery holds an accumulator source of logical core `lc`. -/
def Chip.accPeri (c : Chip) (g lc : Nat) (src : Src) : Nat :=
  match src with
  | .acc a _ => c.periOf (c.cellsOf g lc a.val)
  | _ => 0

/-- Whether the accumulator source of a word is ready (R64, R77). -/
def Chip.accReady (c : Chip) (peri : Nat) (src : Src) : Bool :=
  match src with
  | .acc _ t => (c.tile (tileKey peri t)).st = .ready
  | _ => true

/-- The elements of the blocks before a tag mismatch (R218). -/
def usedLength (o : Nat) (op : VecOp) (p : Path) : Nat :=
  match tagMiss o op p with
  | some t => min op.length.toNat (32 * t.block)
  | none => op.length.toNat

/-- A VEC word that issues on the seat of logical core `lc` (R74 to R78, R218, R236). -/
def Chip.vecIssue (c : Chip) (st : Site) (j : Job) (g lc core o : Nat) (op : VecOp) (p : Path) : Chip :=
  let peri := c.accPeri g lc op.srcA
  if !c.accReady peri op.srcA then c.scheduleFault j g (srcCore core) (coreLocus core) (c.issueIndex j st 4)
  else
    let c := (c.corePath j.id core peri p).upCore core (fun k => { k with tableCorr := satAdd k.tableCorr (if usesTables o op then p.tableCorrected else 0) })
    if usesTables o op && p.tableBad then
      (c.upCore core (fun k => { k with tableUncorr := satAdd k.tableUncorr 1 })).coreCode core 4
    else
      let x : VecCtx :=
        { core := core, peri := peri, accs := c.accs, op := op, seed := j.body.jobSeed, gen := j.body.genBase
          stream := (c.core core).seed }
      let (m, acc) := vecEffect x o (usedLength o op p) c.mem.cstg
      let c := { c with mem := { c.mem with cstg := m } }
      let c := c.upCore core (fun k => (k.count acc.cnt))
      let c := if op.sr then c.upCore core (fun k => { k with
        seed := k.seed.map (fun s => (s.1 + op.length.setWidth 48, s.2)) }) else c
      let c := c.datumNote core (0x80 + o) op.mode.toNat acc.cnt
      let c := match op.srcA with
        | .acc _ t =>
          (c.accPath core peri p).when op.release (fun c => c.upTile (tileKey peri t) (fun x =>
            { x with st := .draining, since := st.tick + ceilDiv op.length.toNat (max 1 (vecRate o op)) }))
        | _ => c
      match tagMiss o op p with
      | some t => c.streamFaultCore core t
      | none => c

/-- A VEC word: refused in a form no image can hold, a fault where a range passes the end of staging, nothing where no
such job runs, else its effect; a word whose own codeword is uncorrectable is not issued (R363). -/
def vecWord (o : Nat) (st : Site) (op : VecOp) (p : Path) (s : State) : Host.Outcome State Fault Refusal :=
  if !op.legal o || !st.onCore then .refused (.illFormed "VEC form of R222")
  else if !vecInRange o op then .fault (.outsideStaging (16 * op.dst.toNat))
  else match s.toChip.atSite st, st.core with
    | some (j, g), some lc =>
      let core := s.toChip.seat g lc.val
      if p.fetchBad then act (fun c => c.coreCode core 3) s
      else if op.sr && (s.toChip.core core).seed.isNone then .refused (.illFormed "sr without SEED in its piece, R78")
      else act (fun c => c.vecIssue st j g lc.val core o op p) s
    | _, _ => .next s

/-- VEC.ADD (R224). -/
def execVecAdd (st : Site) (op : VecOp) (p : Path) (s : State) := vecWord 0x00 st op p s
/-- VEC.MUL (R224, R202). -/
def execVecMul (st : Site) (op : VecOp) (p : Path) (s : State) := vecWord 0x01 st op p s
/-- VEC.FMA (R224). -/
def execVecFma (st : Site) (op : VecOp) (p : Path) (s : State) := vecWord 0x02 st op p s
/-- VEC.MAX (R225). -/
def execVecMax (st : Site) (op : VecOp) (p : Path) (s : State) := vecWord 0x03 st op p s
/-- VEC.MIN (R225). -/
def execVecMin (st : Site) (op : VecOp) (p : Path) (s : State) := vecWord 0x04 st op p s
/-- VEC.CVT (R226). -/
def execVecCvt (st : Site) (op : VecOp) (p : Path) (s : State) := vecWord 0x05 st op p s
/-- VEC.QUANT (R203 to R206). -/
def execVecQuant (st : Site) (op : VecOp) (p : Path) (s : State) := vecWord 0x06 st op p s
/-- VEC.DEQ (R210). -/
def execVecDeq (st : Site) (op : VecOp) (p : Path) (s : State) := vecWord 0x07 st op p s
/-- VEC.REQ (R209). -/
def execVecReq (st : Site) (op : VecOp) (p : Path) (s : State) := vecWord 0x08 st op p s
/-- VEC.DATUM (R191). -/
def execVecDatum (st : Site) (op : VecOp) (p : Path) (s : State) := vecWord 0x09 st op p s
/-- VEC.UNDATUM (R194). -/
def execVecUndatum (st : Site) (op : VecOp) (p : Path) (s : State) := vecWord 0x0A st op p s
/-- VEC.RADD (R193). -/
def execVecRadd (st : Site) (op : VecOp) (p : Path) (s : State) := vecWord 0x0B st op p s
/-- VEC.RROW (R193). -/
def execVecRrow (st : Site) (op : VecOp) (p : Path) (s : State) := vecWord 0x0C st op p s
/-- VEC.EXP2 (R227). -/
def execVecExp2 (st : Site) (op : VecOp) (p : Path) (s : State) := vecWord 0x0D st op p s
/-- VEC.LOG2 (R228). -/
def execVecLog2 (st : Site) (op : VecOp) (p : Path) (s : State) := vecWord 0x0E st op p s
/-- VEC.RCP (R229). -/
def execVecRcp (st : Site) (op : VecOp) (p : Path) (s : State) := vecWord 0x0F st op p s
/-- VEC.RSQRT (R229). -/
def execVecRsqrt (st : Site) (op : VecOp) (p : Path) (s : State) := vecWord 0x10 st op p s
/-- VEC.ACT (R230). -/
def execVecAct (st : Site) (op : VecOp) (p : Path) (s : State) := vecWord 0x11 st op p s
/-- VEC.SOFTMAX (R232). -/
def execVecSoftmax (st : Site) (op : VecOp) (p : Path) (s : State) := vecWord 0x12 st op p s
/-- VEC.NORM (R233). -/
def execVecNorm (st : Site) (op : VecOp) (p : Path) (s : State) := vecWord 0x13 st op p s
/-- VEC.RMAX (R231). -/
def execVecRmax (st : Site) (op : VecOp) (p : Path) (s : State) := vecWord 0x14 st op p s

/-- VEC.SEED (R78): the stream's stochastic-rounding state, base and tensor. -/
def execVecSeed (st : Site) (base : BitVec 48) (tensor : BitVec 16) (fetch : Fetch) (s : State) : Host.Outcome State Fault Refusal :=
  if !st.onCore then .refused (.illFormed "VEC outside a core stream, R51")
  else act (fun c => c.onCore st (fun c _ g core =>
    c.fetched st g fetch (fun c => c.upCore core (fun k => { k with seed := some (base, tensor) })))) s

end Sys2Proof.Machine
end

