-- ==== Sys2Proof/Machine/Array.lean ====
section
/-! DEFINITION. The charge-trap arrays: weight encoding (R87, R88), input planes (R89), the tile-op with its combiner, stuck stage, checks, items and diagnosis (R61 to R64, R91 to R93, R118 to R126, R366), tile states and the drain (R64, R65, R184 to R186), the check-path exercises (R123, R155). -/

namespace Sys2Proof.Machine

/-! ## Stored digits -/

/-- The tier image byte address of a physical tier (R88). -/
def tierBase (T : Nat) : Nat := T * 16384

/-- The weight of row r and output column q of a tier as its image gives it (R88). -/
def tierWeight (img : Mem) (T : Nat) (int4 : Bool) (r q : Nat) : Int :=
  if int4 then
    let b := (getByte img (tierBase T + 64 * r + q / 2)).toNat
    sext 4 (if q % 2 = 0 then b % 16 else b / 16)
  else sext 8 (getByte img (tierBase T + 64 * r + q)).toNat

/-- Digits per weight D, the offset ω, and the output columns C (R62, R87, R93). -/
def digitsOf (int4 : Bool) : Nat := if int4 then 2 else 4
def offsetOf (int4 : Bool) : Nat := if int4 then 8 else 128
def columnsOf (int4 : Bool) : Nat := if int4 then 128 else 64

/-- The intended digit of row r and logical column m (R87). -/
def intendedDigit (img : Mem) (T : Nat) (int4 : Bool) (r m : Nat) : Nat :=
  let d := digitsOf int4
  let u := (tierWeight img T int4 r (m / d) + offsetOf int4).toNat
  u / 4 ^ (m % d) % 4

/-- A row group's spare plot on a physical array (R110). -/
def Arr.sub (a : Arr) (i : Nat) : PlotSub := look {} a.subs i

/-- The logical column that a physical column serves in a row group, if any (R85). -/
def Arr.logicalCol (a : Arr) (i pcol : Nat) : Option Nat :=
  let s := a.sub i
  if 256 ≤ pcol then (if s.active then some (16 * s.group.toNat + pcol % 16) else none)
  else if s.active && pcol / 16 = s.group.toNat then none else some pcol

/-- The physical column that serves a logical column in a row group (R85). -/
def Arr.physCol (a : Arr) (i m : Nat) : Nat :=
  let s := a.sub i
  if s.active && m / 16 = s.group.toNat then 256 + m % 16 else m

/-- The key of a physical tier. -/
def tierKey (cells tier : Nat) : Nat := cells * 64 + tier

/-- The key of a cell: tier, row, physical column. -/
def cellKey (T row pcol : Nat) : Nat := (T * 256 + row) * 272 + pcol

/-- The cells of a tier whose stored digit is listed: row, physical column, digit. -/
def devCells (dev : SMap (BitVec 2)) (T : Nat) : List (Nat × Nat × Nat) :=
  (dev.filter (fun p => p.1 / 272 / 256 == T)).map (fun p => (p.1 / 272 % 256, p.1 % 272, p.2.toNat))

/-- A change to the digit of a cell as the codes see it: row, logical column, amount. -/
structure Adj where
  row : Nat
  col : Nat
  delta : Int
deriving DecidableEq, Repr

/-- How stored digits differ from intended ones, by logical column (R83). -/
def storedAdj (c : Chip) (cells T : Nat) (int4 : Bool) : List Adj :=
  (devCells c.dev T).filterMap (fun (row, pcol, d) =>
    ((c.arr cells).logicalCol (row / 16) pcol).map (fun m =>
      { row := row, col := m, delta := (d : Int) - intendedDigit c.mem.tiers T int4 row m }))

/-- What the stuck stage adds (R120): intended − stuck for each active entry of the selected tier. -/
def stuckAdj (a : Arr) (tier : Nat) : List Adj :=
  (a.stuck.filter (fun e => e.tier.val == tier)).filterMap (fun e =>
    (a.logicalCol (e.row.val / 16) e.column).map (fun m =>
      { row := e.row.val, col := m, delta := (e.intended.toNat : Int) - e.stuck }))

/-! ## Inputs and planes (R89) -/

/-- The planes of an input format. -/
def planesOf : InFmt → Nat
  | .int8 => 8
  | .int4 => 4
  | .uint8 => 9

/-- The plane weight c_b of plane b of P (R89). -/
def planeWeight (P b : Nat) : Int := if b + 1 = P then -(2 ^ b) else 2 ^ b

/-- The bit of an input value in plane b of P. -/
def planeBit (P : Nat) (x : Int) (b : Nat) : Bool := bitOf (trunc P x) b

/-- The bytes of one tile row in core staging (R62). -/
def rowBytes (f : InFmt) : Nat := if f = .int4 then 128 else 256

/-- The applied input values of tile row k (R62, R89). -/
def appliedRow (m : Mem) (base : Nat) (op : TileOp) (k : Nat) : List Int :=
  (List.range 256).map (fun r =>
    match op.inFmt with
    | .int8 => sext 8 (readElem m (base + k * 256) .int8 r)
    | .int4 => sext 4 (readElem m (base + k * 128) .int4 r)
    | .uint8 => (readElem m (base + k * 256) .uint8 r : Int) - op.zeroPoint.toNat)

/-- The input value of row r. -/
def rowAt (xs : List Int) (r : Nat) : Int := (xs[r]?).getD 0

/-- The mask of a row group's rows that plane b of P activates. -/
def activeMask (P : Nat) (xs : List Int) (i b : Nat) : Nat :=
  (List.range 16).foldl (fun m k => m + field (flag (planeBit P (rowAt xs (16 * i + k)) b)) k) 0

/-- Σ over the active rows of a row group of an amount given per cell of one column. -/
def activeSum (mask i : Nat) (f : Nat → Int) : Int :=
  (List.range 16).foldl (fun s k => if bitOf mask k then s + f (16 * i + k) else s) 0

/-- The amount that a list of adjustments gives a cell. -/
def adjAt (l : List Adj) (row col : Nat) : Int :=
  l.foldl (fun s a => if a.row = row && a.col = col then s + a.delta else s) 0

/-! ## The tile-op -/

/-- What a TILE needs of the block when it issues. -/
structure TileCtx where
  img : Mem
  T : Nat
  op : TileOp
  rows : List (List Int)
  stored : List Adj
  stuck : List Adj

/-- The digit sum of a segment as its cells store it (R86). -/
def TileCtx.segment (x : TileCtx) (mask i m : Nat) : Int :=
  activeSum mask i (fun r => (intendedDigit x.img x.T x.op.wInt4 r m : Int) + adjAt x.stored r m)

/-- The digit sum of a segment as intended. -/
def TileCtx.intended (x : TileCtx) (mask i m : Nat) : Int :=
  activeSum mask i (fun r => (intendedDigit x.img x.T x.op.wInt4 r m : Int))

/-- What the stuck stage adds to a segment's code. -/
def TileCtx.stuckSum (x : TileCtx) (mask i m : Nat) : Int := activeSum mask i (fun r => adjAt x.stuck r m)

/-- A listed conversion, worked out: the code used after the stuck stage, whether it was flagged (R118, R119). -/
structure Conv where
  row : Nat
  plane : Nat
  i : Nat
  m : Nat
  mask : Nat
  used : Int
  error : Int
  flagged : Bool
  oor : Bool
deriving DecidableEq, Repr

/-- The conversion of a listed reading (R91, R92, R118 to R120): out of range is flagged and its value is 0. -/
def TileCtx.conv (x : TileCtx) (r : Reading) : Conv :=
  let P := planesOf x.op.inFmt
  let mask := activeMask P ((x.rows[r.row]?).getD []) r.rowGroup.val r.plane
  let seg := x.segment mask r.rowGroup.val r.column.val
  let code := seg + r.err
  let oor := code < 0 || 48 < code
  let fix := x.stuckSum mask r.rowGroup.val r.column.val
  { row := r.row, plane := r.plane, i := r.rowGroup.val, m := r.column.val, mask := mask
    used := if oor then 0 else code + fix, error := (if oor then 0 else code + fix) - (seg + fix)
    flagged := r.flagged || oor, oor := oor }

/-- The exact combined sum of tile row ρ and output column q when every code is its stored sum: Σ x × w, with the changed
digits weighted by 4^k (R62, R93; the offset −ω·X is taken out with the stored value u = w + ω). -/
def TileCtx.base (x : TileCtx) (xs : List Int) (q : Nat) : Int :=
  let d := digitsOf x.op.wInt4
  let exact := (List.range 256).foldl (fun s r => s + rowAt xs r * tierWeight x.img x.T x.op.wInt4 r q) 0
  (x.stored ++ x.stuck).foldl (fun s a =>
    if a.col / d = q then s + rowAt xs a.row * 4 ^ (a.col % d) * a.delta else s) exact

/-- The result Y of tile row ρ and column q: the exact sum, changed by each listed conversion at its plane weight and digit
position (R93). -/
def TileCtx.result (x : TileCtx) (convs : List Conv) (row q : Nat) : Int :=
  let d := digitsOf x.op.wInt4
  let P := planesOf x.op.inFmt
  convs.foldl (fun s v =>
    if v.row = row && v.m / d = q then s + v.error * planeWeight P v.plane * 4 ^ (v.m % d) else s)
    (x.base ((x.rows[row]?).getD []) q)

/-- One addition to an accumulator entry, held at the 48-bit bounds (R186); and whether it was held. -/
def accAdd (accs : SMap (BitVec 48)) (key : Nat) (y : Int) : SMap (BitVec 48) × Bool :=
  let s := (look 0 accs key).toInt + y
  let z := clampInt (-(2 ^ 47)) (2 ^ 47 - 1) s
  (put 0 accs key (BitVec.ofInt 48 z), decide (s ≠ z))

/-- Additions to entries in turn, with the count of those that were held. -/
def accAdds (accs : SMap (BitVec 48)) : List (Nat × Int) → SMap (BitVec 48) × Nat
  | [] => (accs, 0)
  | (k, y) :: l =>
    let (a, b) := accAdd accs k y
    let (a, n) := accAdds a l
    (a, n + flag b)

/-- The entries of a tile cleared by an overwrite TILE (R185). -/
def accClear (accs : SMap (BitVec 48)) (peri : Nat) (tile : Bool) : SMap (BitVec 48) :=
  accs.filter (fun p => !(decide (accKey peri tile 0 ≤ p.1) && decide (p.1 < accKey peri tile 2048)))

/-! ## The sense check and the diagnosis (R121, R366) -/

/-- The difference of column m in a cycle from its intended sum, once the cox has served flagged segments. -/
def TileCtx.diff (x : TileCtx) (convs : List Conv) (row plane i m mask : Nat) : Int :=
  match convs.find? (fun v => v.row == row && v.plane == plane && v.i == i && v.m == m) with
  | some v => if v.flagged then 0 else v.used - x.intended mask i m
  | none => activeSum mask i (fun r => adjAt x.stored r m + adjAt x.stuck r m)

/-- The logical columns that can differ in row group i. -/
def TileCtx.columns (x : TileCtx) (convs : List Conv) (i : Nat) : List Nat :=
  (List.range 256).filter (fun m =>
    convs.any (fun v => v.i == i && v.m == m) || (x.stored ++ x.stuck).any (fun a => a.row / 16 == i && a.col == m))

/-- The check of one cycle and row group (R121): a mismatch, or none. -/
def TileCtx.check (x : TileCtx) (convs : List Conv) (row plane i : Nat) (cols : List Nat) : Option Mismatch :=
  let mask := activeMask (planesOf x.op.inFmt) ((x.rows[row]?).getD []) i plane
  let ds := cols.map (fun m => (m, x.diff convs row plane i m mask))
  let dA := ds.foldl (fun s d => s + d.2) 0
  let dB := trunc 16 (ds.foldl (fun s d => s + ((d.1 : Int) + 1) * d.2) 0)
  if dA = 0 && dB = 0 then none
  else some { row := row, plane := plane, i := i, dA := dA, dB := dB, mask := mask }

/-- Every mismatch of a TILE, cycle by cycle. -/
def TileCtx.mismatches (x : TileCtx) (convs : List Conv) : List Mismatch :=
  if convs.isEmpty && x.stored.isEmpty && x.stuck.isEmpty then []
  else
    (List.range 16).flatMap (fun i =>
      let cols := x.columns convs i
      if cols.isEmpty then []
      else (List.range x.op.rows).flatMap (fun row =>
        (List.range (planesOf x.op.inFmt)).filterMap (fun b => x.check convs row b i cols)))

/-- The column at which a mismatch is located (R366): ΔA ≠ 0 and ΔB ≡ (m + 1)·ΔA for exactly one m. -/
def Mismatch.column (v : Mismatch) : Option Nat :=
  if v.dA = 0 then none
  else
    match (List.range 256).filter (fun (m : Nat) => trunc 16 (((m : Int) + 1) * v.dA) == v.dB) with
    | [m] => some m
    | _ => none

/-- The rows of a row group that carry an input in some plane of some tile row. -/
def TileCtx.activeRows (x : TileCtx) (i : Nat) : Nat :=
  (List.range 16).foldl (fun s k => s + field (flag (x.rows.any (fun xs => rowAt xs (16 * i + k) != 0))) k) 0

/-- The cycles of this TILE in which column m of row group i matched: the union of their active rows. -/
def TileCtx.matched (x : TileCtx) (ms : List Mismatch) (i m : Nat) : Nat :=
  let P := planesOf x.op.inFmt
  (List.range x.op.rows).foldl (fun s row =>
    (List.range P).foldl (fun s b =>
      if ms.any (fun v => v.row == row && v.plane == b && v.i == i && (v.column == some m || v.column == none)) then s
      else s ||| activeMask P ((x.rows[row]?).getD []) i b) s) 0

/-- The candidate set of column m of row group i after the mismatches located there, without the rows that matching cycles cleared: narrowed
from what the array kept within 10 s (R366). -/
def Arr.narrowed (a : Arr) (here : List Mismatch) (clear tier stroke now i m : Nat) : Cand :=
  let kept := a.cands.find? (fun k => k.tier == tier && k.rowGroup == i && k.column == m && decide (now ≤ k.time + tenSeconds))
  let earlier := if a.seenStroke = stroke then look 0 a.seen (tier * 16 + i) else 0
  let common := here.foldl (fun s v => s &&& v.mask) ((kept.map (·.rows)).getD 0xFFFF)
  let errs := (here.map (·.dA)) ++ (match kept.bind (·.err) with | some e => [e] | none => [])
  let same := match errs with
    | e :: l => if l.all (· == e) then some e else none
    | [] => none
  { tier := tier, rowGroup := i, column := m
    rows := common &&& (0xFFFF ^^^ ((clear ||| earlier) &&& 0xFFFF)), err := same, stroke := stroke, time := now }

/-- The candidate set after this TILE: `ms` are the mismatches declared with it, `all` those held for the cox among them. -/
def TileCtx.candidate (x : TileCtx) (a : Arr) (ms all : List Mismatch) (tier stroke now i m : Nat) : Cand :=
  a.narrowed (ms.filter (fun v => v.i == i && v.column == some m)) (x.matched all i m) tier stroke now i m

/-- A diagnosed cell (R366): one candidate row and one common difference. -/
def Cand.cell (k : Cand) : Option (Nat × Int) :=
  match k.err with
  | some e =>
    match (List.range 16).filter (fun b => bitOf k.rows b) with
    | [b] => some (16 * k.rowGroup + b, e)
    | _ => none
  | none => none

/-- The located columns of a TILE's mismatches, each once. -/
def locatedColumns (ms : List Mismatch) : List (Nat × Nat) :=
  (ms.filterMap (fun v => v.column.map (fun m => (v.i, m)))).eraseDups

/-- One located column of a tier: diagnosed, its stuck entry waits for the restart boundary; else its candidates are kept (R366). -/
def Chip.diagnose (c : Chip) (core cells tier : Nat) (int4 : Bool) (im : Nat × Nat) (k : Cand) : Chip :=
  let a := c.arr cells
  let rest := a.cands.filter (fun q => !(q.tier == tier && q.rowGroup == im.1 && q.column == im.2))
  match k.cell with
  | some (row, e) =>
    let pcol := a.physCol im.1 im.2
    let want := intendedDigit c.mem.tiers (tierKey cells tier) int4 row im.2
    let got : Int := want + e
    let c := c.upArr cells (fun a => { a with cands := rest })
    let c := c.event (srcCore core) 2 0x102 true (arrLocus cells (some im.1) (some tier))
      (row + field pcol 8 + field want 17 + field (trunc 2 got) 19)
    c.addRemedy (.stuck cells { tier := Fin.ofNat 64 tier, row := Fin.ofNat 256 row, column := pcol, intended := BitVec.ofNat 2 want, stuck := got })
  | none => c.upArr cells (fun a => { a with cands := rest ++ [k] })

/-- One mismatch (R124): a dangerous event; one whose column is diagnosed leaves no count at the periphery (R363). -/
def Chip.senseFail (c : Chip) (core cells peri tier : Nat) (diagnosed : List (Nat × Nat)) (v : Mismatch) : Chip :=
  let c := c.upCore core (fun k => { k with senseFails := satAdd k.senseFails 1 })
  let detail := trunc 16 v.dA + field v.dB 16
  let known := match v.column with
    | some m => diagnosed.contains (v.i, m)
    | none => false
  if known then
    let c := { c with saf := { c.saf with dangCompute := satAdd c.saf.dangCompute 1 } }
    (c.event (srcCore core) 1 0x101 true (arrLocus cells (some v.i) (some tier)) detail).callRegion (core / 34)
  else
    c.danger (core / 34) (srcCore core) 0x101 (arrLocus cells (some v.i) (some tier)) detail (.periphery peri) 3 (.periphery peri)

/-- A check that was held, once the cox has served the last of its flagged items (R121). -/
def Chip.heldFail (core : Nat) (c : Chip) (h : HeldCheck) : Chip :=
  match h.miss.column with
  | some m =>
    let k := (c.arr h.cells).narrowed [h.miss] h.clear h.tier (c.region (core / 34)).stroke.toNat c.clk.aon h.miss.i m
    let c := c.senseFail core h.cells h.array h.tier (if k.cell.isSome then [(h.miss.i, m)] else []) h.miss
    c.diagnose core h.cells h.tier (c.tier (tierKey h.cells h.tier)).int4 (h.miss.i, m) k
  | none => c.senseFail core h.cells h.array h.tier [] h.miss

/-! ## Benchmarks and items -/

/-- Whether a row group holds a benchmark (R123): its spare plot neither substituted nor being copied into, nor retired. -/
def Arr.benchmark (a : Arr) (i : Nat) : Bool :=
  let s := a.sub i
  !s.active && !(s.copying && s.since.isSome) && !s.spareFailed

/-- A benchmark mismatch (R123, R363): dangerous. A second one at the array and row group within the 256 strokes after
the restart boundary of the first calls for the spare periphery; one after that retires the spare plot. `benchFail` holds,
per row group, 1 while the restart is awaited, n + 2 from the restart at stroke n, and at 16 + i whether R111 was called. -/
def Chip.benchFail (core cells peri tier : Nat) (c : Chip) (b : BenchMiss) : Chip :=
  let a := c.arr cells
  let i := b.rowGroup.val
  if !a.benchmark i then c
  else
    let stroke := (c.region (core / 34)).stroke.toNat
    let prev := look 0 a.benchFail i
    let again := decide (2 ≤ prev) && decide (stroke < prev - 2 + 256)
    let swapped := look 0 a.benchFail (16 + i) = 1
    let c := c.upCore core (fun k => { k with benchFails := satAdd k.benchFails 1 })
    let c := { c with saf := { c.saf with dangCompute := satAdd c.saf.dangCompute 1 } }
    let c := c.event (srcCore core) (if again || swapped then 2 else 1) 0x103 true (arrLocus cells (some i) (some tier)) b.cycle
    let c := c.upArr cells (fun a => { a with
      benchFail := put 0 (put 0 a.benchFail i 1) (16 + i) (if again || swapped then 1 else 0) })
    let c := if swapped then c.addRemedy (.spareFailed cells i) else if again then c.addRemedy (.periphery peri) else c
    c.callRegion (core / 34)

/-- A plot's key: physical array, row group, physical column group. -/
def plotKey (array i j : Nat) : Nat := (array * 16 + i) * 17 + j

/-- Whether the weak-plot table holds a plot's digits (R129). -/
def CoreSt.tableValid (k : CoreSt) (array i j : Nat) : Bool :=
  k.table.any (fun e => e.2.state == 3 && e.2.array == array && e.2.rowGroup == i && e.2.colGroup == j)

/-- An overflow (R133): counted, the jobs called; its record and its remedy come with the restart boundary. `tick` is the body tick, `key`
the plot without an entry, or the unserved item's. -/
def Chip.coxOverflow (c : Chip) (core kind tick key : Nat) : Chip :=
  let c := c.upCore core (fun k => { k with
    noEntry := satIf (kind == 2) k.noEntry, slotsLost := satIf (kind == 1) k.slotsLost, lost := k.lost ++ [(kind, tick, key)] })
  c.callRegion (core / 34)

/-- A flagged item of a plot enters its flag rate (R135): the number of its sensing stroke, the newest 65,536 strokes kept. -/
def Arr.flagged (a : Arr) (plot ahead : Nat) : Arr :=
  let kept := (look [] a.flags plot).filter (fun n => decide (a.senses < n + 65536))
  { a with flags := put [] a.flags plot (kept ++ [a.senses + ahead]) }

/-- The flagged items of a plot in the last 65,536 strokes in which its array sensed; before so many, those counted so far (R135). -/
def Arr.flagCount (a : Arr) (plot : Nat) : Nat :=
  ((look [] a.flags plot).filter (fun n => decide (n < a.senses + 1) && decide (a.senses < n + 65536))).length

/-- A flagged conversion is posted to the cox (R92, R119, R126): an item that arrives 48 ticks after its sense cycle began. -/
def Chip.postItem (x : TileCtx) (core cells peri issue E v0 : Nat) (c : Chip) (v : Conv) : Chip :=
  let P := planesOf x.op.inFmt
  let d := digitsOf x.op.wInt4
  let j := (c.arr cells).physCol v.i v.m / 16
  let tick := v0 + 32 * (v.row * P + v.plane) + 48
  let c := c.upArr cells (fun a =>
    ({ a with oor := if v.oor then put 0 a.oor (v.i * 17 + j) (look 0 a.oor (v.i * 17 + j) + 1) else a.oor }).flagged
      (v.i * 17 + j) (tick / 4096 - issue / 4096))
  let item : CoxItem :=
    { array := peri, logical := x.op.array.val, cells := cells, tile := x.op.tile, tier := x.T, rowGroup := v.i, column := v.m, row := v.row
      plane := v.plane, rowBits := v.mask, codeUsed := v.used, scale := planeWeight P v.plane * 4 ^ (v.m % d), posted := tick
      deadline := E + 272, entry := v.row * columnsOf x.op.wInt4 + v.m / d }
  c.upCore core (fun k => { k with coming := k.coming ++ [item] })

/-- Whether a cycle and row group hold a flagged segment (R121). -/
def flaggedGroup (convs : List Conv) (v : Mismatch) : Bool :=
  convs.any (fun q => q.flagged && q.row == v.row && q.plane == v.plane && q.i == v.i)

/-- The checks of a TILE that the cox must first serve (R121). -/
def TileCtx.heldChecks (x : TileCtx) (cells peri tier deadline : Nat) (convs : List Conv) (ms : List Mismatch) : List HeldCheck :=
  (ms.filter (flaggedGroup convs)).map (fun v =>
    { array := peri, deadline := deadline, cells := cells, tier := tier, miss := v
      clear := match v.column with | some m => x.matched ms v.i m | none => 0 })

/-- A tile's state at a body tick (R64): a drain that is over has freed it. -/
def Tile.at (t : Tile) (tick : Nat) : TileSt := if t.st = .draining && decide (t.since ≤ tick) then .free else t.st

/-- A TILE that issues on logical core `lc` (R61 to R64, R82). -/
def Chip.tileIssue (c : Chip) (st : Site) (j : Job) (g lc core : Nat) (op : TileOp) (rds : List Reading)
    (bench : List BenchMiss) (p : Path) : Chip :=
  let cells := c.cellsOf g lc op.array.val
  let peri := c.periOf cells
  let a := c.arr cells
  let tier := (look op.tier a.map op.tier.val).val
  let T := tierKey cells tier
  let tst := (c.tile (tileKey peri op.tile)).at st.tick
  let sigma := if (c.arr peri).lastTile = some op.tier.val then 0 else 64
  if op.rows = 0 then c.upArr peri (fun a => { a with lastTile := some op.tier.val })
  else if (c.tier T).st = .programming || (if op.accumulate then !(tst = .filling || tst = .ready) else tst != .free) then
    c.scheduleFault j g (srcCore core) (arrLocus cells none) (c.issueIndex j st 1)
  else
    let P := planesOf op.inFmt
    let E := st.tick + sigma + 32 * op.rows * P
    let x : TileCtx :=
      { img := c.mem.tiers, T := T, op := op, stored := storedAdj c cells T op.wInt4, stuck := stuckAdj a tier
        rows := (List.range op.rows).map (appliedRow c.mem.cstg (coreByte core op.src.toNat) op) }
    let convs := (rds.filter (fun r => r.row < op.rows && r.plane < P)).map x.conv
    let C := columnsOf op.wInt4
    let sums := (List.range op.rows).flatMap (fun r => (List.range C).map (fun q => (accKey peri op.tile (r * C + q), x.result convs r q)))
    let cleared := if op.accumulate then c.accs else accClear c.accs peri op.tile
    let (accs, held) := accAdds cleared sums
    let stroke := (c.region g).stroke.toNat
    let ms := x.mismatches convs
    let c := { c with accs := accs }
    let c := c.upTile (tileKey peri op.tile) (fun _ => { st := .filling, job := some j.id, since := E + 272 })
    let c := c.upArr peri (fun a => { a with
      lastTile := some op.tier.val
      mirror := (a.mirror ++ [({ tile := op.tile, tier := op.tier.val, int4 := op.wInt4, rows := x.rows
                                 lastRead := st.tick + op.rows - 1, ready := E + 272 } : Mirror)]).drop (a.mirror.length - 1) })
    let c := c.upCore core (fun k => { k with
      accRange := satAdd k.accRange held, heldChecks := k.heldChecks ++ x.heldChecks cells peri tier (E + 272) convs ms })
    let c := c.accFaults core peri held
    let c := overAll (convs.filter (·.flagged)) (Chip.postItem x core cells peri st.tick E (st.tick + sigma)) c
    let now := ms.filter (fun v => !(flaggedGroup convs v))
    let cand (c : Chip) (im : Nat × Nat) : Cand := x.candidate (c.arr cells) now ms tier stroke c.clk.aon im.1 im.2
    let diagnosed := (locatedColumns now).filter (fun im => (cand c im).cell.isSome)
    let c := overAll now (fun c v => c.senseFail core cells peri tier diagnosed v) c
    let c := overAll (locatedColumns now) (fun c im => c.diagnose core cells tier op.wInt4 im (cand c im)) c
    let c := overAll bench (Chip.benchFail core cells peri tier) c
    let c := c.upArr cells (fun a =>
      let old := if a.seenStroke = stroke then a.seen else []
      { a with seenStroke := stroke
               senseLeft := max a.senseLeft ((E - 1) / 4096 - st.tick / 4096 + 1)
               seen := (List.range 16).foldl (fun m i =>
                 if ms.any (fun v => v.i == i) then m else put 0 m (tier * 16 + i) (look 0 m (tier * 16 + i) ||| x.activeRows i)) old })
    (c.when op.accumulate (fun c => c.accPath core peri p)).corePath j.id core peri p

/-- ARR.TILE (R61 to R63): an array tile-op. -/
def execArrTile (st : Site) (op : TileOp) (rds : List Reading) (bench : List BenchMiss) (p : Path) (s : State) :
    Host.Outcome State Fault Refusal :=
  if !op.legal || !st.onCore then .refused (.illFormed "ARR.TILE field outside R61")
  else if !inCore op.src.toNat (op.rows * rowBytes op.inFmt) then .fault (.outsideStaging (16 * op.src.toNat))
  else match s.toChip.atSite st, st.core with
    | some (j, g), some lc =>
      let core := s.toChip.seat g lc.val
      if p.fetchBad then act (fun c => c.coreCode core 3) s
      else act (fun c => c.tileIssue st j g lc.val core op rds bench p) s
    | _, _ => .next s

/-- TILE_READY (R64): the tile's chain is combined and patched; filling becomes ready. -/
def execTileReady (job : JobId) (region : Fin 16) (core : Fin 32) (array : Fin 16) (tile : Bool) (s : State) :
    Host.Outcome State Fault Refusal :=
  act (fun c => c.onCore { job := job, region := region, core := some core, tick := 0 } (fun c _ g _ =>
    let key := tileKey (c.periOf (c.cellsOf g core.val array.val)) tile
    if (c.tile key).st = .filling then c.upTile key (fun t => { t with st := .ready }) else c)) s

/-- A drain that issues (R65): the 2,048 entries in order, 8 bytes each, sign-extended; the tile is free 256 ticks later. -/
def Chip.drainIssue (c : Chip) (st : Site) (j : Job) (g lc core : Nat) (op : DrainOp) (p : Path) : Chip :=
  let peri := c.periOf (c.cellsOf g lc op.array.val)
  if (c.tile (tileKey peri op.tile)).st != .ready then
    c.scheduleFault j g (srcCore core) (arrLocus peri none) (c.issueIndex j st 1)
  else
    let bytes := (List.range 2048).flatMap (fun e => leBytes 8 (trunc 64 (c.accOf peri op.tile e)))
    let c := { c with mem := { c.mem with cstg := writeBytes c.mem.cstg (coreByte core op.dst.toNat) bytes } }
    let c := c.upTile (tileKey peri op.tile) (fun t => { t with st := .draining, since := st.tick + 256 })
    let c := c.accPath core peri p
    c.residues p.residue g core peri (fun _ => 0)

/-- ARR.DRAIN (R65): a ready tile is copied to core staging, draining for 256 ticks and then free. -/
def execArrDrain (st : Site) (op : DrainOp) (p : Path) (s : State) : Host.Outcome State Fault Refusal :=
  if !st.onCore then .refused (.illFormed "ARR outside a core stream, R51")
  else if !inCore op.dst.toNat 16384 then .fault (.outsideStaging (16 * op.dst.toNat))
  else match s.toChip.atSite st, st.core with
    | some (j, g), some lc =>
      let core := s.toChip.seat g lc.val
      if p.fetchBad then act (fun c => c.coreCode core 3) s
      else act (fun c => c.drainIssue st j g lc.val core op p) s
    | _, _ => .next s

/-- CHECK_PATH_EXERCISE (R123, R124, R363): in the stroke whose count modulo 256 is 15·a the compare must fail; one that
does not is dangerous, and permanent when the exercise before it did not fail either. -/
def execCheckPathExercise (g : Fin 16) (k : Fin 34) (a : Fin 17) (compareFailed : Bool) (s : State) :
    Host.Outcome State Fault Refusal :=
  act (fun c =>
    let core := g.val * 34 + k.val
    let array := core * 17 + a.val
    if (c.region g.val).stroke.toNat % 256 != 15 * a.val then c
    else if compareFailed then c.upArr array (fun x => { x with exerciseFail := false })
    else
      let again := (c.arr array).exerciseFail
      let c := c.upCore core (fun k => { k with benchFails := satAdd k.benchFails 1 })
      let c := { c with saf := { c.saf with dangCompute := satAdd c.saf.dangCompute 1 } }
      let c := c.event (srcCore core) (if again then 2 else 1) 0x104 true (arrLocus array none) 0
      let c := c.upArr array (fun x => { x with exerciseFail := !again })
      let c := c.when again (fun c => c.addRemedy (.periphery array))
      c.callRegion g.val) s

/-- OPTICAL_CHECK_PATH_EXERCISE (R155, R363): as R123 for an optical plot, in the stroke whose count modulo 256 is o. -/
def execOpticalCheckPathExercise (g : Fin 16) (o : Fin 136) (compareFailed : Bool) (s : State) :
    Host.Outcome State Fault Refusal :=
  act (fun c =>
    let k := g.val * 136 + o.val
    if (c.region g.val).stroke.toNat % 256 != o.val then c
    else if compareFailed then c.upPlot k (fun x => { x with exerciseFail := false })
    else
      let again := (c.plot k).exerciseFail
      let c := { c with saf := { c.saf with dangCompute := satAdd c.saf.dangCompute 1 } }
      let c := c.event (srcRgn g.val) (if again then 2 else 1) 0x104 true (plotLocus k) 0
      let c := c.upPlot k (fun x => { x with exerciseFail := !again })
      let c := c.when again (fun c => c.addRemedy (.plot k 4))
      c.callRegion g.val) s

end Sys2Proof.Machine
end

