-- ==== Sys2Proof/Machine/Cox.lean ====
section
/-! DEFINITION. The correction path of a core: slots, items, escapes, overflow, the weak-plot table (R125 to R133). -/

namespace Sys2Proof.Machine

/-- The escape corrections booked in the slot at a stroke tick by a core's cox table in a phase (R130). -/
def bookedEscapes (i : Image) (phase region core tick : Nat) : Nat :=
  match i.coxSlots.find? (fun s => s.phase == phase && s.region == region && s.core == core && !s.sequencer && s.start == tick) with
  | some s => s.bytes
  | none => 0

/-- The order of R127: earliest deadline, then lower logical array, tile row, plane, logical column. -/
def CoxItem.key (x : CoxItem) : List Nat := [x.deadline, x.logical, x.row, x.plane, x.column]

/-- Whether one key comes before another, item by item. -/
def keyBefore : List Nat → List Nat → Bool
  | a :: l, b :: m => decide (a < b) || (a == b && keyBefore l m)
  | _, _ => false

/-- The eligible item that a free slot serves (R126, R127). -/
def chooseItem (items : List CoxItem) (start : Nat) : Option CoxItem :=
  (items.filter (fun x => decide (x.posted ≤ start) && decide (start + 128 ≤ x.deadline))).foldl
    (fun best x => match best with
      | none => some x
      | some b => if keyBefore x.key b.key then some x else some b) none

/-- Whether a held check waits for an item: its TILE, row group and cycle (R121). -/
def HeldCheck.waitsFor (h : HeldCheck) (x : CoxItem) : Bool :=
  h.array == x.array && h.deadline == x.deadline && h.miss.row == x.row && h.miss.plane == x.plane && h.miss.i == x.rowGroup

/-- The checks that an item leaves to be made: those it was the last flagged item of. -/
def CoreSt.released (k : CoreSt) (x : CoxItem) : List HeldCheck :=
  k.heldChecks.filter (fun h => h.waitsFor x && !((k.items ++ k.coming).any h.waitsFor))

/-- An item served (R128): the exact sum of intended digits over the active rows, less the code used, at the plane weight
and digit position, added to its entry; a check that waited for it alone is made (R121). -/
def Chip.serveItem (c : Chip) (core : Nat) (x : CoxItem) : Chip :=
  let int4 := (c.tier x.tier).int4
  let exact := activeSum x.rowBits x.rowGroup (fun r => (intendedDigit c.mem.tiers x.tier int4 r x.column : Int))
  let (accs, held) := accAdd c.accs (accKey x.array x.tile x.entry) ((exact - x.codeUsed) * x.scale)
  let c := { c with accs := accs }
  let c := c.upCore core (fun k => { k with
    items := k.items.filter (fun y => decide (y ≠ x)), served := satAdd k.served 1, itemsNow := k.itemsNow + 1
    accRange := satIf held k.accRange })
  let c := c.when held (fun c => c.accFault core x.array)
  let hs := (c.core core).released x
  let c := c.upCore core (fun k => { k with heldChecks := k.heldChecks.filter (fun h => !(hs.contains h)) })
  overAll hs (Chip.heldFail core) c

/-- An item that is never served: it goes, and the checks that wait for it are never made (R121, R133). -/
def Chip.dropItem (c : Chip) (core : Nat) (x : CoxItem) : Chip :=
  c.upCore core (fun k => { k with
    items := k.items.filter (fun y => decide (y ≠ x)), coming := k.coming.filter (fun y => decide (y ≠ x))
    heldChecks := k.heldChecks.filter (fun h => !(h.waitsFor x)) })

/-- The plot of an item (R133). -/
def Chip.itemPlot (c : Chip) (x : CoxItem) : Nat := plotKey x.cells x.rowGroup ((c.arr x.cells).physCol x.rowGroup x.column / 16)

/-- An item arrives (R119, R133): pending when its plot's digits are in the table, else an overflow of the second kind. -/
def Chip.arriveItem (core : Nat) (c : Chip) (x : CoxItem) : Chip :=
  let key := c.itemPlot x
  let c := c.upCore core (fun k => { k with coming := k.coming.filter (fun y => decide (y ≠ x)), posted := k.posted ++ [(x.posted, key)] })
  if (c.core core).tableValid x.cells x.rowGroup (key % 17) then c.upCore core (fun k => { k with items := k.items ++ [x] })
  else (c.dropItem core x).coxOverflow core 2 x.posted key

/-- The items whose posting tick is reached arrive. -/
def Chip.arrivals (c : Chip) (core tick : Nat) : Chip :=
  overAll ((c.core core).coming.filter (fun x => decide (x.posted ≤ tick))) (Chip.arriveItem core) c

/-- A decoded escape descriptor (R131). -/
structure Escape where
  array : Nat
  tile : Bool
  int4 : Bool
  tier : Nat
  row : Nat
  col : Nat
  delta : Int
  reserved : Bool
deriving DecidableEq, Repr

/-- The descriptor at a byte address of core staging (R131). -/
def readEscape (m : Mem) (a : Nat) : Escape :=
  let t := readLE m a 1
  { array := t % 16, tile := bitOf t 4, int4 := bitOf t 5, tier := readLE m (a + 1) 1, row := readLE m (a + 2) 1
    col := readLE m (a + 3) 1, delta := sext 32 (readLE m (a + 4) 4)
    reserved := t / 64 != 0 || 64 ≤ readLE m (a + 1) 1 || readLE m (a + 8) 8 != 0 }

/-- The TILE that an escape names (R132): the older qualifying mirror bank. -/
def Escape.named (e : Escape) (banks : List Mirror) (s : Nat) : Option Mirror :=
  banks.find? (fun b => b.tile == e.tile && b.tier == e.tier && decide (b.lastRead < s) && decide (s + 127 < b.ready))

/-- Whether the cox performs the correction (R132): the formats agree, the column is in range, delta is v − e for an INT16
v, no reserved bit is set. -/
def Escape.ok (e : Escape) (b : Mirror) : Bool :=
  let v := e.delta - (if e.int4 then 8 else 128)
  e.int4 == b.int4 && decide (e.col < columnsOf e.int4) && decide (-32768 ≤ v) && decide (v ≤ 32767) && !e.reserved

/-- One booked escape correction (R130 to R132): delta times the applied value of its tier row, added to each tile row's
entry; a correction that qualifies no TILE is refused at run time (R82). -/
def Chip.escape (c : Chip) (j : Job) (g lc core s : Nat) : Chip :=
  let staging := match c.imageOf j with
    | some i => ((i.regions.find? (fun r => some r.region == j.logical g)).map (·.coreStaging)).getD 0
    | none => 0
  let n := (c.core core).escapes
  let e := readEscape c.mem.cstg (core * 2 ^ 20 + staging - 4096 + 16 * (n % 256))
  let peri := c.periOf (c.cellsOf g lc e.array)
  let c := c.upCore core (fun k => { k with escapes := k.escapes + 1 })
  match e.named (c.arr peri).mirror s with
  | none => c.scheduleFault j g (srcCore core) (coreLocus core) n
  | some b =>
    if !e.ok b then c.scheduleFault j g (srcCore core) (coreLocus core) n
    else
      let adds := (List.range b.rows.length).map (fun r =>
        (accKey peri e.tile (r * columnsOf e.int4 + e.col), e.delta * rowAt ((b.rows[r]?).getD []) e.row))
      let (accs, held) := accAdds c.accs adds
      let c := { c with accs := accs }
      let c := c.upCore core (fun k => { k with accRange := satAdd k.accRange held })
      c.accFaults core peri held

/-- `n` booked corrections in turn. -/
def Chip.escapes (c : Chip) (j : Job) (g lc core s : Nat) : Nat → Chip
  | 0 => c
  | n + 1 => (c.escape j g lc core s).escapes j g lc core s n

/-- The plot that an overflow of the first kind names (R133): the one with the most items posted in the stroke, lowest
array, row group, column group first; else the unserved item's. -/
def offendingPlot (posted : List (Nat × Nat)) (start own : Nat) : Nat :=
  let here := (posted.filter (fun p => p.1 / 4096 == start / 4096)).map (·.2)
  let count (k : Nat) : Nat := (here.filter (· == k)).length
  here.foldl (fun best k => if count best < count k || (count best == count k && k < best) then k else best)
    (match here with | k :: _ => k | [] => own)

/-- Items whose last eligible slot begins at `start` and served something else are overflows of the first kind (R133). -/
def Chip.missed (c : Chip) (core start : Nat) : Chip :=
  overAll ((c.core core).items.filter (fun x => decide (x.deadline < start + 256)))
    (fun c x => (c.dropItem core x).coxOverflow core 1 start (c.itemPlot x)) c

/-- The overflows of a core's stroke at its end (R133): the offending plot of each is logged, and takes its table entry at the restart. -/
def Chip.coxOffend (core : Nat) (c : Chip) (o : Nat × Nat × Nat) : Chip :=
  let k := if o.1 = 1 then offendingPlot (c.core core).posted o.2.1 o.2.2 else o.2.2
  (c.event (srcCore core) 1 0x107 true (arrLocus (k / 272) (some (k / 17 % 16))) o.1).addRemedy
    (.coxEntry core (k / 272) (k / 17 % 16) (k % 17))

/-- A core's overflows resolved at the end of a stroke whose last body tick is `tick`. -/
def Chip.coxStroke (c : Chip) (core tick : Nat) : Chip :=
  let c := c.arrivals core tick
  (overAll (c.core core).lost (Chip.coxOffend core) c).upCore core (fun k => { k with lost := [] })

/-- The periphery whose accumulators a slot patches, for the record of a fault (R186). -/
def slotPeri (k : CoreSt) (core start : Nat) : Nat := match chooseItem k.items start with | some x => x.array | none => core * 17

/-- COX_SLOT (R125): the slot that starts at body tick `start` serves its booked escapes, else the pending item of the
earliest deadline, else a dummy; then an item that has lost its last slot is an overflow. -/
def execCoxSlot (job : JobId) (region : Fin 16) (lc : Fin 32) (start : Nat) (p : Path) (s : State) :
    Host.Outcome State Fault Refusal :=
  act (fun c => c.onCore { job := job, region := region, core := some lc, tick := start } (fun c j g core =>
    let booked := match c.imageOf j, c.pos j with
      | some i, some q => bookedEscapes i q.phase region.val lc.val (start % 4096)
      | _, _ => 0
    let c := c.arrivals core start
    let peri := slotPeri (c.core core) core start
    let c :=
      if start % 128 != 0 then c
      else if booked != 0 then c.escapes j g lc.val core start booked
      else match chooseItem (c.core core).items start with
        | some x => c.serveItem core x
        | none => c
    ((c.missed core start).accPath core peri p).corePath j.id core (core * 17) p)) s

/-- The unused entries, and the entry that a plot takes at a restart boundary (R133 step 2): none when the plot holds one or
every entry is filling; an unused one; else the valid one of the largest margin. -/
def CoreSt.takeEntry (k : CoreSt) (array i j : Nat) : Option Nat :=
  let e (n : Nat) : TableEntry := look {} k.table n
  let holds := (List.range 16).any (fun n => (e n).state != 0 && (e n).array == array && (e n).rowGroup == i && (e n).colGroup == j)
  if holds then none
  else match (List.range 16).find? (fun n => (e n).state == 0) with
    | some n => some n
    | none =>
      ((List.range 16).filter (fun n => (e n).state == 3)).foldl (fun best n =>
        match best with
        | none => some n
        | some b => if (e b).margin.toNat < (e n).margin.toNat then some n else some b) none

/-- The entry that has waited longest: a waiting entry's `strokes` is its turn (R129). -/
def longestWaiting (t : SMap TableEntry) : Option (Nat × TableEntry) :=
  (t.filter (fun e => e.2.state == 1)).foldl (fun best e =>
    match best with
    | none => some e
    | some b => if e.2.strokes < b.2.strokes then some e else some b) none

/-- The turn of an entry taken now: after every waiting one. -/
def nextTurn (t : SMap TableEntry) : Nat :=
  (t.filter (fun e => e.2.state == 1)).foldl (fun n e => max n (e.2.strokes + 1)) 0

/-- The table with the next waiting entry filling when no entry fills (R129). -/
def CoreSt.startFill (k : CoreSt) : CoreSt :=
  if k.table.any (fun e => e.2.state == 2) then k
  else match longestWaiting k.table with
    | some (n, e) => { k with table := put {} k.table n { e with state := 2, strokes := 0 } }
    | none => k

/-- A plot taken into the weak-plot table (R129, R133). -/
def CoreSt.addEntry (k : CoreSt) (array i j : Nat) (margin : BitVec 8) : CoreSt :=
  match k.takeEntry array i j with
  | some n =>
    ({ k with table := put {} k.table n { state := 1, strokes := nextTurn k.table, array := array, rowGroup := i, colGroup := j, margin := margin } }).startFill
  | none => k

/-- A plot's entry released (R136). -/
def CoreSt.dropEntry (k : CoreSt) (array i j : Nat) : CoreSt :=
  ({ k with table := k.table.filter (fun e => !(e.2.array == array && e.2.rowGroup == i && e.2.colGroup == j)) }).startFill

/-- TABLE_ENTRY_FILLED (R129): an entry whose 16 strokes have carried its data is valid, and the next one begins. -/
def execTableEntryFilled (g : Fin 16) (k : Fin 34) (entry : Fin 16) (s : State) : Host.Outcome State Fault Refusal :=
  act (fun c => c.upCore (g.val * 34 + k.val) (fun q =>
    let e : TableEntry := look {} q.table entry.val
    if e.state = 2 && 16 ≤ e.strokes then
      ({ q with table := put {} q.table entry.val { e with state := 3 } }).startFill
    else q)) s

end Sys2Proof.Machine
end

