-- ==== Sys2Proof/Machine/Sha.lean ====
section
/-! DEFINITION. SHA-512 (R42, R45, R247, R320, R321, R329, R388, R391 name it by its standard, FIPS 180-4; log entry 27): over a byte list, and running, as the save record's provenance state keeps it. -/

namespace Sys2Proof.Machine

/-- The 64-bit words of a number, the highest first: `n` of them. -/
def numWords (x n : Nat) : List (BitVec 64) := (List.range n).map (fun i => BitVec.ofNat 64 (x >>> (64 * (n - 1 - i))))

/-- The round constants, in four numbers of twenty words: the first 64 bits of the fractional part of the cube roots of the first 80 primes. -/
def shaCubes0 : Nat :=
  0x428a2f98d728ae227137449123ef65cdb5c0fbcfec4d3b2fe9b5dba58189dbbc3956c25bf348b53859f111f1b605d019923f82a4af194f9bab1c5ed5da6d8118d807aa98a303024212835b0145706fbe243185be4ee4b28c550c7dc3d5ffb4e272be5d74f27b896f80deb1fe3b1696b19bdc06a725c71235c19bf174cf692694e49b69c19ef14ad2efbe4786384f25e30fc19dc68b8cd5b5240ca1cc77ac9c65
def shaCubes1 : Nat :=
  0x2de92c6f592b02754a7484aa6ea6e4835cb0a9dcbd41fbd476f988da831153b5983e5152ee66dfaba831c66d2db43210b00327c898fb213fbf597fc7beef0ee4c6e00bf33da88fc2d5a79147930aa72506ca6351e003826f142929670a0e6e7027b70a8546d22ffc2e1b21385c26c9264d2c6dfc5ac42aed53380d139d95b3df650a73548baf63de766a0abb3c77b2a881c2c92e47edaee692722c851482353b
def shaCubes2 : Nat :=
  0xa2bfe8a14cf10364a81a664bbc423001c24b8b70d0f89791c76c51a30654be30d192e819d6ef5218d69906245565a910f40e35855771202a106aa07032bbd1b819a4c116b8d2d0c81e376c085141ab532748774cdf8eeb9934b0bcb5e19b48a8391c0cb3c5c95a634ed8aa4ae3418acb5b9cca4f7763e373682e6ff3d6b2b8a3748f82ee5defb2fc78a5636f43172f6084c87814a1f0ab728cc702081a6439ec
def shaCubes3 : Nat :=
  0x90befffa23631e28a4506cebde82bde9bef9a3f7b2c67915c67178f2e372532bca273eceea26619cd186b8c721c0c207eada7dd6cde0eb1ef57d4f7fee6ed17806f067aa72176fba0a637dc5a2c898a6113f9804bef90dae1b710b35131c471b28db77f523047d8432caab7b40c724933c9ebe0a15c9bebc431d67c49c100d4c4cc5d4becb3e42b6597f299cfc657e2a5fcb6fab3ad6faec6c44198c4a475817
def shaK : List (BitVec 64) := numWords shaCubes0 20 ++ numWords shaCubes1 20 ++ numWords shaCubes2 20 ++ numWords shaCubes3 20

/-- The initial working words: the same of the square roots of the first eight primes. -/
def shaRoots : Nat :=
  0x6a09e667f3bcc908bb67ae8584caa73b3c6ef372fe94f82ba54ff53a5f1d36f1510e527fade682d19b05688c2b3e6c1f1f83d9abfb41bd6b5be0cd19137e2179
def shaInit : List (BitVec 64) := numWords shaRoots 8

/-- Rotation right. -/
def rotr (x : BitVec 64) (n : Nat) : BitVec 64 := x.rotateRight n

/-- The message schedule: the last 16 words, newest first, extended by `n` more; all words, newest first. -/
def shaSchedule : Nat → List (BitVec 64) → List (BitVec 64)
  | 0, w => w
  | n + 1, w =>
    let at_ (i : Nat) : BitVec 64 := (w[i]?).getD 0
    let a := at_ 14
    let b := at_ 1
    let s0 := rotr a 1 ^^^ rotr a 8 ^^^ (a >>> 7)
    let s1 := rotr b 19 ^^^ rotr b 61 ^^^ (b >>> 6)
    shaSchedule n ((at_ 15 + s0 + at_ 6 + s1) :: w)

/-- The 80 rounds over the schedule and the constants. -/
def shaRounds : List (BitVec 64) → List (BitVec 64) → List (BitVec 64) → List (BitVec 64)
  | w :: ws, k :: ks, [a, b, c, d, e, f, g, h] =>
    let t1 := h + (rotr e 14 ^^^ rotr e 18 ^^^ rotr e 41) + ((e &&& f) ^^^ (~~~e &&& g)) + k + w
    let t2 := (rotr a 28 ^^^ rotr a 34 ^^^ rotr a 39) + ((a &&& b) ^^^ (a &&& c) ^^^ (b &&& c))
    shaRounds ws ks [t1 + t2, a, b, c, d + t1, e, f, g]
  | _, _, st => st

/-- The big-endian 64-bit words of a block, newest first. -/
def shaWords : Nat → List Byte → List (BitVec 64) → List (BitVec 64)
  | 0, _, acc => acc
  | n + 1, bs, acc => shaWords n (bs.drop 8) (BitVec.ofNat 64 (beNat (bs.take 8)) :: acc)

/-- One 128-byte block. -/
def shaBlock (h : List (BitVec 64)) (block : List Byte) : List (BitVec 64) :=
  let w := (shaSchedule 64 (shaWords 16 block [])).reverse
  (h.zip (shaRounds w shaK h)).map (fun p => p.1 + p.2)

/-- Whole blocks of a byte list, up to `n` of them: the working words and the bytes left. -/
def shaBlocks : Nat → List (BitVec 64) → List Byte → List (BitVec 64) × List Byte
  | 0, h, bs => (h, bs)
  | n + 1, h, bs => if bs.length < 128 then (h, bs) else shaBlocks n (shaBlock h (bs.take 128)) (bs.drop 128)

/-- A running digest at its start. -/
def ShaSt.start : ShaSt := { h := shaInit, count := 0, tail := [] }

/-- More bytes digested. -/
def ShaSt.add (s : ShaSt) (bs : List Byte) : ShaSt :=
  let all := s.tail ++ bs
  let (h, tail) := shaBlocks (all.length / 128) s.h all
  { h := h, count := s.count + bs.length, tail := tail }

/-- The padding of a message of a byte count. -/
def shaPad (count : Nat) : List Byte :=
  (0x80 : Byte) :: (List.replicate ((128 + 111 - count % 128) % 128) (0 : Byte) ++ beBytes 16 (8 * count))

/-- The 64 digest bytes. -/
def ShaSt.digest (s : ShaSt) : List Byte := ((s.add (shaPad s.count)).h).flatMap (fun w => beBytes 8 w.toNat)

/-- The SHA-512 digest of a byte list. -/
def sha512 (bs : List Byte) : List Byte := (ShaSt.start.add bs).digest

/-- A digest as the little-endian number that a 64-byte field of an image holds (R7, R45). -/
def sha512Field (bs : List Byte) : BitVec 512 := BitVec.ofNat 512 (leNat (sha512 bs))

end Sys2Proof.Machine
end

