-- ==== Sys2Proof/Machine/Ecdsa.lean ====
section
/-! DEFINITION. ECDSA over P-521 with SHA-512, verification only (R329, R389, R392 name it by its standard, FIPS 186; log entry 27). -/

namespace Sys2Proof.Machine

/-- The field prime, the curve constant b, the group order and the base point of P-521. -/
def ecP : Nat := 2 ^ 521 - 1
def ecB : Nat := 0x51953eb9618e1c9a1f929a21a0b68540eea2da725b99b315f3b8b489918ef109e156193951ec7e937b1652c0bd3bb1bf073573df883d2c34f1ef451fd46b503f00
def ecN : Nat := 0x1fffffffffffffffffffffffffffffffffffffffffffffffffffffffffffffffffa51868783bf2f966b7fcc0148f709a5d03bb5c9b8899c47aebb6fb71e91386409
def ecGx : Nat := 0xc6858e06b70404e9cd9e3ecb662395b4429c648139053fb521f828af606b4d3dbaa14b5e77efe75928fe1dc127a2ffa8de3348b3c1856a429bf97e7e31c2e5bd66
def ecGy : Nat := 0x11839296a789a3bc0045c8a5fb42c7d1bd998f54449579b446817afbd17273e662c97ee72995ef42640c550b9013fad0761353c7086a272c24088be94769fd16650

/-- `b ^ e mod m` over the low `n` bits of e, the highest first. -/
def powMod (m b e : Nat) : Nat → Nat
  | 0 => 1 % m
  | n + 1 =>
    let r := powMod m b (e / 2) n
    r * r * (if e % 2 = 1 then b else 1) % m

/-- The inverse modulo a prime of at most 521 bits. -/
def invMod (m x : Nat) : Nat := powMod m x (m - 2) 522

/-- A point in projective form, (X / Z², Y / Z³); Z = 0 is the point at infinity. -/
structure EcPoint where
  x : Nat
  y : Nat
  z : Nat
deriving DecidableEq, Repr

/-- A difference modulo the field prime. -/
def ecSub (a b : Nat) : Nat := (a + ecP - b % ecP) % ecP

/-- A point doubled (the curve has a = −3). -/
def ecDouble (q : EcPoint) : EcPoint :=
  if q.z = 0 || q.y = 0 then { x := 1, y := 1, z := 0 }
  else
    let yy := q.y * q.y % ecP
    let s := 4 * q.x * yy % ecP
    let zz := q.z * q.z % ecP
    let m := 3 * (ecSub q.x zz) * (q.x + zz) % ecP
    let x := ecSub (m * m % ecP) (2 * s)
    { x := x, y := ecSub (m * ecSub s x % ecP) (8 * yy * yy), z := 2 * q.y * q.z % ecP }

/-- Two points added. -/
def ecAdd (q r : EcPoint) : EcPoint :=
  if q.z = 0 then r else if r.z = 0 then q
  else
    let zq := q.z * q.z % ecP
    let zr := r.z * r.z % ecP
    let u1 := q.x * zr % ecP
    let u2 := r.x * zq % ecP
    let s1 := q.y * zr * r.z % ecP
    let s2 := r.y * zq * q.z % ecP
    if u1 = u2 then (if s1 = s2 then ecDouble q else { x := 1, y := 1, z := 0 })
    else
      let h := ecSub u2 u1
      let k := ecSub s2 s1
      let hh := h * h % ecP
      let hhh := h * hh % ecP
      let v := u1 * hh % ecP
      let x := ecSub (ecSub (k * k % ecP) hhh) (2 * v)
      { x := x, y := ecSub (k * ecSub v x % ecP) (s1 * hhh), z := h * q.z % ecP * r.z % ecP }

/-- A multiple of a point, over the low `n` bits of the factor. -/
def ecMul (q : EcPoint) (k : Nat) : Nat → EcPoint
  | 0 => { x := 1, y := 1, z := 0 }
  | n + 1 =>
    let r := ecDouble (ecMul q (k / 2) n)
    if k % 2 = 1 then ecAdd r q else r

/-- The affine x of a point. -/
def ecAffineX (q : EcPoint) : Nat :=
  let i := invMod ecP q.z
  q.x * i % ecP * i % ecP

/-- Whether an affine pair is a point of the curve. -/
def ecOnCurve (k : Nat × Nat) : Bool :=
  k.1 < ecP && k.2 < ecP && k.2 * k.2 % ecP == (k.1 * k.1 * k.1 + (ecP - 3) * k.1 + ecB) % ecP

/-- Whether (r, s) is a signature of a message under a public key. -/
def ecdsaVerify (key : Nat × Nat) (msg : List Byte) (r s : Nat) : Bool :=
  if r = 0 || s = 0 || ecN ≤ r || ecN ≤ s || !ecOnCurve key then false
  else
    let e := beNat (sha512 msg)
    let w := invMod ecN s
    let q := ecAdd (ecMul { x := ecGx, y := ecGy, z := 1 } (e * w % ecN) 521) (ecMul { x := key.1, y := key.2, z := 1 } (r * w % ecN) 521)
    q.z != 0 && ecAffineX q % ecN == r

/-- A signature as a field holds it: r then s, 66 bytes each, big-endian. -/
def signatureBytes (g : Nat × Nat) : List Byte := beBytes 66 g.1 ++ beBytes 66 g.2

/-- Whether 132 bytes are a signature of a message under a public key. -/
def signedBy (key : Nat × Nat) (msg sig : List Byte) : Bool :=
  ecdsaVerify key msg (beNat (sig.take 66)) (beNat ((sig.drop 66).take 66))

end Sys2Proof.Machine
end

