-- ==== Sys2Proof/Machine/Optical.lean ====
section
/-! DEFINITION. The optical engine: OPT.TILE and OPT.DUMMY (R66 to R69, R140 to R149), the detector conversions, the group-sum check (R122) and the region cox (R134). -/

namespace Sys2Proof.Machine

/-- The physical plot on which a logical plot of a region sits (R152): seated, or holding its seat while its job waits (R154). -/
def Chip.plotSeat (c : Chip) (g lp : Nat) : Option Nat :=
  ((List.range 136).map (fun o => g * 136 + o)).find? (fun k =>
    ((c.plot k).state == 0 || (c.plot k).state == 3) && (c.plot k).seat.toNat == lp)

/-- The logical plots of a run (R66). -/
def runPlots (first count : Nat) (even : Bool) : List Nat :=
  (List.range count).map (fun q => first + q * (if even then 2 else 1))

/-- Planes of an optical operand (R68). -/
def optPlanes (int4 : Bool) : Nat := if int4 then 4 else 8

/-- The fetch span F, the optical span S of R68, and K. -/
def optK (op : OptOp) : Nat := 128 * op.kblk
def optABytes (op : OptOp) : Nat := op.rows * (if op.aInt4 then (optK op) / 2 else (optK op))
def optBBytes (op : OptOp) : Nat := op.count * (if op.bInt4 then 8 * (optK op) else 16 * (optK op))
def ports4 (p : BitVec 4) : Nat := countBelow 4 (fun i => p.getLsbD i)
def ports2 (p : BitVec 2) : Nat := countBelow 2 (fun i => p.getLsbD i)
def optFetch (op : OptOp) : Nat := ceilDiv ((optABytes op) + (optBBytes op)) (256 * ports4 op.rdPorts)
def optSpan (op : OptOp) : Nat := ceilDiv (op.rows * ((optK op) / 16) * optPlanes op.aInt4 * optPlanes op.bInt4) 30
def optResBytes (op : OptOp) : Nat := op.rows * op.count * 128

/-- Element A[r][e] and element B_q[e][c] as integers (R67, R142). -/
def optA (m : Mem) (base : Nat) (op : OptOp) (r e : Nat) : Int :=
  if op.aInt4 then sext 4 (readElem m base .int4 (r * (optK op) + e)) else sext 8 (readElem m base .int8 (r * (optK op) + e))
def optB (m : Mem) (base : Nat) (op : OptOp) (q e col : Nat) : Int :=
  let i := (q * (optK op) + e) * 16 + col
  if op.bInt4 then sext 4 (readElem m base .int4 i) else sext 8 (readElem m base .int8 i)

/-- The exact dot product of row r, run position q and column c (R67, R143). -/
def optDot (m : Mem) (a b : Nat) (op : OptOp) (r q col : Nat) : Int :=
  (List.range (optK op)).foldl (fun s e => s + optA m a op r e * optB m b op q e col) 0

/-- The coincidence count D of a conversion group (R142). -/
def optCount (m : Mem) (a b : Nat) (op : OptOp) (r pa pb kb q col : Nat) : Int :=
  (List.range 128).foldl (fun s e =>
    let e := 128 * kb + e
    if planeBit (optPlanes op.aInt4) (optA m a op r e) pa && planeBit (optPlanes op.bInt4) (optB m b op q e col) pb then s + 1 else s) 0

/-- A detector conversion worked out (R118, R119, R141): its error, whether it was flagged or out of range. -/
structure OptConv where
  rd : OptReading
  flagged : Bool
  oor : Bool
deriving DecidableEq, Repr

/-- The conversion of a listed optical reading. -/
def optConv (m : Mem) (a b : Nat) (op : OptOp) (r : OptReading) : OptConv :=
  let code := optCount m a b op r.row r.aPlane r.bPlane r.group r.pos r.column.val + r.err
  let oor := code < 0 || 128 < code
  { rd := r, flagged := r.flagged || oor, oor := oor }

/-- The result of row r, position q, column c: exact but for the unflagged wrong conversions (R143; flagged ones are recomputed). -/
def optResult (m : Mem) (a b : Nat) (op : OptOp) (convs : List OptConv) (r q col : Nat) : Int :=
  convs.foldl (fun s v =>
    if !v.flagged && v.rd.row = r && v.rd.pos = q && v.rd.column.val = col then
      s + v.rd.err * planeWeight (optPlanes op.aInt4) v.rd.aPlane * planeWeight (optPlanes op.bInt4) v.rd.bPlane
    else s) (optDot m a b op r q col)

/-- The detector group index of a reading (R142). -/
def optGroup (op : OptOp) (r : OptReading) : Nat :=
  ((r.row * optPlanes op.aInt4 + r.aPlane) * optPlanes op.bInt4 + r.bPlane) * op.kblk + r.group

/-- The tick at which a conversion group's flags are posted (R142, R146): the fourth after its last symbol; for a group of an operation issued
at tick u. -/
def optPostTick (u : Nat) (op : OptOp) (n : Nat) : Nat := u + optFetch op + 16 + (8 * n + 7) / 30 + 4

/-- The conversion groups of an operation with flagged or wrong codes (R122, R134), each once, from the issue tick on. -/
def optDues (job : JobId) (u : Nat) (op : OptOp) (convs : List OptConv) (phys : Nat → Nat) : List OptDue :=
  let keys := (convs.map (fun v => (v.rd.pos, optGroup op v.rd))).eraseDups
  (keys.map (fun k =>
    let mine := convs.filter (fun v => v.rd.pos = k.1 && optGroup op v.rd = k.2)
    { job := job, tick := optPostTick u op k.2, plot := phys k.1, group := k.2, items := (mine.filter (·.flagged)).length
      oors := (mine.filter (·.oor)).length
      miss := mine.foldl (fun s v => if v.flagged then s else s + v.rd.err) 0 != 0 : OptDue })).filter (fun d => d.miss || decide (0 < d.items))

/-- A group-sum or fill mismatch on a physical plot (R122, R149, R363). -/
def Chip.groupMismatch (c : Chip) (g k group : Nat) : Chip :=
  let c := c.upPlot k (fun x => { x with checkFails := satAdd x.checkFails 1 })
  c.danger g (srcRgn g) 0x106 (plotLocus k) group (.plot k) 3 (.plot k 4)

/-- The plot with the most items of the stroke, the lowest first (R134). -/
def busiest (posted : List Nat) : Nat :=
  let count (k : Nat) : Nat := (posted.filter (· == k)).length
  posted.foldl (fun best k => if count best < count k || (count best == count k && k < best) then k else best) (posted.headD 0)

/-- The flagged items of a plot in the last 65,536 strokes in which it switched; before so many, those counted so far (R135). -/
def Plot.flagCount (p : Plot) : Nat :=
  (p.flags.filter (fun n => decide (n < p.senses + 1) && decide (p.senses < n + 65536))).length

/-- A posted conversion group (R122, R134): its flags are counted with its plot, and its sum is compared unless one of its items lies beyond
the 32 that a stroke serves. -/
def Chip.optGroupPosted (g : Nat) (c : Chip) (d : OptDue) (before : Nat) : Chip :=
  let c := c.when (decide (0 < d.items)) (fun c => c.upPlot d.plot (fun x => { x with
    flags := x.flags ++ List.replicate d.items x.senses, oor := satAdd x.oor d.oors, drift := x.drift || decide (0 < d.oors) }))
  c.when (d.miss && decide (before + d.items ≤ 32)) (fun c => c.groupMismatch g d.plot d.group)

/-- The groups posted in a stroke, in turn, with the items posted before each. -/
def Chip.optGroups (g : Nat) : List OptDue → Nat → Chip → Chip
  | [], _, c => c
  | d :: ds, n, c => Chip.optGroups g ds (n + d.items) (c.optGroupPosted g d n)

/-- The optical items of a region in the stroke that ends. -/
def Region.optCount (r : Region) : Nat := (r.optDue.filter (fun d => decide (d.tick < 4096))).foldl (fun n d => n + d.items) 0

/-- The optical items of a region's stroke, which ends (R134): 32 of them are served; a 33rd is an optical overflow, and the plot with the most
of the 33 is held at the restart boundary. -/
def Chip.optStroke (c : Chip) (g : Nat) : Chip :=
  let now := sortBy (fun (d : OptDue) => d.tick) ((c.region g).optDue.filter (fun d => decide (d.tick < 4096)))
  let n := (c.region g).optCount
  let c := (Chip.optGroups g now 0 c).upRegion g (fun r => { r with
    optServed := satAdd r.optServed (min 32 n), optPeak := if r.optPeak.toNat < min 33 n then BitVec.ofNat 8 (min 33 n) else r.optPeak })
  if n ≤ 32 then c
  else
    let c := c.upRegion g (fun r => { r with optOverflows := satAdd r.optOverflows 1 })
    let worst := busiest ((now.flatMap (fun d => List.replicate d.items d.plot)).take 33)
    let c := c.event (srcRgn g) 1 0x107 true (plotLocus worst) 3
    (c.addRemedy (.plotHeld worst)).callRegion g

/-- The physical plots that switched in the stroke that ends count it (R135). -/
def Plot.endStroke (x : Plot) : Plot :=
  { x with senses := x.senses + 1, flags := x.flags.filter (fun n => decide (x.senses < n + 65536)) }
def Chip.endSwitching (c : Chip) (g : Nat) (on : List Nat) : Chip :=
  overAll on.eraseDups (fun c lp => match c.plotSeat g lp with | some k => c.upPlot k Plot.endStroke | none => c) c

/-- The plots of an operation counted in the duty (R148): from the stroke of its first tick to that of its last. -/
def Chip.addDuty (c : Chip) (g issue first last : Nat) (plots : List Nat) : Chip :=
  c.upRegion g (fun r => { r with
    dutyNow := r.dutyNow ++ plots.map (fun p =>
      ({ plot := p, start := first / 4096 - issue / 4096, last := last / 4096 - issue / 4096 } : Duty)) })

/-- What the staging codes reported while a region operation read (R252). -/
def Chip.regionPath (c : Chip) (id : JobId) (g : Nat) (plot : Nat → Nat) (p : Path) : Chip :=
  let c := c.upRegion g (fun r => { r with
    stgCorrected := satAdd r.stgCorrected p.corrected, stgUncorr := satAdd r.stgUncorr p.bad.length })
  let c := overAll p.bad (fun c a => (c.regionCode g 2).badRead id (2 ^ 41 + g * 2 ^ 24 + a)) c
  c.residues p.residue g (g * 34) (g * 578) plot

/-- An OPT.TILE that issues (R67, R68, R143). -/
def Chip.optIssue (c : Chip) (st : Site) (j : Job) (g : Nat) (op : OptOp) (rds : List OptReading) (p : Path) : Chip :=
  let m := c.mem.rstg
  let a := c.regionAt j g op.aAddr.toNat
  let b := c.regionAt j g op.bAddr.toNat
  let plots := runPlots op.first.val op.count op.even
  let phys (q : Nat) : Nat := (c.plotSeat g ((plots[q]?).getD 0)).getD (g * 136)
  let convs := (rds.filter (fun r =>
    r.row < op.rows && r.aPlane < optPlanes op.aInt4 && r.bPlane < optPlanes op.bInt4 && r.group < op.kblk && r.pos < op.count)).map
    (optConv m a b op)
  let bytes := (List.range op.rows).flatMap (fun r => (List.range op.count).flatMap (fun q =>
    (List.range 16).flatMap (fun col => leBytes 8 (trunc 64 (optResult m a b op convs r q col)))))
  let c := { c with mem := { c.mem with rstg := writeBytes m (c.regionAt j g op.dst.toNat) bytes } }
  let dues := optDues st.job (st.tick % 4096) op convs phys
  let c := if dues.isEmpty then c else c.upRegion g (fun r => { r with optDue := r.optDue ++ dues })
  let start := st.tick + (optFetch op) + 16
  let c := c.addDuty g st.tick start (start + (optSpan op) - 1) plots
  c.regionPath st.job g (fun q => phys (min q (op.count - 1))) p

/-- OPT.TILE (R66 to R68): exact dot products of a broadcast operand with each plot's block; with no count, rows or blocks it
does nothing. -/
def execOptTile (st : Site) (op : OptOp) (rds : List OptReading) (p : Path) (s : State) : Host.Outcome State Fault Refusal :=
  if !op.legal || !st.onSeq then .refused (.illFormed "OPT.TILE field outside R66")
  else if op.count = 0 || op.rows = 0 || op.kblk = 0 then
    act (fun c => c.onSeq st (fun c _ g => if p.fetchBad then c.regionCode g 3 else c)) s
  else if !(s.toChip.fitsRegion st op.aAddr.toNat (optABytes op) && s.toChip.fitsRegion st op.bAddr.toNat (optBBytes op) && s.toChip.fitsRegion st op.dst.toNat (optResBytes op)) then
    .fault (.outsideStaging (16 * op.dst.toNat))
  else act (fun c => c.onSeq st (fun c j g => if p.fetchBad then c.regionCode g 3 else c.optIssue st j g op rds p)) s

/-- OPT.DUMMY (R69): occupies the named plots for span ticks and moves nothing; the plots count in the duty. -/
def execOptDummy (st : Site) (first : Fin 128) (count : Nat) (span : BitVec 16) (even : Bool) (fetch : Fetch) (s : State) :
    Host.Outcome State Fault Refusal :=
  if !dummyLegal first count even || !st.onSeq then .refused (.illFormed "OPT.DUMMY field outside R69")
  else act (fun c => c.onSeqWord st fetch (fun c _ g =>
    if span = 0 then c
    else c.addDuty g st.tick st.tick (st.tick + span.toNat - 1) (runPlots first.val count even))) s

end Sys2Proof.Machine
end

