-- ==== Sys2Proof/Machine/Stg.lean ====
section
/-! DEFINITION. HBM addresses (R240, R241), uncorrectable HBM codewords (R252, R254), and the stream moves STG (R70 to R73). -/

namespace Sys2Proof.Machine

/-! ## HBM addresses -/

/-- The bytes of a stack and of a partition, and of a partition's data (R240, R241). -/
def stackBytes : Nat := 38654705664
def partBytes : Nat := 1207959552
def partData : Nat := 1124073472
def windowStack : Nat := 35970351104

/-- The physical address of a window offset of a window based at `base` (R241). -/
def windowAddr (base o : Nat) : Nat :=
  let r := o % windowStack
  (base / stackBytes + o / windowStack) * stackBytes + r / partData * partBytes + r % partData

/-- The memory slot unit of a window offset: logical stack and partition (R241). -/
def windowUnit (o : Nat) : Nat := o / windowStack * 32 + o % windowStack / partData

/-- `n` bytes of a window from offset `o`. -/
def readWindow (m : Mem) (base o : Nat) : Nat → List Byte
  | 0 => []
  | n + 1 => getByte m (windowAddr base o) :: readWindow m base (o + 1) n

/-- Bytes written to a window from offset `o` up. -/
def writeWindow (m : Mem) (base o : Nat) : List Byte → Mem
  | [] => m
  | b :: bs => writeWindow (setByte m (windowAddr base o) b) base (o + 1) bs

/-- How many stacks a window of a length spans (R241, R242). -/
def windowStacks (length : Nat) : Nat := ceilDiv length windowStack

/-- The stack, the partition and, in a stack without failures, the physical pseudo-channel of a physical address (R240). -/
def addrStack (L : Nat) : Nat := L / stackBytes
def addrPart (L : Nat) : Nat := L % stackBytes / partBytes
def addrChannel (L : Nat) : Nat := (L % partBytes / 64 + addrPart L) % 32

/-- The locus word of a stack and a pseudo-channel (log entry 26). -/
def stackLocus (s pc : Nat) : BitVec 32 := locusWord none (some s) (some pc)

/-- The physical pseudo-channel of a physical address: in a degraded stack the lines are spread over those that are left (R254; DEDUCED, in
their order, log entry 141). -/
def Chip.channelOf (c : Chip) (L : Nat) : Nat :=
  let live := (List.range 32).filter (fun n => !((c.stack (addrStack L)).failed.getLsbD n))
  (live[(L % partBytes / 64 + addrPart L) % max 1 live.length]?).getD (addrChannel L)

/-- An uncorrectable codeword or a stack-reported failure at a physical address (R252, R254): counted; the third within 10 s on
one physical pseudo-channel fails it, and its stack is degraded from the next stroke boundary. -/
def Chip.channelFault (c : Chip) (L : Nat) (rerow : Bool) : Chip :=
  let s := addrStack L
  let pc := c.channelOf L
  let c := c.upStack s (fun k => { k with uncorr := satAdd k.uncorr 1 })
  let (c, failed) := c.hit (.pseudo s pc) 3
  let c := c.event (srcStack s) (if failed then 2 else 1) 0x10A rerow (stackLocus s pc) 5
  c.when failed (fun c => c.upStack s (fun k => { k with failing := k.failing ||| (1 <<< pc) }))

/-- What a stack reports (R239, R252): codewords corrected, errors that its on-die code corrected, a parity error. -/
def Chip.stackCounts (c : Chip) (s corrected ondie : Nat) (parity : Bool) : Chip :=
  c.upStack s (fun k => { k with
    corrected := satAdd k.corrected corrected, ondie := satAdd k.ondie ondie, parity := satIf parity k.parity })

/-- An uncorrectable codeword, or a parity error, of a slot's transfer (R239, R252): dangerous. -/
def Chip.slotFault (c : Chip) (id : JobId) (g L : Nat) : Chip :=
  let c := { c with saf := { c.saf with dangCompute := satAdd c.saf.dangCompute 1 } }
  ((c.channelFault L true).callRegion g).badRead id L

/-- What an HBM read in a slot reports (R239, R252): counts, and an uncorrectable codeword. -/
def Chip.hbmPath (c : Chip) (id : JobId) (g stack : Nat) (p : Path) : Chip :=
  let c := c.stackCounts stack p.corrected p.ondie (!p.bad.isEmpty && p.parity)
  overAll p.bad (fun c L => c.slotFault id g L) c

/-- What an HBM write in a slot reports (R239): a parity error, handled as an uncorrectable codeword at the place written. -/
def Chip.hbmWritePath (c : Chip) (id : JobId) (g L : Nat) (p : Path) : Chip :=
  c.when p.parity (fun c => (c.stackCounts (addrStack L) 0 0 true).slotFault id g L)

/-- What an HBM transfer outside the slots reports (R239, R252). -/
def Chip.hbmCode (c : Chip) (s : Nat) (code : HbmCode) : Chip :=
  let c := c.stackCounts s code.corrected code.ondie (code.bad.isSome && code.parity)
  match code.bad with
  | some L => c.channelFault L false
  | none => c

/-! ## Issue conditions -/

/-- Whether an STG move or an XCH issues here (R59): not in the first piece of the later repetitions of a changeover phase. -/
def Chip.moves (c : Chip) (j : Job) : Bool :=
  match c.imageOf j, c.pos j with
  | some i, some p =>
    !((i.phases[p.phase]?).any (·.changeover) && decide (0 < p.rep) && p.piece == 0)
  | _, _ => false

/-- The slot entry that a word names, if its phase, owner, direction and unit are the word's (R71, R81). -/
def Chip.slotOf (c : Chip) (j : Job) (table : List Slot) (ref region : Nat) (out : Bool) : Option Slot :=
  match c.pos j, table[ref]? with
  | some p, some e => if e.phase = p.phase && e.sequencer && e.region = region && e.out = out then some e else none
  | _, _ => none

/-- The repetition index that the stride multiplies (R72). -/
def strideRep (t : Stride) (rep : Nat) : Nat := if t.repMod = 0 then rep else rep % t.repMod.toNat

/-- The window offset of a move, in bytes (R72). -/
def Chip.moveOffset (c : Chip) (j : Job) (region : Nat) (hbm : BitVec 36) : Nat :=
  let t := look ({} : Stride) j.strides region
  let rep := ((c.pos j).map (·.rep)).getD 0
  16 * (hbm.toNat + strideRep t rep * t.repStride.toNat)

/-- The bytes of an HBM move (R70). -/
def hbmBytes (op : HbmMove) : Nat := 16 * op.length.toNat

/-- The bytes that a move carries by the occurrences of its slot entry (R71): all of them, when the entry carries any. -/
def carried (e : Slot) (bytes from_ : Nat) : Nat :=
  (occurrences e.start e.bytes bytes from_).foldl (fun n o => n + o.2) 0

/-! ## The moves -/

/-- H2R (R71): bytes of the data window come to region staging through the occurrences of the word's slot entry. -/
def Chip.h2r (c : Chip) (st : Site) (j : Job) (g : Nat) (op : HbmMove) (p : Path) : Chip :=
  match c.imageOf j with
  | none => c
  | some i =>
    match c.slotOf j i.memSlots op.slotRef.toNat st.region.val false with
    | none => c
    | some e =>
      let base := j.body.windowBase.toNat
      let o := c.moveOffset j st.region.val op.hbm
      let n := carried e (hbmBytes op) st.tick
      let data := readWindow c.mem.hbm base o n
      let c := { c with mem := { c.mem with rstg := writeBytes c.mem.rstg (c.regionAt j g op.addr.toNat) data } }
      (c.hbmPath st.job g (addrStack (windowAddr base o)) p).residues p.residue g (g * 34) (g * 578) (fun _ => g * 136)

/-- R2H (R71): bytes of region staging go to the data window. -/
def Chip.r2h (c : Chip) (st : Site) (j : Job) (g : Nat) (op : HbmMove) (p : Path) : Chip :=
  match c.imageOf j with
  | none => c
  | some i =>
    match c.slotOf j i.memSlots op.slotRef.toNat st.region.val true with
    | none => c
    | some e =>
      let o := c.moveOffset j st.region.val op.hbm
      let n := carried e (hbmBytes op) (st.tick + 64)
      let data := readBytes c.mem.rstg (c.regionAt j g op.addr.toNat) n
      let c := { c with mem := { c.mem with hbm := writeWindow c.mem.hbm j.body.windowBase.toNat o data } }
      (c.regionPath st.job g (fun _ => g * 136) p).hbmWritePath st.job g (windowAddr j.body.windowBase.toNat o) p

/-- The bytes of a copy, and its chunks (R73). -/
def copyBytes (op : CopyMove) : Nat := 16 * op.length.toNat
def copyChunks (op : CopyMove) : Nat := ceilDiv (copyBytes op) 256

/-- R2C (R73): region staging to core staging. -/
def Chip.r2c (c : Chip) (st : Site) (j : Job) (g core : Nat) (op : CopyMove) (p : Path) : Chip :=
  let data := readBytes c.mem.rstg (c.regionAt j g op.addrA.toNat) (copyBytes op)
  let c := { c with mem := { c.mem with cstg := writeBytes c.mem.cstg (coreByte core op.addrB.toNat) data } }
  c.regionPath st.job g (fun _ => g * 136) p

/-- C2R (R73): core staging to region staging. -/
def Chip.c2r (c : Chip) (st : Site) (j : Job) (g core : Nat) (op : CopyMove) (p : Path) : Chip :=
  let data := readBytes c.mem.cstg (coreByte core op.addrB.toNat) (copyBytes op)
  let c := { c with mem := { c.mem with rstg := writeBytes c.mem.rstg (c.regionAt j g op.addrA.toNat) data } }
  c.corePath st.job core (core * 17) p

/-- C2C (R73): within core staging, chunk by chunk, each readable 4 ticks after its read. -/
def Chip.c2c (c : Chip) (st : Site) (core : Nat) (op : CopyMove) (p : Path) : Chip :=
  let m := moveChunks 4 (coreByte core op.addrB.toNat) (coreByte core op.addrA.toNat) (copyChunks op) (copyBytes op) c.mem.cstg []
  let c := { c with mem := { c.mem with cstg := m } }
  c.corePath st.job core (core * 17) p

/-- R2R (R73): within region staging. -/
def Chip.r2r (c : Chip) (st : Site) (j : Job) (g : Nat) (op : CopyMove) (p : Path) : Chip :=
  let m := moveChunks 4 (c.regionAt j g op.addrB.toNat) (c.regionAt j g op.addrA.toNat) (copyChunks op) (copyBytes op) c.mem.rstg []
  let c := { c with mem := { c.mem with rstg := m } }
  c.regionPath st.job g (fun _ => g * 136) p

/-- A sequencer word that moves data: nothing when it is not issued (R59), not fetched whole (R363), or of length 0 (R70). -/
def seqMove (st : Site) (p : Path) (length : Nat) (f : Chip → Job → Nat → Chip) (s : State) : Host.Outcome State Fault Refusal :=
  act (fun c => c.onSeq st (fun c j g =>
    if p.fetchBad then c.regionCode g 3 else if length = 0 || !c.moves j then c else f c j g)) s

/-- A core word that moves data. -/
def coreMove (st : Site) (p : Path) (length : Nat) (f : Chip → Job → Nat → Nat → Chip) (s : State) : Host.Outcome State Fault Refusal :=
  act (fun c => c.onCore st (fun c j g core =>
    if p.fetchBad then c.coreCode core 3 else if length = 0 || !c.moves j then c else f c j g core)) s

/-- STG_H2R (R70, R71). -/
def execStgH2r (st : Site) (op : HbmMove) (p : Path) (s : State) : Host.Outcome State Fault Refusal :=
  if !op.legal false || !st.onSeq then .refused (.illFormed "H2R field outside R70")
  else if !s.toChip.fitsRegion st op.addr.toNat (hbmBytes op) then .fault (.outsideStaging (16 * op.addr.toNat))
  else seqMove st p op.length.toNat (fun c j g => c.h2r st j g op p) s

/-- STG_R2H (R70, R71). -/
def execStgR2h (st : Site) (op : HbmMove) (p : Path) (s : State) : Host.Outcome State Fault Refusal :=
  if !op.legal true || !st.onSeq then .refused (.illFormed "R2H field outside R70")
  else if !s.toChip.fitsRegion st op.addr.toNat (hbmBytes op) then .fault (.outsideStaging (16 * op.addr.toNat))
  else seqMove st p op.length.toNat (fun c j g => c.r2h st j g op p) s

/-- STG_R2C (R70, R73). -/
def execStgR2c (st : Site) (op : CopyMove) (p : Path) (s : State) : Host.Outcome State Fault Refusal :=
  if !op.legal 2 || !st.onCore then .refused (.illFormed "R2C field outside R70")
  else if !(s.toChip.fitsRegion st op.addrA.toNat (copyBytes op) && inCore op.addrB.toNat (copyBytes op)) then
    .fault (.outsideStaging (16 * op.addrB.toNat))
  else coreMove st p op.length.toNat (fun c j g core => c.r2c st j g core op p) s

/-- STG_C2R (R70, R73). -/
def execStgC2r (st : Site) (op : CopyMove) (p : Path) (s : State) : Host.Outcome State Fault Refusal :=
  if !op.legal 3 || !st.onCore then .refused (.illFormed "C2R field outside R70")
  else if !(s.toChip.fitsRegion st op.addrA.toNat (copyBytes op) && inCore op.addrB.toNat (copyBytes op)) then
    .fault (.outsideStaging (16 * op.addrA.toNat))
  else coreMove st p op.length.toNat (fun c j g core => c.c2r st j g core op p) s

/-- STG_C2C (R70, R73). -/
def execStgC2c (st : Site) (op : CopyMove) (p : Path) (s : State) : Host.Outcome State Fault Refusal :=
  if !op.legal 4 || !st.onCore then .refused (.illFormed "C2C field outside R70")
  else if !(inCore op.addrA.toNat (copyBytes op) && inCore op.addrB.toNat (copyBytes op)) then
    .fault (.outsideStaging (16 * op.addrA.toNat))
  else coreMove st p op.length.toNat (fun c _ _ core => c.c2c st core op p) s

/-- STG_R2R (R70, R73). -/
def execStgR2r (st : Site) (op : CopyMove) (p : Path) (s : State) : Host.Outcome State Fault Refusal :=
  if !op.legal 5 || !st.onSeq then .refused (.illFormed "R2R field outside R70")
  else if !(s.toChip.fitsRegion st op.addrA.toNat (copyBytes op) && s.toChip.fitsRegion st op.addrB.toNat (copyBytes op)) then
    .fault (.outsideStaging (16 * op.addrA.toNat))
  else seqMove st p op.length.toNat (fun c j g => c.r2r st j g op p) s

/-- STG_STRIDE (R72): the values for the H2R and R2H words that follow in the stream; it takes effect in every repetition. -/
def execStgStride (st : Site) (repStride : BitVec 32) (repMod : BitVec 16) (fetch : Fetch) (s : State) : Host.Outcome State Fault Refusal :=
  if !st.onSeq then .refused (.illFormed "STRIDE outside a sequencer stream, R51")
  else act (fun c => c.onSeqWord st fetch (fun c _ _ =>
    c.upJob st.job (fun j => { j with strides := put {} j.strides st.region.val { repStride := repStride, repMod := repMod } }))) s

end Sys2Proof.Machine
end

