-- ==== Sys2Proof/Machine/Result.lean ====
section
/-! DEFINITION. What the device sends to the host: numbered, retained and withheld packets (R302, R303), RESULT bodies as bytes (R319, R320), JOB_END and JOB_STATE records, the provenance digests (R321), host streams (R315). -/

namespace Sys2Proof.Machine

/-- The status codes of R322. -/
def statusOk : Nat := 0x00
def statusLenRange : Nat := 0x01
def statusBadField : Nat := 0x02
def statusApid : Nat := 0x03
def statusPressure : Nat := 0x04
def statusDigest : Nat := 0x05
def statusCheck : Nat := 0x06
def statusQueueFull : Nat := 0x07
def statusClass : Nat := 0x08
def statusRerow : Nat := 0x09
def statusDegraded : Nat := 0x0A
def statusAccess : Nat := 0x0B

/-- The mode of a code. -/
def codeMode (n : Nat) : Option Mode :=
  if n = 0 then some .full else if n = 1 then some .half else if n = 2 then some .light else none

/-! ## Queues and ports as configured -/

/-- The class map byte of a queue (R329); in the recovery state only queue 0 is open, in class 3 (R327); closed before a configuration is
loaded. -/
def Chip.queueByte (c : Chip) (q : Nat) : Nat :=
  if c.start.recovery then (if q = 0 then 3 else 4)
  else match c.cfg.classMap[q]? with
    | some b => b.toNat
    | none => 4
def Chip.queueClass (c : Chip) (q : Nat) : Nat := c.queueByte q % 4
def Chip.queueClosed (c : Chip) (q : Nat) : Bool := bitOf (c.queueByte q) 2
def Chip.queueFloats (c : Chip) (q : Nat) : Bool := bitOf (c.queueByte q) 3 && c.cfg.features.getLsbD 0

/-- A host port's settings (R329); in the recovery state H0 answers on an address formed from the serial (R327). The MAC is a number whose
top octet is the first on the wire. -/
def Chip.portCfg (c : Chip) (p : Nat) : CfgPort :=
  if c.start.recovery then
    if p = 0 then
      let n := c.vault.serial.toNat % 2 ^ 40
      let iid := (n / 2 ^ 24) * 2 ^ 40 + 0xFFFE * 2 ^ 24 + n % 2 ^ 24
      { mac := BitVec.ofNat 48 (2 * 2 ^ 40 + n), flags := 5, udpPort := 47048, ipv6 := BitVec.ofNat 128 (0xFE80 * 2 ^ 112 + iid) }
    else {}
  else if p = 0 then c.cfg.port0 else c.cfg.port1

/-- A host port, and the block with it changed. -/
def Chip.hport (c : Chip) (p : Fin 2) : HPort := if p = 0 then c.host.port0 else c.host.port1
def Chip.upHport (c : Chip) (p : Fin 2) (f : HPort → HPort) : Chip :=
  { c with host := if p = 0 then { c.host with port0 := f c.host.port0 } else { c.host with port1 := f c.host.port1 } }

/-- The priority of a packet: the PCP of its queue's class (R297, R329). -/
def Chip.priority (c : Chip) (p : Packet) : BitVec 3 := ((c.cfg.pcp[c.queueClass p.queue.toNat]?).getD 0).setWidth 3

/-- A packet as it goes on the wire (R297): tagged where its port is configured so, with the port's VID and its priority, and with the DSCP of its
queue's class. -/
def Chip.dress (c : Chip) (p : Packet) : Packet :=
  let g := c.portCfg p.port.val
  { p with
    tagged := if g.flags.getLsbD 3 then some (g.vid.setWidth 12, c.priority p) else none
    dscp := ((c.cfg.dscp[c.queueClass p.queue.toNat]?).getD 0).setWidth 6 }

/-- A packet sent, or waiting at its port while the far end has paused its priority (R297). -/
def Chip.wire (c : Chip) (p : Packet) : Chip :=
  if (c.hport p.port).paused.getLsbD (c.priority p).toNat then c.upHport p.port (fun x => { x with waiting := x.waiting ++ [p] })
  else { c with host := { c.host with sent := c.host.sent ++ [c.dress p] } }

/-! ## Queues -/

/-- A queue of the transport. -/
def Chip.queue (c : Chip) (q : Nat) : QState := look {} c.host.queues q

/-- The block with a queue changed. -/
def Chip.upQueue (c : Chip) (q : Nat) (f : QState → QState) : Chip :=
  { c with host := { c.host with queues := put {} c.host.queues q (f (c.queue q)) } }

/-- The body bytes of a RESULT after the header (R319). -/
def ResultBody.size : ResultBody → Nat
  | .receipt .. => 8
  | .loadDone .. => 48
  | .jobEnd _ => 404
  | .jobState .. => 32
  | .regData _ _ _ _ vs => 16 + 4 * vs.length
  | .bulkData _ _ _ d => 24 + d.length
  | .streamData _ d => 24 + d.length

/-- The bytes of a packet (R300). -/
def Packet.size (p : Packet) : Nat :=
  32 + (match p.body with | some b => b.size | none => 0)

/-- The bytes of every retained packet of the device (R303). -/
def Chip.retainedBytes (c : Chip) : Nat :=
  c.host.queues.foldl (fun n q => q.2.retained.foldl (fun n p => n + p.size) n) 0

/-- Whether a queue may send a packet of a size: fewer than 64 retained, 32 MiB in the device (R303). -/
def Chip.mayRetain (c : Chip) (q size : Nat) : Bool :=
  decide ((c.queue q).retained.length < 64) && decide (c.retainedBytes + size ≤ 2 ^ 25)

/-- A packet goes on the wire with the queue's next device sequence, and is retained (R303); an answer is kept for duplicates. -/
def Chip.emit (c : Chip) (q : Nat) (w : Waiting) : Chip :=
  let k := c.queue q
  let p : Packet :=
    { queue := BitVec.ofNat 15 q, port := w.port.getD k.port, seq := k.next, tag := w.tag, time := c.logTime, body := some w.body }
  let c := c.upQueue q (fun k => { k with
    next := k.next + 1, retained := k.retained ++ [p]
    answers := match w.answers with | some r => appendKeep 64 k.answers (r, p) | none => k.answers })
  c.wire p

/-- A packet of a queue: sent, or withheld behind those already withheld and while retention is full (R303). -/
def Chip.post (c : Chip) (q : Nat) (w : Waiting) : Chip :=
  if (c.queue q).withheld.isEmpty && c.mayRetain q (32 + w.body.size) then c.emit q w
  else c.upQueue q (fun k => { k with withheld := k.withheld ++ [w] })

/-- A RESULT of a queue, to the port of its latest accepted packet (R323). -/
def Chip.send (c : Chip) (q : Nat) (tag : BitVec 32) (answers : Option (BitVec 32)) (b : ResultBody) : Chip :=
  c.post q { tag := tag, answers := answers, body := b }

/-- Withheld packets sent while space allows, up to `n` of them. -/
def Chip.flush (q : Nat) : Nat → Chip → Chip
  | 0, c => c
  | n + 1, c =>
    match (c.queue q).withheld with
    | [] => c
    | w :: ws =>
      if c.mayRetain q (32 + w.body.size) then
        Chip.flush q n ((c.upQueue q (fun k => { k with withheld := ws })).emit q w)
      else c

/-- An ACK from the device: the next host sequence expected (R300); it takes no device sequence. -/
def Chip.sendAck (c : Chip) (q : Nat) : Chip :=
  let k := c.queue q
  let p : Packet := { queue := BitVec.ofNat 15 q, port := k.port, seq := k.expected, tag := 0, time := c.logTime, body := none }
  c.wire p

/-! ## Host streams (R315) -/

/-- The stream bytes per stroke of a phase in one direction. -/
def Image.hostRate (i : Image) (phase : Nat) (out : Bool) : Nat :=
  i.hostSlots.foldl (fun n s => if s.phase = phase && s.out = out then n + s.bytes else n) 0

/-- The stream bytes of the first `m` pieces from a phase on: I(m) or O(m). -/
def streamFrom (i : Image) (out : Bool) : List PhaseEntry → Nat → Nat → Nat
  | [], _, _ => 0
  | p :: ps, k, m =>
    let n := p.bodyPieces * p.reps
    min m n * (max 1 i.L) * i.hostRate k out + streamFrom i out ps (k + 1) (m - n)

/-- I(m) and O(m). -/
def Image.streamAt (i : Image) (out : Bool) (m : Nat) : Nat := streamFrom i out i.phases 0 m

/-- `n` bytes of a stream from byte `k`, read from its ring in the data window. -/
def readRing (m : Mem) (base off ring k : Nat) : Nat → List Byte
  | 0 => []
  | n + 1 => getByte m (windowAddr base (off + k % max 1 ring)) :: readRing m base off ring (k + 1) n

/-- Bytes written to a stream's ring from byte `k` up. -/
def writeRing (m : Mem) (base off ring k : Nat) : List Byte → Mem
  | [] => m
  | b :: bs => writeRing (setByte m (windowAddr base (off + k % max 1 ring)) b) base off ring (k + 1) bs

/-- The input bytes from `a` up to `b` of a job's stream. -/
def Chip.inputBytes (c : Chip) (j : Job) (a b : Nat) : List Byte :=
  readRing c.mem.hbm j.body.windowBase.toNat j.body.inOff.toNat j.body.inBytes.toNat a (b - a)

/-! ## Provenance (R321) -/

/-- The data address of a tier's ledger slot and of its header, in copy 0 or 1 (R247). -/
def ledgerPart (T copy : Nat) : Nat := if copy = 0 then T % 256 else (T % 256 + 128) % 256
def ledgerSlot (T copy : Nat) : Nat := if copy = 0 then T / 256 else 2312 + T / 256
def partBase (q : Nat) : Nat := q / 32 * stackBytes + q % 32 * partBytes
def ledgerAddr (T copy : Nat) : Nat := partBase (ledgerPart T copy) + partData + 16384 * ledgerSlot T copy
def headerAddr (T copy : Nat) : Nat := partBase (ledgerPart T copy) + partData + 75759616 + 64 * ledgerSlot T copy

/-- The address of a tier's entry in the ledger store (R249): image then header. -/
def storeAddr (T : Nat) : Nat := T * 16448

/-- The tiers that an image's TILEs with rows name: logical region, core, array, tier, whether the weights are INT4, once each,
in ascending order (R97, R98, R321). -/
structure Named where
  region : Nat
  core : Nat
  array : Nat
  tier : Nat
  int4 : Bool
deriving DecidableEq, Repr

/-- The order of a named tier. -/
def Named.key (n : Named) : Nat := ((n.region * 32 + n.core) * 16 + n.array) * 64 + n.tier

/-- A named tier put in its place of an ascending list, once for each format. -/
def insertNamed (n : Named) : List Named → List Named
  | [] => [n]
  | m :: l => if n = m then m :: l else if n.key ≤ m.key then n :: m :: l else m :: insertNamed n l

/-- The named tiers of an image. -/
def Image.named (i : Image) : List Named :=
  i.coreStreams.foldl (fun l s => s.words.foldl (fun l w =>
    match w.op, s.core with
    | .tile op, some lc =>
      if op.rows = 0 then l
      else insertNamed { region := s.region, core := lc, array := op.array.val, tier := op.tier.val, int4 := op.wInt4 } l
    | _, _ => l) l) []

/-- The physical tier that a named tier reaches on a job's placement (R97). -/
def Chip.reach (c : Chip) (j : Job) (n : Named) : Option Nat :=
  (j.phys n.region).map (fun g =>
    let cells := c.cellsOf g n.core n.array
    cells * 64 + (look (Fin.ofNat 64 n.tier) (c.arr cells).map n.tier).val)

/-- An entry of the weight digest (R321): the job stroke, then the ledger digest of each tier reached. -/
def Chip.weightEntry (c : Chip) (j : Job) (i : Image) (stroke : Nat) : List Byte :=
  let keys := i.named.foldl (fun l n => if l.any (fun m => m.key == n.key) then l else l ++ [n]) ([] : List Named)
  leBytes 8 stroke ++ (keys.filterMap (c.reach j)).flatMap (fun T => readBytes c.mem.hbm (headerAddr T 0 + 32) 32)

/-! ## Records -/

/-- The bytes 0 to 271 of a JOB_END body (R319, R320), which its signature covers. -/
def JobEnd.bytes (e : JobEnd) : List Byte :=
  leBytes 8 (3 + e.status.toNat * 256 + e.sub.toNat * 65536) ++ leBytes 2 e.flags.toNat ++ leBytes 2 e.pressure.toNat
    ++ leBytes 4 e.tag.toNat ++ leBytes 4 e.rerows.toNat ++ leBytes 4 e.pauses.toNat ++ leBytes 32 e.imageId.toNat
    ++ leBytes 8 e.nominal.toNat ++ leBytes 8 e.lastStroke.toNat ++ leBytes 8 e.outBytes.toNat
    ++ leBytes 64 e.weightDigest.toNat ++ leBytes 64 e.inputDigest.toNat ++ leBytes 64 e.provenance.toNat

/-- The JOB_END of a job (R320): its flags but for provenance and signature are given; its mode is the granted one, open
for a job that was granted none (log entry 117); the signature is open (log entry 4). -/
def Chip.jobEnd (c : Chip) (j : Job) (status sub flags : Nat) : Chip :=
  let imageDigest : List Byte := match c.imageOf j with | some i => leBytes 64 i.digest.toNat | none => leBytes 64 0
  let prov := j.digestW.isSome && j.digestI.isSome
  let w : List Byte := match j.digestW with | some d => d.digest | none => leBytes 64 0
  let i : List Byte := match j.digestI with | some d => d.digest | none => leBytes 64 0
  let signed := j.body.flags.getLsbD 1
  let granted := flags % 32 < 16 || j.st == .admitted
  let (n, c) := if granted then (modeCode j.mode, c) else ((Config.figure c.freeCtr) % 3, c.draw.2)
  let e : JobEnd :=
    { status := BitVec.ofNat 8 status, sub := BitVec.ofNat 8 sub
      flags := BitVec.ofNat 16 (flags + (if prov then 4 else 0) + (if signed then 8 else 0))
      pressure := BitVec.ofNat 8 n, tag := j.id.tag, rerows := j.rerows, pauses := j.pauses, imageId := j.image
      nominal := BitVec.ofNat 64 j.nominal, lastStroke := BitVec.ofNat 64 j.lastCommit, outBytes := BitVec.ofNat 64 j.outSent
      weightDigest := if prov then BitVec.ofNat 512 (leNat w) else 0, inputDigest := if prov then BitVec.ofNat 512 (leNat i) else 0
      provenance := if prov then sha512Field (imageDigest ++ w ++ i) else 0, signature := none }
  let e := if signed then { e with signature := some (Config.signature (beNat (sha512 e.bytes)) c.freeCtr) } else e
  let c := if signed then c.draw.2 else c
  c.send j.id.queue.toNat j.id.tag none (.jobEnd e)

/-- A JOB_STATE report (R319): state, reason, the mode after the event, the boundary, the chip stroke count. -/
def Chip.jobState (c : Chip) (j : Job) (state reason stroke : Nat) : Chip :=
  c.send j.id.queue.toNat j.id.tag none
    (.jobState 0 (BitVec.ofNat 8 state) (BitVec.ofNat 8 reason) (BitVec.ofNat 8 (modeCode j.mode)) j.id.tag
      (BitVec.ofNat 64 stroke) (c.clk.chipStroke.setWidth 64))

/-- A happening of a job that R2 or R26 puts on record without naming an event code (log entry 31): info, from the schedule source, at the
job's lowest region, as the events of R380 that come from there. -/
def Chip.jobRecord (c : Chip) (j : Job) : Chip := c.eventOpen 1 0 (locusWord (some j.lowRegion) none none) 0

/-- The port booked for the output of a phase, that of its first out entry where there are two (R314, log entry 122). -/
def Image.outPort (i : Image) (phase : Nat) : Option (Fin 2) :=
  let outs := i.hostSlots.filter (fun s => s.phase == phase && s.out)
  (outs.find? (fun s => outs.all (fun r => decide (s.start ≤ r.start)))).map (fun s => Fin.ofNat 2 s.unit)

/-- Output bytes from `k` on in STREAM_DATA packets of up to 8,192 bytes (R318), at most `n` packets. -/
def Chip.sendStream (j : Job) (port : Option (Fin 2)) (e : Nat) : Nat → Nat → Chip → Chip
  | 0, _, c => c
  | n + 1, k, c =>
    if e ≤ k then c
    else
      let b := min 8192 (e - k)
      let data := readRing c.mem.hbm j.body.windowBase.toNat j.body.outOff.toNat j.body.outBytes.toNat k b
      Chip.sendStream j port e n (k + b)
        (c.post j.id.queue.toNat { tag := j.id.tag, answers := none, body := .streamData (BitVec.ofNat 64 k) data, port := port })

end Sys2Proof.Machine
end

