-- ==== Sys2Proof/Machine/Seats.lean ====
section
/-! DEFINITION. How a job ends and gives up its regions (R33, R40, R246, R332), and the sparing ladder (R109 to R115, R152 to R156, R366 to R369): seats of optical plots, peripheries, cell blocks and digital blocks, and the remedies that a restart boundary applies. -/

namespace Sys2Proof.Machine

/-- A table with the entries at chosen keys changed; an entry that comes to the default goes. -/
def adjust {V : Type} [DecidableEq V] (d : V) (p : Nat → Bool) (f : V → V) (m : SMap V) : SMap V :=
  m.filterMap (fun e => if p e.1 then (if f e.2 = d then none else some (e.1, f e.2)) else some e)

/-! ## The end of a job -/

/-- The logical cores that a job uses, with their physical regions. -/
def Chip.jobCores (c : Chip) (j : Job) : List (Nat × Nat) :=
  match c.imageOf j with
  | some i => i.regions.flatMap (fun e =>
      match j.phys e.region with
      | some g => (List.range 32).filterMap (fun lc => if bitOf e.coreMask lc then some (g, lc) else none)
      | none => [])
  | none => []

/-- The peripheries that serve a job's cores. -/
def Chip.jobPeris (c : Chip) (j : Job) : List Nat :=
  (c.jobCores j).flatMap (fun p => (List.range 16).map (fun la => c.periOf (c.cellsOf p.1 p.2 la)))

/-- The physical cores with a periphery that serves a job. -/
def Chip.jobBlocks (c : Chip) (j : Job) : List Nat := ((c.jobPeris j).map (· / 17)).eraseDups

/-- Whether a job names a logical optical plot of a physical region. -/
def Chip.namesPlot (c : Chip) (j : Job) (g lp : Nat) : Bool :=
  match c.imageOf j, j.logical g with
  | some i, some lr => i.regions.any (fun e => e.region == lr && bitOf e.opticalMask lp)
  | _, _ => false

/-- The work of a job that is in its units: tiles free, mirrors, items, held checks and drawn seeds gone, the duty of its optical operations too
(R32 step 1, R136, R148). -/
def Chip.clearWork (c : Chip) (j : Job) : Chip :=
  let seats := (c.jobCores j).map (fun p => c.seat p.1 p.2)
  let blocks := c.jobBlocks j
  let c := overAll (j.map.map (·.2)) (fun c g => c.upRegion g (fun r => { r with
    dutyNow := r.dutyNow.filter (fun d => !(c.namesPlot j g d.plot)), optDue := r.optDue.filter (fun d => decide (d.job ≠ j.id)) })) c
  { c with
    tiles := c.tiles.filter (fun e => !(e.2.job == some j.id))
    cores := adjust {} (fun k => seats.contains k) (fun k => { k with
      coming := [], items := [], heldChecks := [], posted := [], lost := [], escapes := 0, seed := none }) c.cores
    arrays := adjust {} (fun a => blocks.contains (a / 17)) (fun a => { a with mirror := [], lastTile := none, senseLeft := 0 }) c.arrays }

/-- A physical region given up by a job: its zeroing begins, of the whole region or of the job's part of it (R246). -/
def Chip.releaseRegion (c : Chip) (j : Job) (g : Nat) : Chip :=
  let shared := c.jobs.any (fun k => decide (k.id ≠ j.id) && k.inRegion g)
  let waits := c.jobs.any (fun k => decide (k.id ≠ j.id) && k.inRegion g && k.st == .held .absentPlots)
  let part : BitVec 2 := if !c.cfg.class0 then 3 else if j.cls = 0 then 2 else 1
  c.upRegion g (fun r => { r with
    zeroing := r.zeroing ||| part, held154 := r.held154 && waits, fill := if waits then r.fill else [], sleepAtEnd := r.sleepAtEnd && shared
    wakeAt := if shared then r.wakeAt else none, rewake := if shared then r.rewake else none })

/-- A job gives up everything it holds: its work, its regions, its ports' buffers. -/
def Chip.release (c : Chip) (j : Job) : Chip :=
  if !j.holds then c
  else
    let c := j.map.foldl (fun c p => c.releaseRegion j p.2) (c.clearWork j)
    overAll (c.jobPorts j) (fun c p => c.upPort p (fun q => { q with buffer := [], distance := 0xFF })) c

/-- A tier that is HELD comes to READY, or WORN when its programmings are used up (R103, R107). -/
def Tier.settled (t : Tier) : Tier :=
  if t.st = .held then { t with st := if 10000 ≤ t.count.toNat then .worn else .ready } else t

/-- Whether a swap holds a physical tier (R107). -/
def SwapDone.holdsTier (w : SwapDone) (T : Nat) : Bool :=
  (w.heldA && tierKey w.array w.tierA.val == T) || (w.heldB && tierKey w.array w.tierB.val == T)

/-- A tier leaves HELD with a swap that held it, unless one of the swaps that stay in force holds it too (R107). -/
def Chip.settleTier (rest : List SwapDone) (w : SwapDone) (T : Nat) (c : Chip) : Chip :=
  if w.holdsTier T && !(rest.any (fun v => v.holdsTier T)) then c.upTier T Tier.settled else c

/-- The tiers that a swap holds leave HELD. -/
def Chip.settle (rest : List SwapDone) (c : Chip) (w : SwapDone) : Chip :=
  Chip.settleTier rest w (tierKey w.array w.tierB.val) (Chip.settleTier rest w (tierKey w.array w.tierA.val) c)

/-- The swaps of other jobs. -/
def Chip.otherSwaps (c : Chip) (id : JobId) : List SwapDone := (c.jobs.filter (fun k => decide (k.id ≠ id))).flatMap (·.swaps)

/-- A job ends: its regions released, its swaps' tiers settled, its JOB_END sent, the job gone (R320). -/
def Chip.endJob (c : Chip) (j : Job) (status sub flags : Nat) : Chip :=
  ((overAll j.swaps (Chip.settle (c.otherSwaps j.id)) (c.release j)).jobEnd j status sub flags).dropJob j.id

/-- Whether a job has ever started. -/
def Job.started (j : Job) : Bool :=
  match j.st with
  | .pending | .admitted => j.isResume
  | _ => true

/-- A job aborted with a status: at once, its results already committed stand. -/
def Chip.abortJob (c : Chip) (id : JobId) (status flags : Nat) : Chip :=
  match c.job? id with
  | some j => c.endJob j status 0 (flags + if j.started then 0 else 16)
  | none => c

/-- A job that has lost a unit it needs (R368, R292): aborted with DEGRADED_CAPACITY; a running fleet job raises ABORT with it. -/
def Chip.loseJob (c : Chip) (j : Job) : Chip :=
  if j.fleet && j.live then c.raiseSignal j 5 j.stroke 0xF statusDegraded else c.abortJob j.id statusDegraded 0

/-- Every job that holds regions and meets a condition is lost. -/
def Chip.loseWhere (c : Chip) (p : Job → Bool) : Chip := overAll (c.jobs.filter (fun j => j.holds && p j)) Chip.loseJob c

/-! ## Optical seats -/

/-- Whether a region stands at a boundary of R109: a piece boundary of every job that holds it, and no operation begun since: no tile taken
(R184), no optical operation in the duty. -/
def Chip.atSeatBoundary (c : Chip) (g : Nat) : Bool :=
  c.jobs.all (fun j => !(j.inRegion g) || j.stroke % (c.lengths j).1 == 0)
    && c.tiles.all (fun e => e.1 / 2 / 578 != g || e.2.st == .free) && (c.region g).dutyNow.isEmpty

/-- The physical plots of a group (R139, R157). -/
def groupPlots (g k : Nat) : List Nat := (List.range 17).map (fun n => g * 136 + 17 * k + n)

/-- The first plot of a group in a state. -/
def Chip.plotIn (c : Chip) (g k : Nat) (st : BitVec 3) : Option Nat := (groupPlots g k).find? (fun q => (c.plot q).state == st)

/-- Whether a plot is free to take a seat: not under survey, all its banks locked and without fault (R152, R156). -/
def Chip.plotReady (c : Chip) (q : Nat) : Bool :=
  (c.plot q).state == 1 && !(c.plot q).survey.active
    && (List.range 18).all (fun b => (c.bank (q * 18 + b)).lock == 3 && !(c.bank (q * 18 + b)).fault)

/-- A plot of a group that is free to take a seat (R152). -/
def Chip.freePlot (c : Chip) (g k : Nat) : Option Nat := (groupPlots g k).find? c.plotReady

/-- Whether a logical plot is parked: odd, in a region that runs in Light (R151). -/
def Chip.parks (c : Chip) (g lp : Nat) : Bool := lp % 2 == 1 && (c.region g).mode == 2

/-- A plot takes a seat. -/
def Chip.takeSeat (c : Chip) (q lp : Nat) : Chip :=
  let parked := c.parks (q / 136) lp
  c.upPlot q (fun p => { p with
    state := 0, seat := BitVec.ofNat 8 lp, parked := parked, away := false, survey := { p.survey with active := false }, absentSince := none })

/-- A running survey of a unit ends without result (R113, R153). -/
def Chip.abandonSurvey (c : Chip) (u : SurveyUnit) : Chip :=
  { c with mon := { c.mon with
      running := c.mon.running.filter (fun v => decide (v ≠ u))
      abandoned := satIf (c.mon.running.contains u) c.mon.abandoned } }

/-- A survey of a spare where it stands is abandoned when it takes a seat (R112): the unit is due still. -/
def Chip.abandonUnit (c : Chip) (u : SurveyUnit) : Chip :=
  if c.mon.running.contains u then
    match u with
    | .periphery g k a =>
      (c.abandonSurvey u).upArr ((g.val * 34 + k.val) * 17 + a.val) (fun x => { x with survey := { x.survey with active := false } })
    | _ => c.abandonSurvey u
  else c

/-- The survey unit of a plot, of an array's periphery. -/
def plotUnit (k : Nat) : SurveyUnit := .plot (Fin.ofNat 16 (k / 136)) (Fin.ofNat 136 k)
def periUnit (a : Nat) : SurveyUnit := .periphery (Fin.ofNat 16 (a / 578)) (Fin.ofNat 34 (a / 17)) (Fin.ofNat 17 a)

/-- A substitution recorded (R380 0x0401), and the last spare of its kind when no more is free (R376, 0x0402). -/
def Chip.substituted (c : Chip) (src : Nat) (locus : BitVec 32) (kind : Nat) (perm last : Bool) : Chip :=
  let c := c.event src (if perm then 2 else 0) 0x401 false locus kind
  if last then c.event src 3 0x402 false locus kind else c

/-- A logical plot has no seat any more (R154): logged, and the jobs that name it are lost. -/
def Chip.plotAbsent (c : Chip) (k lp : Nat) : Chip :=
  let g := k / 136
  let c := c.upPlot k (fun p => { p with seat := 0xFF, parked := false, absentSince := none })
  let c := c.event (srcRgn g) 3 0x403 false (plotLocus k) 2
  c.loseWhere (fun j => j.inRegion g && c.namesPlot j g lp)

/-- The regions in which a job is held under R154 say so (R157); from the start of a hold on, the plots of the last executed stroke's duty run
fill. -/
def Chip.noteHolds (c : Chip) : Chip :=
  overAll (List.range 16) (fun c g =>
    let on := c.jobs.any (fun j => j.inRegion g && j.st == .held .absentPlots)
    if (c.region g).held154 = on then c
    else c.upRegion g (fun r => { r with held154 := on, fill := if on then r.dutyPlots else [] })) c

/-- The jobs that name a plot that is out are held until it is back (R154); a fleet job raises ABORT (R292). A hold is logged. -/
def Chip.holdJobs (c : Chip) (g k : Nat) (names : Job → Bool) : Chip :=
  let out := c.jobs.filter (fun j => j.live && j.inRegion g && names j)
  let c := c.when (out.any (fun j => !j.fleet)) (fun c => c.event (srcRgn g) 1 0x114 true (plotLocus k) (k % 136))
  (overAll out (fun c j =>
    if j.fleet then c.raiseSignal j 5 j.stroke 0xF statusDegraded
    else c.upJob j.id (fun j => { j with st := .held .absentPlots })) c).noteHolds

/-- A seated plot leaves its seat (R152 to R154): a plot under survey in its group takes the seat and its survey is abandoned, else
the group spare takes it; with no free plot a retired plot's seat is absent, and a held plot keeps it while its jobs wait. A plot that keeps
its seat so goes on doing it until it is retired. -/
def Chip.leaveSeat (c : Chip) (k reason : Nat) (retire perm : Bool) : Chip :=
  let p := c.plot k
  let g := k / 136
  let grp := k % 136 / 17
  let gone (x : Plot) : Plot := { x with
    state := if retire then 4 else 3, reason := BitVec.ofNat 4 reason, seat := 0xFF, parked := false, away := false
    survey := { x.survey with active := false } }
  if p.state = 0 then
    match c.plotIn g grp 2 with
    | some q =>
      let c := ((c.upPlot k gone).abandonSurvey (plotUnit q)).takeSeat q p.seat.toNat
      c.substituted (srcRgn g) (plotLocus k) 5 perm true
    | none =>
      match c.freePlot g grp with
      | some q =>
        let c := (c.upPlot k gone).takeSeat q p.seat.toNat
        c.substituted (srcRgn g) (plotLocus k) 5 perm (c.freePlot g grp).isNone
      | none =>
        if retire then (c.upPlot k gone).plotAbsent k p.seat.toNat
        else
          let c := c.upPlot k (fun x => { x with state := 3, reason := BitVec.ofNat 4 reason, absentSince := some c.clk.aon })
          c.holdJobs g k (fun j => c.namesPlot j g p.seat.toNat)
  else if p.state = 4 then c
  else if p.state = 3 && p.seat ≠ 0xFF then
    if retire then (c.upPlot k gone).plotAbsent k p.seat.toNat
    else (c.abandonSurvey (plotUnit k)).upPlot k (fun x => { x with survey := { x.survey with active := false } })
  else (c.abandonSurvey (plotUnit k)).upPlot k (fun x => { gone x with reason := x.reason })

/-- Whether a job names a plot that is held on its seat (R154). -/
def Chip.waitsForPlot (c : Chip) (j : Job) : Bool :=
  j.map.any (fun p => (List.range 136).any (fun o =>
    let q := c.plot (p.2 * 136 + o)
    q.state == 3 && q.seat != 0xFF && c.namesPlot j p.2 q.seat.toNat))

/-- The jobs held for plots that are all back restart (R154). -/
def Chip.endPlotHolds (c : Chip) : Chip :=
  let back : Chip := { c with jobs := c.jobs.map (fun (j : Job) =>
    if j.st = .held .absentPlots && !(c.waitsForPlot j) then { j with st := .running } else j) }
  back.noteHolds

/-- A group's light is gone for good (R152, R166, R169): its plots retired, its 16 logical plots absent. -/
def Chip.retireGroup (c : Chip) (g k : Nat) : Chip :=
  overAll (groupPlots g k) (fun c q =>
    let p := c.plot q
    let c := (c.abandonSurvey (plotUnit q)).upPlot q (fun x => { x with state := 4, reason := 6, survey := { x.survey with active := false } })
    if p.seat = 0xFF then c else c.plotAbsent q p.seat.toNat) c

/-- Whether a laser serves a group of a region (R160). -/
def Chip.lit (c : Chip) (g k : Nat) : Bool :=
  (List.range 10).any (fun n =>
    let l := c.laser (g * 10 + n)
    (l.state == 4 || l.state == 5) && l.group.toNat == k)

/-- Whether a group of a region waits for a laser after a failure: no laser serves it, and plots of it are held for that (R169). -/
def Chip.darkGroup (c : Chip) (g k : Nat) : Bool :=
  !(c.lit g k) && (groupPlots g k).any (fun q => (c.plot q).state == 3 && (c.plot q).reason == 6)

/-- Whether a laser is preparing for a group. -/
def Chip.preparesFor (c : Chip) (g k : Nat) : Bool :=
  (List.range 10).any (fun n => (c.laser (g * 10 + n)).state == 3 && (c.laser (g * 10 + n)).group.toNat == k)

/-- Whether a spare laser is left for a group: one that prepares for it, or an unused one more than the other groups that wait take. -/
def Chip.spareFor (c : Chip) (g k : Nat) : Bool :=
  c.preparesFor g k
    || decide (countBelow 8 (fun n => n != k && c.darkGroup g n && !(c.preparesFor g n))
        < countBelow 10 (fun n => decide ((c.laser (g * 10 + n)).state.toNat ≤ 2) && (c.laser (g * 10 + n)).group == 0xF))

/-- A group whose laser failed, at its restart boundary (R169): with no unused spare laser it is retired; else its seated plots are held,
their seats kept until a spare serves them, and the jobs that name them wait. -/
def Chip.holdGroup (c : Chip) (g k : Nat) : Chip :=
  if c.lit g k then c
  else if !(c.spareFor g k) then c.retireGroup g k
  else
    let seated := (groupPlots g k).filter (fun q => (c.plot q).state == 0)
    let seats := seated.map (fun q => (c.plot q).seat.toNat)
    let c := overAll seated (fun c q => (c.abandonSurvey (plotUnit q)).upPlot q (fun p => { p with
      state := 3, reason := 6, survey := { p.survey with active := false }, absentSince := some c.clk.aon })) c
    match seated with
    | [] => c
    | q :: _ => c.holdJobs g q (fun j => seats.any (c.namesPlot j g))

/-! ## Arrays -/

/-- Whether a tier may be swapped or sensed (R96, R105). -/
def TierSt.live (t : TierSt) : Bool := t == .ready || t == .held || t == .worn

/-- The tiers of an array that a copy takes (R110, R114). -/
def Chip.liveTiers (c : Chip) (a : Nat) : List (Fin 64) :=
  ((List.range 64).map (Fin.ofNat 64)).filter (fun t => (c.tier (tierKey a t.val)).st.live)

/-- The logical array whose weights a cell block holds: logical core and array (R116 cell_seat). -/
def Chip.logicalOf (c : Chip) (a : Nat) : Option (Nat × Nat) :=
  let g := a / 578
  let k := a / 17 % 34
  if k < 32 && a % 17 < 16 && c.cellsOf g k (a % 17) = a then some (k, a % 17)
  else (c.cells.find? (fun e => e.2 == a)).map (fun e => (e.1 / 16 % 32, e.1 % 16))

/-- The cell block that a periphery senses (R116 senses). -/
def Chip.sensesOf (c : Chip) (p : Nat) : Option Nat :=
  if c.periOf p = p && (c.logicalOf p).isSome then some p
  else (c.peri.find? (fun e => e.2 == p && (c.logicalOf e.1).isSome)).map (·.1)

/-- The digital block that drives an array (R367): the seat of the logical core that its weights belong to, else of the logical core
of its own physical core. -/
def Chip.driver (c : Chip) (a : Nat) : Nat :=
  match c.logicalOf a with
  | some (lc, _) => c.seat (a / 578) lc
  | none => if a / 17 % 34 < 32 then c.seat (a / 578) (a / 17 % 34) else a / 17

/-- The arrays of the physical core that an array lies in. -/
def coreArrays (a : Nat) : List Nat := (List.range 17).map (fun n => a / 17 * 17 + n)

/-- A free periphery of an array's core: live, serving no seat, not under survey (R111, R113). -/
def Chip.sparePeri (c : Chip) (a : Nat) : Option Nat :=
  (coreArrays a).find? (fun q => q != a && !(c.arr q).retiredPeri && (c.sensesOf q).isNone && (c.arr q).away.isNone)

/-- Whether the periphery of a free cell block can sense it once the block takes the seat of array `a`: it serves no seat, or that of `a`
itself (R115), or one for a survey rotation, which ends. -/
def Chip.periFor (c : Chip) (a q : Nat) : Bool :=
  match c.sensesOf q with
  | none => true
  | some home => home == a || (coreArrays q).any (fun n => (c.arr n).away == some home)

/-- A free cell block of an array's core whose own periphery can sense it (R114, R115). -/
def Chip.spareCells (c : Chip) (a : Nat) : Option Nat :=
  (coreArrays a).find? (fun q => q != a && !(c.arr q).retiredCells && !(c.arr q).retiredPeri && (c.logicalOf q).isNone
    && c.periFor a q && (c.arr q).away.isNone && !(c.arr q).copying)

/-- The free arrays of a region's spare cores (R369). -/
def Chip.spareCoreArrays (c : Chip) (g : Nat) : List Nat :=
  ((List.range 34).map (fun n => (g * 34 + 32) * 17 + n)).filter (fun q => !(c.arr q).retiredCells && !(c.arr q).retiredPeri
    && (c.logicalOf q).isNone && (c.sensesOf q).isNone && (c.arr q).away.isNone && !(c.arr q).copying)

/-- Whether a job names a logical array of a physical region: a TILE with rows on it (R98, R369). -/
def Chip.namesArray (c : Chip) (j : Job) (g : Nat) (l : Nat × Nat) : Bool :=
  match c.imageOf j, j.logical g with
  | some i, some lr => i.named.any (fun n => n.region == lr && n.core == l.1 && n.array == l.2)
  | _, _ => false

/-- A logical array can no longer be sensed (R369): capacity lost, the jobs naming it lost. -/
def Chip.impair (c : Chip) (a : Nat) : Chip :=
  if (c.arr a).impaired then c
  else
    let c := c.upArr a (fun x => { x with impaired := true })
    let c := c.event (srcCore (a / 17)) 3 0x403 false (arrLocus a none) 3
    match c.logicalOf a with
    | some l => c.loseWhere (fun j => j.inRegion (a / 578) && c.namesArray j (a / 578) l)
    | none => c

/-- The tiers of a physical core that are being programmed, copies among them (R101, R110, R114, R369): one for a programming and for each
copy that runs, four for a copy into a spare core. -/
def Chip.coreProgramming (c : Chip) (core : Nat) : Nat :=
  (coreArrays (core * 17)).foldl (fun n a =>
    let x := c.arr a
    n + flag (match x.prog with | some p => !p.erase | none => false)
      + (x.subs.filter (fun s => s.2.copying && s.2.since.isSome && !s.2.copied)).length
      + (if x.copying && x.copyAt.isSome && !x.copied && (c.logicalOf a).isNone then (if 32 ≤ core % 34 then 4 else 1) else 0)) 0

/-- The copy into a spare plot begins when one of its core's four programmings is free (R110). -/
def Chip.beginPlot (a : Nat) (c : Chip) (i : Nat) : Chip :=
  let s := (c.arr a).sub i
  if s.copying && s.since.isNone && decide (c.coreProgramming (a / 17) < 4) then
    c.upArr a (fun x => { x with subs := put {} x.subs i { s with since := some c.clk.aon } })
  else c

/-- The copy of an array's tiers begins when the core it goes to has programmings free: one, or four in a spare core (R114, R369). -/
def Chip.beginCells (c : Chip) (a : Nat) : Chip :=
  match (c.arr a).moveTo with
  | some q =>
    if (c.arr a).copying && (c.arr a).copyAt.isNone
        && decide (c.coreProgramming (q / 17) + (if 32 ≤ q / 17 % 34 then 4 else 1) ≤ 4) then
      (c.upArr a (fun x => { x with copyAt := some c.clk.aon })).upArr q (fun x => { x with copyAt := some c.clk.aon })
    else c
  | none => c

/-- The copies that wait for programmings of a physical core, the lowest array first (log entry 124). -/
def Chip.beginCopies (c : Chip) (core : Nat) : Chip :=
  let into := (c.arrays.filter (fun e => match e.2.moveTo with | some q => q / 17 == core | none => false)).map (·.1)
  overAll into Chip.beginCells (overAll (coreArrays (core * 17)) (fun c a => overAll (List.range 16) (Chip.beginPlot a) c) c)

/-- A swap staged on an array is refused when a copy of its tiers begins (R114). -/
def Arr.refuseSwap (x : Arr) : Arr := if x.staged then { x with staged := false, swapResult := 4 } else x

/-- An array's weights are to move (R114, R115, R369): it is a candidate, and its copy into the core's spare cell block begins; without one the
degradation is reported, and the copy goes to a free array of a spare core. -/
def Chip.startMove (c : Chip) (a : Nat) : Chip :=
  if (c.arr a).candidate then c
  else
    let g := a / 578
    let own := c.spareCells a
    let dest := match own with
      | some q => some q
      | none => (c.spareCoreArrays g).head?
    let c := c.upArr a (fun x =>
      { (if dest.isSome then x.refuseSwap else x) with candidate := true, copying := dest.isSome, copyAt := none, copied := false, moveTo := dest })
    let c := c.when own.isNone (fun c =>
      if dest.isSome then c.eventOpen (srcCore (a / 17)) 3 (arrLocus a none) 3 else c.event (srcCore (a / 17)) 3 0x403 false (arrLocus a none) 3)
    match dest with
    | some q => (c.upArr q (fun x => { x with copying := true, copyAt := none, copied := false })).beginCopies (q / 17)
    | none => c

/-- A plot's copy into the spare plot of its row group is called for (R110). When that spare is in use the loss is reported and the array is a
candidate for another cell block; when the spare plot is retired, DESIGN CHOICE, the same (log entry 125). -/
def Chip.startPlotCopy (c : Chip) (a i j : Nat) : Chip :=
  let s := (c.arr a).sub i
  if s.copying && s.group.toNat = j then c
  else if !s.active && !s.copying && !s.spareFailed then
    (c.upArr a (fun x => { x with
      subs := put {} x.subs i { s with copying := true, since := none, copied := false, group := BitVec.ofNat 5 j } })).beginCopies (a / 17)
  else (c.event (srcCore (a / 17)) 3 0x403 false (arrLocus a (some i)) 3).startMove a

/-- A stuck cell enters the list of its array (R120, R366); a full list impairs the array. -/
def Chip.addStuck (c : Chip) (a : Nat) (e : Stuck) : Chip :=
  let l := (c.arr a).stuck
  if l.any (fun x => x.tier == e.tier && x.row == e.row && x.column == e.column) then
    c.upArr a (fun x => { x with stuck := x.stuck.map (fun y =>
      if y.tier = e.tier && y.row = e.row && y.column = e.column then e else y) })
  else if l.length < 64 then
    let c := c.upArr a (fun x => { x with stuck := x.stuck ++ [e] })
    if 48 < l.length + 1 then c.startMove a else c
  else (c.impair a).startMove a

/-- A survey rotation of a core ends without result (R113): the periphery under survey returns to its seat with the taps it had. -/
def Chip.endRotation (c : Chip) (a : Nat) : Chip :=
  match (coreArrays a).find? (fun q => (c.arr q).away.isSome) with
  | some q =>
    let home := ((c.arr q).away).getD q
    let c := c.upArr q (fun x => { x with away := none, survey := { x.survey with active := false } })
    { c.abandonSurvey (periUnit q) with peri := put home c.peri home q }
  | none => c

/-- A periphery found failed is retired, and a free periphery of its core takes its seat (R111, R113); with none the array is
impaired until its weights are moved (R369). -/
def Chip.retirePeri (c : Chip) (p : Nat) : Chip :=
  if (c.arr p).retiredPeri then c
  else
    let c := c.endRotation p
    let c0 := c
    let c := c.upArr p (fun x => { x with retiredPeri := true })
    match c0.sensesOf p with
    | none => c
    | some home =>
      match c.sparePeri p with
      | some q =>
        let c := c.abandonUnit (periUnit q)
        let c := { c with peri := put home c.peri home q }
        c.substituted (srcCore (p / 17)) (arrLocus p none) 2 true (c.sparePeri p).isNone
      | none => (c.impair home).startMove home

/-! ## Cores and regions -/

/-- A region is lost (R368): its jobs are lost, it sleeps and stays so. -/
def Chip.loseRegion (c : Chip) (g : Nat) : Chip :=
  if (c.region g).lost then c
  else
    let c := c.upRegion g (fun r => { r with lost := true })
    let c := c.event (srcRgn g) 3 0x403 false (locusWord (some g) none none) 1
    let c := c.loseWhere (fun j => j.inRegion g)
    c.upRegion g (fun r => { r with power := 0, mode := 3, halved := false, dutyNow := [], dutyPlots := [], optDue := [] })

/-- The logical core whose digital seat a physical core is. -/
def Chip.seated (c : Chip) (core : Nat) : Option Nat := (List.range 32).find? (fun lc => c.seat (core / 34) lc == core)

/-- The free spare digital blocks of a region. -/
def Chip.spareCores (c : Chip) (g : Nat) : List Nat :=
  [g * 34 + 32, g * 34 + 33].filter (fun k => !(c.core k).retired && (c.seated k).isNone)

/-- The core staging bytes that the jobs of a logical core declare. -/
def Chip.declaredStaging (c : Chip) (g lc : Nat) : Nat :=
  c.jobs.foldl (fun n j =>
    match c.imageOf j, j.logical g with
    | some i, some lr => if j.inRegion g then
        i.regions.foldl (fun n e => if e.region = lr && bitOf e.coreMask lc then max n e.coreStaging else n) n else n
    | _, _ => n) 0

/-- A digital block found failed is retired, and the lowest free spare core of the region takes its seat (R367): the declared core staging
and the weak-plot table are copied, and a job that is not a fleet job is held for 3 strokes; with no spare the region is lost. -/
def Chip.replaceCore (c : Chip) (core : Nat) : Chip :=
  if (c.core core).retired then c
  else
    let g := core / 34
    let c0 := c
    let c := c.upCore core (fun k => { k with retired := true })
    match c0.seated core with
    | none => c
    | some lc =>
      match c.spareCores g with
      | [] => c.loseRegion g
      | q :: rest =>
        let n := c.declaredStaging g lc
        let data := readBytes c.mem.cstg (coreByte core 0) n
        let old := c.core core
        let c := { c with
          seats := put (g * 34 + lc) c.seats (g * 32 + lc) q
          mem := { c.mem with cstg := writeBytes c.mem.cstg (coreByte q 0) data } }
        let c := c.upCore q (fun k => { k with table := old.table })
        let c := c.substituted (srcCore core) (coreLocus core) 4 true rest.isEmpty
        overAll (c.jobs.filter (fun j => j.inRegion g && j.live && !j.fleet && (c.jobCores j).contains (g, lc))) (fun c j =>
          c.upJob j.id (fun j => { j with st := .held .coreCopy, coreHold := 3 })) c

/-! ## Remedies -/

/-- The region that a remedy belongs to; none for a link's. -/
def Remedy.regionOf : Remedy → Option Nat
  | .stuck a _ | .periphery a | .spareFailed a _ => some (a / 578)
  | .core k | .coxEntry k _ _ _ => some (k / 34)
  | .plotHeld k | .plot k _ => some (k / 136)
  | .region g => some g
  | .group k => some (k / 8)
  | .lane _ _ | .portOut _ => none

/-- Where a remedy stands among those of one boundary: a lower logical core or plot goes first (R156, R382). -/
def Chip.remedyRank (c : Chip) : Remedy → Nat
  | .core k => 1000 + (c.seated k).getD 999
  | .plotHeld k | .plot k _ => 3000 + (c.plot k).seat.toNat
  | .region _ => 4000
  | _ => 0

/-- The restart of a benchmark's first mismatch is the boundary its 256 strokes follow (R363). -/
def Chip.benchRestart (c : Chip) (g : Nat) : Chip :=
  let n := (c.region g).stroke.toNat + 2
  { c with arrays := adjust {} (fun a => a / 578 == g) (fun a => { a with
      benchFail := a.benchFail.map (fun e => if e.1 < 16 && e.2 == 1 then (e.1, n) else e) }) c.arrays }

/-- A remedy of a region applied at a boundary (R363): its locus's event times are cleared as it was called (R364). -/
def Chip.remedy (c : Chip) (r : Remedy) : Chip :=
  match r with
  | .stuck a e => c.addStuck a e
  | .periphery a => c.retirePeri a
  | .core k => c.replaceCore k
  | .coxEntry k a i j =>
    let q := (c.arr a).quality.find? (fun e => e.1 == i * 17 + j)
    let margin := match q with | some e => e.2.margin | none => 0xFF
    let c := c.upCore k (fun x => x.addEntry a i j margin)
    if margin.toNat ≤ 89 then c.startPlotCopy a i j else c
  | .plotHeld k => (c.leaveSeat k 3 false false).upPlot k (fun p => { p with survey := { p.survey with due := true } })
  | .plot k reason => c.leaveSeat k reason.toNat (reason != 5) (reason == 4)
  | .region g => c.loseRegion g
  | .spareFailed a i => c.upArr a (fun x => { x with subs := put {} x.subs i { x.sub i with spareFailed := true } })
  | .group k => c.holdGroup (k / 8) (k % 8)
  | .lane _ _ | .portOut _ => c

/-- Remedies that wait and meet a condition are applied, in order (R382). -/
def Chip.applyWhere (c : Chip) (mine : Remedy → Bool) : Chip :=
  let now := sortBy c.remedyRank (c.saf.remedies.filter mine)
  let c := { c with saf := { c.saf with remedies := c.saf.remedies.filter (fun r => !(mine r)) } }
  overAll now Chip.remedy c

/-- The remedies waiting in chosen regions, all applied (R44 row 3, R382). -/
def Chip.applyRemedies (c : Chip) (gs : List Nat) : Chip :=
  (overAll gs Chip.benchRestart c).applyWhere (fun r => match r.regionOf with | some g => gs.contains g | none => false)

/-- The parked plots of a region that are to leave their seats do so at a boundary of R152, without a re-row (R175, R180, R182). -/
def Chip.moveParked (c : Chip) (g : Nat) : Chip :=
  if c.atSeatBoundary g then c.applyWhere (fun r => match r with | .plot k _ => k / 136 == g && (c.plot k).parked | _ => false) else c

end Sys2Proof.Machine
end

