-- ==== Sys2Proof/Machine/Laser.lean ====
section
/-! DEFINITION. Lasers by name, their commissioning values, the equalisers and gain trims of the laser groups (R158 to R165). -/

namespace Sys2Proof.Machine

/-- A laser named by a reference, and the block with it changed. -/
def Chip.laserAt (c : Chip) : LaserRef → Laser
  | .compute g n => c.laser (g.val * 10 + n.val)
  | .link n => c.linkLaser n.val
def Chip.upLaserAt (c : Chip) (r : LaserRef) (f : Laser → Laser) : Chip :=
  match r with
  | .compute g n => c.upLaser (g.val * 10 + n.val) f
  | .link n => c.upLinkLaser n.val f

/-- The lasers among which a laser can be replaced: those of its region, or of its port quad (R159, R163). -/
def laserPool : LaserRef → List LaserRef
  | .compute g _ => (List.range 10).map (fun n => .compute g (Fin.ofNat 10 n))
  | .link n =>
    let q := if n.val < 16 then n.val / 4 else n.val - 16
    (List.range 4).map (fun i => LaserRef.link (Fin.ofNat 20 (4 * q + i))) ++ [.link (Fin.ofNat 20 (16 + q))]

/-- The event source and locus of a laser: its region, or the port it serves (R378). -/
def Chip.laserSource (c : Chip) : LaserRef → Nat
  | .compute g _ => srcRgn g.val
  | .link n => srcPort (if n.val < 16 then n.val else (c.linkLaser n.val).group.toNat)
def Chip.laserLocus (c : Chip) : LaserRef → BitVec 32
  | .compute g n => locusWord (some g.val) none (some n.val)
  | .link n => locusWord none (some (if n.val < 16 then n.val else (c.linkLaser n.val).group.toNat)) (some n.val)

/-- Whether a laser gives light to a group or port (R160). -/
def Laser.serves (l : Laser) : Bool := l.state == 4 || l.state == 5

/-- The laser that serves a group: the one whose light its plots take (R167). -/
def Chip.groupLaser (c : Chip) (g k : Nat) : Nat :=
  let on (st : BitVec 3) : Option Nat := (List.range 10).find? (fun n =>
    (c.laser (g * 10 + n)).state == st && (c.laser (g * 10 + n)).group.toNat == k)
  match on 4 with
  | some n => n
  | none => (on 5).getD 0xF

/-- Whether a laser is one of a region's groups, and which. -/
def Chip.groupKey (c : Chip) : LaserRef → Option Nat
  | .compute g n => some (g.val * 8 + (c.laser (g.val * 10 + n.val)).group.toNat % 8)
  | .link _ => none

/-- The bias mode that a laser's commissioning value is of (R162, R165): its region's; in a region that no job has run in since start-up,
one the spec does not state. -/
def Chip.biasMode (c : Chip) : LaserRef → Nat
  | .compute g _ => if (c.region g.val).mode = 3 then Config.figure (2 ^ 64 + g.val) % 3 else (c.region g.val).mode.toNat
  | .link _ => 0

/-- The commissioning power of a line in 0.1 µW (R162, R165): as shipped, the typical value of R162 (log entry 12). -/
def commissioned (r : LaserRef) (l : Laser) (mode line : Nat) : Nat :=
  let typical := match r with
    | .compute _ _ => if mode = 0 then 15000 else if mode = 1 then 14000 else 6000
    | .link _ => 30000
  look typical l.commission (mode * 16 + line)

/-- Whether a present power lies more than x tenths of a dB below a reference. -/
def fadedBy (ref present x : Nat) : Bool := decide (10 ^ x * present ^ 100 < ref ^ 100)

/-- The largest number below 2^17 of those up to which a test holds. -/
def lastUpTo (p : Nat → Bool) : Nat :=
  [65536, 32768, 16384, 8192, 4096, 2048, 1024, 512, 256, 128, 64, 32, 16, 8, 4, 2, 1].foldl (fun x b => if p (x + b) then x + b else x) 0

/-- What an equaliser channel takes off a line to bring it to the weakest, in 2^-20 of what it lets through, and the power before it of a line
that is measured after it; its range is 6 dB (R162, R164; log entry 131). -/
def attOf (raw least : Nat) : Nat := min 3125837 (raw * 2 ^ 20 / least - 2 ^ 20)
def rawOf (present att : Nat) : Nat := ceilDiv (present * (2 ^ 20 + att)) (2 ^ 20)

/-- An equaliser set for line powers before it (R164): each line is brought to the weakest. -/
def Group.setLines (x : Group) (raw : List Nat) : Group :=
  let least := raw.foldl min (raw.headD 0)
  { x with level := least, att := (raw.zipIdx).foldl (fun m p => put 0 m p.2 (attOf p.1 least)) [] }

/-- An equaliser takes new line powers (R164), measured after it. -/
def Group.equalise (x : Group) (powers : SMap Nat) : Group :=
  x.setLines ((List.range 16).map (fun n => rawOf (look 0 powers n) (look 0 x.att n)))

/-- The power that the gain trims are to be set for: P_eq, held between +0.5 dB and −3.5 dB of the commissioning value (R164). -/
def trimLevel (ref level : Nat) : Nat :=
  max (lastUpTo (fun p => fadedBy ref p 35) + 1) (min (lastUpTo (fun p => !(fadedBy p ref 5))) level)

/-- A gain trim, in proportion to 1 / P_eq (R164). -/
def gainFor (level : Nat) : Nat := 2 ^ 40 / level

/-- The gain trims of a group follow P_eq by at most 1/4,096 of their value per stroke (R164). -/
def Group.track (x : Group) (ref : Nat) : Group :=
  let want := gainFor (trimLevel ref x.level)
  let step := x.gain / 4096
  { x with gain := if x.gain = 0 then want else if x.gain + step < want then x.gain + step else if want + step < x.gain then x.gain - step else want }

/-- The commissioning powers of a laser's lines in the mode of its region, and the weakest of them. -/
def Chip.commissionLines (c : Chip) (r : LaserRef) : List Nat := (List.range 16).map (commissioned r (c.laserAt r) (c.biasMode r))
def Chip.commissionLevel (c : Chip) (r : LaserRef) : Nat := (c.commissionLines r).foldl min 65535

/-- The compute laser that serves a group of a region. -/
def Chip.servingRef (c : Chip) (g k : Nat) : LaserRef := .compute (Fin.ofNat 16 g) (Fin.ofNat 10 (c.groupLaser g k))

/-- The gain trims of a region's groups take their step at a stroke boundary (R164). -/
def Chip.trackGains (c : Chip) (g : Nat) : Chip :=
  { c with groups := c.groups.filterMap (fun e =>
      if e.1 / 8 = g && e.2.level ≠ 0 then some (e.1, e.2.track (c.commissionLevel (c.servingRef g (e.1 % 8)))) else some e) }

end Sys2Proof.Machine
end

