-- ==== Sys2Proof/Machine/Ledger.lean ====
section
/-! DEFINITION. The weight ledger (R247 to R249): its entries and copies, their readers and repair, and the cox ledger shadows (R129). -/

namespace Sys2Proof.Machine

/-- The magic of a ledger header (R247). -/
def ledgerMagic : Nat := 0x44454C58

/-- The header of a tier's ledger entry (R247); copy 0xFF in the ledger store (R249). -/
def ledgerHeader (T : Nat) (int4 : Bool) (copy count stroke : Nat) (image : List Byte) : List Byte :=
  leBytes 4 ledgerMagic ++ leBytes 4 T ++ leBytes 1 (flag int4) ++ leBytes 1 copy ++ leBytes 2 0 ++ leBytes 4 count
    ++ leBytes 8 (stroke % 2 ^ 48) ++ leBytes 8 0 ++ (sha512 image).take 32

/-- Whether a ledger entry is good: its magic and its digest (R248). -/
def entryGood (m : Mem) (image header : Nat) : Bool :=
  readLE m header 4 == ledgerMagic && (sha512 (readBytes m image 16384)).take 32 == readBytes m (header + 32) 32

/-- A tier's copy in HBM, and its entry in the ledger store. -/
def Chip.copyGood (c : Chip) (T n : Nat) : Bool := entryGood c.mem.hbm (ledgerAddr T n) (headerAddr T n)
def Chip.storeGood (c : Chip) (T : Nat) : Bool := entryGood c.mem.ledger (storeAddr T) (storeAddr T + 16384)

/-- Whether a copy lies on a stack that is not degraded. -/
def Chip.copyUp (c : Chip) (T n : Nat) : Bool := (c.stack (ledgerPart T n / 32)).state == 0

/-- The locus of a copy's stack. -/
def copyLocus (T n : Nat) : BitVec 32 := locusWord none (some (ledgerPart T n / 32)) none

/-- An entry put into a copy in HBM, with the copy's own number. -/
def Chip.putCopy (c : Chip) (T n : Nat) (image header : List Byte) : Chip :=
  let h := header.take 9 ++ [BitVec.ofNat 8 (if leNat header = 0 then 0 else n)] ++ header.drop 10
  { c with mem := { c.mem with hbm := writeBytes (writeBytes c.mem.hbm (ledgerAddr T n) image) (headerAddr T n) h } }

/-- A copy found bad rewritten from an entry (R248); a transient event. -/
def Chip.repairCopy (c : Chip) (T n : Nat) (image header : List Byte) : Chip :=
  (c.putCopy T n image header).eventOpen (srcStack (ledgerPart T n / 32)) 1 (copyLocus T n) T

/-- A tier whose every copy is bad (R248): a degradation event. -/
def Chip.entryLost (c : Chip) (T : Nat) : Chip := c.eventOpen (srcStack (ledgerPart T 0 / 32)) 3 (copyLocus T 0) T

/-- A copy in HBM read (R248, R252): an uncorrectable codeword, which counts against its pseudo-channel, a bad magic or digest, or a degraded
stack makes it unfit. -/
def Chip.readCopy (c : Chip) (bad : List LedgerMiss) (T n : Nat) : Chip × Bool :=
  if !c.copyUp T n then (c, false)
  else if bad.contains { tier := T, copy := Fin.ofNat 2 n } then (c.channelFault (ledgerAddr T n) false, false)
  else (c, c.copyGood T n)

/-- A reader's image of a tier (R248): copy 0, else copy 1, else the ledger store; a copy that is bad on a stack that is up is repaired.
None when every one is bad, with a degradation event. -/
def Chip.readLedger (c : Chip) (bad : List LedgerMiss) (T : Nat) : Chip × Option (List Byte) :=
  let (c, good0) := c.readCopy bad T 0
  if good0 then (c, some (readBytes c.mem.hbm (ledgerAddr T 0) 16384))
  else
    let (c, good1) := c.readCopy bad T 1
    if good1 then
      let image := readBytes c.mem.hbm (ledgerAddr T 1) 16384
      let header := readBytes c.mem.hbm (headerAddr T 1) 64
      (c.when (c.copyUp T 0) (fun c => c.repairCopy T 0 image header), some image)
    else if c.storeGood T then
      let image := readBytes c.mem.ledger (storeAddr T) 16384
      let header := readBytes c.mem.ledger (storeAddr T + 16384) 64
      let c := c.when (c.copyUp T 0) (fun c => c.repairCopy T 0 image header)
      (c.when (c.copyUp T 1) (fun c => c.repairCopy T 1 image header), some image)
    else (c.entryLost T, none)

/-- The tiers of an array in a list read from the ledger: none when one is lost (R248). -/
def Chip.readTiers (c : Chip) (bad : List LedgerMiss) (a : Nat) : List (Fin 64) → Chip × Option (List (Fin 64 × List Byte))
  | [] => (c, some [])
  | t :: ts =>
    let (c, i) := c.readLedger bad (tierKey a t.val)
    match i with
    | none => (c, none)
    | some image =>
      let (c, rest) := Chip.readTiers c bad a ts
      (c, rest.map (fun l => (t, image) :: l))

/-- A copy of a tier's entry whose stack has lost it rebuilt from its partner, or from the store (R248, R254). -/
def Chip.repairFrom (c : Chip) (T n : Nat) : Chip :=
  let o := 1 - n
  if c.copyUp T o && c.copyGood T o then
    c.repairCopy T n (readBytes c.mem.hbm (ledgerAddr T o) 16384) (readBytes c.mem.hbm (headerAddr T o) 64)
  else if c.storeGood T then
    c.repairCopy T n (readBytes c.mem.ledger (storeAddr T) 16384) (readBytes c.mem.ledger (storeAddr T + 16384) 64)
  else c.entryLost T

/-! ## Where entries lie -/

/-- The ledger part of a physical address: the offset in its reserved area, when it lies in a slot or a header (R247). -/
def ledgerOffset (L : Nat) : Option Nat :=
  let b := L % partBytes
  if partData ≤ b && b - partData < 76055552 then some (b - partData) else none

/-- The tier and the copy whose slot or header holds an offset of the reserved area of partition q. -/
def ledgerOwner (q off : Nat) : Nat × Nat :=
  let slot := if off < 75759616 then off / 16384 else (off - 75759616) / 64
  if slot < 2312 then (slot * 256 + q, 0) else ((slot - 2312) * 256 + (q + 128) % 256, 1)

/-- The tiers with an entry in HBM: those that a byte of a slot or header belongs to, once each. -/
def ledgerHeld (m : Mem) : List Nat :=
  (m.filterMap (fun e => (ledgerOffset e.1).map (fun off => (ledgerOwner (e.1 / partBytes) off).1))).eraseDups

/-- The tiers that have an entry in the ledger store, in order. -/
def ledgerTiers (m : Mem) : List Nat :=
  (m.foldl (fun (l : List Nat) e =>
    let T := e.1 / 16448
    match l with
    | t :: _ => if t = T then l else T :: l
    | [] => [T]) []).reverse

/-- The ledger copies of a stack rebuilt from their partners (R254), for the tiers of a list. -/
def Chip.rebuildCopies (c : Chip) (s : Nat) (tiers : List Nat) : Chip :=
  overAll tiers (fun c T =>
    overAll ([0, 1].filter (fun n => ledgerPart T n / 32 == s)) (fun c n => c.repairFrom T n) c) c

/-! ## The cox ledger shadows -/

/-- The physical address of the shadow of a physical core (R129, R247): its place in the reserved area of the partition whose cox ledger slot the
running phase books for it; none while none books one. -/
def Chip.shadowOf (c : Chip) (core : Nat) : Option Nat :=
  match c.seated core with
  | none => none
  | some lc => c.jobs.findSome? (fun j =>
    match j.logical (core / 34), c.imageOf j, c.pos j with
    | some lr, some i, some p =>
      if j.st = .running then
        let slots := i.memSlots.filter (fun e => e.phase == p.phase && e.use == 1)
        (slots.find? (fun e => e.region == lr && e.core == lc && !e.sequencer)).map (fun e =>
          let q := j.body.windowBase.toNat / stackBytes * 32 + e.unit
          partBase q + partData + 77594624 + 65536 * (slots.filter (fun x => x.unit == e.unit)).findIdx (· == e))
      else none
    | _, _, _ => none)

/-- Whether a running phase books the cox ledger slot of a physical core (R129, R137). -/
def Chip.ledgerNow (c : Chip) (core : Nat) : Bool := (c.shadowOf core).isSome

/-- The intended digits of a plot in a tier image (R88, R129): the four bytes of its column group in each of its sixteen rows. -/
def plotDigits (image : List Byte) (i j : Nat) : List Byte :=
  (List.range 16).flatMap (fun r => slice image (64 * (16 * i + r) + 4 * j) 4)

/-- The data of a weak-plot entry, 64 bytes a tier; a tier that holds no weights has none (log entry 140). -/
def entryData (tiers : List (Fin 64 × List Byte)) (i j : Nat) : List Byte :=
  (List.range 64).flatMap (fun t =>
    match tiers.find? (fun x => x.1.val == t) with
    | some x => plotDigits x.2 i j
    | none => List.replicate 64 0)

/-- The data of entry `n` of a core's table brought to its shadow (R129, R248); an entry whose data are lost fails and is released. -/
def Chip.fillShadow (c : Chip) (bad : List LedgerMiss) (core base n : Nat) : Chip :=
  let e : TableEntry := look {} (c.core core).table n
  let r := c.readTiers bad e.array (c.liveTiers e.array)
  let c := r.1
  match r.2 with
  | none => c.upCore core (fun k => k.dropEntry e.array e.rowGroup e.colGroup)
  | some l =>
    let c := { c with mem := { c.mem with hbm := writeBytes c.mem.hbm (base + 4096 * n) (entryData l e.rowGroup e.colGroup) } }
    c.upCore core (fun k => { k with table := put {} k.table n { e with loaded := some base } })

/-- The entries of a core's table that wait or fill and whose data are not in its shadow, brought there. -/
def Chip.fillShadows (c : Chip) (bad : List LedgerMiss) (core : Nat) : Chip :=
  match c.shadowOf core with
  | none => c
  | some base =>
    overAll (((c.core core).table.filter (fun e => (e.2.state == 1 || e.2.state == 2) && e.2.loaded != some base)).map (·.1))
      (fun c n => c.fillShadow bad core base n) c

/-- The shadows of a stack that has lost its data are gone. -/
def Chip.dropShadows (c : Chip) (s : Nat) : Chip :=
  { c with cores := adjust {} (fun _ => true) (fun k => { k with table := adjust {} (fun _ => true) (fun e =>
      { e with loaded := e.loaded.filter (fun b => decide (b / stackBytes ≠ s)) }) k.table }) c.cores }

end Sys2Proof.Machine
end

