-- ==== Sys2Proof/Machine/Xch.lean ====
section
/-! DEFINITION. The exchange: XCH.CORE and XCH.REGION (R79, R80, R188, R193). -/

namespace Sys2Proof.Machine

/-- Records added to the records at a place, one after another (R188, R193): the memory and how many sums were clamped. -/
def addRecords (m : Mem) (dst : Nat) : List Byte → Nat → Mem × Nat
  | [], _ => (m, 0)
  | _, 0 => (m, 0)
  | bytes, n + 1 =>
    let (r, cn) := clampRecord (sext 128 (leNat (bytes.take 16)) + sext 128 (readLE m dst 16))
    let (m, k) := addRecords (writeBytes m dst (leBytes 16 r)) (dst + 16) (bytes.drop 16) n
    (m, k + cn.dadd)

/-- Chunks of 256 bytes added, record by record, to the place they arrive at, chunk k `lat` chunks after its read (R54, R80). -/
def addChunks (lat src dst : Nat) : Nat → Nat → Mem → List (Nat × List Byte) → Nat → Mem × Nat
  | 0, _, m, pend, k =>
    pend.foldl (fun (s : Mem × Nat) p => let (m, n) := addRecords s.1 p.1 p.2 16; (m, s.2 + n)) (m, k)
  | n + 1, left, m, pend, k =>
    let ready := decide (lat + 1 ≤ pend.length)
    let (m, k) := if ready then (match pend with | p :: _ => let (m, n) := addRecords m p.1 p.2 16; (m, k + n) | [] => (m, k)) else (m, k)
    let pend := if ready then pend.drop 1 else pend
    let b := min 256 left
    addChunks lat (src + 256) (dst + 256) n (left - b) m (pend ++ [(dst, readBytes m src b)]) k

/-- The bytes of an exchange. -/
def xchBytes (op : XchOp) : Nat := 16 * op.length.toNat

/-- An exchange to core `dcore` (R80): bytes of the source core's staging come to the destination core's, or are added to it record
by record at the destination. -/
def Chip.exchange (c : Chip) (opByte : Nat) (st : Site) (g core dcore : Nat) (op : XchOp) (p : Path) : Chip :=
  let src := coreByte core op.src.toNat
  let dst := coreByte dcore op.dst.toNat
  let n := xchBytes op
  let (m, held) :=
    if op.add then addChunks 4 src dst (ceilDiv n 256) n c.mem.cstg [] 0
    else (moveChunks 4 src dst (ceilDiv n 256) n c.mem.cstg [], 0)
  let c := { c with mem := { c.mem with cstg := m } }
  let c := (c.upCore dcore (fun k => { k with datumAdd := satAdd k.datumAdd held })).datumNote dcore opByte 0 { dadd := held }
  let c := c.corePath st.job core (core * 17) { p with residue := p.residue.filter (·.unit ≠ 7) }
  c.residues (p.residue.filter (·.unit = 7)) (dcore / 34) dcore (dcore * 17) (fun _ => 0)

/-- The ranges of an exchange stay in core staging (R79). -/
def xchFits (op : XchOp) : Bool := inCore op.src.toNat (xchBytes op) && inCore op.dst.toNat (xchBytes op)

/-- XCH_CORE (R79, R80): to another core of the same region. -/
def execXchCore (st : Site) (op : XchOp) (p : Path) (s : State) : Host.Outcome State Fault Refusal :=
  if !st.onCore || op.dstRegion != st.region then .refused (.illFormed "XCH.CORE names another region, R79")
  else if !xchFits op then .fault (.outsideStaging (16 * op.dst.toNat))
  else coreMove st p op.length.toNat (fun c _ g core => c.exchange 0xA0 st g core (c.seat g op.dstCore.val) op p) s

/-- XCH_REGION (R79, R80): to a core of another region, over the mesh. -/
def execXchRegion (st : Site) (op : XchOp) (p : Path) (s : State) : Host.Outcome State Fault Refusal :=
  if !st.onCore || op.dstRegion == st.region then .refused (.illFormed "XCH.REGION names its own region, R79")
  else if !xchFits op then .fault (.outsideStaging (16 * op.dst.toNat))
  else coreMove st p op.length.toNat (fun c j g core =>
    match j.phys op.dstRegion.val with
    | some h => c.exchange 0xA1 st g core (c.seat h op.dstCore.val) op p
    | none => c) s

end Sys2Proof.Machine
end

