-- ==== Sys2Proof/Machine/Links.lean ====
section
/-! DEFINITION. Lamni links (R257 to R275): LSEND and LRECV, frames and their faults, lanes in service, bring-up, hop delay. -/

namespace Sys2Proof.Machine

/-! ## Lane maps -/

/-- A map with one logical lane moved. -/
def mapSet (m : BitVec 32) (i v : Nat) : BitVec 32 :=
  BitVec.ofNat 32 (m.toNat - field (mapAt m i) (4 * i) + field (v % 16) (4 * i))

/-- The logical lane that runs on a physical lane. -/
def mapFind (m : BitVec 32) (l : Nat) : Option Nat := firstBelow 8 (fun i => mapAt m i == l)

/-- The spare physical lane of a direction: not retired, carrying no logical lane. -/
def spareLane (m : BitVec 32) (retired : BitVec 9) (out : Option Nat) : Option Nat :=
  firstBelow 9 (fun l => !(retired.getLsbD l) && (mapFind m l).isNone && out != some l)

/-- The key of a receive lane. -/
def laneKey (p l : Nat) : Nat := p * 9 + l

/-- The locus word of a port, and of a lane. -/
def portLocus (p : Nat) (l : Option Nat) : BitVec 32 := locusWord none (some p) l

/-- The running jobs that use a port. -/
def Chip.portLive (c : Chip) (p : Nat) : List Job := c.jobs.filter (fun j => j.live && (c.jobPorts j).contains p)

/-! ## Faults -/

/-- Whether a port's link laser is active (R163, R268). -/
def Chip.portLit (c : Chip) (p : Nat) : Bool :=
  (List.range 20).any (fun n => (c.linkLaser n).serves && (c.linkLaser n).group.toNat == p)

/-- The survey of a receive lane that cannot go on is abandoned (R274): the lane keeps its taps and is due still. -/
def Chip.endLaneSurvey (c : Chip) (p l : Nat) : Chip :=
  let u := SurveyUnit.lane (Fin.ofNat 16 p) (Fin.ofNat 9 l)
  if c.mon.running.contains u then
    (c.abandonSurvey u).upLane (laneKey p l) (fun x => { x with survey := { x.survey with active := false } })
  else c
def Chip.endLaneSurveys (c : Chip) (p : Nat) : Chip := overAll (List.range 9) (fun c l => c.endLaneSurvey p l) c

/-- What a port drops when it leaves service: its changes of lanes, the frames it holds and awaits. -/
def Port.leave (q : Port) (state : BitVec 4) : Port :=
  { q with state := state, pendRx := [], pendTx := [], rotOut := none, rotTx := none, buffer := [], catches := [], weighing := false
           weighCount := 0, remeasure := false }

/-- A port out of service (R273): logged, and its jobs lose a member: a running one raises SALVAGE, another ends. -/
def Chip.portOut (c : Chip) (p : Nat) : Chip :=
  let c := (c.endLaneSurveys p).upPort p (fun q => q.leave (if q.state = 3 then 3 else 5))
  let c := c.event (srcPort p) 3 0x304 false (portLocus p none) 0
  let c := c.event (srcPort p) 3 0x403 false (portLocus p none) 6
  overAll (c.jobs.filter (fun j => j.holds && (c.jobPorts j).contains p)) (fun c j =>
    if j.live then c.raiseSignal j 6 j.stroke 0xF 0 else c.abortJob j.id statusDegraded 0) c

/-- A port that disagrees (R282 to R284): quarantined for a reason; it weighs in again every 1,024 fleet strokes. -/
def Chip.quarantine (c : Chip) (p reason : Nat) : Chip :=
  (c.upPort p (fun q => { q.leave 3 with
    pendRx := q.pendRx, pendTx := q.pendTx, rotOut := q.rotOut, rotTx := q.rotTx
    weighReason := BitVec.ofNat 4 reason, retryAt := c.clk.fleetStroke.toNat + 1024 })).event
    (srcPort p) 3 0x303 false (portLocus p none) reason

/-- A port whose light fails at either end comes back by a bring-up once its spare is active (R268, R272). -/
def Chip.awaitLaser (c : Chip) (p : Nat) : Chip :=
  if [2, 3, 4].contains (c.port p).state.toNat then (c.endLaneSurveys p).upPort p (fun q => q.leave 1) else c

/-- The link faults of R272: codeword 1, marker 2, timing 3, header 4, digest 5, laser 6 (log entry 28). Counted and logged; on a port
that a running job uses, the job is called to re-row and a permanent fault's remedy waits for the restart boundary. The FAULT frame names the
lane of a fault that a frame showed. -/
def Chip.linkFault (c : Chip) (p l kind : Nat) : Chip :=
  let c := c.upPort p (fun q => { q with
    codewordFaults := satIf (kind == 1) q.codewordFaults, markerFaults := satIf (kind == 2) q.markerFaults
    timingFaults := satIf (kind == 3) q.timingFaults, headerFaults := satIf (kind == 4 || kind == 5) q.headerFaults })
  let onLane := kind ≤ 2
  let loc : BitVec 32 := portLocus p (if kind = 3 || kind = 6 then none else some l)
  let r : Chip × Bool :=
    if onLane then c.hit (.lane (laneKey p l)) 3
    else if kind = 3 then c.hit (.port p) 3
    else (c, true)
  let c := r.1
  let used := !(c.portLive p).isEmpty
  let c := c.event (srcPort p) (if r.2 then 2 else 1) 0x301 used loc kind
  if !used then c
  else
    let c := if !r.2 || kind = 6 then c else c.addRemedy (if onLane then .lane p l else .portOut p)
    overAll (c.portLive p) (fun c j => c.callJob j (if kind = 3 || kind = 6 then 0xF else l)) c

/-! ## Changes of lanes -/

/-- The first port boundary at least 16 strokes after the present control window (R271): a piece boundary of the port's job, or any
stroke boundary where no job uses the port. -/
def Chip.portTarget (c : Chip) (p : Nat) : Nat :=
  match c.portJob p with
  | some j => let L := (c.lengths j).1; ceilDiv (j.stroke + 17) L * L
  | none => c.clk.fleetStroke.toNat + 17

/-- A LANE_CTRL message sent to the far device. -/
def Chip.sendLane (c : Chip) (p : Nat) (m : LaneMsg) : Chip := { c with fleetOut := c.fleetOut ++ [c.frameOn p (.lane m)] }

/-- A change of a receive lane asked for at the next port boundary (R269, R271). -/
def Chip.askLane (c : Chip) (p : Nat) (action : Fin 4) (l : Nat) : Chip :=
  let m : LaneMsg := { action := action, lane := Fin.ofNat 9 l, target := BitVec.ofNat 48 (c.portTarget p) }
  (c.upPort p (fun q => { q with pendRx := q.pendRx ++ [(m, false)] })).sendLane p m

/-- Whether the retirement of a receive lane is asked for already. -/
def Port.retiring (q : Port) (l : Nat) : Bool := q.pendRx.any (fun e => e.1.action == 0 && e.1.lane.val == l)

/-- A lane out for survey: the spare carries its logical lane; and back again. -/
def rotateOut (m : BitVec 32) (l : Nat) : BitVec 32 := match mapFind m l with | some n => mapSet m n 8 | none => m
def rotateBack (m : BitVec 32) (l : Nat) : BitVec 32 := match mapFind m 8 with | some n => mapSet m n l | none => m

/-- The map of a direction once a lane retires (R257, R271, R274): a rotation of another lane ends, and the spare takes the logical lane; with no
spare left it has none. -/
def retireMap (m : BitVec 32) (retired : BitVec 9) (rot : Option Nat) (l : Nat) : BitVec 32 :=
  let m := match rot with
    | some x => if x = l then m else rotateBack m x
    | none => m
  match mapFind m l with
  | none => m
  | some n => mapSet m n ((spareLane m (retired ||| BitVec.ofNat 9 (2 ^ l)) none).getD 0xF)

/-- A port with a receive lane, and with a transmit lane, retired; a return asked for by the lane whose rotation ended is over. -/
def Port.retireRx (q : Port) (l : Nat) : Port :=
  { q with
    mapRx := retireMap q.mapRx q.retiredRx q.rotOut l, retiredRx := q.retiredRx ||| BitVec.ofNat 9 (2 ^ l), rotOut := none
    pendRx := q.pendRx.filter (fun e => !(e.1.action == 3) && !(e.1.action == 0 && e.1.lane.val == l)) }
def Port.retireTx (q : Port) (l : Nat) : Port :=
  if q.retiredTx.getLsbD l then q
  else
    { q with
      mapTx := retireMap q.mapTx q.retiredTx q.rotTx l, retiredTx := q.retiredTx ||| BitVec.ofNat 9 (2 ^ l), rotTx := none
      pendTx := q.pendTx.filter (fun m => !(m.action == 3)) }

/-- Whether a direction has lost a logical lane. -/
def mapShort (m : BitVec 32) : Bool := (List.range 8).any (fun n => mapAt m n == 0xF)

/-- A receive lane is retired (R271, R274): a rotation under way is abandoned, the spare takes its logical lane; a direction left with seven
lanes takes the port out of service. -/
def Chip.retireLane (c : Chip) (p l reason : Nat) : Chip :=
  let q := c.port p
  if q.retiredRx.getLsbD l then c
  else
    let c := match q.rotOut with
      | some x => c.endLaneSurvey p x
      | none => c
    let c := (c.endLaneSurvey p l).upLane (laneKey p l) (fun x => { x with reason := BitVec.ofNat 3 reason })
    let c := (c.upPort p (fun q => q.retireRx l)).event (srcPort p) 2 0x302 false (portLocus p (some l)) reason
    if mapShort (c.port p).mapRx then c.portOut p
    else if (mapFind q.mapRx l).isSome || q.rotOut = some l then c.substituted (srcPort p) (portLocus p (some l)) 7 true true
    else c

/-- A transmit lane that the far device retires (R271): its logical lane goes on the spare, or the port out of service. -/
def Chip.retireFar (c : Chip) (p l : Nat) : Chip :=
  let c := c.upPort p (fun q => q.retireTx l)
  c.when (mapShort (c.port p).mapTx) (fun c => c.portOut p)

/-- A stream fault of frames, whose source is the physical receive lane (R218, R261): at the second within 10 s the lane's retirement is asked of
the far device (R271; log entry 50). -/
def Chip.streamFaultLane (c : Chip) (p l expected found : Nat) : Chip :=
  let r := c.hit (.stream 1 (laneKey p l)) 2
  let c := r.1.event (srcPort p) (if r.2 then 2 else 1) 0x108 true (portLocus p (some l)) (expected + field found 4)
  let c := c.when (r.2 && !(c.port p).retiredRx.getLsbD l && !(c.port p).retiring l) (fun c =>
    (c.upLane (laneKey p l) (fun x => { x with reason := 4 })).askLane p 0 l)
  overAll (c.portLive p) (fun c j => c.callJob j l) c

/-- The link remedies of a job's ports applied at its restart boundary (R273); lanes 16 ports up stand for the transmit side. -/
def Chip.applyLinkRemedies (c : Chip) (ports : List Nat) : Chip :=
  let mine (r : Remedy) : Bool := match r with
    | .lane p _ => ports.contains (p % 16)
    | .portOut p => ports.contains p
    | _ => false
  let rank (r : Remedy) : Nat := match r with
    | .lane p l => (mapFind (c.port (p % 16)).mapRx l).getD 8
    | _ => 9
  let now := sortBy rank (c.saf.remedies.filter mine)
  let c := { c with saf := { c.saf with remedies := c.saf.remedies.filter (fun r => !(mine r)) } }
  overAll now (fun c r => match r with
    | .lane p l => if p < 16 then c.retireLane p l 4 else c.retireFar (p % 16) l
    | .portOut p => c.portOut p
    | _ => c) c

/-! ## LSEND and LRECV -/

/-- Whether a region staging range that a link word names may be addressed. -/
def linkFits (c : Chip) (st : Site) (op : LinkOp) : Bool := c.fitsRegion st op.addr.toNat (16 * op.length.toNat)

/-- The physical port of a job's logical port, if the image uses it. -/
def Chip.lport (c : Chip) (j : Job) (n : Nat) : Option Nat :=
  match c.imageOf j with
  | some i => ((j.ports i.lamniMask).find? (fun p => p.1 == n)).map (·.2)
  | none => none

/-- The job stroke in which a body tick of the present repetition falls. -/
def Chip.strokeAt (c : Chip) (j : Job) (tick : Nat) : Nat :=
  j.stroke - ((c.pos j).map (·.bodyStroke)).getD 0 + tick / 4096

/-- The frames of one occurrence (R260, R261, R264): `k` counts the frames of the move so far. -/
def occurrenceFrames (j : Job) (stroke start k : Nat) (data : List Byte) : List Frame :=
  let F := ceilDiv data.length 208
  (List.range F).map (fun n =>
    let pay := slice data (208 * n) 208
    { hdr := { type := 1, mode := BitVec.ofNat 2 (modeCode j.mode), easy := j.easy, blockTag := BitVec.ofNat 4 (k + n)
               lane := BitVec.ofNat 3 n, index := BitVec.ofNat 13 n, last := n + 1 == F, stroke := BitVec.ofNat 48 stroke
               sendTick := BitVec.ofNat 12 start, payloadLen := pay.length, digestFrag := digestFrag j.image stroke, reservedZero := true }
      payload := pay })

/-- The frames of a whole LSEND, occurrence by occurrence. -/
def Chip.sendFrames (c : Chip) (j : Job) : List (Nat × Nat) → Nat → List Byte → List Frame
  | [], _, _ => []
  | (tick, b) :: os, k, data =>
    let fs := occurrenceFrames j (c.strokeAt j tick) (tick % 4096) k (data.take b)
    fs ++ Chip.sendFrames c j os (k + fs.length) (data.drop b)

/-- A DATA frame on its way (R257): on the physical lane of its logical lane. -/
def dataOut (port : Nat) (map : BitVec 32) (f : Frame) : FleetOut :=
  { port := port, lane := some (mapAt map f.hdr.lane.toNat), hdr := f.hdr, msg := .data f.payload }

/-- An LSEND that issues (R81, R264): its bytes leave in the occurrences of the slot entry, each frame on the physical lane of its logical one;
no DATA frame leaves a port that is not up (R283). -/
def Chip.lsend (c : Chip) (st : Site) (j : Job) (g : Nat) (op : LinkOp) (p : Path) : Chip :=
  match c.imageOf j, c.lport j op.lport.val with
  | some i, some port =>
    match c.slotOf j i.linkSlots op.slotRef.toNat st.region.val true with
    | none => c
    | some e =>
      let data := readBytes c.mem.rstg (c.regionAt j g op.addr.toNat) (16 * op.length.toNat)
      let fs := c.sendFrames j (occurrences e.start e.bytes data.length (st.tick + 64)) 0 data
      let map := (c.port port).mapTx
      let c := c.when ((c.port port).state == 4) (fun c => { c with fleetOut := c.fleetOut ++ fs.map (dataOut port map) })
      c.regionPath st.job g (fun _ => g * 136) p
  | _, _ => c

/-- XCH_LSEND (R79, R81). -/
def execXchLsend (st : Site) (op : LinkOp) (p : Path) (s : State) : Host.Outcome State Fault Refusal :=
  if !op.legal true || !st.onSeq then .refused (.illFormed "LSEND field outside R79")
  else if !linkFits s.toChip st op then .fault (.outsideStaging (16 * op.addr.toNat))
  else seqMove st p op.length.toNat (fun c j g => c.lsend st j g op p) s

/-- The hop padding H of a job in ticks (R56). -/
def Chip.hopPad (c : Chip) (i : Image) : Nat := hopTicks c.cfg.hopBudget.toNat i.pressureRange

/-- What an LRECV found: the bytes to write, the frames used, the fault that stopped it. -/
structure Received where
  data : List Byte
  used : List Buffered
  late : Option Nat
  tag : Option (Nat × Nat × Nat)
deriving DecidableEq, Repr

/-- The frames of one occurrence of `b` bytes taken from the elastic buffer in index order (R261, R264, R266): every frame but the last is
full, the last holds the remainder; a byte that a frame does not bring is not there. -/
def takeFrames (buf : List Buffered) (stroke start k b : Nat) : Nat → Nat → Received → Received
  | 0, _, r => r
  | n + 1, idx, r =>
    if r.late.isSome || r.tag.isSome then r
    else
      match buf.find? (fun x => x.frame.hdr.stroke.toNat == stroke && x.frame.hdr.sendTick.toNat == start && x.frame.hdr.index.toNat == idx) with
      | none => { r with late := some (idx % 8) }
      | some x =>
        let want := min 208 (b - 208 * idx)
        if x.frame.hdr.blockTag.toNat ≠ (k + idx) % 16 then { r with tag := some (x.lane, (k + idx) % 16, x.frame.hdr.blockTag.toNat) }
        else if x.frame.hdr.payloadLen < want || x.frame.payload.length < want then
          { r with data := r.data ++ x.frame.payload.take x.frame.hdr.payloadLen, used := r.used ++ [x], late := some (idx % 8) }
        else takeFrames buf stroke start k b n (idx + 1) { r with data := r.data ++ x.frame.payload.take want, used := r.used ++ [x] }

/-- The occurrences of an LRECV in turn (R81, R266): each releases the frames sent at its tick less H + 128. -/
def Chip.receive (c : Chip) (j : Job) (buf : List Buffered) (H : Nat) : List (Nat × Nat) → Nat → Received → Received
  | [], _, r => r
  | (tick, b) :: os, k, r =>
    let release := c.strokeAt j tick * 4096 + tick % 4096
    let sent := release - (H + 128)
    let F := ceilDiv b 208
    Chip.receive c j buf H os (k + F) (takeFrames buf (sent / 4096) (sent % 4096) k b F 0 r)

/-- An LRECV that issues (R81, R266): the payload buffered for its occurrences is written; a byte not there is a timing fault, a wrong
block tag a stream fault, and no later payload is used. -/
def Chip.lrecv (c : Chip) (st : Site) (j : Job) (g : Nat) (op : LinkOp) (p : Path) : Chip :=
  match c.imageOf j, c.lport j op.lport.val with
  | some i, some port =>
    match c.slotOf j i.linkSlots op.slotRef.toNat st.region.val false with
    | none => c
    | some e =>
      let q := c.port port
      let r := c.receive j q.buffer (c.hopPad i) (occurrences e.start e.bytes (16 * op.length.toNat) st.tick) 0
        { data := [], used := [], late := none, tag := none }
      let lead := Config.lead c.freeCtr
      let c := { c.draw.2 with mem := { c.mem with rstg := writeBytes c.mem.rstg (c.regionAt j g op.addr.toNat) (r.data.take (16 * op.length.toNat)) } }
      let c := c.upPort port (fun q => { q with
        buffer := q.buffer.filter (fun b => !(r.used.contains b)), minLead := if lead.toNat < q.minLead.toNat then lead else q.minLead })
      let c := match r.late with
        | some l => c.linkFault port (mapAt q.mapRx l) 3
        | none => c
      let c := match r.tag with
        | some (l, want, got) => c.streamFaultLane port l want got
        | none => c
      c.regionPath st.job g (fun _ => g * 136) { p with bad := [], corrected := 0 }
  | _, _ => c

/-- XCH_LRECV (R79, R81), after the frames of its occurrences have come (log entry 21). -/
def execXchLrecv (st : Site) (op : LinkOp) (p : Path) (s : State) : Host.Outcome State Fault Refusal :=
  if !op.legal false || !st.onSeq then .refused (.illFormed "LRECV field outside R79")
  else if !linkFits s.toChip st op then .fault (.outsideStaging (16 * op.addr.toNat))
  else seqMove st p op.length.toNat (fun c j g => c.lrecv st j g op p) s

/-! ## Frames -/

/-- The inbound slot entry in which a frame is released (R266): of its logical port, direction in, starting H + 128 ticks after it was
sent, in the phase of its release stroke. -/
def Chip.frameSlot (c : Chip) (j : Job) (i : Image) (p : Nat) (f : Frame) : Option Slot :=
  let t := f.hdr.stroke.toNat * 4096 + f.hdr.sendTick.toNat + c.hopPad i + 128
  match i.locate (t / 4096) with
  | some pos => i.linkSlots.find? (fun e => e.phase == pos.phase && !e.out && e.start == t % 4096
      && (((j.ports i.lamniMask).any (fun x => x.1 == e.unit && x.2 == p))))
  | none => none

/-- Whether a frame's header agrees with the receiving occurrence (R272): slot, index and logical lane, mode, and the easy state of the stroke
that it was sent in (R274). -/
def Chip.headerAgrees (c : Chip) (j : Job) (i : Image) (p : Nat) (f : Frame) : Bool :=
  match c.frameSlot j i p f with
  | some e =>
    f.hdr.type == 1 && f.hdr.index.toNat < ceilDiv e.bytes 208 && f.hdr.lane.toNat == f.hdr.index.toNat % 8 && f.hdr.reservedZero
    && f.hdr.mode.toNat == modeCode j.mode && f.hdr.easy == (if f.hdr.stroke.toNat < j.easyFrom then !j.easy else j.easy)
  | none => false

/-- Whether a header's stroke is one that may arrive now: not later than the job's, its release not past (R266, R284). -/
def Chip.strokeAgrees (c : Chip) (j : Job) (i : Image) (h : FrameHdr) : Bool :=
  let t := h.stroke.toNat * 4096 + h.sendTick.toNat + c.hopPad i + 128
  h.stroke.toNat ≤ j.stroke && j.stroke ≤ t / 4096

/-- Whether a frame belongs to the strokes that the last re-row discarded (R32) and was on its way when the job restarted. -/
def Chip.discarded (c : Chip) (j : Job) (i : Image) (h : FrameHdr) : Bool :=
  match j.lastRerow with
  | some r => j.stroke < h.stroke.toNat && h.stroke.toNat < j.leftAt && j.stroke * 4096 ≤ r * 4096 + c.hopPad i + 128
  | none => false

/-- Whether the stroke field of a frame is of this end's count (R260, R284): of the job that uses the port, else of the fleet, within a hop
budget of fleet strokes. -/
def Chip.strokeFits (c : Chip) (p : Nat) (h : FrameHdr) : Bool :=
  match c.portJob p with
  | some j => match c.imageOf j with | some i => c.strokeAgrees j i h | none => true
  | none =>
    let n := c.clk.fleetStroke.toNat
    h.stroke.toNat ≤ n && n ≤ h.stroke.toNat + ceilDiv c.cfg.hopBudget.toNat 2560

/-- A frame of a reserved type, or with a reserved field that is not 0 (R272). -/
def hdrUnclean (h : FrameHdr) : Bool := decide (7 ≤ h.type.toNat) || !h.reservedZero

/-- A header fault of a frame (R272, R284): with a stroke field that differs, the port is quarantined too. -/
def Chip.headerFault (c : Chip) (p l : Nat) (h : FrameHdr) : Chip :=
  let ok := c.strokeFits p h
  let c := c.linkFault p l 4
  if ok then c else c.quarantine p 7

/-- An uncorrectable codeword of a frame, counted on its receive lane (R272, R275). -/
def Chip.codeFails (c : Chip) (p l : Nat) : Chip := c.upLane (laneKey p l) (fun x => { x with uncorr := satAdd x.uncorr 1 })

/-- A frame of the control window, or an IDLE frame (R272): one that fails its code is counted and meets `lost`, one with a reserved type or
field is a header fault, any other has its effect. -/
def Chip.takeFrame (c : Chip) (p : Fin 16) (l : Fin 9) (h : FrameHdr) (code : CodeResult) (lost f : Chip → Chip) : Chip :=
  if code = .uncorrectable then lost (c.codeFails p.val l.val)
  else if hdrUnclean h then c.headerFault p.val l.val h
  else f c

/-- The bytes that wait in a port's elastic buffer. -/
def Port.held (q : Port) : Nat := q.buffer.foldl (fun n b => n + b.frame.payload.length) 0

/-- A DATA frame that passed its code, for the job that uses the port (R266, R272, R284). -/
def Chip.dataArrives (c : Chip) (p l : Nat) (j : Job) (i : Image) (f : Frame) : Chip :=
  let strokeOk := c.strokeAgrees j i f.hdr
  if c.discarded j i f.hdr then c
  else if !strokeOk || !c.headerAgrees j i p f || f.hdr.digestFrag != digestFrag i.id f.hdr.stroke.toNat then
    let kind := if strokeOk && c.headerAgrees j i p f then 5 else 4
    let c := c.linkFault p l kind
    if strokeOk then c else c.quarantine p 7
  else
    let q := c.port p
    let size := q.held + f.payload.length
    if 2 ^ 21 < size then c.linkFault p l 3
    else
      c.upPort p (fun q => { q with
        buffer := q.buffer ++ [{ lane := l, frame := f }]
        peak := if q.peak.toNat < ceilDiv size 1024 then satOf 16 (ceilDiv size 1024) else q.peak })

/-- DATA_FRAME (R266): a DATA frame is checked and buffered for release at its padded tick; without a job there is no occurrence that it
agrees with. -/
def execDataFrame (p : Fin 16) (l : Fin 9) (frame : Frame) (code : CodeResult) (s : State) : Host.Outcome State Fault Refusal :=
  act (fun c =>
    if (c.port p.val).state ≠ 4 then c
    else if code = .uncorrectable then (c.codeFails p.val l.val).linkFault p.val l.val 1
    else
      match c.portJob p.val with
      | some j =>
        match c.imageOf j with
        | some i => c.dataArrives p.val l.val j i frame
        | none => c
      | none => c.headerFault p.val l.val frame.hdr) s

/-- IDLE_FRAME (R260, R272): an IDLE frame that fails its code is counted and discarded; a reserved type is a header fault. -/
def execIdleFrame (p : Fin 16) (l : Fin 9) (hdr : FrameHdr) (code : CodeResult) (s : State) : Host.Outcome State Fault Refusal :=
  act (fun c => c.takeFrame p l hdr code id id) s

/-- MARKER_ERROR (R272): four marker errors in a row on an active lane make a marker fault. -/
def execMarkerError (p : Fin 16) (l : Fin 9) (error : Bool) (s : State) : Host.Outcome State Fault Refusal :=
  act (fun c =>
    let k := laneKey p.val l.val
    let n := if error then (c.lane k).markers + 1 else 0
    let active := (mapFind (c.port p.val).mapRx l.val).isSome
    let fires := 4 ≤ n && active
    (c.upLane k (fun x => { x with markers := if fires then 0 else min n 4 })).when fires (fun c => c.linkFault p.val l.val 2)) s

/-- LINK_LANES_LOST (R163, R272): the loss of all lanes is the laser fault of the far end; the port returns by a bring-up once the far spare is
active. -/
def execLinkLanesLost (p : Fin 16) (s : State) : Host.Outcome State Fault Refusal :=
  act (fun c => (c.linkFault p.val 0xF 6).awaitLaser p.val) s

/-! ## Hop delay -/

/-- A MEASURE frame sent (R260, R265): the send time is open (log entry 138); the last frame of the far device is echoed. -/
def Chip.sendMeasure (c : Chip) (p : Nat) : Chip :=
  let now : BitVec 64 := BitVec.ofNat 64 (Config.figure c.freeCtr)
  let c := c.draw.2
  let m : MeasureMsg := match (c.port p).echo with
    | some (t, arrival) => { sent := now, echoed := t, turnaround := now - BitVec.ofNat 64 arrival }
    | none => { sent := now, echoed := 0, turnaround := 0 }
  { c with fleetOut := c.fleetOut ++ [c.frameOn p (.measure m)] }

/-- MEASURE_FRAME (R265, R267): what it echoes makes an exchange, the round trip less the far turnaround, which joins the last 256; its own
timestamp is to be echoed. A frame that fails its code is skipped. -/
def execMeasureFrame (p : Fin 16) (l : Fin 9) (hdr : FrameHdr) (msg : MeasureMsg) (arrival : Nat) (code : CodeResult) (s : State) :
    Host.Outcome State Fault Refusal :=
  act (fun c => c.takeFrame p l hdr code id (fun c => c.upPort p.val (fun q => { q with
    echo := some (msg.sent, arrival)
    delays := if msg.echoed = 0 then q.delays else appendKeep 256 q.delays (arrival - msg.echoed.toNat - msg.turnaround.toNat) }))) s

/-- Half the mean round trip of the exchanges kept, to 1 ns (R265; log entry 29: rounded to the nearest). -/
def meanDelay (ds : List Nat) : Nat :=
  if ds.isEmpty then 0 else (ds.foldl (· + ·) 0 + ds.length) / (2 * ds.length)

/-- HOP_MEASURE (R267, R274): in every 256th stroke a MEASURE frame leaves, and d is taken over the last 256 exchanges; beyond the budget less
30 ns it is a timing fault, and a port in weigh-in repeats step 5 of its bring-up. -/
def execHopMeasure (p : Fin 16) (s : State) : Host.Outcome State Fault Refusal :=
  act (fun c =>
    if c.portStroke p.val % 256 ≠ 0 || !([2, 3, 4].contains (c.port p.val).state.toNat) then c
    else
      let c := c.sendMeasure p.val
      let q := c.port p.val
      if q.delays.isEmpty then c
      else
        let d := meanDelay q.delays
        let c := c.upPort p.val (fun q => { q with hop := satOf 16 d })
        if d + 30 ≤ c.cfg.hopBudget.toNat then c
        else if q.state = 4 then c.linkFault p.val 0xF 3
        else if q.state = 2 then c.upPort p.val (fun q => { q with state := 1, weighCount := 0, remeasure := true })
        else c) s

/-! ## Lanes in service -/

/-- LANE_CTRL_FRAME (R271): a request of the far device is kept for its boundary, in place of an earlier one for the same change, and
acknowledged; an acknowledgement at least 4 strokes before the boundary confirms ours. What a port in bring-up hears is in the outcome of that. -/
def execLaneCtrlFrame (p : Fin 16) (l : Fin 9) (hdr : FrameHdr) (msg : LaneMsg) (code : CodeResult) (s : State) :
    Host.Outcome State Fault Refusal :=
  act (fun c => c.takeFrame p l hdr code id (fun c =>
    if (c.port p.val).state = 1 then c
    else if msg.action = 1 then
      let intime := decide (c.portStroke p.val + 4 ≤ msg.target.toNat)
      c.upPort p.val (fun q => { q with pendRx := q.pendRx.map (fun e =>
        if e.1.lane == msg.lane && e.1.target == msg.target then (e.1, e.2 || intime) else e) })
    else (c.upPort p.val (fun q => { q with
      pendTx := q.pendTx.filter (fun m => !(m.action == msg.action && m.lane == msg.lane)) ++ [msg] })).sendLane p.val { msg with action := 1 })) s

/-- EYE_MONITOR_SAMPLE (R269, R270): the lane's figures; the first at its warning point is logged, one at its retire point retires the
lane, whatever it carries. -/
def execEyeMonitorSample (p : Fin 16) (l : Fin 9) (width height : BitVec 8) (corrected : Nat) (s : State) :
    Host.Outcome State Fault Refusal :=
  act (fun c =>
    let k := laneKey p.val l.val
    let c := c.upLane k (fun x => { x with width := width, height := height, corrected := satOf 16 corrected })
    let com := (c.lane k).commission.toNat
    let warn := if 400 ≤ corrected then 1 else if height.toNat * 100 < com * 80 then 2 else if width.toNat < 77 then 3 else 0
    let bad := if 4000 ≤ corrected then 1 else if height.toNat * 100 < com * 60 then 2 else if width.toNat < 56 then 3 else 0
    let c := if warn ≠ 0 && !(c.lane k).warned then
        (c.event (srcPort p.val) 0 0x305 false (portLocus p.val (some l.val)) warn).upLane k (fun x => { x with warned := true })
      else c
    let q := c.port p.val
    if bad = 0 || q.retiredRx.getLsbD l.val || q.retiring l.val || !([2, 3, 4].contains q.state.toNat) then c
    else (c.upLane k (fun x => { x with reason := BitVec.ofNat 3 bad })).askLane p.val 0 l.val) s

/-- A request whose acknowledgement did not come at least 4 strokes before its boundary is sent again, with the next one (R271, R272). -/
def Chip.askAgain (c : Chip) (p : Nat) (m : LaneMsg) : Chip :=
  (c.upPort p (fun q => { q with pendRx := q.pendRx.filter (fun e => decide (e.1 ≠ m)) })).askLane p m.action m.lane.val
def Chip.askAgainDue (c : Chip) (p : Nat) (action : Fin 4) : Chip :=
  let late := (c.port p).pendRx.filter (fun e => e.1.action == action && !e.2 && decide (e.1.target.toNat < c.portStroke p + 4))
  overAll late (fun c e => c.askAgain p e.1) c

/-- Whether a change agreed for its boundary is due: ours acknowledged, the far device's as asked. -/
def Chip.dueRx (c : Chip) (p : Nat) (action : Fin 4) (e : LaneMsg × Bool) : Bool :=
  e.1.action == action && e.2 && decide (e.1.target.toNat ≤ c.portStroke p)
def Chip.dueTx (c : Chip) (p : Nat) (action : Fin 4) (m : LaneMsg) : Bool := m.action == action && decide (m.target.toNat ≤ c.portStroke p)

/-- LANE_RETIRE_APPLY (R271, R274): at B the logical lane moves to the spare, on the side that asked once it is acknowledged and on the far
side as asked; of two lanes the lower logical one first. -/
def Chip.laneRetireApply (c : Chip) (p : Nat) : Chip :=
  let q := c.port p
  let tx := sortBy (fun (m : LaneMsg) => (mapFind q.mapTx m.lane.val).getD 8) (q.pendTx.filter (c.dueTx p 0))
  let rx := sortBy (fun (e : LaneMsg × Bool) => (mapFind q.mapRx e.1.lane.val).getD 8) (q.pendRx.filter (c.dueRx p 0))
  let c := c.upPort p (fun q => { q with
    pendTx := q.pendTx.filter (fun m => !(tx.contains m)), pendRx := q.pendRx.filter (fun e => !(rx.contains e))
    cmdResult := if q.cmdResult = 1 && !rx.isEmpty then 2 else q.cmdResult })
  let c := overAll tx (fun c m => c.retireFar p m.lane.val) c
  let c := overAll rx (fun c e => c.retireLane p e.1.lane.val (c.lane (laneKey p e.1.lane.val)).reason.toNat) c
  c.askAgainDue p 0
def execLaneRetireApply (p : Fin 16) (s : State) : Host.Outcome State Fault Refusal := act (fun c => c.laneRetireApply p.val) s

/-- Whether the spare lane of a direction may stand in for another. -/
def spareFree (m : BitVec 32) (retired : BitVec 9) (rot : Option Nat) : Bool := rot.isNone && !(retired.getLsbD 8) && (mapFind m 8).isNone

/-- LANE_ROTATION_OUT (R269): at B the spare takes the lane's logical lane so that the lane can be surveyed; a spare taken since leaves it
where it is, and the survey is put off. -/
def Chip.rotationOut (c : Chip) (p l : Nat) : Chip :=
  let q := c.port p
  let mine (m : LaneMsg) : Bool := m.lane.val == l
  let tx := q.pendTx.filter (fun m => c.dueTx p 2 m && mine m)
  let rx := q.pendRx.filter (fun e => c.dueRx p 2 e && mine e.1)
  let c := c.when (!tx.isEmpty) (fun c => c.upPort p (fun q =>
    let q := { q with pendTx := q.pendTx.filter (fun m => !(tx.contains m)) }
    if spareFree q.mapTx q.retiredTx q.rotTx then { q with mapTx := rotateOut q.mapTx l, rotTx := some l } else q))
  let c := c.when (!rx.isEmpty) (fun c =>
    let c := c.upPort p (fun q => { q with pendRx := q.pendRx.filter (fun e => !(rx.contains e)) })
    if spareFree q.mapRx q.retiredRx q.rotOut && (mapFind q.mapRx l).isSome then
      c.upPort p (fun q => { q with mapRx := rotateOut q.mapRx l, rotOut := some l })
    else c.endLaneSurvey p l)
  c.askAgainDue p 2
def execLaneRotationOut (p : Fin 16) (l : Fin 9) (s : State) : Host.Outcome State Fault Refusal := act (fun c => c.rotationOut p.val l.val) s

/-- LANE_ROTATION_RETURN (R269): at a later boundary the surveyed lane returns to its logical lane. -/
def Chip.rotationReturn (c : Chip) (p l : Nat) : Chip :=
  let q := c.port p
  let mine (m : LaneMsg) : Bool := m.lane.val == l
  let tx := q.pendTx.filter (fun m => c.dueTx p 3 m && mine m)
  let rx := q.pendRx.filter (fun e => c.dueRx p 3 e && mine e.1)
  let c := c.when (!tx.isEmpty) (fun c => c.upPort p (fun q =>
    let q := { q with pendTx := q.pendTx.filter (fun m => !(tx.contains m)) }
    if q.rotTx = some l then { q with mapTx := rotateBack q.mapTx l, rotTx := none } else q))
  let c := c.when (!rx.isEmpty) (fun c => c.upPort p (fun q =>
    let q := { q with pendRx := q.pendRx.filter (fun e => !(rx.contains e)) }
    if q.rotOut = some l then { q with mapRx := rotateBack q.mapRx l, rotOut := none } else q))
  c.askAgainDue p 3
def execLaneRotationReturn (p : Fin 16) (l : Fin 9) (s : State) : Host.Outcome State Fault Refusal :=
  act (fun c => c.rotationReturn p.val l.val) s

/-- LNK_RETIRE_LANE (R271, R275): LNK_CMD action 1 on the selected receive lane. -/
def Chip.cmdRetireLane (c : Chip) (p : Nat) : Chip :=
  let q := c.port p
  let l := q.laneSel.toNat
  let result (r : Nat) : Chip := c.upPort p (fun q => { q with cmdResult := BitVec.ofNat 8 r })
  if !q.pendRx.isEmpty then result 5
  else if 8 < l || (mapFind q.mapRx l).isNone || !([2, 3, 4].contains q.state.toNat) then result 4
  else if (spareLane q.mapRx q.retiredRx q.rotOut).isNone && q.rotOut.isNone then result 3
  else ((result 1).upLane (laneKey p l) (fun x => { x with reason := 5 })).askLane p 0 l
def execLnkRetireLane (p : Fin 16) (s : State) : Host.Outcome State Fault Refusal := act (fun c => c.cmdRetireLane p.val) s

/-! ## Bring-up -/

/-- LNK_BRING_UP (R268, R275): LNK_CMD action 2 brings the port up again, once its link laser is active; an exclusion or service loss ends. -/
def Chip.cmdBringUp (c : Chip) (p : Nat) : Chip :=
  if !(c.port p).pendRx.isEmpty then c.upPort p (fun q => { q with cmdResult := 5 })
  else (c.endLaneSurveys p).upPort p (fun q => { q.leave 1 with cmdResult := 1, begun := true })
def execLnkBringUp (p : Fin 16) (s : State) : Host.Outcome State Fault Refusal := act (fun c => c.cmdBringUp p.val) s

/-- The lane map of a direction after bring-up (R257, R268): each lane on its own, one that is not usable on the spare; none when fewer
than eight are usable. -/
def freshMap (usable : List Bool) : Option (BitVec 32) :=
  let ok (l : Nat) : Bool := (usable[l]?).getD false
  match (List.range 8).filter (fun l => !(ok l)) with
  | [] => some 0x76543210
  | [l] => if ok 8 then some (mapSet 0x76543210 l 8) else none
  | _ => none

/-- The lanes that are not usable, as a mask. -/
def unusable (usable : List Bool) : BitVec 9 :=
  BitVec.ofNat 9 ((List.range 9).foldl (fun m l => if (usable[l]?).getD false then m else m + 2 ^ l) 0)

/-- Whether a receive lane that a bring-up measured can serve (R268, R270): locked, its eye within the retire points. -/
def laneFit (r : BringUp) (com : BitVec 8) (l : Nat) : Bool :=
  (r.rxUsable[l]?).getD false && decide (com.toNat * 60 ≤ ((r.heights[l]?).getD 0).toNat * 100) && decide (56 ≤ ((r.widths[l]?).getD 0).toNat)

/-- The commissioning height of a lane: of its first bring-up (R269). -/
def Chip.commissionOf (c : Chip) (p : Nat) (r : BringUp) (l : Nat) : BitVec 8 :=
  let x := c.lane (laneKey p l)
  if x.commission = 0 then (r.heights[l]?).getD 0 else x.commission

/-- The receive lanes of a port that can serve after a bring-up. -/
def Chip.fitLanes (c : Chip) (p : Nat) (r : BringUp) : List Bool := (List.range 9).map (fun l => laneFit r (c.commissionOf p r l) l)

/-- The eye figures that a bring-up measured, and why a lane is retired. -/
def Chip.bringUpLane (p : Nat) (r : BringUp) (c : Chip) (l : Nat) : Chip :=
  let h := (r.heights[l]?).getD 0
  let w := (r.widths[l]?).getD 0
  let com := c.commissionOf p r l
  c.upLane (laneKey p l) (fun x => { x with
    height := h, width := w, commission := com, markers := 0, warned := false
    reason := if laneFit r com l then 0 else if h.toNat * 100 < com.toNat * 60 then 2 else if w.toNat < 56 then 3 else 1 })

/-- Step 5 of a bring-up (R265, R268): the hop delay over its exchanges; within the budget less 50 ns the port passes to weigh-in, else it is
out of service. -/
def Chip.hopStep (c : Chip) (p : Nat) (r : BringUp) : Chip :=
  let trips := r.trips.drop (r.trips.length - 256)
  let c := c.upPort p (fun q => { q with
    hop := satOf 16 (meanDelay trips), delays := trips, echo := none, weighCount := 0, remeasure := false
    cmdResult := if q.cmdResult = 1 then 2 else q.cmdResult })
  if meanDelay trips + 50 ≤ c.cfg.hopBudget.toNat then c.upPort p (fun q => { q with state := 2, attempts := satAdd q.attempts 1 })
  else c.portOut p

/-- A bring-up that ends (R257, R268): lanes beyond a retire point are retired and the far device is told; with fewer than eight lanes in a
direction the port goes out of service. -/
def Chip.bringUpDone (c : Chip) (p : Nat) (r : BringUp) : Chip :=
  if (c.port p).remeasure then c.hopStep p r
  else
    let fit := c.fitLanes p r
    let c := overAll (List.range 9) (Chip.bringUpLane p r) c
    let c := c.upPort p (fun q => { q with retiredRx := unusable fit, retiredTx := unusable r.txUsable, begun := true })
    let c := overAll ((List.range 9).filter (fun l => (unusable fit).getLsbD l)) (fun c l =>
      c.sendLane p { action := 0, lane := Fin.ofNat 9 l, target := 0 }) c
    match freshMap fit, freshMap r.txUsable with
    | some rx, some tx => (c.upPort p (fun q => { q with mapRx := rx, mapTx := tx })).hopStep p r
    | _, _ => (c.upPort p (fun q => { q with cmdResult := if q.cmdResult = 1 then 2 else q.cmdResult })).portOut p

/-- PORT_BRING_UP_DONE (R268): of a port in bring-up whose link laser is active. -/
def execPortBringUpDone (p : Fin 16) (result : BringUp) (s : State) : Host.Outcome State Fault Refusal :=
  act (fun c => if (c.port p.val).state = 1 && c.portLit p.val then c.bringUpDone p.val result else c) s

end Sys2Proof.Machine
end

