-- ==== Sys2Proof/Machine/Stroke.lean ====
section
/-! DEFINITION. Strokes: the SYN markers (R53, R57 to R60), the region stroke boundary (R19, R28, R41, R82, R134, R137, R148, R149, R164, R173), the chip stroke. -/

namespace Sys2Proof.Machine

/-! ## Region power -/

/-- Lasers that a thermal stop put on standby serve their groups again (R375; log entry 35). -/
def Chip.lightUp (c : Chip) (g : Nat) : Chip :=
  overAll (List.range 10) (fun c n =>
    let l := c.laser (g * 10 + n)
    if l.state = 2 && l.group ≠ 0xF then c.upLaser (g * 10 + n) (fun l => { l with state := 4 }) else c) c

/-- A region's compute tick is started (R18, R332, R338): one more wake, its units due, issuing from `at_` ticks on. -/
def Chip.wakeRegion (c : Chip) (g : Nat) (at_ : Option Nat) : Chip :=
  (c.lightUp g).upRegion g (fun r => { r with
    power := 1, wakes := satAdd r.wakes 1, wakeNo := r.wakeNo + 1, wokeAt := c.clk.aon, wakeAt := at_, rewake := none, sleepAtEnd := false })

/-- A region's compute tick is stopped (R57, R332); whether its tick is halved stays as it is for the next wake (R25). -/
def Chip.sleepRegion (c : Chip) (g : Nat) : Chip :=
  c.upRegion g (fun r => { r with power := 0, wakeAt := none, rewake := none, sleepAtEnd := false, dutyNow := [], dutyPlots := [], optDue := [], fill := [] })

/-! ## SYN -/

/-- SYN_NOP (R57): nothing. -/
def execSynNop (st : Site) (fetch : Fetch) (s : State) : Host.Outcome State Fault Refusal :=
  act (fun c => c.onStream st fetch (fun c _ _ => c)) s

/-- The event source and locus of a stream: its core's or its region's (R82). -/
def Chip.siteSource (c : Chip) (st : Site) (g : Nat) : Nat × BitVec 32 :=
  match st.core with
  | some lc => (srcCore (c.seat g lc.val), coreLocus (c.seat g lc.val))
  | none => (srcRgn g, locusWord (some g) none none)

/-- SYN_PIECE (R53, R82): the piece start of a stream; a body piece other than the device's count is refused at run time. -/
def execSynPiece (st : Site) (bodyPiece : BitVec 32) (fetch : Fetch) (s : State) : Host.Outcome State Fault Refusal :=
  act (fun c => c.onStream st fetch (fun c j g =>
    if ((c.pos j).map (·.piece)) = some bodyPiece.toNat then c
    else c.scheduleFault j g (c.siteSource st g).1 (c.siteSource st g).2 (c.issueIndex j st 0))) s

/-- The CATCH payload of a job (R285). -/
def Chip.catchMsg (c : Chip) (j : Job) (leadIn : Bool) : CatchMsg :=
  { member := c.cfg.member, leadIn := leadIn, easySet := !j.easySet.isEmpty, distance := j.distance, origin := j.origin
    jobStroke := if leadIn then 0 else BitVec.ofNat 48 j.stroke, epoch := j.epoch, imageId := j.image
    start := j.body.fleetStart.setWidth 48, mode := BitVec.ofNat 8 (modeCode j.mode) }

/-- SYN_CATCH (R57, R58): the stroke boundary is a catch; every port of the job that is up sends a CATCH frame, on the lane map
that then holds, and waits for the one of its peer. -/
def execSynCatch (st : Site) (fetch : Fetch) (s : State) : Host.Outcome State Fault Refusal :=
  if !st.onSeq then .refused (.illFormed "CATCH outside a sequencer stream, R51")
  else act (fun c => c.onStream st fetch (fun c j _ =>
    let c := overAll (c.upPorts (c.jobPorts j)) (fun c p => c.upPort p (fun q => { q with catches := q.catches ++ [(j.stroke, j.epoch)] })) c
    c.sendOn (c.jobPorts j) (.catch (c.catchMsg j false)))) s

/-- SYN_CHANGE (R57, R59): marks a changeover; the moves of the first piece read the phase entry's flag themselves. A phase other than
the stream's is refused at load. -/
def execSynChange (st : Site) (phase : BitVec 6) (fetch : Fetch) (s : State) : Host.Outcome State Fault Refusal :=
  match s.toChip.atStream st with
  | some (j, g) =>
    if fetch = .bad ∨ (s.toChip.pos j).map (·.phase) = some phase.toNat then act (fun c => c.fetched st g fetch id) s
    else .refused (.illFormed "CHANGE names another phase than its stream, R57")
  | none => .next s

/-- SYN_WAKE (R57, R60): the target region's compute tick starts; it issues from 2,048 ticks on. In the stroke of its SLEEP the tick still
runs: the region sleeps from the end of the stroke until those ticks are past. -/
def execSynWake (st : Site) (target : Fin 16) (fetch : Fetch) (s : State) : Host.Outcome State Fault Refusal :=
  if !st.onSeq then .refused (.illFormed "WAKE outside a sequencer stream, R51")
  else act (fun c => c.onSeqWord st fetch (fun c j _ =>
    match j.phys target.val with
    | some t =>
      if (c.region t).power = 0 then c.wakeRegion t (some (st.tick % 4096 + 2048))
      else if (c.region t).sleepAtEnd then c.upRegion t (fun r => { r with
        wakes := satAdd r.wakes 1, wakeNo := r.wakeNo + 1, wokeAt := c.clk.aon, rewake := some (st.tick % 4096 + 2048) })
      else c
    | none => c)) s

/-- SYN_SLEEP (R57, R60): the target region's tick stops at the end of this stroke. -/
def execSynSleep (st : Site) (target : Fin 16) (fetch : Fetch) (s : State) : Host.Outcome State Fault Refusal :=
  if !st.onSeq then .refused (.illFormed "SLEEP outside a sequencer stream, R51")
  else act (fun c => c.onSeqWord st fetch (fun c j _ =>
    match j.phys target.val with
    | some t => if (c.region t).power ≠ 0 then c.upRegion t (fun r => { r with sleepAtEnd := true, rewake := none }) else c
    | none => c)) s

/-! ## Duty (R148, R149) -/

/-- The first and last tick and the plots that an optical word occupies (R148). -/
def optOccupancy (tick : Nat) : StreamOp → Option (Nat × Nat × List Nat)
  | .opt o =>
    if o.count = 0 || o.rows = 0 || o.kblk = 0 then none
    else some (tick + optFetch o + 16, tick + optFetch o + 15 + optSpan o, runPlots o.first.val o.count o.even)
  | .dummy first count span even =>
    if span = 0 || count = 0 then none else some (tick, tick + span - 1, runPlots first count even)
  | _ => none

/-- The words of a stream with their issue ticks (R52). -/
def withTicks : List IWord → Nat → List (Nat × IWord)
  | [], _ => []
  | w :: ws, t => (t + w.delta, w) :: withTicks ws (t + w.delta)

/-- The logical plots that switch in a stroke of a phase's body in a logical region (R148). -/
def Image.switching (i : Image) (phase region stroke : Nat) : List Nat :=
  match i.seqStreams.find? (fun s => s.phase == phase && s.region == region) with
  | some s =>
    (withTicks s.words 0).foldl (fun l w =>
      match optOccupancy w.1 w.2.op with
      | some (a, b, plots) => if a < 4096 * (stroke + 1) && 4096 * stroke ≤ b then l ++ plots.filter (fun p => !(l.contains p)) else l
      | none => l) []
  | none => []

/-- The logical plots that switch now in a physical region: those of the jobs that run there. -/
def Chip.switchingNow (c : Chip) (g : Nat) : List Nat :=
  c.jobs.foldl (fun l j =>
    match j.logical g, c.imageOf j, c.pos j with
    | some lr, some i, some p => if j.st = .running then l ++ i.switching p.phase lr p.bodyStroke else l
    | _, _, _ => l) []

/-- The operating state of a region (R173), 1 to 6; its feed-forward value in a bank, 0 for a dark plot. -/
def Chip.opState (c : Chip) (g : Nat) : Nat :=
  let r := c.region g
  1 + r.mode.toNat % 3 + (if r.halved then 3 else 0)
def Bank.ffOf (b : Bank) (st : Nat) : Int := if st = 0 then 0 else (b.ff[st - 1]?).getD 0

/-- A bank comes to an operating state: the step waits for the first load strobe (R173), and where class 0 is in service the banks of its plots
load at the express window too (R178). DESIGN CHOICE: the step of a bank that sweeps moves the bias it was last locked at (log entry 132). -/
def Bank.step (b : Bank) (st : Nat) (again : Bool) : Bank :=
  let d := b.ffOf st - b.ffOf b.ffState
  if b.ffState = st then b
  else if b.lock = 1 then { b with ffState := st, last := b.last + d }
  else { b with ffState := st, ffDue := some (b.ffDue.getD 0 + d), ffAgain := again }

/-- The logical plots of a region that switch: those that its jobs' streams occupy, and during a hold those that run fill (R149, R154). -/
def Chip.litPlots (c : Chip) (g : Nat) : List Nat := if 2 ≤ (c.region g).power.toNat then c.switchingNow g ++ (c.region g).fill else []

/-- The feed-forward steps of a boundary (R150, R173): each plot that starts or stops switching, or whose operating state changed. -/
def Chip.feedForward (c : Chip) (g : Nat) : Chip :=
  let on := c.litPlots g
  let st := c.opState g
  overAll (List.range 136) (fun c o =>
    let k := g * 136 + o
    let p := c.plot k
    let want := if p.state = 0 && !p.parked && on.contains p.seat.toNat then st else 0
    if (c.bank (k * 18)).ffState = want then c
    else
      let again := c.cfg.class0 && c.jobs.any (fun j => j.cls == 0 && j.inRegion g && c.namesPlot j g p.seat.toNat)
      overAll (List.range 18) (fun c b => c.upBank (k * 18 + b) (fun x => x.step want again)) c) c

/-! ## The stroke boundary -/

/-- A core's stroke ends (R129, R137): its served items are counted; the entry that fills takes its 256 bytes from the shadow that the stroke's
booked slot reads, if its data are there. -/
def CoreSt.endStroke (k : CoreSt) (shadow : Option Nat) : CoreSt :=
  { k with
    lastItems := satOf 8 k.itemsNow, itemsNow := 0
    peakItems := if k.peakItems.toNat < k.itemsNow then satOf 8 k.itemsNow else k.peakItems
    table := if shadow.isSome then
        adjust {} (fun _ => true) (fun e => if e.state = 2 && e.loaded == shadow then { e with strokes := e.strokes + 1 } else e) k.table
      else k.table }

/-- The logical plots that count in the duty of a region's stroke, each once (R148), with those that run fill during a hold (R154). -/
def Region.dutySet (r : Region) : List Nat := (((r.dutyNow.filter (fun d => d.start == 0)).map (·.plot)) ++ r.fill).eraseDups

/-- A region's own counts at its boundary (R19, R134, R148, R157): the stroke count, the optical items and the duty of the stroke that
ended; a sleep takes effect, a wake comes nearer. -/
def Region.endStroke (r : Region) : Region :=
  let next := if r.sleepAtEnd then r.rewake else r.wakeAt
  let waking := match next with | some t => decide (t ≤ 4096) | none => false
  { r with
    stroke := r.stroke + 1, optLast := BitVec.ofNat 8 (min 33 r.optCount)
    optDue := (r.optDue.filter (fun d => decide (4096 ≤ d.tick))).map (fun d => { d with tick := d.tick - 4096 })
    dutyLast := BitVec.ofNat 8 r.dutySet.length, dutyPlots := r.dutySet
    dutyNow := (r.dutyNow.filter (fun d => 0 < d.last)).map (fun d => { d with start := d.start - 1, last := d.last - 1 })
    power := if waking then 2 else if r.sleepAtEnd then (if next.isSome then 1 else 0) else r.power
    wakeAt := if waking then none else next.map (· - 4096)
    sleepAtEnd := false, rewake := none, strobeAt := r.strobes }

/-- The rails that feed a region (R373). -/
def railFeeds (r : Rail) (g : Nat) : Bool :=
  match r with
  | .main | .alwaysOn => true
  | .regionReg h => h.val == g
  | _ => false

/-- The stacks that a job's window spans (R241, R242). -/
def Chip.windowOf (c : Chip) (j : Job) : List Nat :=
  match c.imageOf j with
  | some i => (List.range (windowStacks i.window)).map (j.body.windowBase.toNat / stackBytes + ·)
  | none => []

/-- Whether a job holds its stacks: from its start to its last commit, a pause and the wait to be taken up again included (R242). -/
def Job.holdsStacks (j : Job) : Bool := j.live || j.onPause

/-- Whether a job keeps others from its stacks: one that holds them, or is admitted and about to start. -/
def Job.needsStacks (j : Job) : Bool := j.holdsStacks || j.st == .admitted

/-- The jobs that a rail out of its window affects (R373): those of the regions, the stacks or the ports that it feeds. -/
def Chip.railAffects (c : Chip) (r : Rail) (j : Job) : Bool :=
  match r with
  | .main | .alwaysOn => true
  | .regionReg g => j.inRegion g.val
  | .stackReg s => (c.windowOf j).contains s.val
  | .portReg p => (c.jobPorts j).contains p.val

/-- The strides that a job's sequencer streams have set before the first tick of the stroke it has reached; none at a body's start (R72). -/
def Chip.stridesAt (c : Chip) (j : Job) : SMap Stride :=
  match c.imageOf j, c.pos j with
  | some i, some p =>
    (i.seqStreams.filter (fun s => s.phase == p.phase)).foldl (fun m s =>
      (withTicks s.words 0).foldl (fun m w =>
        match w.2.op with
        | .stride a b =>
          if w.1 < 4096 * p.bodyStroke then put {} m s.region { repStride := BitVec.ofNat 32 a, repMod := BitVec.ofNat 16 b } else m
        | _ => m) m) []
  | _, _ => []

/-- The units of a job are made ready for a new piece: seeds cleared (R78), escape counts and datum notes started afresh (R131, R192), no tier
selected yet (R63), the tiles free whose drains are over (R64), the strides as its streams left them (R72). -/
def Chip.startPiece (c : Chip) (j : Job) : Chip :=
  let seats := (c.jobCores j).map (fun p => c.seat p.1 p.2)
  let blocks := c.jobBlocks j
  let c := { c with
    cores := adjust {} (fun k => seats.contains k) (fun k => { k with seed := none, escapes := 0, datumLogged := false }) c.cores
    arrays := adjust {} (fun a => blocks.contains (a / 17)) (fun a => { a with lastTile := none }) c.arrays
    tiles := c.tiles.filter (fun e => !(e.2.job == some j.id && e.2.st == TileSt.draining)) }
  c.upJob j.id (fun k => { k with strides := c.stridesAt j })

/-- The logical regions of a job that sleep. -/
def Chip.asleepOf (c : Chip) (j : Job) : List Nat := (j.map.filter (fun p => (c.region p.2).power == 0)).map (·.1)

/-- What a started job's stroke counter does at a boundary, and its nominal ticks (R35): easy ticks count twice. -/
def Job.tickStroke (j : Job) (halved : Bool) : Job :=
  let j := { j with nominal := j.nominal + if halved then 8192 else 4096 }
  match j.st with
  | .held .coreCopy => { j with coreHold := j.coreHold - 1 }
  | .held _ => j
  | _ => { j with stroke := j.stroke + 1 }

/-- A pause that reaches its boundary: void where the job's last piece ends, else issue stops and the arming of later swaps is cancelled
(R41, R108). In a region that two jobs hold, DESIGN CHOICE, the pause of either cancels an arming whose target lies beyond its own boundary
(log entry 32). -/
def Chip.reachPause (c : Chip) (j : Job) (b : Nat) : Chip :=
  let total := match c.imageOf j with | some i => i.strokes | none => 0
  if total ≤ b then c.upJob j.id (fun j => { j with pause := none })
  else
    let late := j.redo.filter (fun w => decide (b < w.boundary))
    let c := overAll late (fun c w =>
      let c := c.upRegion (w.array / 578) (fun r => { r with swapResult := 5 })
      c.upArr w.array (fun a => if a.staged then a else
        { a with staged := true, swapA := BitVec.ofNat 6 w.tierA.val, swapB := BitVec.ofNat 6 w.tierB.val, swapResult := 1 })) c
    let c := c.upJob j.id (fun j => { j with st := .draining, redo := j.redo.filter (fun w => decide (w.boundary ≤ b)) })
    overAll (j.map.map (·.2)) (fun c g => c.upRegion g (fun r =>
      if r.armed && b < r.swapTarget then { r with armed := false, swapResult := 5 } else r)) c

/-- A started job at a stroke boundary: an abort called for takes effect, a hold begins, a pause stops issue, a piece starts. -/
def Chip.jobStroke (c : Chip) (id : JobId) (halved : Bool) : Chip :=
  match c.job? id with
  | none => c
  | some j =>
    if !j.live then c
    else
      let c := c.upJob id (fun j => j.tickStroke halved)
      match c.job? id with
      | none => c
      | some j =>
        match j.abortReq, j.holdNext with
        | some (status, flags), _ => c.endJob j status 0 flags
        | none, some h => c.upJob id (fun j => { j with st := .held h, holdNext := none })
        | none, none =>
          if j.st ≠ .running then c
          else
            let L := (c.lengths j).1
            let c := if j.stroke % L = 0 && !j.rerow then
                (c.startPiece j).upJob id (fun j => { j with asleep := j.asleep ++ [(j.stroke, c.asleepOf j)] })
              else c
            match j.pause with
            | some p => if !j.rerow && p.boundary ≤ j.stroke then c.reachPause j p.boundary else c
            | none => c

/-- The first tick of the body stroke that a core's job runs in, 0 where none runs on it. -/
def Chip.bodyStart (c : Chip) (core : Nat) : Nat :=
  let g := core / 34
  match c.jobs.find? (fun j => j.inRegion g && (c.jobCores j).any (fun p => p.1 == g && c.seat g p.2 == core)) with
  | some j => 4096 * ((c.pos j).map (·.bodyStroke)).getD 0
  | none => 0

/-- The posted items that the strokes from a body tick on still hold; a body's start clears them (R133). -/
def CoreSt.trimPosted (k : CoreSt) (start : Nat) : CoreSt :=
  { k with posted := if start = 0 then [] else k.posted.filter (fun q => decide (start ≤ q.1)) }
def Chip.trimPosted (c : Chip) (g : Nat) : Chip :=
  { c with cores := c.cores.filterMap (fun e =>
      if e.1 / 34 = g then
        let k := e.2.trimPosted (c.bodyStart e.1)
        if k = {} then none else some (e.1, k)
      else some e) }

/-- A stroke of an array ends: one in which it sensed is counted (R135). -/
def Arr.endStroke (a : Arr) : Arr := if a.senseLeft = 0 then a else { a with senses := a.senses + 1, senseLeft := a.senseLeft - 1 }

/-- The overflows of a region's cores in the stroke that ends (R133). -/
def Chip.coxStrokes (c : Chip) (g : Nat) : Chip :=
  overAll ((c.cores.filter (fun e => e.1 / 34 == g)).map (·.1)) (fun c k => c.coxStroke k (c.bodyStart k + 4095)) c

/-- A fill group of a switching plot that failed its checked sum (R149). -/
def Chip.fillMiss (g : Nat) (on : List Nat) (c : Chip) (m : Fin 136 × Nat) : Chip :=
  let k := g * 136 + m.1.val
  let p := c.plot k
  if p.state = 0 && on.contains p.seat.toNat then c.groupMismatch g k m.2 else c

/-- STROKE_BOUNDARY (R19, R44): a stroke of a region ends. Its fill checks, its optical and cox items and rail breaches are of that stroke; its
counts and its cores' step on, the data that its weak-plot tables wait for come to their shadows; the jobs counted by this region (log entry 6) take their boundary; remedies that need no re-row apply; the duty
of the next stroke sets the heaters. -/
def Chip.strokeBoundary (c : Chip) (g : Nat) (misses : List (Fin 136 × Nat)) (bad : List LedgerMiss) : Chip :=
  let on := (c.region g).dutySet
  let runs := c.clk.masterLock && (c.region g).power != 0
  let c := c.when runs (fun c => (((overAll misses (Chip.fillMiss g on) c).optStroke g).endSwitching g on).coxStrokes g)
  let c := c.callWhere (fun j => j.inRegion g && c.saf.breaches.any (fun b => b.active && c.railAffects b.rail j))
  let halved := (c.region g).halved
  let c := c.when runs (fun c =>
    let c := c.upRegion g Region.endStroke
    let weak := (c.cores.filter (fun e => e.1 / 34 == g && !e.2.table.isEmpty)).map (fun e => (e.1, c.shadowOf e.1))
    let c : Chip := { c with
      cores := c.cores.filterMap (fun e =>
        if e.1 / 34 = g then
          let k := e.2.endStroke (look none weak e.1)
          if k = {} then none else some (e.1, k)
        else some e)
      arrays := adjust {} (fun k => k / 578 == g) Arr.endStroke c.arrays }
    (overAll weak (fun c e => c.fillShadows bad e.1) c).trackGains g)
  let led := c.jobs.filter (fun j => j.leads g)
  let c := c.when c.clk.masterLock (fun c => overAll (led.map (·.id)) (fun c id => c.jobStroke id halved) c)
  let c := c.when runs (fun c => c.trimPosted g)
  let c := if c.jobs.any (fun j => j.inRegion g) then c.moveParked g else c.applyRemedies [g]
  c.feedForward g
def execStrokeBoundary (g : Fin 16) (fillMisses : List (Fin 136 × Nat)) (ledgerBad : List LedgerMiss) (s : State) :
    Host.Outcome State Fault Refusal :=
  act (fun c => c.strokeBoundary g.val fillMisses ledgerBad) s

/-- CHIP_STROKE (R19, R358): the chip stroke count advances while the master clock runs; 2.56 µs pass, in which each region's event FIFO
gives up 16 records. -/
def execChipStroke (s : State) : Host.Outcome State Fault Refusal :=
  act (fun c =>
    if !c.clk.masterLock then c
    else { c with
      clk := { c.clk with chipStroke := c.clk.chipStroke + 1, aon := c.clk.aon + 64 }
      regions := adjust {} (fun _ => true) (fun r => { r with fifo := r.fifo - 16 }) c.regions }) s

end Sys2Proof.Machine
end

