-- ==== Sys2Proof/Machine/Pressure.lean ====
section
/-! DEFINITION. Which pressure changes can be granted (R16, R17, R24, R44). -/

namespace Sys2Proof.Machine

/-- Whether a mode is in an image's range, allowed by the grade and configured (R5, R16, R24). -/
def Chip.allows (c : Chip) (i : Image) (m : Nat) : Bool :=
  bitOf i.pressureRange m && c.cfg.modes.getLsbD m && !(c.vault.gradeH && m == 0)

/-- Whether a started job stands at a piece boundary or at the restart of a re-row. -/
def Chip.atPiece (c : Chip) (j : Job) : Bool :=
  (j.st == .running || j.st == .draining) && (j.stroke % (c.lengths j).1 == 0 || j.lastRerow == some j.stroke)

/-- The certified peak of an image in a mode, in watts. -/
def Image.peakPower (i : Image) (m : Nat) : Nat :=
  i.power.foldl (fun best p => p.values.zipIdx.foldl (fun best v => if v.2 % 3 = m then max best v.1 else best) best) 0

/-- The power limit in force: on an XV16-H at most 1,150 W (R329). -/
def Chip.powerLimit (c : Chip) : Nat := if c.vault.gradeH then min c.cfg.powerLimit.toNat 1150 else c.cfg.powerLimit.toNat

/-- The certified power of the jobs that run or are admitted, but for some. -/
def Chip.powerOf (c : Chip) (but : List JobId) : Nat :=
  c.jobs.foldl (fun n j =>
    match c.imageOf j with
    | some i => if j.holds && !(but.contains j.id) then n + i.peakPower (modeCode j.mode) else n
    | none => n) 0

/-- Whether a mode qualifies for a job (R24 rule 1). -/
def Chip.qualifies (c : Chip) (j : Job) (i : Image) (m : Nat) : Bool :=
  c.allows i m && decide (i.peakPower m + c.powerOf [j.id] ≤ c.powerLimit)

/-- The jobs that share a region with one of some jobs, and these jobs, `n` links on. -/
def Chip.linked (c : Chip) : Nat → List Job → List Job
  | 0, js => js
  | n + 1, js => c.linked n (c.jobs.filter (fun k => js.any (fun j => j.id == k.id || j.map.any (fun p => k.inRegion p.2))))

/-- The jobs that must run in one mode with a job (R16, R17): those that share a region with it, and those that share one with these. -/
def Chip.sharers (c : Chip) (j : Job) : List Job :=
  (c.linked c.jobs.length [j]).filter (fun k => decide (k.id ≠ j.id))

/-- Whether a mode can be granted to a running job (R17, R24): it qualifies for the job, and for each job beside it at a piece boundary of
both. -/
def Chip.grants (c : Chip) (j : Job) (i : Image) (m : Nat) : Bool :=
  let beside := c.sharers j
  if beside.isEmpty then c.qualifies j i m
  else
    let ids := j.id :: beside.map (·.id)
    let sum := (j :: beside).foldl (fun n k => match c.imageOf k with | some ki => n + ki.peakPower m | none => n) 0
    c.allows i m && decide (sum + c.powerOf ids ≤ c.powerLimit) && beside.all (fun k =>
      match c.imageOf k with
      | some ki => c.allows ki m && c.atPiece k
      | none => false)

/-- Whether a job takes a mode change at the boundary it stands at: while it runs, and at the boundary where its pause applies (R44 rows 5 and
6). -/
def Job.changesMode (j : Job) : Bool :=
  match j.st, j.pause with
  | .running, _ => true
  | .draining, some p => p.boundary == j.stroke
  | _, _ => false

/-- What a job's pressure request comes to at the boundary it stands at (R24 rule 3, R44 rows 5 and 6): nothing while none is due there, else the
mode granted, or none where it is refused. -/
def Chip.changeDue (c : Chip) (j : Job) (i : Image) : Option (Option Mode) :=
  match j.modeReq with
  | none => none
  | some (want, from_) =>
    if !(c.atPiece j) || j.lastRerow = some j.stroke || (c.region j.lowRegion).stroke.toNat < from_ || !j.changesMode then none
    else some (match want with
      | some m => if m = j.mode || c.grants j i (modeCode m) then some m else none
      | none => ([0, 1, 2].find? (c.grants j i)).bind codeMode)

/-- Whether a job comes to Light, or leaves it, at the boundary it stands at (R182). -/
def Chip.flipsLight (c : Chip) (j : Job) : Bool :=
  match c.imageOf j with
  | some i => match c.changeDue j i with
    | some (some m) => (m == .light) != (j.mode == .light)
    | _ => false
  | none => false

end Sys2Proof.Machine
end

