-- ==== Sys2Proof/Machine/Light.lean ====
section
/-! DEFINITION. Light control (R158 to R183): lasers, fade and handover, equalisers, lock loops, heater drivers, pilot tags and re-sweeps. -/

namespace Sys2Proof.Machine

/-! ## Lasers -/

/-- The unused spare that would take over next: a standby one, else one that warms, else a cold one (R160, R167). -/
def Chip.spareLaser (c : Chip) (r : LaserRef) : Option LaserRef :=
  let pool := (laserPool r).filter (fun x => decide (x ≠ r))
  let at_ (st : BitVec 3) : Option LaserRef := pool.find? (fun x => (c.laserAt x).state == st && (c.laserAt x).group == 0xF)
  (at_ 2).orElse (fun _ => (at_ 1).orElse (fun _ => at_ 0))

/-- The laser of a pool that prepares for a group or port. -/
def Chip.preparing (c : Chip) (r : LaserRef) : Option LaserRef :=
  (laserPool r).find? (fun x => (c.laserAt x).state == 3 && (c.laserAt x).group == (c.laserAt r).group)

/-- The other laser of a handover stroke. -/
def Chip.partner (c : Chip) (r : LaserRef) : Option LaserRef :=
  (laserPool r).find? (fun x => decide (x ≠ r) && (c.laserAt x).state == 5 && (c.laserAt x).group == (c.laserAt r).group)

/-- With no spare in standby, the cold spare of a region warms (R160). -/
def Chip.warmOther (c : Chip) (r : LaserRef) : Chip :=
  let pool := laserPool r
  if pool.any (fun x => (c.laserAt x).state == 1 || ((c.laserAt x).state == 2 && (c.laserAt x).group == 0xF)) then c
  else match pool.find? (fun x => (c.laserAt x).state == 0) with
    | some x => c.upLaserAt x (fun l => { l with state := 1 })
    | none => c

/-- An order of a compute laser's region ends with a result (R183). -/
def Chip.orderEnds (c : Chip) (r : LaserRef) (result : BitVec 8) : Chip :=
  match r with
  | .compute g _ => c.upRegion g.val (fun x => { x with lasResult := result })
  | .link _ => c

/-- A handover from a serving laser begins (R166, R167): a standby spare prepares, a cold one warms first; without a spare nothing can
begin, and an order that was in progress ends, DESIGN CHOICE, as refused for want of a spare (log entry 133). -/
def Chip.startHandover (c : Chip) (r : LaserRef) (why : BitVec 2) : Chip :=
  if (c.preparing r).isSome then c.upLaserAt r (fun l => { l with leaving := why })
  else match c.spareLaser r with
    | none => if why = 2 then (c.upLaserAt r (fun l => { l with leaving := 0 })).orderEnds r 3 else c
    | some x =>
      let k := (c.laserAt r).group
      let c := c.upLaserAt r (fun l => { l with leaving := why })
      if (c.laserAt x).state = 2 then (c.upLaserAt x (fun l => { l with state := 3, group := k, ready := false })).warmOther r
      else c.upLaserAt x (fun l => { l with state := 1 })

/-- A laser retired: unpowered, never used again (R160). -/
def Laser.retire (l : Laser) (reason : BitVec 4) : Laser :=
  { l with state := 6, group := 0xF, reason := reason, ready := false, leaving := 0 }

/-! ## Fade (R164, R165) -/

/-- A fade in 0.01 dB, rounded down, the lower value 0; by halving the range. -/
def fadeStep (ref present x bit : Nat) : Nat := if 10 ^ (x + bit) * present ^ 1000 ≤ ref ^ 1000 then x + bit else x
def fadeOf (ref present : Nat) : Nat :=
  if present = 0 then 0xFFFF
  else [32768, 16384, 8192, 4096, 2048, 1024, 512, 256, 128, 64, 32, 16, 8, 4, 2, 1].foldl (fadeStep ref present) 0

/-- The lines of a laser that count: all 16 of a compute laser; of a link laser those that carry active lanes (R163). -/
def Chip.liveLines (c : Chip) (r : LaserRef) : List Nat :=
  match r with
  | .compute _ _ => List.range 16
  | .link n =>
    let q := c.port (c.linkLaser n.val).group.toNat
    (List.range 9).filter (fun l => (mapFind q.mapTx l).isSome)

/-- The weakest of the counted lines, the lowest among equals. -/
def weakest (powers : SMap Nat) (lines : List Nat) : Nat :=
  lines.foldl (fun b n => if look 0 powers n < look 0 powers b then n else b) (lines.headD 0)

/-- The points of R166 in tenths of a dB: warning, spare start, forced retire. -/
def fadePoints : List (Nat × Nat) := [(0, 10), (1, 15), (2, 30)]

/-- A laser's fade record after a measurement (R165): measurements in a row beyond each point; a crossing ends 0.1 dB better. -/
def Laser.watch (l : Laser) (ref present : Nat) : Laser :=
  fadePoints.foldl (fun l p =>
    let beyond := fadedBy ref present p.2
    { l with
      below := put 0 l.below p.1 (if beyond then look 0 l.below p.1 + 1 else 0)
      crossed := if fadedBy ref present (p.2 - 1) then l.crossed else put false l.crossed p.1 false }) l

/-- A standby or preparing spare fails (R169): it is retired without a re-row, the other spare warms, and a handover that waited for it
begins again. -/
def Chip.spareFails (c : Chip) (r : LaserRef) (line : Nat) (reason : BitVec 4) : Chip :=
  let l := c.laserAt r
  let user := (laserPool r).find? (fun x => l.state == 3 && (c.laserAt x).serves && (c.laserAt x).group == l.group && decide (x ≠ r))
  let c := ((c.event (c.laserSource r) 3 0x205 false (c.laserLocus r) line).upLaserAt r (fun l => l.retire reason)).warmOther r
  match user with
  | some u => c.startHandover u (c.laserAt u).leaving
  | none => c

/-- The result of an order once no laser of the region is to leave by order. -/
def Chip.orderDone (c : Chip) (r : LaserRef) : Chip :=
  match r with
  | .compute g _ =>
    if (c.region g.val).lasResult = 1 && !((laserPool r).any (fun x => (c.laserAt x).leaving == 2)) then
      c.upRegion g.val (fun x => { x with lasResult := 2 })
    else c
  | .link _ => c

/-- A spare now serves (R164, R167, R169, R380): the equaliser of its group stands as its commissioning values say, and the gain trims too after a
failure, while after a handover they follow; the substitution is recorded. -/
def Chip.laserTakesOver (c : Chip) (r : LaserRef) (failed : Bool) : Chip :=
  let c := match c.groupKey r with
    | some k => c.upGroup k (fun x =>
        let x := x.setLines (c.commissionLines r)
        if failed then { x with gain := gainFor x.level } else x)
    | none => c
  (c.substituted (c.laserSource r) (c.laserLocus r) 6 failed (c.spareLaser r).isNone).orderDone r

/-- The ports of a quad that have lost their laser and wait for its spare (R163). -/
def Chip.darkPorts (c : Chip) (n : Nat) : List Nat :=
  ((List.range 4).map (4 * (n - 16) + ·)).filter (fun p =>
    (c.linkLaser p).state == 6 && !((laserPool (.link (Fin.ofNat 20 n))).any (fun x => (c.laserAt x).serves && (c.laserAt x).group.toNat == p))
      && (c.port p).state != 5)

/-- Whether the spare of a port's quad is left for it: unused, and no other port of the quad waits for it (R163). -/
def Chip.linkSpareFor (c : Chip) (p : Nat) : Bool :=
  let x := c.linkLaser (16 + p / 4)
  (x.state == 2 || x.state == 1 || x.state == 0) && x.group == 0xF && (c.darkPorts (16 + p / 4)).all (· == p)

/-- What a laser that served and failed leaves behind: in a handover stroke the other laser of it serves alone, the incoming one as after a
handover, and an outgoing one hands over again; else its group waits for the restart boundary, and a port for which no spare link laser is left
goes out of service (R163, R169). -/
def Chip.afterFailure (c : Chip) (group : BitVec 4) (other : Option LaserRef) (key : Option Nat) : Chip :=
  match other with
  | some x =>
    let c := c.upLaserAt x (fun l => { l with state := 4, ready := false })
    if (c.laserAt x).leaving = 0 then
      (c.upLaserAt x (fun l => { l with power := [], below := [], crossed := [] })).laserTakesOver x false
    else c.startHandover x (c.laserAt x).leaving
  | none =>
    match key with
    | some k => c.addRemedy (.group k)
    | none => if c.linkSpareFor group.toNat then c else c.portOut group.toNat

/-- The locus of a group whose selector or equaliser is not confirmed (R181): its laser group in the place of the laser (log entry 134). -/
def groupLocus (g : Nat) (k : Nat) : BitVec 32 := locusWord (some g) none (some k)

/-- The abrupt failure of a laser (R168, R169, R181, R182): of one that serves a group a dangerous event, which for a part that groups share
names the group, of a link laser a link fault of its port, and the laser is retired at once; of a spare no re-row. -/
def Chip.laserFails (c : Chip) (r : LaserRef) (line : Nat) (reason : BitVec 4) : Chip :=
  let l := c.laserAt r
  if l.state = 2 || l.state = 3 then c.spareFails r line reason
  else if !l.serves then c
  else
    let other := if l.state = 5 then c.partner r else none
    let c := match r with
      | .compute g _ =>
        if reason = 5 then c.dangerLight g.val (c.laserSource r) 0x205 (groupLocus g.val l.group.toNat) l.group.toNat 2
        else c.dangerLight g.val (c.laserSource r) 0x205 (c.laserLocus r) line 2
      | .link _ => (c.linkFault l.group.toNat 0xF 6).awaitLaser l.group.toNat
    let key := c.groupKey r
    (c.upLaserAt r (fun l => l.retire reason)).afterFailure l.group other key

/-- LINE_MONITOR_MEASURE (R164, R165, R168): the powers of a serving laser's lines in 0.1 µW, 1 ms averages; the equaliser, the fade and
its counts follow; a fall of more than 0.5 dB within the 1 ms, a fade beyond 3.5 dB or a setting not confirmed is an abrupt failure. -/
def Chip.lineMeasure (c : Chip) (r : LaserRef) (powers : List Nat) (readbackBad : Bool) : Chip :=
  let l := c.laserAt r
  if l.state.toNat < 2 || 5 < l.state.toNat then c
  else
    let lines := c.liveLines r
    let new := powers.zipIdx.foldl (fun (m : SMap Nat) p => put 0 m p.2 p.1) []
    let w := weakest new lines
    let ref := commissioned r l (c.biasMode r) w
    let present := look 0 new w
    let fell := w ∈ lines && (match l.power with | [] => false | old => fadedBy (look 0 old w ^ 2) (present ^ 2) 10)
    let free := c.draw.1
    let c := c.draw.2
    if !l.serves then
      let c := c.upLaserAt r (fun l => { l with power := new })
      if readbackBad then c.laserFails r w 5 else if fell then c.laserFails r w 3 else c
    else
    let floor := fadeOf ref present
    let exact := floor = 0xFFFF || 10 ^ floor * present ^ 1000 = ref ^ 1000 || ref ≤ present
    let fade := BitVec.ofNat 16 (floor + if exact then 0 else Config.figure free % 2)
    let c := c.upLaserAt r (fun l => { l.watch ref present with power := new, fade := fade })
    let c := match c.groupKey r with
      | some k => c.upGroup k (fun x => x.equalise new)
      | none => c
    if readbackBad then c.laserFails r w 5
    else if fell || fadedBy ref present 35 then c.laserFails r w 3
    else c
def execLineMonitorMeasure (r : LaserRef) (powers : List Nat) (readbackBad : Bool) (s : State) : Host.Outcome State Fault Refusal :=
  act (fun c => c.lineMeasure r powers readbackBad) s

/-- FADE_THRESHOLD_CROSSED (R165, R166): each point beyond which 100 measurements in a row lie is logged once, and past the warning a
handover to a spare begins. -/
def Chip.fadeCross (c : Chip) (r : LaserRef) (p : Nat × Nat) : Chip :=
  let l := c.laserAt r
  if !l.serves || look false l.crossed p.1 || look 0 l.below p.1 < 100 then c
  else
    let c := c.event (c.laserSource r) (if p.1 = 0 then 0 else 3) 0x206 false (c.laserLocus r) l.fade.toNat
    let c := c.upLaserAt r (fun l => { l with crossed := put false l.crossed p.1 true })
    if p.1 = 0 || l.leaving ≠ 0 then c else c.startHandover r 1
def execFadeThresholdCrossed (r : LaserRef) (s : State) : Host.Outcome State Fault Refusal :=
  act (fun c => fadePoints.foldl (fun c p => c.fadeCross r p) c) s

/-- An order of LAS_CMD (R166, R182, R183): result 6 bad action, 5 a handover of the region under way, 4 laser not active, 3 no spare,
else 1 while the handover goes on. -/
def Chip.orderHandover (c : Chip) (g action : Nat) : Chip :=
  let n := (c.region g).lasLaser.toNat
  let r := LaserRef.compute (Fin.ofNat 16 g) (Fin.ofNat 10 n)
  let busy := (laserPool r).any (fun x => (c.laserAt x).state == 3 || (c.laserAt x).state == 5 || (c.laserAt x).leaving != 0)
  let result : BitVec 8 :=
    if action ≠ 1 then 6 else if busy then 5 else if 10 ≤ n || (c.laserAt r).state ≠ 4 then 4
    else if (c.spareLaser r).isNone then 3 else 1
  let c := c.upRegion g (fun x => { x with lasResult := result })
  if result = 1 then c.startHandover r 2 else c
def execLasHandoverOrder (g : Fin 16) (s : State) : Host.Outcome State Fault Refusal := act (fun c => c.orderHandover g.val 1) s

/-- SPARE_LASER_READY (R167): a preparing spare is phase-locked and levelled. -/
def execSpareLaserReady (r : LaserRef) (s : State) : Host.Outcome State Fault Refusal :=
  act (fun c => if (c.laserAt r).state = 3 then c.upLaserAt r (fun l => { l with ready := true }) else c) s

/-- Whether a job stands at a piece boundary or at the restart of a re-row (R167), which is one too. -/
def Chip.atHandover (c : Chip) (j : Job) : Bool := j.stroke % (c.lengths j).1 == 0 || j.lastRerow == some j.stroke

/-- Whether a handover boundary of a laser's region or port is reached: for a region one at which no change to or from Light is granted
(R163, R167, R182). -/
def Chip.handoverBoundary (c : Chip) (r : LaserRef) : Bool :=
  match r with
  | .compute g _ =>
    (c.jobs.filter (fun (j : Job) => j.live && j.inRegion g.val)).all (fun j =>
      c.atHandover j && (j :: c.sharers j).all (fun k => !(c.flipsLight k)))
  | .link n => (c.jobs.filter (fun (j : Job) => j.live && (c.jobPorts j).contains (c.linkLaser n.val).group.toNat)).all c.atHandover

/-- HANDOVER_START (R166, R167): at a handover boundary a ready spare and the laser it relieves enter the handover stroke; a laser beyond the
last point with no spare left is retired with its group, or leaves its port out of service. -/
def Chip.handoverStart (c : Chip) (r : LaserRef) : Chip :=
  let l := c.laserAt r
  if !(c.handoverBoundary r) then c
  else if l.state = 3 && l.ready then
    match (laserPool r).find? (fun x => (c.laserAt x).state == 4 && (c.laserAt x).group == l.group) with
    | some x => (c.upLaserAt r (fun l => { l with state := 5 })).upLaserAt x (fun l => { l with state := 5 })
    | none => c
  else if l.state = 4 && look false l.crossed 2 && (c.preparing r).isNone && (c.spareLaser r).isNone then
    let c1 := c.upLaserAt r (fun l => l.retire 2)
    match r with
    | .compute g _ => c1.retireGroup g.val l.group.toNat
    | .link _ => c1.portOut l.group.toNat
  else c
def execHandoverStart (r : LaserRef) (s : State) : Host.Outcome State Fault Refusal := act (fun c => c.handoverStart r) s

/-- HANDOVER_COMPLETE (R167): the spare is active, the outgoing laser retired. -/
def Chip.handoverComplete (c : Chip) (r : LaserRef) : Chip :=
  let l := c.laserAt r
  if l.state = 5 && l.leaving = 0 then
    let c := match c.partner r with
      | some x =>
        let o := c.laserAt x
        c.upLaserAt x (fun o' => o'.retire (if o.leaving = 2 then 4 else if look false o.crossed 2 then 2 else 1))
      | none => c
    (c.upLaserAt r (fun l => { l with state := 4, ready := false, power := [], below := [], crossed := [] })).laserTakesOver r false
  else c
def execHandoverComplete (r : LaserRef) (s : State) : Host.Outcome State Fault Refusal := act (fun c => c.handoverComplete r) s

/-- LASER_STANDBY_REACHED (R160): a warming spare is in standby; where a handover waits for it, it prepares. -/
def Chip.standbyReached (c : Chip) (r : LaserRef) : Chip :=
  if (c.laserAt r).state ≠ 1 then c
  else
    let c := c.upLaserAt r (fun l => { l with state := 2, group := 0xF })
    match (laserPool r).find? (fun x => (c.laserAt x).state == 4 && (c.laserAt x).leaving != 0 && (c.preparing x).isNone) with
    | some x => c.startHandover x (c.laserAt x).leaving
    | none => c
def execLaserStandbyReached (r : LaserRef) (s : State) : Host.Outcome State Fault Refusal := act (fun c => c.standbyReached r) s

/-- The plots of a group whose light is back take their seats again (R169): the held ones at once, the absent ones with an info event. -/
def Chip.relight (c : Chip) (g k : Nat) : Chip :=
  let dark := (groupPlots g k).filter (fun q => (c.plot q).state == 3 && (c.plot q).reason == 6)
  let back (x : Plot) : Plot := { x with state := 0, absentSince := none, parked := c.parks g x.seat.toNat }
  let c := overAll (dark.filter (fun q => (c.plot q).seat != 0xFF)) (fun c q => c.upPlot q back) c
  let c := overAll (dark.filter (fun q => (c.plot q).seat == 0xFF)) (fun c q =>
    match ((List.range 16).map (16 * k + ·)).find? (fun lp => (c.plotSeat g lp).isNone) with
    | some lp => (c.takeSeat q lp).event (srcRgn g) 0 0x405 false (plotLocus q) lp
    | none => c.upPlot q (fun x => { x with state := 1 })) c
  c.endPlotHolds

/-- The group of a region, or port of a quad, that has lost its laser and waits for a spare (R169, R163). -/
def Chip.unlit (c : Chip) : LaserRef → Option Nat
  | .compute g _ => (List.range 8).find? (c.darkGroup g.val)
  | .link n => (c.darkPorts n.val).head?

/-- SPARE_LASER_ACTIVE (R163, R169): after an abrupt failure the standby spare serves the group or port, and its plots return. -/
def Chip.spareActive (c : Chip) (r : LaserRef) : Chip :=
  let l := c.laserAt r
  match c.unlit r with
  | some k =>
    if l.state = 2 || (l.state = 3 && l.group.toNat = k) then
      let c := c.upLaserAt r (fun l => { l with state := 4, group := BitVec.ofNat 4 k, ready := false, power := [], below := [], crossed := [] })
      let c := (c.warmOther r).laserTakesOver r true
      match r with
      | .compute g _ => c.relight g.val k
      | .link _ => c
    else c
  | none => c
def execSpareLaserActive (r : LaserRef) (s : State) : Host.Outcome State Fault Refusal := act (fun c => c.spareActive r) s

/-! ## Lock loops and heaters -/

/-- The key and plot of a bank. -/
def bankPlot (b : BankRef) : Nat := b.g.val * 136 + b.o.val
def bankIndex (b : BankRef) : Nat := bankPlot b * 18 + b.b.val

/-- A bank re-sweeps (R176): dither off, its bias at 0 on the way up; the bias at which it was locked is kept. -/
def Chip.startSweep (c : Chip) (b : BankRef) : Chip :=
  c.upBank (bankIndex b) (fun x => { x with
    lock := 1, last := if x.lock = 3 then x.bias + x.ffDue.getD 0 else x.last, bias := 0, ffDue := none, ffAgain := false, wrongFrames := 0 })

/-- A bank has lost its line (R175, R181, R182): on a seated plot that is not parked a dangerous event, once for the plots' banks together,
and the plot leaves its seat at the restart; a parked plot leaves it at the next boundary of R152; any other plot is held at once. The bank
re-sweeps. -/
def Chip.lineLost (c : Chip) (b : BankRef) (code : Nat) : Chip :=
  let k := (bankPlot b)
  let p := c.plot k
  if p.state = 4 then c
  else if p.state = 0 then
    let c := if p.parked || c.saf.remedies.contains (.plot k 5) then c else
      c.dangerLight b.g.val (srcRgn b.g.val) code (plotLocus k) b.b.val 1
    (c.addRemedy (.plot k 5)).startSweep b
  else (c.leaveSeat k 5 false false).startSweep b

/-- The error of a locked bank (R172, R183): the rms residual over the last second, 40,000 windows, in 1/4 code, and the peak. -/
def Bank.note (x : Bank) (err : Int) : Bank :=
  { x with
    residual := err, squares := appendKeep 40000 x.squares (err.natAbs ^ 2)
    peak := if x.peak.toNat < err.natAbs then satOf 8 err.natAbs else x.peak }

/-- LOCK_LOOP_UPDATE (R172): a new error moves the bias by −⌊e/4⌋; an acquiring bank is locked once the error is below 16 codes; a locked
bank's error beyond 64 codes is a lock loss, a new peak above 16 an info event. -/
def Chip.lockUpdate (c : Chip) (b : BankRef) (err : Int) : Chip :=
  let x := c.bank (bankIndex b)
  if x.lock = 2 then
    c.upBank (bankIndex b) (fun x => { x with residual := err, bias := x.bias - err.fdiv 4, lock := if err.natAbs < 16 then 3 else 2 })
  else if x.lock = 3 then
    let c := c.upBank (bankIndex b) (fun x => { x.note err with bias := x.bias - err.fdiv 4 })
    if 64 < err.natAbs then c.lineLost b 0x203
    else if 16 < err.natAbs && x.peak.toNat < err.natAbs then
      c.event (srcRgn b.g.val) 0 0x207 false (plotLocus (bankPlot b)) (b.b.val + field (min 255 err.natAbs) 8)
    else c
  else c
def execLockLoopUpdate (b : BankRef) (err : Int) (s : State) : Host.Outcome State Fault Refusal := act (fun c => c.lockUpdate b err) s

/-- The dither frequency of a bank in units of 4 kHz (R171), and its tuning word (R179). -/
def ditherUnits (o b : Nat) : Nat := 5 + 2 * b + o % 2
def ditherFtw (o b : Nat) : Nat := (ditherUnits o b * 4000 * 2 ^ 32 + 50000000) / 100000000

/-- T[k] of R179. -/
def sine (k : Nat) : Int :=
  let k := k % 1024
  let q (i : Nat) : Int := (sineQuarter[i]?).getD 0
  if k ≤ 256 then q k else if k ≤ 512 then q (512 - k) else if k ≤ 768 then -(q (k - 512)) else -(q (1024 - k))

/-- The loop value of a channel (R179): bias plus dither, clamped, and whether it was clamped. -/
def loopCode (bias : Int) (amp : Nat) (acc : Nat) : Nat × Bool :=
  let v := bias + ((amp : Int) * sine (acc / 2 ^ 22)) / 2048
  (min 65535 v.toNat, decide (v < 0 || 65535 < v))

/-- A channel's load, with a clamped one counted (R179), and whether it was clamped. -/
def Bank.load (x : Bank) (v : Nat × Bool) : Bank × Bool :=
  ({ x with heater := BitVec.ofNat 16 v.1, rails := satIf v.2 x.rails }, v.2)

/-- A bias loaded without dither, clamped (R178). -/
def biasCode (h : Int) : Nat × Bool := (min 65535 h.toNat, decide (h < 0 || 65535 < h))

/-- A bank at a load strobe (R176, R178, R179): a step of a re-sweep, a scheduled load, at the first strobe of the express window once more for a
class-0 plot, or the loop value; with whether it was clamped. -/
def Bank.strobe (x : Bank) (acc : Nat) (window : Bool) : Bank × Bool :=
  if x.lock = 1 then ({ x with heater := BitVec.ofInt 16 x.bias, bias := min 65520 (x.bias + 16) }, false)
  else match x.ffDue with
    | some d => ({ x with bias := x.bias + d, ffDue := none } : Bank).load (biasCode (x.bias + d))
    | none =>
      if window && x.ffAgain then ({ x with ffAgain := false } : Bank).load (biasCode x.bias)
      else x.load (loopCode x.bias x.amplitude.toNat acc)

/-- Whether a region's next load strobe is the first after tick 3,584 of its stroke, the express window, where class 0 is in service (R37,
R178): a strobe is 100 ns, 160, 120 or 80 ticks, half as many when halved. DESIGN CHOICE: the first of a stroke falls one strobe after its
boundary (log entry 132). -/
def Chip.windowStrobe (c : Chip) (g : Nat) : Bool :=
  let r := c.region g
  let t := (if r.mode = 2 then 80 else if r.mode = 1 then 120 else 160) / (if r.halved then 2 else 1)
  let n := r.strobes - r.strobeAt
  c.cfg.class0 && decide (n * t ≤ 3584) && decide (3584 < (n + 1) * t)

/-- HEATER_LOAD_STROBE (R178, R179): every channel of a region loads; the phase accumulators have advanced by ten tuning words. -/
def Chip.heaterStrobe (c : Chip) (g : Nat) : Chip :=
  let n := (c.region g).strobes
  let window := c.windowStrobe g
  let mine := c.banks.filter (fun e => e.1 / 18 / 136 == g)
  let c := overAll mine (fun c e =>
    let o := e.1 / 18 % 136
    let r := e.2.strobe (n * 10 * ditherFtw o (e.1 % 18) % 2 ^ 32) window
    let c := c.upBank e.1 (fun _ => r.1)
    if r.2 then c.upPlot (e.1 / 18) (fun p => { p with drift := true }) else c) c
  c.upRegion g (fun r => { r with strobes := r.strobes + 1 })
def execHeaterLoadStrobe (g : Fin 16) (s : State) : Host.Outcome State Fault Refusal := act (fun c => c.heaterStrobe g.val) s

/-- HEATER_CHANNEL_CHECK (R180): a measured current, in codes, that deviates by more than 1 % of the code and more than 64 codes is a
channel fault; the plot is retired, where it is seated at the restart of a re-row, or at the next boundary of R152 while it is parked. -/
def Chip.heaterCheck (c : Chip) (b : BankRef) (measured : Nat) : Chip :=
  let x := c.bank (bankIndex b)
  let code := x.heater.toNat
  let k := (bankPlot b)
  let p := c.plot k
  if x.fault || p.state = 4 || ((measured : Int) - code).natAbs * 100 ≤ max code 6400 then c
  else
    let c := c.upBank (bankIndex b) (fun x => { x with fault := true })
    if p.state = 0 then
      (if p.parked then c.event (srcRgn b.g.val) 2 0x204 false (plotLocus k) b.b.val
        else c.dangerLight b.g.val (srcRgn b.g.val) 0x204 (plotLocus k) b.b.val 2).addRemedy (.plot k 4)
    else (c.event (srcRgn b.g.val) 2 0x204 false (plotLocus k) b.b.val).leaveSeat k 4 true true
def execHeaterChannelCheck (b : BankRef) (measured : Nat) (s : State) : Host.Outcome State Fault Refusal :=
  act (fun c => c.heaterCheck b measured) s

/-! ## Pilot tags (R174, R175) -/

/-- The CRC-3 of a tag's upper nine bits, polynomial x³ + x + 1, initial value 0. -/
def crc3 (v : Nat) : Nat :=
  (List.range 9).foldl (fun r i =>
    let bit := v / 2 ^ (8 - i) % 2
    let top := r / 4 % 2
    let r := 2 * r % 8
    if (top + bit) % 2 = 1 then (r ^^^ 3) else r) 0

/-- The tag word of a line (R174). -/
def tagWord (link : Bool) (line unit : Nat) : Nat :=
  let v := (if link then 256 else 0) + 16 * line + unit
  8 * v + crc3 v

/-- The frame of a tag: sync, then each tag bit as a chip pair; chip 0 is the most significant. -/
def tagChips (tag : Nat) : BitVec 32 :=
  BitVec.ofNat 32 ((List.range 12).foldl (fun w i => 4 * w + (if tag / 2 ^ (11 - i) % 2 = 1 then 2 else 1)) 0xF2)

/-- A tag read from 24 chips, none where a pair is no Manchester symbol or the CRC fails. -/
def readTag (chips : Nat) : Option Nat :=
  let t := (List.range 12).foldl (fun (o : Option Nat) i =>
    match o, chips / 4 ^ (11 - i) % 4 with
    | some w, 1 => some (2 * w)
    | some w, 2 => some (2 * w + 1)
    | _, _ => none) (some 0)
  t.bind (fun w => if crc3 (w / 8) = w % 8 then some w else none)

/-- Whether a tag is one of a bank's own (R175): a compute line of its group; of a switch bank, its own line. -/
def ownTag (b : BankRef) (tag : Nat) : Bool :=
  tag / 2048 == 0 && tag / 8 % 16 == b.o.val / 17 && (16 ≤ b.b.val || tag / 128 % 16 == b.b.val)

/-- Whether all banks of every plot of a group that is in use have lost pilot (R168). -/
def Chip.groupDark (c : Chip) (g k : Nat) : Bool :=
  (groupPlots g k).all (fun q => (c.plot q).state == 4 || (List.range 18).all (fun b => decide (8 ≤ (c.bank (q * 18 + b)).lostFrames)))

/-- PILOT_FRAME (R168, R175): a bank reads a frame. Four frames in a row that fail or carry another's tag are a wrong lock, eight without
sync a pilot loss; when every bank of the group has lost pilot its laser has failed. -/
def Chip.pilotFrame (c : Chip) (b : BankRef) (chips : BitVec 32) : Chip :=
  let k := (bankPlot b)
  let x := c.bank (bankIndex b)
  let g := b.g.val
  if x.lock.toNat < 2 || (c.plot k).state = 4 then c
  else if chips.toNat / 2 ^ 24 ≠ 0xF2 then
    let c := c.upBank (bankIndex b) (fun x => { x with tagOk := false, lostFrames := x.lostFrames + 1, wrongFrames := 0 })
    if x.lostFrames + 1 < 8 then c
    else if c.groupDark g (b.o.val / 17) then
      let group := groupPlots g (b.o.val / 17)
      let c := { c with saf := { c.saf with remedies := c.saf.remedies.filter (fun r =>
        match r with | .plot q 5 => !(group.contains q) | _ => true) } }
      match (List.range 10).find? (fun n =>
          (c.laser (g * 10 + n)).serves && (c.laser (g * 10 + n)).group.toNat == b.o.val / 17) with
      | some n => c.laserFails (.compute b.g (Fin.ofNat 10 n)) 0 3
      | none => c
    else if x.lostFrames + 1 = 8 then c.lineLost b 0x202
    else c
  else
    let tag := readTag (chips.toNat % 2 ^ 24)
    let own := match tag with | some t => ownTag b t | none => false
    let c := c.upBank (bankIndex b) (fun x => { x with
      tagOk := own, lostFrames := 0, wrongFrames := if own then 0 else x.wrongFrames + 1
      tagLine := match tag with | some t => BitVec.ofNat 4 (t / 128) | none => x.tagLine })
    if own || x.wrongFrames + 1 < 4 then c
    else
      let c := c.upPlot k (fun p => { p with wrongLocks := satAdd p.wrongLocks 1 })
      c.lineLost b 0x201
def execPilotFrame (b : BankRef) (chips : BitVec 32) (s : State) : Host.Outcome State Fault Refusal := act (fun c => c.pilotFrame b chips) s

/-- Whether a frame has its sync and carries a bank's own tag, its CRC right (R174, R175). -/
def ownFrame (b : BankRef) (chips : BitVec 32) : Bool :=
  chips.toNat / 2 ^ 24 == 0xF2 && (match readTag (chips.toNat % 2 ^ 24) with | some t => ownTag b t | none => false)

/-- The peak that a re-sweep chooses (R176): of those at the sweep's codes, nearest the last locked bias first, the first with a frame of the
bank's own tag. -/
def chosenPeak (b : BankRef) (last : Int) (peaks : List SweepPeak) : Option SweepPeak :=
  (sortBy (fun (p : SweepPeak) => ((p.code.toNat : Int) - last).natAbs) (peaks.filter (fun p => p.code.toNat % 16 == 0))).find? (fun p =>
    ownFrame b p.frame0 || ownFrame b p.frame1)

/-- RESWEEP_DONE (R176): of the peaks recorded the bank sits at the chosen one and acquires, its plot due for survey; with no peak of its own tag
the bank is failed and the plot retired, a seated one at the boundary at which it leaves its seat (R152). -/
def Chip.resweepDone (c : Chip) (b : BankRef) (peaks : List SweepPeak) : Chip :=
  let x := c.bank (bankIndex b)
  let k := (bankPlot b)
  if x.lock ≠ 1 then c
  else
    let c := c.upPlot k (fun p => { p with resweeps := satAdd p.resweeps 1 })
    match chosenPeak b x.last peaks with
    | some p =>
      let c := c.upBank (bankIndex b) (fun x => { x with lock := 2, bias := p.code.toNat, heater := p.code, wrongFrames := 0, lostFrames := 0 })
      c.upPlot k (fun p => { p with survey := if p.survey.due then p.survey else { p.survey with due := true, dueAt := c.clk.aon } })
    | none =>
      let c := c.upBank (bankIndex b) (fun x => { x with lock := 0 })
      if (c.plot k).state = 0 then c.addRemedy (.plot k 4) else c.leaveSeat k 5 true true
def execResweepDone (b : BankRef) (peaks : List SweepPeak) (s : State) : Host.Outcome State Fault Refusal :=
  act (fun c => c.resweepDone b peaks) s

end Sys2Proof.Machine
end

