-- ==== Sys2Proof/Machine/Easy.lean ====
section
/-! DEFINITION. Temperature: the temperature watch, the easy state and the thermal stop (R25, R26, R374, R375). -/

namespace Sys2Proof.Machine

/-- The members' easy signals of the fleet jobs that run here (R287): EASY_ON as the die passes 90 °C, EASY_OFF for a job in which this
member raised EASY_ON. -/
def Chip.easySignals (c : Chip) (on : Bool) : Chip :=
  let raised (j : Job) : Bool :=
    (j.signals.reverse.find? (fun s => (s.kind == 2 || s.kind == 3) && s.origin == c.cfg.member)).map (·.kind) == some 2
  overAll (c.jobs.filter (fun j => j.fleet && j.live && (on || raised j))) (fun c j =>
    c.raiseSignal j (if on then 2 else 3) j.stroke 0xF 0) c

/-- TEMPERATURE_WATCH_SAMPLE (R374, R375): a reading of the die temperature in 1/16 °C. Above 90.0 °C sets the easy request, below 85.0 °C
clears it and ends a thermal stop; ten readings in a row above 98.0 °C call for one. While the master clock is stopped the millisecond is
counted here, from the first power-good on (R345, log entry 3). -/
def Chip.watchSample (c : Chip) (reading : BitVec 13) : Chip :=
  let t := reading.toInt
  let hot := if 1568 < t then c.saf.hot + 1 else 0
  let c := { c with
    clk := if c.clk.masterLock || !(c.start.powerGood || c.start.powered) then c.clk else { c.clk with aon := c.clk.aon + 25000 }
    saf := { c.saf with
      dieTemp := reading, hot := hot, thermalDue := c.saf.thermalDue || (decide (10 ≤ hot) && !c.saf.thermalStop)
      thermalStop := c.saf.thermalStop && decide (1360 ≤ t) } }
  let detail := trunc 32 t
  if !c.saf.easy && 1440 < t then
    let c := { c with saf := { c.saf with easy := true } }
    (c.event 0 3 0x3 false (locusWord none none none) detail).easySignals true
  else if c.saf.easy && t < 1360 then
    let c := { c with saf := { c.saf with easy := false } }
    (c.event 0 0 0x4 false (locusWord none none none) detail).easySignals false
  else c
def execTemperatureWatchSample (reading : BitVec 13) (s : State) : Host.Outcome State Fault Refusal :=
  act (fun c => c.watchSample reading) s

/-- Whether a region may take over the easy request now (R374): at a piece boundary of a job it holds, asleep or not, or awake and holding
none; in a fleet job the signals decide (R289). -/
def Chip.easyNow (c : Chip) (g : Nat) : Bool :=
  let jobs := c.jobs.filter (fun j => j.inRegion g)
  !(jobs.any (·.fleet)) && (if jobs.isEmpty then decide (2 ≤ (c.region g).power.toNat) else jobs.any c.atPiece)

/-- A region's tick is halved, or is not: the heaters take the step (R25, R150, R173). -/
def Chip.setHalved (c : Chip) (g : Nat) (b : Bool) : Chip :=
  (c.upRegion g (fun r => { r with halved := b })).feedForward g

/-- EASY_ENTRY and EASY_EXIT (R25, R374): the region's tick becomes half of its mode's, or the mode's own again. -/
def execEasyEntry (g : Fin 16) (s : State) : Host.Outcome State Fault Refusal :=
  act (fun c => if c.saf.easy && !(c.region g.val).halved && c.easyNow g.val then c.setHalved g.val true else c) s
def execEasyExit (g : Fin 16) (s : State) : Host.Outcome State Fault Refusal :=
  act (fun c => if !c.saf.easy && (c.region g.val).halved && c.easyNow g.val then c.setHalved g.val false else c) s

/-- THERMAL_STOP (R375): every job is aborted, every region sleeps, the compute lasers that give light go to standby. -/
def Chip.thermalStop (c : Chip) : Chip :=
  if !c.saf.thermalDue then c
  else
    let c := { c with saf := { c.saf with thermalDue := false, thermalStop := true, hot := 0 } }
    let c := overAll (c.jobs.map (·.id)) (fun c id => c.abortJob id statusDegraded 0) c
    let c := overAll (List.range 16) (fun c g => (c.sleepRegion g).feedForward g) c
    let c := overAll (List.range 160) (fun c n =>
      if (c.laser n).state = 4 || (c.laser n).state = 5 then
        c.upLaser n (fun l => { l with state := 2, group := if l.state = 5 && l.leaving = 0 then 0xF else l.group, leaving := 0, ready := false })
      else if (c.laser n).state = 3 then c.upLaser n (fun l => { l with state := 2, group := 0xF, ready := false })
      else c) c
    c.event 0 4 0x5 false (locusWord none none none) (trunc 32 c.saf.dieTemp.toInt)
def execThermalStop (s : State) : Host.Outcome State Fault Refusal := act Chip.thermalStop s

end Sys2Proof.Machine
end

