-- ==== Sys2Proof/Machine/Ecc.lean ====
section
/-! DEFINITION. The 144-bit code of R250 and R251: codewords of 36 four-bit symbols over GF(16), their encoding and decoding. A codeword's outcome reaches the block with the command that reads it (`CodeResult`, `Path`); these functions say which outcome a received word has. -/

namespace Sys2Proof.Machine

/-- The product in GF(16) built on x⁴ + x + 1, bit i the coefficient of α^i (R250). -/
def gfMul (a b : Nat) : Nat :=
  (List.range 4).foldl (fun r i =>
    let r := 2 * r
    let r := if 16 ≤ r then (r - 16) ^^^ 3 else r
    if b / 2 ^ (3 - i) % 2 = 1 then r ^^^ a else r) 0

/-- A vector over GF(16), and its sum and its product with a symbol. -/
structure Gf4 where
  v0 : Nat
  v1 : Nat
  v2 : Nat
  v3 : Nat
deriving DecidableEq, Repr
def Gf4.add (a b : Gf4) : Gf4 := { v0 := a.v0 ^^^ b.v0, v1 := a.v1 ^^^ b.v1, v2 := a.v2 ^^^ b.v2, v3 := a.v3 ^^^ b.v3 }
def Gf4.scale (s : Nat) (a : Gf4) : Gf4 := { v0 := gfMul s a.v0, v1 := gfMul s a.v1, v2 := gfMul s a.v2, v3 := gfMul s a.v3 }

/-- f(x, y) = x² + xy + 8y² (R250). -/
def gfForm (x y : Nat) : Nat := gfMul x x ^^^ gfMul x y ^^^ gfMul 8 (gfMul y y)

/-- The column of symbol k: data symbols 0 to 31, then p1 to p4 (R250). -/
def gfColumn (k : Nat) : Gf4 :=
  if k < 32 then { v0 := 1, v1 := gfForm (k % 16) (2 + k / 16), v2 := k % 16, v3 := 2 + k / 16 }
  else if k = 32 then { v0 := 1, v1 := 0, v2 := 0, v3 := 0 }
  else if k = 33 then { v0 := 0, v1 := 1, v2 := 0, v3 := 0 }
  else if k = 34 then { v0 := 1, v1 := 1, v2 := 1, v3 := 0 }
  else { v0 := 1, v1 := 8, v2 := 0, v3 := 1 }

/-- Σ symbol × column over a list of symbols, from symbol k on. -/
def gfSum : Nat → List Nat → Gf4
  | _, [] => { v0 := 0, v1 := 0, v2 := 0, v3 := 0 }
  | k, d :: ds => ((gfColumn k).scale d).add (gfSum (k + 1) ds)

/-- The check symbols p1 to p4 of 32 data symbols (R250). -/
def encodeSymbols (data : List Nat) : List Nat :=
  let v := gfSum 0 data
  [v.v0 ^^^ v.v2 ^^^ v.v3, v.v1 ^^^ v.v2 ^^^ gfMul 8 v.v3, v.v2, v.v3]

/-- The symbols of bytes, the low half of each byte first; and back. -/
def toSymbols (bytes : List Byte) : List Nat := bytes.flatMap (fun b => [b.toNat % 16, b.toNat / 16])
def fromSymbols : List Nat → List Byte
  | a :: b :: l => BitVec.ofNat 8 (a + 16 * b) :: fromSymbols l
  | _ => []

/-- The 18 bytes of a codeword of 16 data bytes (R250). -/
def encodeWord (data : List Byte) : List Byte := data ++ fromSymbols (encodeSymbols (toSymbols data))

/-- The outcome of decoding 36 received symbols (R251): the symbols, corrected in at most one place, or none. -/
def decodeSymbols (w : List Nat) : Option (List Nat) :=
  let s := gfSum 0 w
  let fix (j e : Nat) : List Nat := w.zipIdx.map (fun p => if p.2 = j then p.1 ^^^ e else p.1)
  if s = { v0 := 0, v1 := 0, v2 := 0, v3 := 0 } then some w
  else if s.v0 ≠ 0 then
    match (List.range 36).find? (fun j => decide ((gfColumn j).scale s.v0 = s)) with
    | some j => some (fix j s.v0)
    | none => none
  else if s.v2 = 0 && s.v3 = 0 then some (fix 33 s.v1)
  else none

/-- The data of 18 received bytes and whether a symbol was corrected; none where the codeword is uncorrectable (R251). -/
def decodeWord (bytes : List Byte) : Option (List Byte × Bool) :=
  let w := toSymbols bytes
  (decodeSymbols w).map (fun d => (fromSymbols (d.take 32), decide (d ≠ w)))

end Sys2Proof.Machine
end

