-- ==== Sys2Proof/Machine/Commit.lean ====
section
/-! DEFINITION. Commit (R28, R34, R107, R290, R318, R321), re-row (R32, R33, R252, R289, R291) and the end of the hold of R367. -/

namespace Sys2Proof.Machine

/-! ## Commit -/

/-- The job stroke boundary that ends the oldest uncommitted piece. -/
def Chip.pieceEnd (c : Chip) (j : Job) : Nat := (j.committed + 1) * (c.lengths j).1

/-- The strokes from a piece's end to its commit: D, with Δf in a fleet job (R28, R290). -/
def Chip.commitLag (c : Chip) (j : Job) : Nat := (c.lengths j).2 + c.jobDeltaF j

/-- Whether a known re-row lets a piece ending at `E` commit (R290): it was detected at or after E + D. -/
def Chip.rerowAllows (c : Chip) (j : Job) (E : Nat) : Bool :=
  match j.knownX with
  | some x => decide (E + (c.lengths j).2 ≤ x)
  | none => true

/-- A signal of one of some kinds that has come to its boundary in a job and has not taken effect (R289). -/
def Job.signalDue (j : Job) (kinds : List (BitVec 8)) : Option Signal :=
  j.signals.find? (fun s => kinds.contains s.kind && !s.applied && decide (s.due ≤ j.stroke))

/-- Whether the oldest uncommitted piece commits now: not once an ABORT or SALVAGE has come to its boundary (R289). -/
def Chip.commitDue (c : Chip) (j : Job) (i : Image) : Bool :=
  (j.st == .running || j.st == .draining) && !j.rerow && j.abortReq.isNone && decide (j.committed < i.pieces)
    && decide (c.pieceEnd j + c.commitLag j ≤ j.stroke) && c.rerowAllows j (c.pieceEnd j)
    && (j.signalDue [5, 6]).isNone

/-- What a job records of a piece's commit: its digests go on, what was kept for a restart from it goes. The spec speaks of entries formed
before a pause's B and of the swaps after it: DESIGN CHOICE, the entry of a swap that applies at B itself goes into the weight digest with the
piece that ends there, and so into the saved state (log entry 82). -/
def Job.commitPiece (j : Job) (E at_ : Nat) (input : List Byte) (sent : Nat) : Job :=
  let entries := (j.weightDue.filter (fun e => decide (e.1 ≤ E))).flatMap (·.2)
  { j with
    committed := j.committed + 1, lastCommit := at_, rerowCount := 0, outSent := j.outSent + sent
    digestI := j.digestI.map (fun d => d.add input), digestW := j.digestW.map (fun d => d.add entries)
    weightDue := j.weightDue.filter (fun e => decide (E < e.1)), swaps := j.swaps.filter (fun w => decide (E < w.boundary))
    badWords := j.badWords.filter (fun w => decide (j.committed < w.2.1)), asleep := j.asleep.filter (fun e => decide (E ≤ e.1)) }

/-- PIECE_COMMIT (R28): the oldest uncommitted piece commits: its output is sent, its swaps are final, its digests formed; after the last
piece the job ends. -/
def Chip.pieceCommit (c : Chip) (id : JobId) : Chip :=
  match c.job? id with
  | none => c
  | some j =>
    match c.imageOf j with
    | none => c
    | some i =>
      if !c.commitDue j i then c
      else
        let p := j.committed
        let E := c.pieceEnd j
        let o := i.streamAt true p
        let o' := i.streamAt true (p + 1)
        let input := if j.digestI.isSome then c.inputBytes j (i.streamAt false p) (i.streamAt false (p + 1)) else []
        let port := (i.locate (p * (c.lengths j).1)).bind (fun x => i.outPort x.phase)
        let c := Chip.sendStream j port o' (ceilDiv (o' - o) 8192) o c
        let c := overAll (j.swaps.filter (fun w => decide (w.boundary ≤ E)))
          (Chip.settle (c.otherSwaps id ++ j.swaps.filter (fun w => decide (E < w.boundary)))) c
        let c := c.upJob id (fun k => k.commitPiece E (E + c.commitLag j) input (o' - o))
        match c.job? id with
        | some k => if i.pieces ≤ k.committed then c.endJob k statusOk 0 0 else c
        | none => c
def execPieceCommit (job : JobId) (s : State) : Host.Outcome State Fault Refusal := act (fun c => c.pieceCommit job) s

/-! ## Re-row -/

/-- The tier map of an array with two physical tiers exchanged (R105). -/
def Chip.swapMaps (c : Chip) (array : Nat) (a b : Fin 64) : Chip :=
  c.upArr array (fun x => { x with
    map := (List.range 64).foldl (fun m l =>
      let d := Fin.ofNat 64 l
      let t := look d m l
      put d m l (if t = a then b else if t = b then a else t)) x.map })

/-- A swap undone by a restart (R107): the map of its array takes the two tiers back. -/
def Chip.undoSwap (rest : List SwapDone) (c : Chip) (w : SwapDone) : Chip :=
  Chip.settle rest (c.swapMaps w.array w.tierA w.tierB) w

/-- A fault event of a job's own, from the schedule source, at its lowest region (R380). -/
def Chip.scheduleEvent (c : Chip) (j : Job) (cls code detail : Nat) : Chip :=
  c.event 1 cls code false (locusWord (some j.lowRegion) none none) detail

/-- The uncommitted work of a job discarded (R32 step 1) and its counter back at its oldest uncommitted piece (step 3): tiles and items gone,
swaps after the restart undone and to apply again, regions asleep as they were then. -/
def Chip.discard (c : Chip) (j : Job) : Chip :=
  let start := j.committed * (c.lengths j).1
  let c := c.clearWork j
  let redo := j.swaps.filter (fun w => decide (start < w.boundary))
  let c := overAll redo.reverse (Chip.undoSwap (c.otherSwaps j.id ++ j.swaps.filter (fun w => decide (w.boundary ≤ start)))) c
  let c := overAll (c.jobPorts j) (fun c p => c.upPort p (fun q => { q with buffer := [] })) c
  let slept := ((j.asleep.find? (fun e => e.1 == start)).map (·.2)).getD []
  let c := overAll j.map (fun c p =>
    if slept.contains p.1 then (if (c.region p.2).power = 0 then c else c.sleepRegion p.2)
    else if (c.region p.2).power = 0 then (c.wakeRegion p.2 none).upRegion p.2 (fun r => { r with power := 2 })
    else c.upRegion p.2 (fun r => { r with power := 2, wakeAt := none, rewake := none, sleepAtEnd := false })) c
  c.upJob j.id (fun k => { k with
    stroke := start, rerow := false, knownX := none, rerowCount := k.rerowCount + 1, rerows := satAdd k.rerows 1
    lastRerow := some start, leftAt := j.stroke, easyFrom := 0, swaps := k.swaps.filter (fun w => decide (w.boundary ≤ start)), redo := redo ++ k.redo
    weightDue := k.weightDue.filter (fun e => decide (e.1 ≤ start)), asleep := k.asleep.filter (fun e => decide (e.1 < start)) ++ [(start, slept)] })

/-- A pause on its way when a job re-rows applies at the first piece boundary after the restart, and is void at the end of the last piece
(R41). -/
def Chip.deferPause (c : Chip) (j : Job) : Chip :=
  match j.pause with
  | none => c
  | some p =>
    let L := (c.lengths j).1
    let b := j.committed * L + L
    let total := match c.imageOf j with | some i => i.strokes | none => 0
    c.upJob j.id (fun k => { k with
      st := if k.st = .draining then .running else k.st
      pause := if total ≤ b then none else some { p with boundary := b } })

/-- The remedies that wait in a job's regions and on its ports (R32 step 2, R44 row 3). -/
def Chip.jobRemedies (c : Chip) (j : Job) : Chip :=
  (c.applyRemedies (j.map.map (·.2))).applyLinkRemedies (c.jobPorts j)

/-- A job whose re-rows are used up, or whose data are lost (R33, R252): it ends at this boundary, the next one after the detection. -/
def Chip.rerowLimit (c : Chip) (j : Job) : Chip :=
  ((c.scheduleEvent j 3 0x111 (j.committed % 2 ^ 32)).abortJob j.id statusRerow 0).jobRemedies j

/-- A re-row takes place (R32, R33): its ninth from one piece ends the job. -/
def Chip.rerowJob (c : Chip) (j : Job) : Chip :=
  if j.lostWord || 8 ≤ j.rerowCount then c.rerowLimit j
  else
    let start := j.committed * (c.lengths j).1
    let c := { c with sch := { c.sch with rerowTotal := satAdd c.sch.rerowTotal 1 } }
    let c := c.scheduleEvent j 0 0x110 (start % 2 ^ 32)
    let c := (c.discard j).deferPause j
    let c := c.jobRemedies j
    match c.job? j.id with
    | some k => c.startPiece k
    | none => c

/-- REROW (R32): a called job that is not a fleet job restarts from its oldest uncommitted piece; a fleet job restarts by FLEET_REROW. -/
def execRerow (job : JobId) (s : State) : Host.Outcome State Fault Refusal :=
  act (fun c =>
    match c.job? job with
    | some j => if !j.fleet && j.rerow && j.abortReq.isNone && (j.st == .running || j.st == .draining) then c.rerowJob j else c
    | none => c) s

/-- CORE_COPY_HOLD_END (R367): the three strokes of the hold are over, the job issues again. -/
def execCoreCopyHoldEnd (job : JobId) (s : State) : Host.Outcome State Fault Refusal :=
  act (fun c =>
    match c.job? job with
    | some j => if j.st = .held .coreCopy && j.coreHold = 0 then c.upJob job (fun k => { k with st := .running }) else c
    | none => c) s

end Sys2Proof.Machine
end

