-- ==== Sys2Proof/Machine/Tier.lean ====
section
/-! DEFINITION. Tiers and their swaps (R96 to R108), and the copies and switches of plots and cell blocks (R109, R110, R114, R115, R369). -/

namespace Sys2Proof.Machine

/-! ## Programming and erase -/

/-- The physical tier that a logical tier maps to once further swaps have applied (R105). -/
def swapped (ws : List SwapDone) (T : Nat) : Nat :=
  ws.foldl (fun T w =>
    if T = tierKey w.array w.tierA.val then tierKey w.array w.tierB.val
    else if T = tierKey w.array w.tierB.val then tierKey w.array w.tierA.val else T) T

/-- Whether a job that holds its regions reaches a tier through the maps as they stand. -/
def Chip.tierReached (c : Chip) (T : Nat) : Bool :=
  c.jobs.any (fun j => j.holds &&
    (match c.imageOf j with | some i => i.named.any (fun n => c.reach j n == some T) | none => false))

/-- Whether a tier is named (R31, R98): a job that holds its regions reaches it, through the maps as they stand or as the swaps that are to
apply again after a re-row will leave them. -/
def Chip.tierNamed (c : Chip) (T : Nat) : Bool :=
  c.jobs.any (fun j => j.holds &&
    (match c.imageOf j with
      | some i => i.named.any (fun n =>
          match c.reach j n with
          | some U => (List.range (j.redo.length + 1)).any (fun k => swapped (j.redo.take k) U == T)
          | none => false)
      | none => false))

/-- Whether a copy into a spare plot of an array is under way, or waits to begin or for its switch. -/
def Arr.plotCopy (a : Arr) : Bool := a.subs.any (fun s => s.2.copying)

/-- Whether a programming, erase or copy runs on an array (ARR_PROG_STATUS busy). -/
def Arr.busy (a : Arr) : Bool :=
  a.prog.isSome || (a.copying && a.copyAt.isSome && !a.copied) || a.subs.any (fun s => s.2.copying && s.2.since.isSome && !s.2.copied)

/-- Whether a tier image at a 16 KiB unit of HBM may be read (R101): within HBM, in no reserved area. -/
def sourceFits (src : Nat) : Bool :=
  decide (16384 * (src + 1) ≤ 8 * stackBytes) && decide (16384 * src % partBytes + 16384 ≤ partData)

/-- Why a command on a tier is refused (R100, R101), if it is; `none` inside stands for a code that the spec does not give (log entry
30). A copy that waits to begin or for its switch counts as one in progress (log entry 124). -/
def Chip.progRefusal (c : Chip) (a : Nat) (tier : Fin 64) (erase sourceBad : Bool) : Option (Option Nat) :=
  let x := c.arr a
  let T := tierKey a tier.val
  let t := c.tier T
  if x.prog.isSome || x.copying || x.plotCopy then some (some 2)
  else if 4 ≤ c.coreProgramming (a / 17) then some (some 3)
  else if c.tierNamed T then some (some 4)
  else if t.st = .held then some (some 5)
  else if t.st = .worn || (!erase && 10000 ≤ t.count.toNat) then some (if erase then none else some 6)
  else if t.st = .programming then some (some 2)
  else if erase then none
  else if t.st = .failed then some none
  else if !sourceFits x.progSrc.toNat then some (some 10)
  else if sourceBad then some (some 11)
  else none

/-- The result of a command on a tier of an array. -/
def Chip.progAnswer (c : Chip) (a : Nat) (tier : Fin 64) (code : Nat) : Chip :=
  c.upArr a (fun x => { x with progResult := BitVec.ofNat 8 code, progTier := BitVec.ofNat 6 tier.val })

/-- A command on a tier refused: nothing changes but the result. -/
def Chip.progRefused (c : Chip) (a : Nat) (tier : Fin 64) (code : Option Nat) : Chip :=
  match code with
  | some n => c.progAnswer a tier n
  | none => c.draw.2.progAnswer a tier (Config.figure c.draw.1)

/-- The cells, stuck-list entries and diagnosis of a tier's old content go with it. -/
def Chip.clearTier (c : Chip) (a : Nat) (tier : Fin 64) : Chip :=
  let T := tierKey a tier.val
  let x := c.arr a
  let c := { c with dev := c.dev.filter (fun e =>
    !(e.1 / 272 / 256 == T && (decide (e.1 % 272 < 256) || (x.sub (e.1 / 272 % 256 / 16)).active))) }
  c.upArr a (fun x => { x with
    stuck := x.stuck.filter (fun e => decide (e.tier ≠ tier)), waiting := x.waiting.filter (fun e => decide (e.tier ≠ tier)), cands := x.cands.filter (fun k => k.tier != tier.val) })

/-- TIER_PROGRAM (R99): the image goes to both HBM copies of the ledger, the tier is PROGRAMMING and erased. -/
def Chip.cmdProgram (c : Chip) (a : Nat) (tier : Fin 64) (int4 sourceBad : Bool) : Chip :=
  match c.progRefusal a tier false sourceBad with
  | some code => c.progRefused a tier code
  | none =>
    let T := tierKey a tier.val
    let image := readBytes c.mem.hbm (16384 * (c.arr a).progSrc.toNat) 16384
    let header := ledgerHeader T int4 0 ((c.tier T).count.toNat + 1) c.clk.chipStroke.toNat image
    let c := ((c.putCopy T 0 image header).putCopy T 1 image header).clearTier a tier
    let c := { c with mem := { c.mem with
      tiers := writeBytes c.mem.tiers (tierBase T) image
      ledger := writeBytes (writeBytes c.mem.ledger (storeAddr T) image) (storeAddr T + 16384) (List.replicate 64 0) } }
    let c := c.upTier T (fun t => { t with st := .programming, int4 := int4 })
    (c.upArr a (fun x => { x with prog := some { tier := tier, erase := false, int4 := int4 } })).progAnswer a tier 1
def execTierProgram (g : Fin 16) (k : Fin 34) (a : Fin 17) (tier : Fin 64) (int4 sourceBad : Bool) (s : State) :
    Host.Outcome State Fault Refusal :=
  act (fun c => c.cmdProgram ((g.val * 34 + k.val) * 17 + a.val) tier int4 sourceBad) s

/-- TIER_ERASE (R100): the tier begins its 40 µs to BLANK. -/
def Chip.cmdErase (c : Chip) (a : Nat) (tier : Fin 64) : Chip :=
  match c.progRefusal a tier true false with
  | some code => c.progRefused a tier code
  | none =>
    let c := c.upTier (tierKey a tier.val) (fun t => { t with st := .programming })
    (c.upArr a (fun x => { x with prog := some { tier := tier, erase := true, int4 := false } })).progAnswer a tier 1
def execTierErase (g : Fin 16) (k : Fin 34) (a : Fin 17) (tier : Fin 64) (s : State) : Host.Outcome State Fault Refusal :=
  act (fun c => c.cmdErase ((g.val * 34 + k.val) * 17 + a.val) tier) s

/-- What the failed cells of a programming came to: entries added, a plot substituted, the tier failed. -/
structure Verify where
  chip : Chip
  added : Nat
  moved : Bool
  failed : Bool

/-- How many entries of an array's stuck list its plots' copies will free at their switches. -/
def Arr.toFree (x : Arr) : Nat :=
  (x.stuck.filter (fun e => let s := x.sub (e.row.val / 16); s.copying && s.group.toNat == e.column / 16)).length

/-- A cell that failed verify (R102): into the stuck list; when it is full, it waits for an entry that a substitution frees, or its plot is
substituted; else the tier fails. -/
def Verify.cell (a : Nat) (tier : Fin 64) (int4 : Bool) (v : Verify) (f : FailedCell) : Verify :=
  let x := v.chip.arr a
  let i := f.row.val / 16
  let j := f.column.val / 16
  let want := intendedDigit v.chip.mem.tiers (tierKey a tier.val) int4 f.row.val f.column.val
  let e : Stuck := { tier := tier, row := f.row, column := x.physCol i f.column.val, intended := BitVec.ofNat 2 want, stuck := f.digit.toNat }
  if x.stuck.length < 64 then { v with chip := v.chip.addStuck a e, added := v.added + 1 }
  else
    let s := x.sub i
    if s.copying && s.group.toNat = j then v
    else if x.waiting.length < x.toFree then
      { v with chip := v.chip.upArr a (fun x => { x with waiting := x.waiting ++ [e] }), moved := true }
    else if !s.active && !s.copying && !s.spareFailed then { v with chip := v.chip.startPlotCopy a i j, moved := true }
    else { v with failed := true }

/-- TIER_PROGRAM_DONE (R102, R103): the ledger store's entry is complete, the failed cells find their places, and the tier is READY, WORN or
FAILED. -/
def Chip.programDone (c : Chip) (a : Nat) (failed : List FailedCell) : Chip :=
  match (c.arr a).prog with
  | none => c
  | some p =>
    if p.erase then c
    else
      let T := tierKey a p.tier.val
      let count := (c.tier T).count.toNat + 1
      let image := readBytes c.mem.tiers (tierBase T) 16384
      let h (n : Nat) := ledgerHeader T p.int4 n count c.clk.chipStroke.toNat image
      let c := { c with
        mem := { c.mem with
          hbm := writeBytes (writeBytes c.mem.hbm (headerAddr T 0) (h 0)) (headerAddr T 1) (h 1)
          ledger := writeBytes c.mem.ledger (storeAddr T + 16384) (h 0xFF) }
        dev := failed.foldl (fun d (f : FailedCell) =>
          insertAt d (cellKey T f.row.val ((c.arr a).physCol (f.row.val / 16) f.column.val)) f.digit) c.dev }
      let c := c.upArr a (fun x => { x with prog := none })
      let v := failed.foldl (Verify.cell a p.tier p.int4) { chip := c, added := 0, moved := false, failed := false }
      let code := if v.failed then 9 else if v.moved then 8 else if v.added = 0 then 0 else 7
      let c := v.chip.upTier T (fun t => { t with
        st := if v.failed then .failed else if 10000 ≤ count then .worn else .ready, count := BitVec.ofNat 14 count })
      let c := (c.upArr a (fun x => { x with stuckAdded := satOf 8 v.added })).progAnswer a p.tier code
      let c := c.eventOpen (srcCore (a / 17)) 0 (arrLocus a none) code
      (c.when v.failed (fun c => c.startMove a)).beginCopies (a / 17)
def execTierProgramDone (g : Fin 16) (k : Fin 34) (a : Fin 17) (failed : List FailedCell) (s : State) :
    Host.Outcome State Fault Refusal :=
  act (fun c => c.programDone ((g.val * 34 + k.val) * 17 + a.val) failed) s

/-- TIER_ERASE_DONE (R100): the tier is BLANK. -/
def Chip.eraseDone (c : Chip) (a : Nat) : Chip :=
  match (c.arr a).prog with
  | none => c
  | some p =>
    if !p.erase then c
    else
      let c := c.upTier (tierKey a p.tier.val) (fun t => { t with st := .blank })
      ((c.clearTier a p.tier).upArr a (fun x => { x with prog := none })).progAnswer a p.tier 0
def execTierEraseDone (g : Fin 16) (k : Fin 34) (a : Fin 17) (s : State) : Host.Outcome State Fault Refusal :=
  act (fun c => c.eraseDone ((g.val * 34 + k.val) * 17 + a.val)) s

/-! ## Swaps -/

/-- The result of a swap command on an array. -/
def Chip.swapAnswer (c : Chip) (a code : Nat) : Chip := c.upArr a (fun x => { x with swapResult := BitVec.ofNat 3 code })

/-- The tier fields of ARR_SWAP take a written value (R9); those of a swap that is staged stay, it is for the two tiers that it was staged with
(log entry 126). -/
def Chip.writeSwapTiers (c : Chip) (a : Nat) (tierA tierB : Fin 64) : Chip :=
  c.upArr a (fun x => if x.staged then x else { x with swapA := BitVec.ofNat 6 tierA.val, swapB := BitVec.ofNat 6 tierB.val })

/-- SWAP_STAGE (R105, R114): a swap of two physical tiers of an array is staged, or refused. -/
def Chip.cmdStage (c : Chip) (a : Nat) (tierA tierB : Fin 64) : Chip :=
  let x := c.arr a
  let c := c.writeSwapTiers a tierA tierB
  let p := c.tier (tierKey a tierA.val)
  let q := c.tier (tierKey a tierB.val)
  if !p.st.live || !q.st.live || p.int4 != q.int4 then c.swapAnswer a 3
  else if x.staged || (x.copying && !x.copied) then c.swapAnswer a 4
  else (c.upArr a (fun x => { x with staged := true })).swapAnswer a 1
def execSwapStage (g : Fin 16) (k : Fin 34) (a : Fin 17) (tierA tierB : Fin 64) (s : State) : Host.Outcome State Fault Refusal :=
  act (fun c => c.cmdStage ((g.val * 34 + k.val) * 17 + a.val) tierA tierB) s

/-- SWAP_CANCEL (R105): a staged swap is given up. -/
def Chip.cmdCancel (c : Chip) (a : Nat) : Chip :=
  if (c.arr a).staged then (c.upArr a (fun x => { x with staged := false })).swapAnswer a 6 else c
def execSwapCancel (g : Fin 16) (k : Fin 34) (a : Fin 17) (s : State) : Host.Outcome State Fault Refusal :=
  act (fun c => c.cmdCancel ((g.val * 34 + k.val) * 17 + a.val)) s

/-- The arrays of a region with a staged swap. -/
def Chip.stagedArrays (c : Chip) (g : Nat) : List Nat :=
  (c.arrays.filter (fun e => e.1 / 578 == g && e.2.staged)).map (·.1)

/-- The job whose strokes a region's swaps go by: one that is not of class 0 before one that is (R106; log entry 32). -/
def Chip.swapJob (c : Chip) (g : Nat) : Option Job :=
  let held := c.jobs.filter (fun j => j.inRegion g)
  match held.find? (fun j => j.cls != 0) with
  | some j => some j
  | none => held.head?

/-- A swap applied (R107): the map's two tiers change places; one reached before and not after is HELD, and the swap says so. -/
def Chip.applySwap (c : Chip) (w : SwapDone) : Chip × SwapDone :=
  let ka := tierKey w.array w.tierA.val
  let kb := tierKey w.array w.tierB.val
  let c' := c.swapMaps w.array w.tierA w.tierB
  let left (k : Nat) : Bool := c.tierReached k && !c'.tierReached k
  let hold (k : Nat) (c' : Chip) : Chip := if left k then c'.upTier k (fun t => { t with st := .held }) else c'
  (hold kb (hold ka c'), { w with heldA := left ka, heldB := left kb })

/-- Swaps applied in turn. -/
def Chip.applySwaps (c : Chip) : List SwapDone → Chip × List SwapDone
  | [] => (c, [])
  | w :: ws =>
    let (c, w) := c.applySwap w
    let (c, ws) := c.applySwaps ws
    (c, w :: ws)

/-- The staged swap of an array. -/
def Chip.stagedSwap (c : Chip) (boundary a : Nat) : SwapDone :=
  { array := a, tierA := (c.arr a).swapA.toFin, tierB := (c.arr a).swapB.toFin, boundary := boundary }

/-- The staged swaps of a region applied; they are no longer staged. -/
def Chip.applyStaged (c : Chip) (g boundary : Nat) : Chip × List SwapDone :=
  let (c, ws) := c.applySwaps ((c.stagedArrays g).map (c.stagedSwap boundary))
  (overAll ws (fun c w => (c.upArr w.array (fun x => { x with staged := false })).swapAnswer w.array 2) c, ws)

/-- SWAP_ARM (R106, R114): the region's staged swaps are to apply at the target, or apply at once when no job holds the region. -/
def Chip.cmdArm (c : Chip) (g : Nat) : Chip :=
  let busy := (c.stagedArrays g).filter (fun a => (c.arr a).copying && !(c.arr a).copied)
  let c := overAll busy (fun c a => (c.upArr a (fun x => { x with staged := false })).swapAnswer a 4) c
  let target := (c.region g).swapAt.toNat
  let answer (c : Chip) (armed : Bool) (code : Nat) : Chip :=
    c.upRegion g (fun r => { r with armed := armed, swapResult := BitVec.ofNat 3 code, swapTarget := if armed then target else r.swapTarget })
  match c.swapJob g with
  | none => answer (c.applyStaged g 0).1 false 4
  | some j =>
    if target % (c.lengths j).1 ≠ 0 then answer c false 6
    else if target < j.stroke + 2 then answer c false 3
    else answer c true 1
def execSwapArm (g : Fin 16) (s : State) : Host.Outcome State Fault Refusal := act (fun c => c.cmdArm g.val) s

/-- SWAP_WITHDRAW (R106): an arming is withdrawn before its target. -/
def Chip.cmdWithdraw (c : Chip) (g : Nat) : Chip :=
  c.upRegion g (fun r => if r.armed then { r with armed := false, swapResult := 0 } else r)
def execSwapWithdraw (g : Fin 16) (s : State) : Host.Outcome State Fault Refusal := act (fun c => c.cmdWithdraw g.val) s

/-- SWAP_APPLY (R107, R321): the job's counter has reached the target, or again a target that a re-row took it back from. -/
def Chip.swapApply (c : Chip) (g : Nat) : Chip :=
  match c.swapJob g with
  | none => c
  | some j =>
    if !j.live then c
    else
      let again := j.redo.filter (fun w => w.array / 578 == g && w.boundary == j.stroke)
      let armed := (c.region g).armed && (c.region g).swapTarget == j.stroke
      let (c, redone) := c.applySwaps again
      let (c, fresh) := if armed then c.applyStaged g j.stroke else (c, [])
      let c := c.when armed (fun c => c.upRegion g (fun r => { r with armed := false, swapResult := 2 }))
      let ws := redone ++ fresh
      if ws.isEmpty then c
      else
        let entry := match j.digestW, c.imageOf j with
          | some _, some i => [(j.stroke, c.weightEntry j i j.stroke)]
          | _, _ => []
        c.upJob j.id (fun k => { k with
          swaps := k.swaps ++ ws, redo := k.redo.filter (fun w => !(again.contains w))
          weightDue := k.weightDue.filter (fun e => e.1 != j.stroke) ++ entry })
def execSwapApply (g : Fin 16) (s : State) : Host.Outcome State Fault Refusal := act (fun c => c.swapApply g.val) s

/-! ## Copies and switches -/

/-- The spare plot's cells of a row group hold what was programmed into them. -/
def Chip.clearSpare (c : Chip) (a i : Nat) : Chip :=
  { c with dev := c.dev.filter (fun e => !(e.1 / 272 / 256 / 64 == a && e.1 / 272 % 256 / 16 == i && 256 ≤ e.1 % 272)) }

/-- The failed cells that wait for freed entries when no copy is left to free enough: their tiers fail (R102 step 3; log entry 33). -/
def Chip.failWaiting (c : Chip) (a : Nat) : Chip :=
  let x := c.arr a
  let late := x.waiting.drop x.toFree
  let c := c.upArr a (fun x => { x with waiting := x.waiting.take x.toFree })
  (overAll late (fun c e => c.upTier (tierKey a e.tier.val) (fun t => { t with st := .failed })) c).when (!late.isEmpty) (fun c => c.startMove a)

/-- PLOT_COPY_DONE (R110): the spare plot holds the plot's digits of every live tier, and waits for its switch; a copy whose ledger entry is
lost fails, and the spare, erased, is retired (log entry 33). -/
def Chip.plotCopyDone (c : Chip) (bad : List LedgerMiss) (a i : Nat) : Chip :=
  let s := (c.arr a).sub i
  if !s.copying || s.copied || s.since.isNone then c
  else
    let r := c.readTiers bad a (c.liveTiers a)
    let c := r.1.clearSpare a i
    let c := c.upArr a (fun x => { x with
      subs := put {} x.subs i (if r.2.isSome then { s with copied := true }
        else { s with copying := false, since := none, spareFailed := true, group := 0 }) })
    (c.when r.2.isNone (fun c => c.failWaiting a)).beginCopies (a / 17)
def execPlotCopyDone (g : Fin 16) (k : Fin 34) (a : Fin 17) (rowGroup : Fin 16) (ledgerBad : List LedgerMiss) (s : State) :
    Host.Outcome State Fault Refusal :=
  act (fun c => c.plotCopyDone ledgerBad ((g.val * 34 + k.val) * 17 + a.val) rowGroup.val) s

/-- Whether some spare plot of a core is still free. -/
def Chip.sparePlots (c : Chip) (a : Nat) : Bool :=
  (coreArrays a).any (fun q => (List.range 16).any (fun i =>
    let s := (c.arr q).sub i
    !s.active && !s.copying && !s.spareFailed))

/-- The entries of a switched plot leave the lists of its array, and failed cells of other plots take the entries freed (R102). -/
def Arr.plotGone (x : Arr) (i j : Nat) : Arr :=
  let other (e : Stuck) : Bool := !(e.row.val / 16 == i && e.column / 16 == j)
  let stuck := x.stuck.filter other
  let waiting := x.waiting.filter other
  { x with stuck := stuck ++ waiting.take (64 - stuck.length), waiting := waiting.drop (64 - stuck.length)
           stuckAdded := satOf 8 (x.stuckAdded.toNat + min waiting.length (64 - stuck.length)) }

/-- PLOT_SUBSTITUTION (R102, R110, R136): the spare plot takes the column group; the plot's stuck cells and its table entry are released. -/
def Chip.plotSwitch (c : Chip) (a i : Nat) : Chip :=
  let s := (c.arr a).sub i
  if !s.copying || !s.copied || !c.atSeatBoundary (a / 578) then c
  else
    let j := s.group.toNat
    let c := c.upArr a (fun x => { x.plotGone i j with
      subs := put {} x.subs i { s with active := true, copying := false, since := none, copied := false }
      quality := drop x.quality (i * 17 + 16), flags := drop x.flags (i * 17 + 16) })
    let c := c.upCore (c.driver a) (fun k => k.dropEntry a i j)
    c.substituted (srcCore (a / 17)) (arrLocus a (some i)) 1 false (!c.sparePlots a)
def execPlotSubstitution (g : Fin 16) (k : Fin 34) (a : Fin 17) (rowGroup : Fin 16) (s : State) :
    Host.Outcome State Fault Refusal :=
  act (fun c => c.plotSwitch ((g.val * 34 + k.val) * 17 + a.val) rowGroup.val) s

/-- CELL_BLOCK_COPY_DONE (R114, R369): every live tier, its format, the map and the counts are in the new cell block, which waits for its
switch; a copy whose ledger entry is lost fails and its cell block is free again (log entry 33). -/
def Chip.cellCopyDone (c : Chip) (bad : List LedgerMiss) (a : Nat) : Chip :=
  match (c.arr a).moveTo with
  | none => c
  | some q =>
    if !(c.arr a).copying || (c.arr a).copied || (c.arr a).copyAt.isNone then c
    else
      let r := c.readTiers bad a (c.liveTiers a)
      let c := r.1
      match r.2 with
      | none =>
        ((c.upArr a (fun x => { x with copying := false, copyAt := none, moveTo := none })).upArr q (fun x =>
          { x with copying := false, copyAt := none })).beginCopies (q / 17)
      | some l =>
        let c := { c with dev := c.dev.filter (fun e => !(e.1 / 272 / 256 / 64 == q && e.1 % 272 < 256)) }
        let c := overAll l (fun c t =>
          let c := { c with mem := { c.mem with tiers := writeBytes c.mem.tiers (tierBase (tierKey q t.1.val)) t.2 } }
          c.upTier (tierKey q t.1.val) (fun _ => c.tier (tierKey a t.1.val))) c
        let m := (c.arr a).map
        ((c.upArr a (fun x => { x with copied := true })).upArr q (fun x => { x with copied := true, map := m })).beginCopies (q / 17)
def execCellBlockCopyDone (g : Fin 16) (k : Fin 34) (a : Fin 17) (ledgerBad : List LedgerMiss) (s : State) :
    Host.Outcome State Fault Refusal :=
  act (fun c => c.cellCopyDone ledgerBad ((g.val * 34 + k.val) * 17 + a.val)) s

/-- The entries of an array in a weak-plot table released (R136). -/
def CoreSt.dropArray (k : CoreSt) (array : Nat) : CoreSt :=
  ({ k with table := k.table.filter (fun e => e.2.array != array) }).startFill

/-- A logical array's seat moves to the cell block its tiers were copied to (R114, R369), sensed by its own periphery. -/
def Chip.cellSwitch (c : Chip) (a q : Nat) : Chip :=
  match c.logicalOf a with
  | none => c
  | some (lc, la) =>
    let c := (c.endRotation a).endRotation q
    let g := a / 578
    let old := c.driver a
    let lost := (c.arr a).impaired
    let inCore := q / 17 == a / 17
    let dfl := (g * 34 + lc) * 17 + la
    -- the tiers keep their last states: what the switch finds is what the copy found
    let c := overAll (c.liveTiers a) (fun c t => c.upTier (tierKey q t.val) (fun _ => c.tier (tierKey a t.val))) c
    let m := (c.arr a).map
    let c := { c with
      cells := put dfl c.cells ((g * 32 + lc) * 16 + la) q
      peri := put q (put a c.peri a a) q q }
    let c := c.upArr a (fun x => { x with
      candidate := false, copying := false, copyAt := none, copied := false, moveTo := none, impaired := false
      retiredCells := x.retiredCells || inCore || !x.retiredPeri })
    let c := c.upArr q (fun x => { x with copying := false, copyAt := none, copied := false, map := m })
    let c := c.upCore old (fun k => k.dropArray a)
    c.substituted (srcCore (a / 17)) (arrLocus a none) (if inCore then 3 else 8) lost
      (if inCore then (c.spareCells a).isNone else (c.spareCoreArrays g).isEmpty)

/-- CELL_BLOCK_SUBSTITUTION (R114): at the first boundary after its copy, the core's spare cell block takes the logical array's seat. -/
def Chip.cellBlockSwitch (c : Chip) (a : Nat) : Chip :=
  match (c.arr a).moveTo with
  | some q => if (c.arr a).copied && q / 17 == a / 17 && c.atSeatBoundary (a / 578) then c.cellSwitch a q else c
  | none => c
def execCellBlockSubstitution (g : Fin 16) (k : Fin 34) (a : Fin 17) (s : State) : Host.Outcome State Fault Refusal :=
  act (fun c => c.cellBlockSwitch ((g.val * 34 + k.val) * 17 + a.val)) s

/-- SPARE_CORE_ARRAY_MOVE (R369): a logical array moves to a free array of a spare core after the copy of its tiers. -/
def Chip.spareCoreSwitch (c : Chip) (a : Nat) : Chip :=
  match (c.arr a).moveTo with
  | some q => if (c.arr a).copied && q / 17 != a / 17 && c.atSeatBoundary (a / 578) then c.cellSwitch a q else c
  | none => c
def execSpareCoreArrayMove (g : Fin 16) (core : Fin 32) (array : Fin 16) (s : State) : Host.Outcome State Fault Refusal :=
  act (fun c => c.spareCoreSwitch (c.cellsOf g.val core.val array.val)) s

/-! ## Plots waited for -/

/-- PLOT_HOLD_TIMEOUT (R154): a plot that has not returned within 10 ms is absent, and the jobs that name it are aborted. -/
def Chip.plotTimeout (c : Chip) (k : Nat) : Chip :=
  let p := c.plot k
  match p.absentSince with
  | some t =>
    if p.state = 3 && p.seat ≠ 0xFF && t + msCycles 10 ≤ c.clk.aon then (c.plotAbsent k p.seat.toNat).endPlotHolds else c
  | none => c
def execPlotHoldTimeout (g : Fin 16) (o : Fin 136) (s : State) : Host.Outcome State Fault Refusal :=
  act (fun c => c.plotTimeout (g.val * 136 + o.val)) s

/-- PLOT_HOLD_RETURN (R154): a held plot is back in service on its seat, and the jobs held for it restart. -/
def Chip.plotReturn (c : Chip) (k : Nat) : Chip :=
  let p := c.plot k
  if p.state = 3 && p.seat ≠ 0xFF && p.absentSince.isSome then
    (c.upPlot k (fun x => { x with
      state := 0, absentSince := none, parked := c.parks (k / 136) p.seat.toNat
      survey := { x.survey with due := false } })).endPlotHolds
  else c
def execPlotHoldReturn (g : Fin 16) (o : Fin 136) (s : State) : Host.Outcome State Fault Refusal :=
  act (fun c => c.plotReturn (g.val * 136 + o.val)) s

end Sys2Proof.Machine
end

