-- ==== Sys2Proof/Machine/Memory.lean ====
section
/-! DEFINITION. The HBM stacks: which a job holds (R242), scrub (R253), failed pseudo-channels and degraded stacks (R254), temperatures (R239). -/

namespace Sys2Proof.Machine

/-- Whether a stack is held by a job (R242, MEM_STATUS). -/
def Chip.stackHeld (c : Chip) (s : Nat) : Bool := c.jobs.any (fun j => j.holdsStacks && (c.windowOf j).contains s)

/-- SCRUB (R239, R252, R253): a line of a stack is read. A corrected one is counted and written back; an uncorrectable one is logged and left as
it is. A pass is complete when its progress starts again. -/
def Chip.scrub (c : Chip) (s line : Nat) (outcome : CodeResult) (ondie : Nat) (parity : Bool) (progress : BitVec 8) : Chip :=
  let c := c.upStack s (fun k => { k with
    passes := satIf (decide (progress.toNat < k.progress.toNat)) k.passes, progress := progress })
  match outcome with
  | .clean => c.stackCounts s 0 ondie false
  | .corrected n => c.stackCounts s n ondie false
  | .uncorrectable => (c.stackCounts s 0 ondie parity).channelFault (s * stackBytes + 64 * line) false
def execScrub (s : Fin 8) (line : Nat) (outcome : CodeResult) (ondie : Nat) (parity : Bool) (progress : BitVec 8) (st : State) :
    Host.Outcome State Fault Refusal :=
  act (fun c => c.scrub s.val line outcome ondie parity progress) st

/-! ## Degradation (R254) -/

/-- The pseudo-channels of a stack that fail at this boundary. -/
def Stack.dropping (k : Stack) : BitVec 32 := k.failing &&& ~~~k.failed

/-- A stack is degraded (R254): its failing pseudo-channels drop out of the interleave, its jobs are aborted, and every byte of it is void, read as
unwritten memory is (log entry 2). -/
def Chip.dropChannels (c : Chip) (s : Nat) : Chip :=
  let new := (c.stack s).dropping
  if new = 0 then c
  else
    let c := c.upStack s (fun k => { k with state := if k.state = 2 then 2 else 1, failed := k.failed ||| new, failing := 0 })
    let c := overAll ((List.range 32).filter (fun n => new.getLsbD n)) (fun c n =>
      c.event (srcStack s) 3 0x403 false (stackLocus s n) 4) c
    let gone := c.jobs.filter (fun j => j.holdsStacks && (c.windowOf j).contains s)
    let c := overAll gone (fun c j => c.abortJob j.id statusDegraded 0) c
    { c with mem := { c.mem with hbm := zeroBytes c.mem.hbm (s * stackBytes) stackBytes } }.dropShadows s

/-- The ledger copies of a degraded stack rebuilt: every tier that had an entry in HBM or has one in the store. -/
def Chip.degrade (c : Chip) (s : Nat) : Chip :=
  if (c.stack s).dropping = 0 then c
  else
    let tiers := (ledgerHeld c.mem.hbm ++ ledgerTiers c.mem.ledger).eraseDups
    (c.dropChannels s).rebuildCopies s tiers

/-- STACK_DEGRADE (R254): at the stroke boundary after a pseudo-channel has failed. -/
def execStackDegrade (s : Fin 8) (st : State) : Host.Outcome State Fault Refusal := act (fun c => c.degrade s.val) st

/-- STACK_TEMPERATURE_READ (R239): each millisecond a stack's sensor is read. -/
def execStackTemperatureRead (s : Fin 8) (celsius : BitVec 8) (st : State) : Host.Outcome State Fault Refusal :=
  act (fun c => c.upStack s.val (fun k => { k with temp := celsius })) st

/-- MEM_CAPACITY (R254, R256): each partition keeps 31/32 of its lines for each failed channel; the budget at Full falls by 1/32 each,
rounded down. -/
def failedChannels (k : Stack) : Nat := countBelow 32 (fun n => k.failed.getLsbD n)
def stackLines (k : Stack) : Nat := partData / 64 - partData / 64 * failedChannels k / 32
def stackData (k : Stack) : Nat := 64 * stackLines k
def reducedBudget (budget failed : Nat) : Nat := budget - ceilDiv (budget * failed) 32

end Sys2Proof.Machine
end

