-- ==== Sys2Proof/Machine/Transport.lean ====
section
/-! DEFINITION. The job transport (R297 to R306, R323, R324, R326, R327): the treatment of host datagrams, acknowledgements, queue reset, and the frames and link events of the host ports. -/

namespace Sys2Proof.Machine

/-! ## Acknowledgements (R302, R303, R318) -/

/-- Whether a packet ends the job of a tag. -/
def Packet.ends (p : Packet) (tag : BitVec 32) : Bool :=
  p.tag == tag && (match p.body with | some (.jobEnd _) => true | _ => false)

/-- The output stream bytes that a packet carries are acknowledged (R318). -/
def Chip.streamAcked (c : Chip) (p : Packet) : Chip :=
  match p.body with
  | some (.streamData off data) =>
    c.upJob { queue := p.queue, tag := p.tag } (fun j => { j with aOut := max j.aOut (off.toNat + data.length) })
  | _ => c

/-- Withheld packets of every queue sent as space allows (R303). -/
def Chip.flushAll (c : Chip) : Chip :=
  overAll c.host.queues (fun c q => Chip.flush q.1 (c.queue q.1).withheld.length c) c

/-- A host ack field (R303): beyond the next device sequence it is ignored, behind the acknowledged point it has no effect. Output that the
JOB_END of its tag follows is of a job that is over: a later job of the tag is not concerned (R308, R318). -/
def Chip.ackQueue (c : Chip) (q : Nat) (a : BitVec 32) : Chip :=
  let k := c.queue q
  if precedes k.next a || precedes a k.acked then c
  else
    let ended (p : Packet) : Bool := k.retained.any (fun e => e.ends p.tag && precedes p.seq e.seq)
    let c := overAll (k.retained.filter (fun p => precedes p.seq a && !ended p)) Chip.streamAcked c
    (c.upQueue q (fun k => { k with acked := a, retained := k.retained.filter (fun p => !(precedes p.seq a)) })).flushAll

/-- A packet as it is sent once more: output of a stream on its booked port, any other to a given port (R314). -/
def Packet.again (p : Packet) (port : Fin 2) : Packet :=
  match p.body with
  | some (.streamData ..) => p
  | _ => { p with port := port }

/-- A packet of a queue sent once more, to the port of the queue's latest accepted packet (R323). -/
def Chip.resend (q : Nat) (c : Chip) (p : Packet) : Chip :=
  c.wire (p.again (c.queue q).port)

/-- HOST_ACK and HOST_ACK_RESEND (R301 steps 2 and 3, R303). -/
def execHostAck (h : Hdr) (s : State) : Host.Outcome State Fault Refusal := act (fun c => c.ackQueue h.queue.toNat h.ack) s
def execHostAckResend (h : Hdr) (s : State) : Host.Outcome State Fault Refusal :=
  act (fun c =>
    let c := c.ackQueue h.queue.toNat h.ack
    overAll ((c.queue h.queue.toNat).retained.filter (fun p => !(precedes p.seq h.ack))) (Chip.resend h.queue.toNat) c) s

/-! ## The treatment of a host packet (R301, R302) -/

/-- A packet's answer. -/
def Chip.answer (c : Chip) (h : Hdr) (b : ResultBody) : Chip := c.send h.queue.toNat h.tag (some h.seq) b
def Chip.receipt (c : Chip) (h : Hdr) (status : Nat) : Chip := c.answer h (.receipt (BitVec.ofNat 8 status) 0 h.seq)

/-- A packet out of sequence (R302): a duplicate is answered again, or by an ACK; one ahead is counted and answered by an ACK. -/
def Chip.outOfSequence (c : Chip) (h : Hdr) : Chip :=
  let q := h.queue.toNat
  let k := c.queue q
  if precedes h.seq k.expected then
    match k.answers.reverse.find? (fun a => a.1 == h.seq) with
    | some a => Chip.resend q c a.2
    | none => c.sendAck q
  else (c.upQueue q (fun k => { k with ahead := satAdd k.ahead 1 })).sendAck q

/-- The treatment of a JOB, LOAD, REG or BULK packet (R301): its ack; its sequence; from there on it is accepted and answered: closed
queue, lengths, a packet that the device takes only when ready (R326, R327), then what the type does. -/
def Chip.treat (c : Chip) (h : Hdr) (lengths open_ : Bool) (f : Chip → Chip) : Chip :=
  let q := h.queue.toNat
  let c := c.ackQueue q h.ack
  if h.seq ≠ (c.queue q).expected then c.outOfSequence h
  else
    let c := c.upQueue q (fun k => { k with expected := k.expected + 1, port := h.port })
    if c.queueClosed q then c.receipt h statusClass
    else if !lengths || h.payload < 32 + h.length then c.receipt h statusLenRange
    else if !open_ then c.receipt h statusAccess
    else f c

/-- Whether the device takes every packet (R326, R327). -/
def Chip.serves (c : Chip) : Bool := c.start.ready && !c.start.recovery

/-! ## Frames and links -/

/-- MALFORMED_DATAGRAM (R301 step 1) and DISCARDED_FRAME (R297, R298): counted, with the FEC codewords that the frame met uncorrected; no
reply. -/
def execMalformedDatagram (port : Fin 2) (s : State) : Host.Outcome State Fault Refusal :=
  act (fun c => c.upHport port (fun p => { p with malformed := satAdd p.malformed 1 })) s
def execDiscardedFrame (port : Fin 2) (failedCheck : Bool) (fec : Nat) (s : State) : Host.Outcome State Fault Refusal :=
  act (fun c => c.upHport port (fun p =>
    let p := { p with fec := satAdd p.fec fec }
    if failedCheck then { p with malformed := satAdd p.malformed 1 } else { p with foreign := satAdd p.foreign 1 })) s

/-- A frame not for this port (R298). -/
def Chip.foreign (c : Chip) (p : Fin 2) : Chip := c.upHport p (fun x => { x with foreign := satAdd x.foreign 1 })
def Chip.reply (c : Chip) (r : Reply) : Chip := { c with host := { c.host with replies := c.host.replies ++ [r] } }

/-- ARP_REQUEST, NEIGHBOR_SOLICITATION, ICMP_ECHO (R297): answered for the port's own addresses only; any other is discarded and counted
(R298). -/
def execArpRequest (port : Fin 2) (target : BitVec 32) (sender : BitVec 48) (s : State) : Host.Outcome State Fault Refusal :=
  act (fun c =>
    let p := c.portCfg port.val
    if p.flags.getLsbD 1 && target = p.ipv4 then c.reply (.arp port p.ipv4 p.mac sender) else c.foreign port) s
def execNeighborSolicitation (port : Fin 2) (target : BitVec 128) (sender : BitVec 48) (s : State) :
    Host.Outcome State Fault Refusal :=
  act (fun c =>
    let p := c.portCfg port.val
    if p.flags.getLsbD 2 && target = p.ipv6 then c.reply (.advert port p.ipv6 p.mac sender) else c.foreign port) s
def execIcmpEcho (port : Fin 2) (v6 : Bool) (target : BitVec 128) (data : List Byte) (s : State) : Host.Outcome State Fault Refusal :=
  act (fun c =>
    let p := c.portCfg port.val
    let own := if v6 then p.flags.getLsbD 2 && target = p.ipv6 else p.flags.getLsbD 1 && target = p.ipv4.setWidth 128
    if own then c.reply (.echo port v6 data) else c.foreign port) s

/-- PTP_MESSAGE (R297, R299): the log time follows a master; the operand is its time less the time counted from REFCLK, in ns. Without
the feature the frame is of no protocol that the port uses. -/
def execPtpMessage (port : Fin 2) (offsetNs : Int) (s : State) : Host.Outcome State Fault Refusal :=
  act (fun c =>
    if c.cfg.features.getLsbD 2 then { c with clk := { c.clk with ptpFollowing := true, ptpOffset := offsetNs } } else c.foreign port) s

/-- PTP_MASTER_LOST (R299): the log time runs on from REFCLK, unsynchronised. -/
def execPtpMasterLost (s : State) : Host.Outcome State Fault Refusal :=
  act (fun c => { c with clk := { c.clk with ptpFollowing := false } }) s

/-- MODULE_INSERTED (R297): the link is tried at 800 Gbit/s again. -/
def execModuleInserted (port : Fin 2) (s : State) : Host.Outcome State Fault Refusal :=
  act (fun c => c.upHport port (fun p => { p with present := true, fallback := false })) s

/-- HOST_LINK_FALLBACK (R297): a link not up within 500 ms of module presence goes on at 400 Gbit/s. -/
def execHostLinkFallback (port : Fin 2) (s : State) : Host.Outcome State Fault Refusal :=
  act (fun c => c.upHport port (fun p => if p.present && p.speed == 0 then { p with fallback := true } else p)) s

/-- HOST_LINK_UP (R297, R324): at 800 Gbit/s where the configuration permits it, the port has not fallen back, and the far end runs it. -/
def execHostLinkUp (port : Fin 2) (speed400 : Bool) (s : State) : Host.Outcome State Fault Refusal :=
  act (fun c =>
    let cfg := c.portCfg port.val
    c.upHport port (fun p => { p with
      present := true, speed := if cfg.flags.getLsbD 0 && !p.fallback && !speed400 then 1 else 2 })) s

/-- HOST_LINK_DOWN (R323): the port is down; its retained packets wait for a resend, and what waited for a priority is gone. -/
def execHostLinkDown (port : Fin 2) (s : State) : Host.Outcome State Fault Refusal :=
  act (fun c => c.upHport port (fun p => { p with speed := 0, paused := 0, waiting := [] })) s

/-- What waited at a port sent in order, but for what its priority still holds back. -/
def Chip.releaseWaiting (c : Chip) (port : Fin 2) : Chip :=
  let ps := (c.hport port).waiting
  overAll ps Chip.wire (c.upHport port (fun p => { p with waiting := [] }))

/-- PFC_FRAME (R297): the priorities it enables are paused or released, where the configuration uses priority flow control; what waited for a
released one is sent. -/
def execPfcFrame (port : Fin 2) (enabled paused : BitVec 8) (s : State) : Host.Outcome State Fault Refusal :=
  act (fun c =>
    if (c.portCfg port.val).flags.getLsbD 4 then
      (c.upHport port (fun p => { p with paused := (p.paused &&& ~~~enabled) ||| (paused &&& enabled) })).releaseWaiting port
    else c.foreign port) s

/-! ## Queue reset -/

/-- Whether a job of a queue is pending, running or paused (R323). -/
def Chip.queueBusy (c : Chip) (q : Nat) : Bool := c.jobs.any (fun j => j.id.queue.toNat == q)

/-- QUEUE_RESET (R302, R323, R324): both sequences of the selected queue return to 0 and its retained packets are dropped; refused while a
job of the queue exists. -/
def Chip.queueReset (c : Chip) : Chip :=
  let q := c.host.queueSel.toNat
  if c.queueBusy q then { c with host := { c.host with queueCtrl := 2 } }
  else
    let c := c.upQueue q (fun k => { k with expected := 0, next := 0, acked := 0, retained := [], answers := [] })
    { c with host := { c.host with queueCtrl := 1 } }.flushAll
def execQueueReset (s : State) : Host.Outcome State Fault Refusal := act Chip.queueReset s

end Sys2Proof.Machine
end

