-- ==== Sys2Proof/Machine/Jobs.lean ====
section
/-! DEFINITION. JOB packets (R307 to R309): what a submit, a resume, a pause, an abort and a pressure change are checked for, and what they do on acceptance; save records (R42, R43); data ranges in use (R310, R311, R313). -/

namespace Sys2Proof.Machine

/-! ## Data ranges -/

/-- The data space of the device in bytes (R310). -/
def dataSpace : Nat := 8 * windowStack

/-- Whether two ranges, each an offset and a length, share a byte. -/
def meets (a b : Nat × Nat) : Bool :=
  decide (0 < a.2) && decide (0 < b.2) && decide (a.1 < b.1 + b.2) && decide (b.1 < a.1 + a.2)

/-- A job's window as a range of data offsets (R241, R310). -/
def windowRange (body : JobBody) (i : Image) : Nat × Nat := (body.windowBase.toNat / stackBytes * windowStack, i.window)

/-- The bits set in a mask of 32. -/
def popcount (n : Nat) : Nat := countBelow 32 (fun k => bitOf n k)

/-- The bytes of a save record of an image (R42). -/
def recordSize (i : Image) : Nat :=
  0xA0 + 432 + i.regions.foldl (fun n e => n + e.regionStaging + popcount e.coreMask * (e.coreStaging + 32 * 16384)) 0

/-- The save areas that a job may write or must keep: of a started job those of its packet and of its pause, of a paused or resumed one
its record. -/
def Job.areas (j : Job) : List Nat :=
  if j.live then
    (if j.body.saveArea = 0 then [] else [j.body.saveArea.toNat]) ++ (if j.body.salvageArea = 0 then [] else [j.body.salvageArea.toNat])
      ++ (match j.pause with | some p => [p.area.toNat] | none => []) ++ (match j.fleetPause with | some p => [p.area.toNat] | none => [])
  else match j.saveAt with
    | some a => [a]
    | none => []

/-- The windows and save areas of jobs that meet a condition. -/
def Chip.jobRanges (c : Chip) (p : Job → Bool) : List (Nat × Nat) :=
  (c.jobs.filter p).flatMap (fun j =>
    match c.imageOf j with
    | some i => (if j.needsStacks then [windowRange j.body i] else []) ++ j.areas.map (fun a => (a, recordSize i))
    | none => [])

/-- The ranges of loaded images and of loads in progress. -/
def Chip.imageRanges (c : Chip) : List (Nat × Nat) :=
  (c.sch.images ++ c.sch.replacing).map (fun i => (i.base, i.length)) ++ c.sch.loads.map (fun l => (l.base, l.length))

/-! ## Checks on submit (R308) -/

/-- Whether a job of an image on a queue is placed floating (R36, R277). -/
def Chip.floats (c : Chip) (q : Nat) (i : Image) : Bool :=
  i.floating && (c.queueClass q == 2 || c.queueClass q == 3) && c.queueFloats q && i.lamniMask == 0

/-- Whether the used entries of a map name different units up to 15. -/
def mapped (m : List Byte) (used : List Nat) : Bool :=
  let units := used.map (fun n => (m[n]?).map (·.toNat))
  units.all (fun x => match x with | some v => decide (v ≤ 15) | none => false) && units.eraseDups.length == units.length

/-- The most stream bytes of any `k` consecutive pieces (R308): the sum is linear between pieces that begin or end at a phase's edge. -/
def Image.streamPeak (i : Image) (out : Bool) (k : Nat) : Nat :=
  let edges := (List.range (i.phases.length + 1)).map (fun n => (i.phases.take n).foldl (fun a p => a + p.bodyPieces * p.reps) 0)
  (edges ++ edges.map (· - k)).foldl (fun best m => max best (i.streamAt out (m + k) - i.streamAt out m)) 0

/-- The pieces that a ring must hold: W + 2 (R31, R290, R308). -/
def Chip.ringPieces (c : Chip) (i : Image) : Nat := ceilDiv (i.D + c.deltaF i) (max 1 i.L) + 3

/-- A 64-bit range within a window. -/
def inWindow (off len : BitVec 64) (window : Nat) : Bool := len == 0 || decide (off.toNat + len.toNat ≤ window)

/-- The checks of R308 from the class on, for a submit or a resume: the status. The device state that fleet jobs need is looked at here
too (R279, R283). -/
def Chip.submitChecks (c : Chip) (q : Nat) (b : JobBody) (i : Image) : Nat :=
  let cls := c.queueClass q
  let p := b.pressure.toNat
  let fleet := i.lamniMask != 0
  let hasIn := i.hostSlots.any (fun s => !s.out)
  let hasOut := i.hostSlots.any (·.out)
  let k := c.ringPieces i
  let pendingOf (js : List Job) : Nat := (js.filter (fun j => j.st == .pending || j.st == .admitted)).length
  if (cls = 0) ≠ (i.express = 1) || (cls = 0 && !c.cfg.class0) then statusClass
  else if (2 < p && p ≠ 255) || (p = 255 && fleet) then statusBadField
  else if p ≠ 255 && !c.allows i p then statusPressure
  else if !c.floats q i && (!mapped b.regionMap (i.regions.map (·.region)) || !mapped b.portMap ((List.range 16).filter (bitOf i.lamniMask)))
    then statusBadField
  else if b.windowBase.toNat % stackBytes ≠ 0 || (b.inBytes ||| b.outBytes).toNat % 16 ≠ 0 then statusBadField
  else if 8 < b.windowBase.toNat / stackBytes + windowStacks i.window || !inWindow b.inOff b.inBytes i.window
      || !inWindow b.outOff b.outBytes i.window || !inWindow b.extOff b.extBytes i.window
      || meets (b.inOff.toNat, b.inBytes.toNat) (b.outOff.toNat, b.outBytes.toNat) then statusLenRange
  else if (hasIn && b.inBytes = 0) || (hasOut && b.outBytes = 0) || ((hasIn || hasOut) && b.saveArea = 0) then statusBadField
  else if b.inBytes.toNat < i.streamPeak false k || b.outBytes.toNat < i.streamPeak true k then statusLenRange
  else if 2 ^ 64 ≤ i.streamAt false i.pieces || 2 ^ 64 ≤ i.streamAt true i.pieces then statusLenRange
  else if (b.fleetStart ≠ 0) ≠ fleet then statusBadField
  else if fleet && (List.range 16).any (fun n => (c.port n).state == 3) then statusBadField
  else if fleet && !c.clk.fsyncOk then statusDegraded
  else if 16 ≤ pendingOf (c.jobs.filter (fun j => j.id.queue.toNat == q)) || 4096 ≤ pendingOf c.jobs then statusQueueFull
  else statusOk

/-- Whether a body's reserved bits are 0, those above S0 among them. -/
def bodyClean (b : JobBody) : Bool := b.flags &&& 0xFFFC == 0 && b.res1 == 0 && b.res2 == 0 && decide (b.fleetStart.toNat < 2 ^ 48)

/-- The image of an identifier. -/
def Chip.image? (c : Chip) (id : BitVec 256) : Option Image := c.sch.images.find? (fun i => i.id == id)

/-- The name of the job that a packet concerns (R307). -/
def Hdr.jobId (h : Hdr) : JobId := { queue := h.queue, tag := h.tag }

/-- A new job, waiting for admission. -/
def Chip.enqueue (c : Chip) (j : Job) : Chip :=
  { (c.dropJob j.id) with jobs := (c.dropJob j.id).jobs ++ [{ j with order := c.nextOrder }], nextOrder := c.nextOrder + 1 }

/-- Whether a tag is in use (R308): by a job of the queue, or by one whose JOB_END waits to be sent. -/
def Chip.tagUsed (c : Chip) (id : JobId) : Bool :=
  (c.job? id).isSome || (c.queue id.queue.toNat).withheld.any (fun w => w.tag == id.tag && (match w.body with | .jobEnd _ => true | _ => false))

/-- JOB_SUBMIT (R308). -/
def Chip.submit (c : Chip) (h : Hdr) (b : JobBody) : Chip :=
  let id := Hdr.jobId h
  if !bodyClean b || h.tag = 0 || c.tagUsed id then c.receipt h statusBadField
  else match c.image? b.imageId with
    | none => c.receipt h statusDigest
    | some i =>
      let st := c.submitChecks h.queue.toNat b i
      if st ≠ statusOk then c.receipt h st
      else (c.enqueue { id := id, body := b, order := 0, cls := c.queueClass h.queue.toNat, image := i.id, fleet := i.lamniMask != 0 }).receipt h
        statusOk

/-- The JOB body is 176 bytes (R307). -/
def jobLengths (h : Hdr) : Bool := decide (176 ≤ h.length)

def execJobSubmit (h : Hdr) (body : JobBody) (s : State) : Host.Outcome State Fault Refusal :=
  act (fun c => c.treat h (jobLengths h) c.serves (fun c => c.submit h body)) s

/-! ## Save records (R42, R43) -/

/-- A running digest as a save record keeps it: working words, count, tail (R42). -/
def ShaSt.bytes (s : ShaSt) : List Byte :=
  s.h.flatMap (fun w => leBytes 8 w.toNat) ++ leBytes 16 s.count ++ s.tail ++ List.replicate (128 - s.tail.length) 0

/-- A running digest from a save record. -/
def readShaSt (b : List Byte) : ShaSt :=
  let count := leAt b 64 16
  { h := (List.range 8).map (fun n => BitVec.ofNat 64 (leAt b (8 * n) 8)), count := count, tail := slice b 80 (count % 128) }

/-- The output tiles of a core as a save record holds them: 16 arrays, two tiles, 2,048 entries, each sign-extended to 8 bytes. -/
def Chip.tileBytes (c : Chip) (g lc : Nat) : List Byte :=
  (List.range 16).flatMap (fun la =>
    let peri := c.periOf (c.cellsOf g lc la)
    [false, true].flatMap (fun t => (List.range 2048).flatMap (fun e => leBytes 8 (trunc 64 (c.accOf peri t e)))))

/-- The payload of a job's save record (R42): a region that no phase names is not held (R40), and its bytes are written as 0. -/
def Chip.recordPayload (c : Chip) (j : Job) (i : Image) : List Byte :=
  let regions := i.regions.flatMap (fun e =>
    match j.phys e.region with
    | some g => readBytes c.mem.rstg (c.regionAt j g 0) e.regionStaging
    | none => List.replicate e.regionStaging 0)
  let cores := i.regions.flatMap (fun e => (List.range 32).flatMap (fun lc =>
    if !bitOf e.coreMask lc then []
    else match j.phys e.region with
      | some g => readBytes c.mem.cstg (coreByte (c.seat g lc) 0) e.coreStaging ++ c.tileBytes g lc
      | none => List.replicate (e.coreStaging + 32 * 16384) 0))
  let state := match j.digestW, j.digestI with
    | some w, some d => [1] ++ List.replicate 15 0 ++ ShaSt.bytes w ++ ShaSt.bytes d
    | _, _ => List.replicate 432 0
  regions ++ cores ++ state

/-- A save record at job stroke B (R42): header with its digest over the record, then the payload. -/
def Chip.saveRecord (c : Chip) (j : Job) (i : Image) (B : Nat) : List Byte :=
  let pay := c.recordPayload j i
  let p := i.locate B
  let head := leBytes 4 0x52565358 ++ leBytes 4 0 ++ leBytes 8 (0xA0 + pay.length) ++ leBytes 32 i.id.toNat ++ leBytes 4 c.vault.apid.toNat
    ++ leBytes 1 (modeCode j.mode) ++ leBytes 1 ((p.map (·.phase)).getD 0) ++ leBytes 2 0 ++ leBytes 4 ((p.map (·.rep)).getD 0)
    ++ leBytes 4 ((p.map (·.piece)).getD 0) ++ leBytes 8 B ++ leBytes 8 j.body.genBase.toNat ++ leBytes 8 j.body.jobSeed.toNat ++ leBytes 8 0
  head ++ sha512 (head ++ List.replicate 64 0 ++ pay) ++ pay

/-- A record written at a data offset. -/
def Chip.writeData (c : Chip) (off : Nat) (bytes : List Byte) : Chip :=
  { c with mem := { c.mem with hbm := writeWindow c.mem.hbm 0 off bytes } }

/-- The record at a data offset, when it lies in the data space and its digest is right (R43). -/
def Chip.readRecord (c : Chip) (off : Nat) : Option (List Byte) :=
  if dataSpace < off + 0xA0 then none
  else
    let n := leNat (readWindow c.mem.hbm 0 (off + 8) 8)
    if n < 0xA0 || dataSpace < off + n then none
    else
      let r := readWindow c.mem.hbm 0 off n
      if sha512 (r.take 0x60 ++ List.replicate 64 0 ++ r.drop 0xA0) = slice r 0x60 64 then some r else none

/-- What a record says of its image and device (R43): the image, or the status of the first failure. -/
def Chip.recordImage (c : Chip) (r : Option (List Byte)) : Nat × Option (Image × List Byte) :=
  match r with
  | none => (statusDigest, none)
  | some r =>
    match c.image? (BitVec.ofNat 256 (leAt r 0x10 32)) with
    | none => (statusDigest, none)
    | some i => if leAt r 0x30 4 = c.vault.apid.toNat then (statusOk, some (i, r)) else (statusApid, none)

/-- A job taken up from its record (R43, R317): the job that was saved here, or a new one, waiting at the first piece after B. The record
holds no tick count: DESIGN CHOICE, on a device that does not know the job its nominal ticks start at 0 (log entry 79). -/
def resumed (old : Option Job) (id : JobId) (b : JobBody) (cls : Nat) (i : Image) (r : List Byte) : Job :=
  let B := leAt r 0x40 8 % 2 ^ 48
  let q := B / max 1 i.L
  let body := { b with imageId := i.id, genBase := BitVec.ofNat 64 (leAt r 0x48 8), jobSeed := BitVec.ofNat 64 (leAt r 0x50 8) }
  let base : Job := old.getD { id := id, body := body, order := 0, cls := cls, image := i.id, fleet := i.lamniMask != 0 }
  { base with
    body := body, cls := cls, image := i.id, fleet := i.lamniMask != 0, isResume := true, st := .pending, map := [], stroke := B, committed := q
    rerow := false, lastRerow := none, rerowCount := 0, modeReq := none, pause := none, fleetPause := none, epoch := 0, knownX := none, signals := []
    easySet := [], easy := false, pIn := i.streamAt false q, inRanges := [], aOut := i.streamAt true q, swaps := [], redo := [], weightDue := []
    badWords := [], lostWord := false, strides := [], holdNext := none, abortReq := none, saveAt := some b.saveArea.toNat, asleep := [], leadIns := []
    peerDist := [], leftAt := 0, easyFrom := 0 }

/-- JOB_RESUME (R43, R309): the record is verified, the packet checked as a submit; a tag that another job of the queue has is refused. -/
def Chip.resume (c : Chip) (h : Hdr) (b : JobBody) : Chip :=
  let id := Hdr.jobId h
  let q := h.queue.toNat
  if !bodyClean b then c.receipt h statusBadField
  else
    match c.recordImage (c.readRecord b.saveArea.toNat) with
    | (st, none) => c.receipt h st
    | (_, some (i, r)) =>
      let old := c.job? id
      if h.tag = 0 || (match old with | some k => decide (k.st ≠ .paused) | none => c.tagUsed id) then c.receipt h statusBadField
      else
        let st := c.submitChecks q b i
        if st ≠ statusOk then c.receipt h st
        else (c.enqueue (resumed old id b (c.queueClass q) i r)).receipt h statusOk
def execJobResume (h : Hdr) (body : JobBody) (s : State) : Host.Outcome State Fault Refusal :=
  act (fun c => c.treat h (jobLengths h) c.serves (fun c => c.resume h body)) s

/-! ## Pause, abort, pressure change (R309) -/

/-- The next piece boundary of a job. -/
def Chip.nextPiece (c : Chip) (j : Job) : Nat := (j.stroke / (c.lengths j).1 + 1) * (c.lengths j).1

/-- A pause asked for at a boundary: void from the end of the last piece on; the first of two stands (R41, R323). -/
def Chip.askPause (c : Chip) (j : Job) (boundary : Nat) (reason : BitVec 8) (area : BitVec 64) : Chip :=
  let total := match c.imageOf j with | some i => i.strokes | none => 0
  if j.pause.isSome || j.st = .draining || total ≤ boundary then c
  else c.upJob j.id (fun k => { k with pause := some { boundary := boundary, reason := reason, area := area } })

/-- A pause asked of a fleet job (R289, R309, R317): its area and reason are kept, and PAUSE is raised. -/
def Chip.askFleetPause (c : Chip) (j : Job) (reason : BitVec 8) (area : BitVec 64) : Chip :=
  if j.pause.isSome || j.fleetPause.isSome || j.st = .draining then c
  else
    let c := c.upJob j.id (fun k => { k with fleetPause := some { boundary := 0, reason := reason, area := area } })
    c.raiseSignal j 4 j.stroke 0xF 0

/-- JOB_PAUSE (R41, R309). -/
def Chip.pausePacket (c : Chip) (h : Hdr) (b : JobBody) : Chip :=
  match c.job? (Hdr.jobId h) with
  | some j =>
    match c.imageOf j with
    | some i =>
      let area := (b.saveArea.toNat, recordSize i)
      let busy := c.imageRanges ++ c.jobRanges (fun k => decide (k.id ≠ j.id)) ++ [windowRange j.body i]
      if !bodyClean b || !j.live then c.receipt h statusBadField
      else if dataSpace < area.1 + area.2 || busy.any (meets area) then c.receipt h statusLenRange
      else (if j.fleet then c.askFleetPause j 0 b.saveArea else c.askPause j (c.nextPiece j) 0 b.saveArea).receipt h statusOk
    | none => c.receipt h statusBadField
  | none => c.receipt h statusBadField
def execJobPause (h : Hdr) (body : JobBody) (s : State) : Host.Outcome State Fault Refusal :=
  act (fun c => c.treat h (jobLengths h) c.serves (fun c => c.pausePacket h body)) s

/-- JOB_ABORT (R309): a job that has not started, or is paused, ends at once; a running one commits no further piece and is released at the
next stroke boundary; a fleet job raises ABORT with status OK. -/
def Chip.abortPacket (c : Chip) (h : Hdr) (b : JobBody) : Chip :=
  match c.job? (Hdr.jobId h) with
  | some j =>
    if !bodyClean b then c.receipt h statusBadField
    else
      let c := c.receipt h statusOk
      if !j.live then c.abortJob j.id statusOk 2
      else if j.fleet then c.raiseSignal j 5 j.stroke 0xF statusOk
      else if j.abortReq.isSome then c
      else c.upJob j.id (fun k => { k with abortReq := some (statusOk, 2) })
  | none => c.receipt h statusBadField
def execJobAbort (h : Hdr) (body : JobBody) (s : State) : Host.Outcome State Fault Refusal :=
  act (fun c => c.treat h (jobLengths h) c.serves (fun c => c.abortPacket h body)) s

/-- PRESSURE_CHANGE_REQUEST (R309): kept until a piece boundary at least 2 whole strokes after the one that runs; a later request
replaces it. -/
def Chip.pressurePacket (c : Chip) (h : Hdr) (b : JobBody) : Chip :=
  let p := b.pressure.toNat
  match c.job? (Hdr.jobId h) with
  | some j =>
    match c.imageOf j with
    | some i =>
      if !bodyClean b || !j.live then c.receipt h statusBadField
      else if j.fleet then c.receipt h statusPressure
      else if 2 < p && p ≠ 255 then c.receipt h statusBadField
      else if p ≠ 255 && !c.allows i p then c.receipt h statusPressure
      else
        let from_ := (c.region j.lowRegion).stroke.toNat + 3
        (c.upJob j.id (fun k => { k with modeReq := some (codeMode p, from_) })).receipt h statusOk
    | none => c.receipt h statusBadField
  | none => c.receipt h statusBadField
def execPressureChangeRequest (h : Hdr) (body : JobBody) (s : State) : Host.Outcome State Fault Refusal :=
  act (fun c => c.treat h (jobLengths h) c.serves (fun c => c.pressurePacket h body)) s

end Sys2Proof.Machine
end

