-- ==== Sys2Proof/Machine/Admit.lean ====
section
/-! DEFINITION. Admission and start of jobs (R16, R17, R24, R36 to R38, R97, R154, R242, R246, R254, R277, R305, R306, R317, R332), pause and save (R41), deadlines (R317), pressure changes (R24, R309), the zeroing of released regions (R246). -/

namespace Sys2Proof.Machine

/-! ## Conditions -/

/-- Whether the input condition holds for every piece whose deadline falls before a job's first stroke (R317). -/
def Chip.eligible (c : Chip) (j : Job) (i : Image) : Bool :=
  decide (i.streamAt false (min i.pieces (j.committed + c.jobDeltaF j / max 1 i.L + 1)) ≤ j.pIn)

/-- The head of a queue: its first pending job. -/
def Chip.isHead (c : Chip) (j : Job) : Bool :=
  j.st == .pending && !(c.jobs.any (fun k => k.id.queue == j.id.queue && k.st == .pending && decide (k.order < j.order)))

/-- Whether a rail keeps a region from admission (R373): during a breach, and until 100 ms after one that lasted 10 ms. -/
def Chip.railBlocks (c : Chip) (g : Nat) : Bool :=
  c.saf.breaches.any (fun b => railFeeds b.rail g && (b.active || (b.aborted && decide (c.clk.aon < b.returned + msCycles 100))))

/-- Whether a region is free for a job (R17, R36, R38, R246): zeroed, and held by no other job but for a class-0 job beside one of another
class. -/
def Chip.regionFree (c : Chip) (j : Job) (g : Nat) : Bool :=
  let zero := !((c.region g).zeroing.getLsbD (if j.cls = 0 then 1 else 0))
  let others := c.jobs.filter (fun k => decide (k.id ≠ j.id) && k.inRegion g)
  zero && !c.railBlocks g && others.all (fun k => c.cfg.class0 && ((k.cls == 0) != (j.cls == 0)))

/-- Whether a placement would put a plot that an image names on an absent one (R154). -/
def Chip.meetsAbsent (c : Chip) (i : Image) (lr g : Nat) : Bool :=
  i.regions.any (fun e => e.region == lr && (List.range 128).any (fun lp => bitOf e.opticalMask lp && (c.plotSeat g lp).isNone))

/-- The placement of a job (R36): by its packet, or the lowest free regions in which its logical regions meet no absent plot. -/
def Chip.placement (c : Chip) (j : Job) (i : Image) : List (Nat × Nat) :=
  if c.floats j.id.queue.toNat i then
    i.regions.foldl (fun m e =>
      match (List.range 16).find? (fun g => !(c.region g).lost && c.regionFree j g && !(m.any (fun p => p.2 == g)) && !c.meetsAbsent i e.region g) with
      | some g => m ++ [(e.region, g)]
      | none => m) []
  else i.regions.filterMap (fun e => (j.body.regionMap[e.region]?).map (fun b => (e.region, b.toNat)))

/-- The jobs that hold a stack of a job's window, or are admitted to it. -/
def Chip.stackHolders (c : Chip) (j : Job) (i : Image) : List Job :=
  let mine := (List.range (windowStacks i.window)).map (j.body.windowBase.toNat / stackBytes + ·)
  c.jobs.filter (fun k => decide (k.id ≠ j.id) && k.needsStacks && (c.windowOf k).any (fun s => mine.contains s))

/-- Whether a job's stacks are free (R242): held by no other job, or by ones that hold every region of a class-0 job too. -/
def Chip.stacksFree (c : Chip) (j : Job) (i : Image) (m : List (Nat × Nat)) : Bool :=
  (c.stackHolders j i).all (fun k => j.cls == 0 && m.all (fun p => k.inRegion p.2))

/-- Whether a placement names a lost region or puts a named plot on an absent one: such a head is refused and does not wait (R154, R368). -/
def Chip.neverPlaced (c : Chip) (i : Image) (m : List (Nat × Nat)) : Bool :=
  m.any (fun p => (c.region p.2).lost || c.meetsAbsent i p.1 p.2)

/-- Whether a head is taken now (R305): eligible, and placed on free regions and stacks, or placed where it is refused. -/
def Chip.canStart (c : Chip) (j : Job) : Bool :=
  match c.imageOf j with
  | some i =>
    let m := c.placement j i
    c.isHead j && c.eligible j i && m.length == i.regions.length
      && (c.neverPlaced i m || (m.all (fun p => c.regionFree j p.2) && c.stacksFree j i m))
  | none => false

/-! ## Power and mode (R24) -/

/-- The mode granted to a job on a placement (R17, R24): beside another job that job's, in which the region
runs or comes to run at its start, else the one named or the fastest. -/
def Chip.grantMode (c : Chip) (j : Job) (i : Image) (m : List (Nat × Nat)) : Option Mode :=
  let p := j.body.pressure.toNat
  let beside := c.jobs.filter (fun k => decide (k.id ≠ j.id) && m.any (fun r => k.inRegion r.2))
  let modes := (beside.map (fun k => modeCode k.mode)).eraseDups
  let cands := match modes with
    | [] => [0, 1, 2]
    | [x] => [x]
    | _ => []
  (cands.find? (fun x => (p == 255 || p == x) && c.qualifies j i x)).bind codeMode

/-! ## The refusals of admission -/

/-- Whether a tier that an image's TILEs reach on a placement may be sensed in its format (R97). -/
def Chip.tiersReady (c : Chip) (j : Job) (i : Image) (m : List (Nat × Nat)) : Bool :=
  i.named.all (fun n =>
    match c.reach { j with map := m } n with
    | some T => [TierSt.ready, .held, .worn].contains (c.tier T).st && (c.tier T).int4 == n.int4
    | none => false)

/-- Whether an image names an impaired array on a placement (R369). -/
def Chip.meetsImpaired (c : Chip) (j : Job) (i : Image) (m : List (Nat × Nat)) : Bool :=
  i.named.any (fun n =>
    match ({ j with map := m }).phys n.region with
    | some g => (c.arr (c.cellsOf g n.core n.array)).impaired
    | none => false)

/-- The per-stack budget of R245. -/
def stackBudget (class0 : Bool) (express fast : Nat) : Nat :=
  if !class0 || express = 2 then [2624000, 3498666, 5248000].getD fast 0
  else if express = 1 then [328000, 437333, 656000].getD fast 0
  else [2296000, 3061332, 4592000].getD fast 0

/-- The bytes per stroke that a phase books on a logical stack. -/
def Image.booked (i : Image) (phase stack : Nat) : Nat :=
  i.memSlots.foldl (fun n s => if s.phase = phase && s.unit / 32 = stack then n + s.bytes else n) 0

/-- Whether a degraded stack cannot take a job (R254): out of service, its bookings above the reduced budget, its window past the reduced
capacity. -/
def Chip.stackShort (c : Chip) (j : Job) (i : Image) : Bool :=
  (List.range (windowStacks i.window)).any (fun k =>
    let s := c.stack (j.body.windowBase.toNat / stackBytes + k)
    let n := failedChannels s
    let budget := reducedBudget (stackBudget c.cfg.class0 i.express (modeCode (fastest i.pressureRange))) n
    s.state == 2 || (decide (0 < n) &&
      ((List.range i.phases.length).any (fun p => decide (budget < i.booked p k))
        || decide (32 * stackData s < min windowStack (i.window - k * windowStack)))))

/-- What refuses a job that could start (R308, in its order, then R97): a status and a sub-code. -/
def Chip.admitStatus (c : Chip) (j : Job) (i : Image) (m : List (Nat × Nat)) : Nat × Nat :=
  let areas := c.jobRanges (fun k => decide (k.id ≠ j.id)) ++ (j.areas ++ (if j.body.saveArea = 0 then [] else [j.body.saveArea.toNat])).map
    (fun a => (a, recordSize i))
  if j.fleet && (j.ports i.lamniMask).any (fun p => (c.port p.2).state == 5) then (statusDegraded, 0)
  else if j.fleet && !((j.ports i.lamniMask).all (fun p => (c.port p.2).state == 4)) then (statusBadField, 0)
  else if j.fleet && (List.range 16).any (fun n => (c.port n).state == 3) then (statusBadField, 0)
  else if j.fleet && !c.clk.fsyncOk then (statusDegraded, 0)
  else if (c.grantMode j i m).isNone then (statusPressure, 0)
  else if c.neverPlaced i m || c.meetsImpaired j i m then (statusDegraded, 0)
  else if c.stackShort j i then (statusDegraded, 0)
  else if (c.imageRanges ++ areas.filter (fun r => !((c.stackHolders j i).any (fun k =>
      match c.imageOf k with | some ki => windowRange k.body ki == r | none => false)))).any (meets (windowRange j.body i)) then (statusLenRange, 0)
  else if !c.tiersReady j i m then (statusCheck, 3)
  else (statusOk, 0)

/-! ## Admission -/

/-- A region comes to a mode: its odd seats park in Light (R151). -/
def Chip.setMode (c : Chip) (g : Nat) (m : Mode) : Chip :=
  let c := c.upRegion g (fun r => { r with mode := BitVec.ofNat 2 (modeCode m) })
  overAll (List.range 136) (fun c o =>
    let p := c.plot (g * 136 + o)
    if p.seat = 0xFF || p.parked = c.parks g p.seat.toNat then c
    else c.upPlot (g * 136 + o) (fun p => { p with parked := c.parks g p.seat.toNat })) c

/-- The first `n` numbers of 8 bytes of a record. -/
def longsOf : Nat → List Byte → List Nat
  | 0, _ => []
  | n + 1, b => leNat (b.take 8) :: longsOf n (b.drop 8)

/-- The output tiles of a logical core taken from a record (R42, R43): 16 arrays, two tiles, 2,048 entries of 48 bits. -/
def Chip.putTiles (c : Chip) (g lc : Nat) (b : List Byte) : Chip :=
  { c with accs := (longsOf 65536 b).zipIdx.foldl (fun m e =>
      put 0 m (c.periOf (c.cellsOf g lc (e.2 / 4096)) * 4096 + e.2 % 4096) (BitVec.ofNat 48 e.1)) c.accs }

/-- The staging and the output tiles of one logical core taken from a record. -/
def Chip.putCore (c : Chip) (g lc staging : Nat) (b : List Byte) : Chip :=
  { c with mem := { c.mem with cstg := writeBytes c.mem.cstg (coreByte (c.seat g lc) 0) (b.take staging) } }.putTiles g lc (b.drop staging)

/-- What a save record restores (R42, R43): the region staging of each logical region, then the core staging and the output tiles of each
logical core; what it holds of a region that no phase names goes nowhere. -/
def Chip.restore (c : Chip) (j : Job) (i : Image) (r : List Byte) : Chip :=
  let go := i.regions.foldl (fun (a : Chip × List Byte) e =>
    let rest := a.2.drop e.regionStaging
    match j.phys e.region with
    | some g => ({ a.1 with mem := { a.1.mem with rstg := writeBytes a.1.mem.rstg (c.regionAt j g 0) (a.2.take e.regionStaging) } }, rest)
    | none => (a.1, rest)) (c, r.drop 0xA0)
  (i.regions.foldl (fun (a : Chip × List Byte) e => (List.range 32).foldl (fun (a : Chip × List Byte) lc =>
    if !bitOf e.coreMask lc then a
    else
      let rest := a.2.drop (e.coreStaging + 32 * 16384)
      match j.phys e.region with
      | some g => (a.1.putCore g lc e.coreStaging a.2, rest)
      | none => (a.1, rest)) a) go).1

/-- The digests of a job as its admission forms them (R43, R321): from its record, or begun with its seeds and its extent. -/
def Chip.beginDigests (c : Chip) (j : Job) (i : Image) (r : Option (List Byte)) : Job :=
  match r with
  | some r =>
    let st := slice r (recordSize i - 432) 432
    if leAt st 0 1 = 1 then { j with digestW := some (readShaSt (st.drop 16)), digestI := some (readShaSt (st.drop 224)) }
    else { j with digestW := none, digestI := none }
  | none =>
    if j.body.flags.getLsbD 0 then
      let extent := readWindow c.mem.hbm j.body.windowBase.toNat j.body.extOff.toNat j.body.extBytes.toNat
      { j with digestI := some (ShaSt.start.add (leBytes 8 j.body.jobSeed.toNat ++ leBytes 8 j.body.genBase.toNat ++ extent)) }
    else j

/-- The regions of a placement that a job of an image holds: those of the masks of its phases (R40). -/
def Image.holding (i : Image) (m : List (Nat × Nat)) : List (Nat × Nat) := m.filter (fun p => i.phases.any (fun q => bitOf q.mask p.1))

/-- A job admitted on a placement in a mode: sleeping regions wake, and a record is restored; a floating placement goes on record (R2). -/
def Chip.place (c : Chip) (j : Job) (i : Image) (m : List (Nat × Nat)) (mode : Mode) (r : Option (List Byte)) : Chip :=
  let m := i.holding m
  let c := m.foldl (fun c p =>
    if (c.region p.2).power = 0 then ((c.wakeRegion p.2 none).upRegion p.2 (fun x => { x with halved := !j.fleet && c.saf.easy })).setMode p.2 mode
    else c) c
  let c := c.when (c.floats j.id.queue.toNat i) (fun c => c.jobRecord { j with map := m })
  let c := c.upJob j.id (fun j => { j with map := m, mode := mode, st := .admitted, origin := c.cfg.member, distance := 0 })
  let c := overAll (if j.fleet then c.jobPorts j else []) (fun c p => c.upPort p (fun q => { q with distance := 0 })) c
  match c.job? j.id with
  | some j =>
    let c := match r with | some r => c.restore j i r | none => c
    c.upJob j.id (fun k => c.beginDigests k i r)
  | none => c

/-- Whether the device admits jobs now (R326, R327, R375, R393). -/
def Chip.admits (c : Chip) : Bool :=
  c.serves && c.clk.masterLock && !c.saf.thermalStop && (c.acc.tap != .extest && c.acc.tap != .clamp && c.acc.tap != .highz)

/-- Whether a fleet job comes too late: fewer than 64 fleet strokes before S0 (R277). -/
def Chip.tooLate (c : Chip) (j : Job) : Bool := j.fleet && decide ((startStroke j.body) < c.clk.fleetStroke.toNat + 64)

/-- A pending job considered at a stroke boundary (R305): it waits, is admitted, or is refused by its JOB_END. -/
def Chip.consider (c : Chip) (j : Job) : Chip :=
  match c.imageOf j with
  | none => c.abortJob j.id statusDigest 0
  | some i =>
    if c.tooLate j then c.abortJob j.id statusBadField 0
    else if !c.canStart j then c
    else
      let m := c.placement j i
      let st := c.admitStatus j i m
      let flags := if j.started then 0 else 16
      if st.1 ≠ statusOk then c.endJob j st.1 st.2 flags
      else match c.grantMode j i m with
        | none => c
        | some mode =>
          if j.isResume then
            match c.recordImage (c.readRecord ((j.saveAt).getD 0)) with
            | (s, none) => c.endJob j s 0 flags
            | (_, some (_, r)) => c.place j i m mode (some r)
          else c.place j i m mode none

/-- JOB_ADMIT (R305): a head of class 1, 2 or 3; heads of a lower class, or accepted earlier in its class, go first if they can start. -/
def execJobAdmit (job : JobId) (s : State) : Host.Outcome State Fault Refusal :=
  act (fun c =>
    match c.job? job with
    | some j =>
      let first := c.jobs.any (fun k => decide (0 < k.cls) && decide (k.cls < j.cls ∨ (k.cls = j.cls ∧ k.order < j.order)) && c.canStart k)
      if c.admits && j.st = .pending && 0 < j.cls && !first then c.consider j else c
    | none => c) s

/-- CLASS0_ADMIT (R38, R306): at the head of its queue, eligible, the express cores of its regions free. -/
def execClass0Admit (job : JobId) (s : State) : Host.Outcome State Fault Refusal :=
  act (fun c =>
    match c.job? job with
    | some j => if c.admits && j.st = .pending && j.cls = 0 then c.consider j else c
    | none => c) s

/-- The first stroke of an admitted job (R17, R36, R43, R321, R332): its regions run in its mode, its first weight entry is formed, the host
learns of the start or of the resumption, which goes on record (R2). A region in which another job runs is in that job's mode already. -/
def Chip.startJob (c : Chip) (j : Job) (i : Image) : Chip :=
  let runs (g : Nat) : Bool := c.jobs.any (fun k => decide (k.id ≠ j.id) && k.live && k.inRegion g)
  let c := j.map.foldl (fun c p =>
    let c := if runs p.2 then c else
      (c.setMode p.2 j.mode).upRegion p.2 (fun r => { r with halved := if j.fleet then !j.easySet.isEmpty else c.saf.easy })
    c.upRegion p.2 (fun r => { r with power := 2, wakeAt := none })) c
  let c := c.when j.isResume (fun c => c.jobRecord j)
  let away := if j.pauses ≠ 0 && j.isResume then (c.clk.aon - j.pausedAt) * ticksPerUs j.mode / 25 else 0
  let c := c.upJob j.id (fun j => { j with
    st := .running, nominal := j.nominal + away, saveAt := none, asleep := [(j.stroke, [])]
    digestW := if j.digestI.isSome && !j.isResume then some (ShaSt.start.add (c.weightEntry j i 0)) else j.digestW })
  match c.job? j.id with
  | some j =>
    let c := c.startPiece j
    let c := overAll (j.map.map (·.2)) Chip.feedForward c
    c.jobState j (if j.isResume then 3 else 1) 0 j.stroke
  | none => c

/-- JOB_START (R332). A fleet job starts by FLEET_JOB_START. -/
def execJobStart (job : JobId) (s : State) : Host.Outcome State Fault Refusal :=
  act (fun c =>
    match c.job? job with
    | some j =>
      match c.imageOf j with
      | some i => if j.st = .admitted && !j.fleet then c.startJob j i else c
      | none => c
    | none => c) s

/-! ## Pause -/

/-- A record is written, the pause logged and reported and the regions given up (R2, R41 steps 3 and 4). -/
def Chip.saveJob (c : Chip) (j : Job) (i : Image) (p : PauseReq) : Chip :=
  let c := c.writeData p.area.toNat (c.saveRecord j i p.boundary)
  let c := (c.jobRecord j).jobState j 2 p.reason.toNat p.boundary
  let c := c.release j
  c.upJob j.id (fun k => { k with
    st := .paused, pause := none, pauses := satAdd k.pauses 1, stroke := p.boundary, map := [], saveAt := some p.area.toNat, pausedAt := c.clk.aon
    asleep := [], modeReq := none })

/-- PAUSE_DRAIN_END (R41): every piece before B has committed. -/
def execPauseDrainEnd (job : JobId) (s : State) : Host.Outcome State Fault Refusal :=
  act (fun c =>
    match c.job? job with
    | some j =>
      match c.imageOf j, j.pause with
      | some i, some p =>
        if j.st = .draining && !j.rerow && j.abortReq.isNone && p.boundary ≤ j.committed * max 1 i.L then c.saveJob j i p else c
      | _, _ => c
    | none => c) s

/-- DEADLINE_CHECK (R317): at the boundary mL − Δf − 1 the input and the output condition of piece m; a failure pauses the job at mL, or
raises PAUSE in a fleet job. When both fail the reason is open. -/
def Chip.deadline (c : Chip) (j : Job) (i : Image) : Chip :=
  let at_ := j.stroke + c.jobDeltaF j + 1
  let L := max 1 i.L
  let m := at_ / L
  let badIn := decide (j.pIn < i.streamAt false (m + 1))
  let badOut := decide (j.aOut + j.body.outBytes.toNat < i.streamAt true (m + 1))
  if at_ % L ≠ 0 || i.pieces ≤ m || j.st ≠ .running || j.rerow || j.pause.isSome || j.fleetPause.isSome || !(badIn || badOut) then c
  else
    let (n, c) := if badIn && badOut then c.draw else (0, c)
    let reason := if badIn && badOut then 1 + Config.figure n % 2 else if badIn then 1 else 2
    let c := { c with host := { c.host with
      pausesIn := satIf (reason == 1) c.host.pausesIn, pausesOut := satIf (reason != 1) c.host.pausesOut } }
    if j.fleet then c.askFleetPause j (BitVec.ofNat 8 reason) j.body.saveArea
    else c.askPause j at_ (BitVec.ofNat 8 reason) j.body.saveArea
def execDeadlineCheck (job : JobId) (s : State) : Host.Outcome State Fault Refusal :=
  act (fun c =>
    match c.job? job with
    | some j =>
      match c.imageOf j with
      | some i => c.deadline j i
      | none => c
    | none => c) s

/-! ## Pressure changes -/

/-- A granted mode takes effect in every region of the jobs concerned (R16, R17, R150); a laser that prepares locks its phase again when the
bias changes to or from Light (R182). -/
def Chip.changeMode (c : Chip) (j : Job) (m : Mode) : Chip :=
  let beside := c.sharers j
  let gs := ((j :: beside).flatMap (fun k => k.map.map (·.2))).eraseDups
  let flips (g : Nat) : Bool := ((c.region g).mode == 2) != (m == .light)
  let c := overAll gs (fun c g =>
    let relock := flips g
    let c := c.setMode g m
    let c := if relock then overAll (List.range 10) (fun c n =>
        if (c.laser (g * 10 + n)).state = 3 then c.upLaser (g * 10 + n) (fun l => { l with ready := false }) else c) c else c
    c.feedForward g) c
  overAll ((j :: beside).map (·.id)) (fun c id => c.upJob id (fun k => { k with mode := m })) c

/-- PRESSURE_CHANGE_APPLY (R24 rule 3, R26, R44 row 5): at a piece boundary the request is granted or refused, logged and
reported. The spec gives no code for the mode requested by a refused request for the fastest mode: DESIGN CHOICE, event 0x0113 carries 3
(log entry 32). -/
def Chip.pressureApply (c : Chip) (j : Job) (i : Image) : Chip :=
  match c.changeDue j i with
  | none => c
  | some grant =>
    let want := j.modeReq.bind (·.1)
    let c := c.upJob j.id (fun k => { k with modeReq := none })
    match grant with
    | some m =>
      let c := if m = j.mode then c else (c.changeMode j m).jobRecord j
      match c.job? j.id with
      | some k => c.jobState k 4 0 k.stroke
      | none => c
    | none =>
      let c := c.scheduleEvent j 0 0x113 ((match want with | some m => modeCode m | none => 3) + 4 * modeCode j.mode)
      c.jobState j 5 0 j.stroke
def execPressureChangeApply (job : JobId) (s : State) : Host.Outcome State Fault Refusal :=
  act (fun c =>
    match c.job? job with
    | some j =>
      match c.imageOf j with
      | some i => c.pressureApply j i
      | none => c
    | none => c) s

/-! ## Zeroing -/

/-- The core staging of a region's physical cores, of the express cores or of the others (R246). -/
def Chip.zeroCores (c : Chip) (g : Nat) (express other : Bool) : Chip :=
  let isExpress (k : Nat) : Bool := match c.seated k with
    | some lc => decide (32 ≤ lc + c.cfg.expressCores.toNat)
    | none => false
  let hit (k : Nat) : Bool := if isExpress k then express else other
  { c with mem := { c.mem with cstg := c.mem.cstg.filter (fun e =>
      let k := e.1 / 2 ^ 20
      !(decide (k / 34 = g) && hit k)) } }

/-- REGION_ZERO_DONE (R246, R332): the staging given up is all zeros; a region that no job holds sleeps, or runs idle in Light where class-0
service is enabled. -/
def Chip.zeroDone (c : Chip) (g : Nat) : Chip :=
  let z := (c.region g).zeroing
  if z = 0 then c
  else
    let split := regionByte g 0xE0000
    let m := c.mem.rstg
    let m := if z.getLsbD 0 then zeroBytes m (regionByte g 0) (2 ^ 24 - 2 ^ 21) else m
    let m := if z.getLsbD 1 then zeroBytes m split (2 ^ 21) else m
    let c := { c with mem := { c.mem with rstg := m } }
    let c := if z = 3 then c.zeroCores g true true else c.zeroCores g (z.getLsbD 1) (z.getLsbD 0)
    let c := c.upRegion g (fun r => { r with zeroing := 0 })
    if c.jobs.any (fun j => j.inRegion g) then c
    else if c.cfg.class0 && !(c.region g).lost then (c.setMode g .light).upRegion g (fun r => { r with power := 3 })
    else (c.sleepRegion g).feedForward g
def execRegionZeroDone (g : Fin 16) (s : State) : Host.Outcome State Fault Refusal := act (fun c => c.zeroDone g.val) s

end Sys2Proof.Machine
end

