-- ==== Sys2Proof/Machine/Image.lean ====
section
/-! DEFINITION. Schedule images as bytes (R45, R50 to R81): the header, the sections, the instruction words, and steps 1 and 2 of the load verification (R46). -/

namespace Sys2Proof.Machine

/-- A refused load (R49): status, CHECK_FAIL sub-code, the section of the first failing entry, 0 for the header, and the entry. -/
structure LoadFail where
  status : Nat
  sub : Nat := 0
  sec : Nat := 0
  entry : Nat := 0
deriving DecidableEq, Repr

/-- A LEN_RANGE failure and a BAD_FIELD failure (R322). -/
def lenFail (sec entry : Nat) : LoadFail := { status := 0x01, sec := sec, entry := entry }
def fieldFail (sec entry : Nat) : LoadFail := { status := 0x02, sec := sec, entry := entry }

/-- The first failure of a list, in order. -/
def firstFail {α : Type} (l : List α) (f : α → Option LoadFail) : Option LoadFail := l.findSome? f

/-- A failure when a condition holds. -/
def failIf (b : Bool) (f : LoadFail) : Option LoadFail := if b then some f else none

/-! ## Instruction words -/

/-- A field of a word: bits `[hi:lo]` (R50). -/
def wordOp (w : Nat) : Nat := bitsOf w 31 24

/-- The bits, from bit 32 up, that an opcode uses, as (hi, lo) pairs (R57, R61, R65, R66, R69, R70, R72, R74, R78, R79); none: not listed. -/
def wordFields (op : Nat) : Option (List (Nat × Nat)) :=
  let stg : List (Nat × Nat) := [(107, 88), (87, 68)]
  let u := op / 32
  let o := op % 32
  if u = 0 then
    if o = 0 || o = 2 then some []
    else if o = 1 then some [(63, 32)]
    else if o = 3 then some [(37, 32)]
    else if o = 4 || o = 5 then some [(35, 32)] else none
  else if u = 1 then
    if o = 0 then some [(79, 64), (63, 56), (53, 48), (47, 47), (46, 46), (45, 44), (43, 43), (42, 42), (41, 36), (35, 32)]
    else if o = 1 then some [(55, 40), (36, 36), (35, 32)] else none
  else if u = 2 then
    if o = 0 then some [(126, 107), (106, 87), (86, 67), (65, 65), (64, 63), (62, 59), (58, 58), (57, 57), (56, 52), (51, 47), (46, 39), (38, 32)]
    else if o = 1 then some [(63, 63), (62, 47), (46, 39), (38, 32)] else none
  else if u = 3 then
    if o ≤ 1 then some ([(121, 120), (119, 108), (67, 32)] ++ stg)
    else if o = 2 then some ([(121, 120), (51, 32)] ++ stg)
    else if o ≤ 5 then some ([(122, 122), (121, 120), (51, 32)] ++ stg)
    else if o = 6 then some [(79, 64), (63, 32)] else none
  else if u = 4 then
    if o ≤ 0x14 then some [(117, 32)] else if o = 0x15 then some [(95, 80), (79, 32)] else none
  else if u = 5 then
    if o ≤ 1 then some [(118, 118), (101, 82), (81, 81), (80, 76), (75, 72), (67, 52), (47, 32)]
    else if o = 2 then some [(119, 118), (117, 106), (105, 102), (101, 82), (51, 32)]
    else if o = 3 then some [(119, 118), (117, 106), (105, 102), (101, 82), (71, 52)] else none
  else none

/-- The bits of a word that no field of its opcode uses are 0. -/
def wordClean (w : Nat) (fields : List (Nat × Nat)) : Bool :=
  (fields.foldl (fun n f => n - field (bitsOf w f.1 f.2) f.2) (w - w % 2 ^ 32)) == 0

/-- A VEC source field (R74): none for the reserved kind 3. -/
def wordSrc (v : Nat) : Option Src :=
  match v / 2 ^ 16 with
  | 0 => some (.staging (BitVec.ofNat 16 v))
  | 1 => some (.acc (Fin.ofNat 16 v) (bitOf v 4))
  | 2 => some .none
  | _ => none

/-- The bits beside array and tile of an accumulator source are 0 (R74); DESIGN CHOICE, those of an absent source are not looked at (log entry
130). -/
def srcClean (v : Nat) : Bool := v / 2 ^ 16 != 1 || v / 32 % 2 ^ 11 == 0

/-- The format of a code (R74). -/
def codeFmt (n : Nat) : Option Fmt :=
  [Fmt.fp32, .bf16, .e4m3, .e5m2, .int8, .uint8, .int4, .int16, .int48, .record][n]?

/-- The operands of a VEC word (R74); none when a reserved code stands in it. -/
def wordVec (w : Nat) : Option VecOp :=
  match wordSrc (bitsOf w 49 32), wordSrc (bitsOf w 67 50), codeFmt (bitsOf w 103 100), codeFmt (bitsOf w 107 104) with
  | some a, some b, some i, some o =>
    some { srcA := a, srcB := b, dst := BitVec.ofNat 16 (bitsOf w 83 68), length := BitVec.ofNat 16 (bitsOf w 99 84), fmtIn := i, fmtOut := o
           mode := BitVec.ofNat 8 (bitsOf w 115 108), release := bitOf w 116, sr := bitOf w 117 }
  | _, _, _, _ => none

/-- The operands of an ARR.TILE word (R61); none for the reserved input format. -/
def wordTile (w : Nat) : Option TileOp :=
  ([InFmt.int8, .int4, .uint8][bitsOf w 45 44]?).map (fun f =>
    { array := Fin.ofNat 16 (bitsOf w 35 32), tier := Fin.ofNat 64 (bitsOf w 41 36), tile := bitOf w 42, accumulate := bitOf w 43, inFmt := f
      wInt4 := bitOf w 46, readPort := bitOf w 47, rows := bitsOf w 53 48, zeroPoint := BitVec.ofNat 8 (bitsOf w 63 56)
      src := BitVec.ofNat 16 (bitsOf w 79 64) })

/-- The operands of an OPT.TILE word (R66). -/
def wordOpt (w : Nat) : OptOp :=
  { first := Fin.ofNat 128 (bitsOf w 38 32), count := bitsOf w 46 39, rows := bitsOf w 51 47, kblk := bitsOf w 56 52, aInt4 := bitOf w 57
    bInt4 := bitOf w 58, rdPorts := BitVec.ofNat 4 (bitsOf w 62 59), wrPorts := BitVec.ofNat 2 (bitsOf w 64 63)
    aAddr := BitVec.ofNat 20 (bitsOf w 86 67), bAddr := BitVec.ofNat 20 (bitsOf w 106 87), dst := BitVec.ofNat 20 (bitsOf w 126 107)
    even := bitOf w 65 }

/-- The operands of H2R and R2H, of the copies, of CORE and REGION, of LSEND and LRECV (R70, R79). -/
def wordHbm (w : Nat) : HbmMove :=
  { rPort := Fin.ofNat 4 (bitsOf w 121 120), slotRef := BitVec.ofNat 12 (bitsOf w 119 108), length := BitVec.ofNat 20 (bitsOf w 107 88)
    addr := BitVec.ofNat 20 (bitsOf w 87 68), hbm := BitVec.ofNat 36 (bitsOf w 67 32) }
def wordCopy (w : Nat) : CopyMove :=
  { cPort := bitOf w 122, rPort := Fin.ofNat 4 (bitsOf w 121 120), length := BitVec.ofNat 20 (bitsOf w 107 88)
    addrA := BitVec.ofNat 20 (bitsOf w 87 68), addrB := BitVec.ofNat 20 (bitsOf w 51 32) }
def wordXch (w : Nat) : XchOp :=
  { port := bitOf w 118, length := BitVec.ofNat 20 (bitsOf w 101 82), add := bitOf w 81, dstCore := Fin.ofNat 32 (bitsOf w 80 76)
    dstRegion := Fin.ofNat 16 (bitsOf w 75 72), dst := BitVec.ofNat 16 (bitsOf w 67 52), src := BitVec.ofNat 16 (bitsOf w 47 32) }
def wordLink (w : Nat) (send : Bool) : LinkOp :=
  { port := Fin.ofNat 4 (bitsOf w 119 118), slotRef := BitVec.ofNat 12 (bitsOf w 117 106), lport := Fin.ofNat 16 (bitsOf w 105 102)
    length := BitVec.ofNat 20 (bitsOf w 101 82), addr := BitVec.ofNat 20 (if send then bitsOf w 51 32 else bitsOf w 71 52) }

/-- The instruction of a word, its fields as received; none for an opcode that is not listed or a reserved code. -/
def wordInstr (w : Nat) : Option StreamOp :=
  match wordOp w / 32, wordOp w % 32 with
  | 0, 0 => some .nop
  | 0, 1 => some (.piece (bitsOf w 63 32))
  | 0, 2 => some .catch
  | 0, 3 => some (.change (bitsOf w 37 32))
  | 0, 4 => some (.wake (bitsOf w 35 32))
  | 0, 5 => some (.sleep (bitsOf w 35 32))
  | 1, 0 => (wordTile w).map .tile
  | 1, 1 => some (.drain { array := Fin.ofNat 16 (bitsOf w 35 32), tile := bitOf w 36, dst := BitVec.ofNat 16 (bitsOf w 55 40) })
  | 2, 0 => some (.opt (wordOpt w))
  | 2, 1 => some (.dummy (bitsOf w 38 32) (bitsOf w 46 39) (bitsOf w 62 47) (bitOf w 63))
  | 3, 0 => some (.h2r (wordHbm w))
  | 3, 1 => some (.r2h (wordHbm w))
  | 3, 2 => some (.r2c (wordCopy w))
  | 3, 3 => some (.c2r (wordCopy w))
  | 3, 4 => some (.c2c (wordCopy w))
  | 3, 5 => some (.r2r (wordCopy w))
  | 3, 6 => some (.stride (bitsOf w 63 32) (bitsOf w 79 64))
  | 4, 0x15 => some (.seed (BitVec.ofNat 48 (bitsOf w 79 32)) (BitVec.ofNat 16 (bitsOf w 95 80)))
  | 4, o => if o ≤ 0x14 then (wordVec w).map (.vec o) else none
  | 5, 0 => some (.xchCore (wordXch w))
  | 5, 1 => some (.xchRegion (wordXch w))
  | 5, 2 => some (.lsend (wordLink w true))
  | 5, 3 => some (.lrecv (wordLink w false))
  | _, _ => none

/-- Whether an instruction may stand in a core stream, or in a sequencer stream (R51). -/
def StreamOp.placed (core : Bool) : StreamOp → Bool
  | .nop | .piece _ | .change _ => true
  | .tile _ | .drain _ | .r2c _ | .c2r _ | .c2c _ | .vec .. | .seed .. | .xchCore _ | .xchRegion _ => core
  | _ => !core

/-- Whether the field values of an instruction are in their ranges (R61, R66, R69, R70, R74, R75, R77, R79, R222). -/
def StreamOp.legal : StreamOp → Bool
  | .tile op => op.legal
  | .opt op => op.legal
  | .dummy first count _ even => dummyLegal (Fin.ofNat 128 first) count even
  | .h2r op => op.legal false
  | .r2h op => op.legal true
  | .r2c op => op.legal 2
  | .c2r op => op.legal 3
  | .c2c op => op.legal 4
  | .r2r op => op.legal 5
  | .vec o op => op.legal o
  | .lsend op => op.legal true
  | .lrecv op => op.legal false
  | _ => true

/-- The word checks of R50, R51, R70, R74, R75, R77, R79 and R222: the instruction of a word that passes. -/
def decodeInstr (core : Bool) (w : Nat) : Option IWord :=
  match wordFields (wordOp w), wordInstr w with
  | some fs, some op =>
    if wordClean w fs && op.placed core && op.legal
        && (match op with | .vec _ _ => srcClean (bitsOf w 49 32) && srcClean (bitsOf w 67 50) | _ => true) then
      some { delta := w % 2 ^ 24, op := op } else none
  | _, _ => none

/-! ## Staging ranges -/

/-- A staging range of an instruction: a core's staging or the region's, the logical region, first byte, bytes. -/
structure StgRange where
  core : Bool
  region : Nat
  start : Nat
  bytes : Nat
deriving DecidableEq, Repr

/-- The bytes that a VEC instruction writes (R76, R200, R231). -/
def vecOutBytes (op : VecOp) (o : Nat) : Nat :=
  let n := op.length.toNat
  if o = 0x06 then fmtSpan op.fmtOut n + 9 * ceilDiv n 32
  else if o = 0x0C || o = 0x14 then fmtSpan op.fmtOut (n / op.row)
  else fmtSpan op.fmtOut n

/-- The bytes of its source b: elements, scale sections, or gains and the parameter block (R200, R222, R233). -/
def vecBBytes (op : VecOp) (o : Nat) : Nat :=
  let n := op.length.toNat
  if o = 0x07 || o = 0x08 || o = 0x09 then 9 * ceilDiv n 32
  else if o = 0x13 then fmtSpan op.fmtIn op.row + 16
  else fmtSpan op.fmtIn n

/-- The staging ranges that an instruction of logical region `lr` names (R62, R65, R67, R70, R76; VEC sources and XCH ranges are held to
the same bounds, log entry 36). A core address has 16 bits. -/
def StreamOp.ranges (lr : Nat) : StreamOp → List StgRange
  | .tile op => if op.rows = 0 then [] else [⟨true, lr, 16 * op.src.toNat, op.rows * (if op.inFmt = .int4 then 128 else 256)⟩]
  | .drain op => [⟨true, lr, 16 * op.dst.toNat, 16384⟩]
  | .opt op =>
    if op.count = 0 || op.rows = 0 || op.kblk = 0 then []
    else [⟨false, lr, 16 * op.aAddr.toNat, optABytes op⟩, ⟨false, lr, 16 * op.bAddr.toNat, optBBytes op⟩, ⟨false, lr, 16 * op.dst.toNat, optResBytes op⟩]
  | .h2r op | .r2h op => [⟨false, lr, 16 * op.addr.toNat, hbmBytes op⟩]
  | .r2c op | .c2r op => [⟨false, lr, 16 * op.addrA.toNat, copyBytes op⟩, ⟨true, lr, 16 * (op.addrB.toNat % 2 ^ 16), copyBytes op⟩]
  | .c2c op => [⟨true, lr, 16 * (op.addrA.toNat % 2 ^ 16), copyBytes op⟩, ⟨true, lr, 16 * (op.addrB.toNat % 2 ^ 16), copyBytes op⟩]
  | .r2r op => [⟨false, lr, 16 * op.addrA.toNat, copyBytes op⟩, ⟨false, lr, 16 * op.addrB.toNat, copyBytes op⟩]
  | .vec o op =>
    if op.length = 0 then []
    else
      [⟨true, lr, 16 * op.dst.toNat, vecOutBytes op o⟩]
        ++ (match op.srcA with | .staging a => [⟨true, lr, 16 * a.toNat, fmtSpan op.fmtIn op.length.toNat⟩] | _ => [])
        ++ (match op.srcB with | .staging b => [⟨true, lr, 16 * b.toNat, vecBBytes op o⟩] | _ => [])
  | .xchCore op | .xchRegion op =>
    [⟨true, lr, 16 * op.src.toNat, 16 * op.length.toNat⟩, ⟨true, op.dstRegion.val, 16 * op.dst.toNat, 16 * op.length.toNat⟩]
  | .lsend op | .lrecv op => [⟨false, lr, 16 * op.addr.toNat, 16 * op.length.toNat⟩]
  | _ => []

/-- The plot run of an instruction passes plot 127 (R67, R69). -/
def StreamOp.runPasses : StreamOp → Bool
  | .opt op => decide (0 < op.count) && decide (127 < op.first.val + (op.count - 1) * (if op.even then 2 else 1))
  | .dummy first count _ even => decide (0 < count) && decide (127 < first + (count - 1) * (if even then 2 else 1))
  | _ => false

/-! ## The bytes of an image -/

/-- A section as the directory gives it (R45). -/
structure Section45 where
  type : Nat
  count : Nat
  off : Nat
  len : Nat
deriving DecidableEq, Repr

/-- The directory entries. -/
def imageDir (b : List Byte) : List Section45 :=
  (List.range 16).map (fun n =>
    let e := 0x80 + 24 * n
    { type := leAt b e 2, count := leAt b (e + 4) 4, off := leAt b (e + 8) 8, len := leAt b (e + 16) 8 })

/-- The bytes of section `n`, by its place in the directory. -/
def sectionAt (b : List Byte) (n : Nat) : Section45 × List Byte :=
  let s := ((imageDir b)[n - 1]?).getD { type := 0, count := 0, off := 0, len := 0 }
  (s, slice b s.off s.len)

/-- The entry sizes of the sections of fixed-size entries: the map, the phases, the slot tables; a stream descriptor; 0 a profile. -/
def entrySize (n : Nat) : Nat := if n = 1 then 32 else if n = 9 || n = 10 then 0 else 16

/-- The bytes of a profile value per stroke. -/
def profileWidth (n : Nat) : Nat := if n = 9 then 1 else 6

/-- The bytes of a profile record at a place of its section. -/
def recordBytes (n : Nat) (s : List Byte) (at_ : Nat) : Nat := 16 + 16 * ceilDiv (leAt s (at_ + 4) 4 * profileWidth n) 16

/-- Where the first `k` profile records of a section begin. -/
def recordStarts (n : Nat) (s : List Byte) : Nat → Nat → List Nat
  | 0, _ => []
  | k + 1, at_ => at_ :: recordStarts n s k (at_ + recordBytes n s at_)

/-- The extents of a profile section: the index of the first record that passes its end. -/
def recordPasses (n : Nat) (s : List Byte) (len : Nat) : Nat → Nat → Nat → Option Nat
  | 0, _, _ => none
  | k + 1, j, at_ =>
    if len < at_ + 16 || len < at_ + recordBytes n s at_ then some j else recordPasses n s len k (j + 1) (at_ + recordBytes n s at_)

/-- A stream descriptor as received (R45). -/
structure Desc where
  phase : Nat
  region : Nat
  core : Nat
  res : Nat
  count : Nat
  body : Nat
deriving DecidableEq, Repr

/-- The descriptors of a stream section. -/
def descsOf (s : List Byte) (count : Nat) : List Desc :=
  (List.range count).map (fun k =>
    let e := 16 * k
    { phase := leAt s e 1, region := leAt s (e + 1) 1, core := leAt s (e + 2) 1, res := leAt s (e + 3) 1, count := leAt s (e + 4) 4
      body := leAt s (e + 8) 8 })

/-- The words of a descriptor's stream, as numbers. -/
def wordsOf (s : List Byte) (d : Desc) : List Nat :=
  let rec go : Nat → List Byte → List Nat
    | 0, _ => []
    | n + 1, bs => leNat (bs.take 16) :: go n (bs.drop 16)
  go d.count (s.drop d.body)

/-- The resource map entries as received (R45). -/
def mapOf (b : List Byte) : List ResEntry :=
  let (d, s) := sectionAt b 1
  (List.range d.count).map (fun k =>
    let e := 32 * k
    { region := leAt s e 1, optical := bitOf (leAt s (e + 1) 1) 0, coreMask := leAt s (e + 4) 4, opticalMask := leAt s (e + 8) 16
      coreStaging := leAt s (e + 24) 4, regionStaging := leAt s (e + 28) 4 })

/-- The phase list entries as received (R45). -/
def phasesOf (b : List Byte) : List PhaseEntry :=
  let (d, s) := sectionAt b 2
  (List.range d.count).map (fun k =>
    let e := 16 * k
    { changeover := bitOf (leAt s (e + 1) 1) 0, mask := leAt s (e + 2) 2, bodyPieces := leAt s (e + 4) 4, reps := leAt s (e + 8) 4 })

/-! ## Step 1: extents and ranges -/

/-- Whether a staging range passes what the resource map declares; a region outside the map has no bound here (rule 0x0D). -/
def rangePasses (m : List ResEntry) (r : StgRange) : Bool :=
  match m.find? (fun e => e.region == r.region) with
  | some e => decide (0 < r.bytes) && decide ((if r.core then e.coreStaging else e.regionStaging) < r.start + r.bytes)
  | none => false

/-- The largest stride offset of a move over the repetitions, in 16-byte units (R72). -/
def strideTop (reps : Nat) (t : Nat × Nat) : Nat := ((if t.2 = 0 then reps else min reps t.2) - 1) * t.1

/-- The words of a stream that pass a range of step 1, by their index in the section (R46): staging ranges, plot runs, window ranges with
every repetition's offset (R71). -/
def wordPasses (m : List ResEntry) (window reps : Nat) (lr : Nat) : List Nat → Nat → Nat × Nat → List Nat
  | [], _, _ => []
  | w :: ws, k, t =>
    match wordInstr w with
    | none => wordPasses m window reps lr ws (k + 1) t
    | some (.stride a b) => wordPasses m window reps lr ws (k + 1) (a, b)
    | some op =>
      let hbm := match op with
        | .h2r o | .r2h o => decide (o.length ≠ 0) && decide (window < 16 * (o.hbm.toNat + strideTop reps t) + hbmBytes o)
        | _ => false
      let rest := wordPasses m window reps lr ws (k + 1) t
      if op.runPasses || hbm || (op.ranges lr).any (rangePasses m) then k :: rest else rest

/-- The least of a list of numbers. -/
def leastOf : List Nat → Option Nat
  | [] => none
  | x :: xs => some (xs.foldl min x)

/-- Step 1 of one section (R45, R46). -/
def extentFail (b : List Byte) (n : Nat) : Option LoadFail :=
  let (d, s) := sectionAt b n
  let size := entrySize n
  if n = 9 || n = 10 then (recordPasses n s d.len d.count 0 0).map (lenFail n)
  else
    let held := min d.count (d.len / size)
    let slots : Option LoadFail :=
      if 5 ≤ n then firstFail (List.range held) (fun k => failIf (decide (4096 < leAt s (16 * k + 2) 2 + leAt s (16 * k + 4) 2)) (lenFail n k)) else none
    let descs := if n = 3 || n = 4 then descsOf s held else []
    slots
      <|> firstFail (List.range descs.length) (fun k =>
          match descs[k]? with
          | some e => failIf (decide (d.len < e.body + 16 * e.count)) (lenFail n k)
          | none => none)
      <|> failIf (decide (d.len < d.count * size)) (lenFail n (d.len / max 1 size))
      <|> (leastOf (descs.flatMap (fun e =>
          let reps := max 1 ((((phasesOf b)[e.phase]?).map (·.reps)).getD 1)
          wordPasses (mapOf b) (leAt b 0x68 8) reps e.region (wordsOf s e) (e.body / 16) (0, 0)))).map (lenFail n)

/-- The region staging that class-0 service leaves to an image (R246): a larger declaration is refused with LEN_RANGE. -/
def expressStaging (class0 : Bool) (b : List Byte) : Option LoadFail :=
  let most := if leAt b 0x56 1 = 1 then 2097152 else 14680064
  if class0 then ((mapOf b).findIdx? (fun e => decide (most < e.regionStaging))).map (lenFail 1) else none

/-- Step 1 of R46: the header, then the sections in type order. -/
def step1 (class0 : Bool) (b : List Byte) : Option LoadFail :=
  failIf (decide (b.length < 1024) || leAt b 0x008 8 != b.length) (lenFail 0 0x008)
    <|> firstFail (List.range 10) (fun k =>
      match (imageDir b)[k]? with
      | some d => failIf (decide (b.length < d.off + d.len)) (lenFail 0 (0x80 + 24 * k + 16))
      | none => none)
    <|> extentFail b 1 <|> expressStaging class0 b
    <|> firstFail (List.range 9) (fun k => extentFail b (k + 2))

/-! ## Step 2: field values -/

/-- The header fields of step 2, by offset and size, with the values that pass. -/
def headerFields : List (Nat × Nat × (Nat → Bool)) :=
  [(0x000, 4, fun v => v == 0x49535658), (0x004, 2, fun v => v == 1), (0x006, 2, fun v => v == 512),
   (0x054, 1, fun v => decide (0 < v) && decide (v < 8)), (0x055, 1, fun v => decide (v < 2)), (0x056, 1, fun v => decide (v < 3)),
   (0x057, 1, fun v => v == 10), (0x058, 2, fun v => decide (1 ≤ v) && decide (v ≤ 4096)), (0x05A, 2, fun v => decide (1 ≤ v)),
   (0x05C, 1, fun v => decide (1 ≤ v) && decide (v ≤ 64)), (0x05D, 1, fun v => decide (1 ≤ v) && decide (v ≤ 16)),
   (0x060, 1, fun v => decide (v < 4)), (0x061, 7, fun v => v == 0)]

/-- Step 2 of the header and its directory. -/
def headerFail (b : List Byte) : Option LoadFail :=
  firstFail headerFields (fun f => failIf (!f.2.2 (leAt b f.1 f.2.1)) (fieldFail 0 f.1))
    <|> firstFail (List.range 16) (fun k =>
      let e := 0x80 + 24 * k
      match (imageDir b)[k]? with
      | none => none
      | some d =>
        if 10 ≤ k then failIf (leAt b e 24 != 0) (fieldFail 0 e)
        else
          let size := entrySize (k + 1)
          failIf (d.type != k + 1) (fieldFail 0 e)
            <|> failIf (leAt b (e + 2) 2 != 0) (fieldFail 0 (e + 2))
            <|> failIf (d.off % 16 != 0) (fieldFail 0 (e + 8))
            <|> failIf (size != 0 && k != 2 && k != 3 && d.len != d.count * size) (fieldFail 0 (e + 16)))
    <|> failIf (leAt b 0x05D 1 != (sectionAt b 1).1.count) (fieldFail 0 0x05D)
    <|> failIf (leAt b 0x05C 1 != (sectionAt b 2).1.count) (fieldFail 0 0x05C)

/-- The mask of the regions that a resource map names. -/
def mapMask (m : List ResEntry) : Nat := m.foldl (fun n e => n ||| 2 ^ e.region) 0

/-- Step 2 of the resource map: regions rise, reserved bits are 0, staging within its memory. -/
def mapFail (b : List Byte) : Option LoadFail :=
  let (_, s) := sectionAt b 1
  let m := mapOf b
  firstFail (List.range m.length) (fun k =>
    match m[k]? with
    | none => none
    | some e =>
      let before := ((m.take k).map (·.region)).any (fun r => decide (e.region ≤ r))
      failIf (decide (15 < e.region) || before || leAt s (32 * k + 1) 1 / 2 != 0 || leAt s (32 * k + 2) 2 != 0
        || decide (2 ^ 20 < e.coreStaging) || decide (2 ^ 24 < e.regionStaging)) (fieldFail 1 k))

/-- Step 2 of the phase list; the total of the strokes is at most 2^48 − 1. -/
def phaseFail (b : List Byte) : Option LoadFail :=
  let (_, s) := sectionAt b 2
  let ps := phasesOf b
  let L := leAt b 0x058 2
  firstFail (List.range ps.length) (fun k =>
    match ps[k]? with
    | none => none
    | some p =>
      let total := (ps.take (k + 1)).foldl (fun n p => n + p.bodyPieces * p.reps * L) 0
      failIf (leAt s (16 * k) 1 != k || leAt s (16 * k + 1) 1 / 2 != 0 || p.mask &&& mapMask (mapOf b) != p.mask || p.bodyPieces == 0 || p.reps == 0
        || leAt s (16 * k + 12) 4 != 0 || decide (2 ^ 48 ≤ total)) (fieldFail 2 k))

/-- What the words of a stream are checked for beside their own fields: a SEED before sr in its piece (R78), CORE within the region and
REGION out of it (R79); DESIGN CHOICE, CORE may name the issuing core itself (log entry 43). The stream's words, and the section index of the
first word that fails. -/
def streamWords (core : Bool) (lr pieceTicks : Nat) : List Nat → Nat → Nat → Option Nat → List IWord → List IWord × Option Nat
  | [], _, _, _, out => (out, none)
  | w :: ws, k, t, seeded, out =>
    match decodeInstr core w with
    | none => (out, some k)
    | some iw =>
      let t := t + iw.delta
      let seeded := match iw.op with | .seed _ _ => some (t / pieceTicks) | _ => seeded
      let bad := match iw.op with
        | .vec _ op => op.sr && seeded != some (t / pieceTicks)
        | .xchCore op => op.dstRegion.val != lr
        | .xchRegion op => op.dstRegion.val == lr
        | _ => false
      if bad then (out, some k) else streamWords core lr pieceTicks ws (k + 1) t seeded (out ++ [iw])

/-- A stream section read: its streams, and the failure of step 2, descriptors first. -/
def readStreams (b : List Byte) (n : Nat) : List Stream × Option LoadFail :=
  let core := n == 3
  let (d, s) := sectionAt b n
  let ds := descsOf s d.count
  let piece := 4096 * max 1 (leAt b 0x058 2)
  let read := ds.map (fun e => (e, streamWords core e.region piece (wordsOf s e) (e.body / 16) 0 none []))
  let streams := read.map (fun r =>
    { phase := r.1.phase, region := r.1.region, core := if core then some r.1.core else none, words := r.2.1, index := r.1.body / 16 : Stream })
  let descBad := firstFail (List.range ds.length) (fun k =>
    match ds[k]? with
    | none => none
    | some e =>
      let twice := (ds.take k).any (fun f => f.phase == e.phase && f.region == e.region && f.core == e.core)
      failIf (decide (leAt b 0x05C 1 ≤ e.phase) || decide (15 < e.region) || (if core then decide (31 < e.core) else e.core != 0xFF) || e.res != 0
        || e.body % 16 != 0 || twice) (fieldFail n k))
  (streams, descBad <|> (leastOf (read.filterMap (fun r => r.2.2))).map (fieldFail n))

/-- A slot section read (R45). -/
def readSlots (b : List Byte) (n : Nat) : List Slot :=
  let (d, s) := sectionAt b n
  (List.range d.count).map (fun k =>
    let e := 16 * k
    let kind := leAt s (e + 6) 1
    let owner := leAt s (e + 8) 2
    { phase := leAt s e 1, unit := leAt s (e + 1) 1, start := leAt s (e + 2) 2, len := leAt s (e + 4) 2, out := bitOf kind 0, use := kind / 2 % 8
      region := owner / 4096, core := owner / 128 % 32, sequencer := bitOf owner 6, bytes := leAt s (e + 12) 4 })

/-- The units of a slot section: memory, link, host, cox. -/
def slotUnits (n : Nat) : Nat := if n = 5 then 256 else if n = 6 then 16 else if n = 7 then 2 else 1

/-- Step 2 of a slot section; the 32 positions of a cox entry are for the checker (R130). -/
def slotFail (b : List Byte) (n : Nat) : Option LoadFail :=
  let (_, s) := sectionAt b n
  let es := readSlots b n
  firstFail (List.range es.length) (fun k =>
    match es[k]? with
    | none => none
    | some e =>
      let use := if n = 5 then decide (e.use ≤ 1) else if n = 8 then e.use == 1 else e.use == 0
      failIf (decide (leAt b 0x05C 1 ≤ e.phase) || decide (slotUnits n ≤ e.unit) || decide (4095 < e.start) || e.len == 0 || !use
        || leAt s (16 * k + 6) 1 / 16 != 0 || (n == 8 && e.out) || leAt s (16 * k + 7) 1 != 0 || leAt s (16 * k + 8) 1 % 64 != 0
        || leAt s (16 * k + 10) 2 != 0) (fieldFail n k))

/-- A profile section read (R45): its records, the values as they are. -/
def readProfiles (b : List Byte) (n : Nat) : List Profile :=
  let (d, s) := sectionAt b n
  (recordStarts n s d.count 0).map (fun at_ =>
    let strokes := leAt s (at_ + 4) 4
    { phase := leAt s at_ 1, scope := leAt s (at_ + 1) 1
      values := if n = 9 then (slice s (at_ + 16) strokes).map (·.toNat)
        else (List.range (3 * strokes)).map (fun k => leAt s (at_ + 16 + 2 * k) 2) })

/-- Step 2 of a profile section: a missing record is reported past the last one. -/
def profileFail (b : List Byte) (n : Nat) : Option LoadFail :=
  let (d, s) := sectionAt b n
  let rs := readProfiles b n
  let starts := recordStarts n s d.count 0
  let ps := phasesOf b
  let L := leAt b 0x058 2
  let range := leAt b 0x054 1
  let want : List (Nat × Nat) := (List.range ps.length).flatMap (fun k =>
    if n = 9 then ((List.range 16).filter (fun g => match ps[k]? with | some p => bitOf p.mask g | none => false)).map (fun g => (k, g)) else [(k, 0)])
  firstFail (List.range rs.length) (fun k =>
    match rs[k]?, starts[k]? with
    | some r, some at_ =>
      let strokes := leAt s (at_ + 4) 4
      let used := 16 + strokes * profileWidth n
      let pad := slice s (at_ + used) (recordBytes n s at_ - used)
      let twice := (rs.take k).any (fun q => q.phase == r.phase && q.scope == r.scope)
      let vals := if n = 9 then r.values.any (fun v => decide (128 < v))
        else (List.range r.values.length).any (fun m => !bitOf range (m % 3) && (r.values[m]?).getD 0 != 0)
      let strokesBad := match ps[r.phase]? with | some p => strokes != p.bodyPieces * L | none => true
      failIf (!want.contains (r.phase, r.scope) || strokesBad || leAt s (at_ + 2) 2 != 0 || leAt s (at_ + 8) 8 != 0 || pad.any (· != 0) || twice || vals)
        (fieldFail n k)
    | _, _ => none)
    <|> failIf (want.any (fun w => !(rs.any (fun r => (r.phase, r.scope) == w)))) (fieldFail n rs.length)

/-- Step 2 of R46: the header, then the sections in type order. -/
def step2 (b : List Byte) : Option LoadFail :=
  headerFail b <|> mapFail b <|> phaseFail b <|> (readStreams b 3).2 <|> (readStreams b 4).2
    <|> slotFail b 5 <|> slotFail b 6 <|> slotFail b 7 <|> slotFail b 8 <|> profileFail b 9 <|> profileFail b 10

/-! ## The image -/

/-- SHA-512 of an image with its digest field 0 (R45). -/
def imageDigest (b : List Byte) : BitVec 512 := sha512Field (b.take 0x10 ++ List.replicate 64 0 ++ b.drop 0x50)

/-- The image of a byte string that lies at a data offset. -/
def readImage (b : List Byte) (base : Nat) : Image :=
  let digest := imageDigest b
  { id := digest.setWidth 256, digest := digest, base := base, length := b.length, apid := BitVec.ofNat 32 (leAt b 0x50 4)
    pressureRange := leAt b 0x54 1, floating := leAt b 0x55 1 == 1, express := leAt b 0x56 1, L := leAt b 0x58 2, D := leAt b 0x5A 2
    lamniMask := leAt b 0x5E 2, hostMask := leAt b 0x60 1, window := leAt b 0x68 8, regions := mapOf b, phases := phasesOf b
    coreStreams := (readStreams b 3).1, seqStreams := (readStreams b 4).1, memSlots := readSlots b 5, linkSlots := readSlots b 6
    hostSlots := readSlots b 7, coxSlots := readSlots b 8, duty := readProfiles b 9, power := readProfiles b 10 }

end Sys2Proof.Machine
end

