-- ==== Sys2Proof/Machine/Occupy.lean ====
section
/-! DEFINITION. What the instructions of an image's streams occupy, read and write, tick by tick (R52, R55, R63, R65, R68, R69, R71 to R73, R76, R80, R81, R145), as the load checker takes it. Indices are logical. -/

namespace Sys2Proof.Machine

/-- A resource that occupancies exclude each other on, or share at a rate (R55, R145). -/
inductive Res where
  | cread (lr lc port : Nat)
  | cwrite (lr lc : Nat)
  | rread (lr port : Nat)
  | rwrite (lr port : Nat)
  | xbar (lr lc : Nat) (out : Bool)
  | array (lr lc a : Nat)
  | drain (lr lc a : Nat)
  | plot (lr p : Nat)
  | xout (lr lc : Nat)
  | xin (lr lc : Nat)
  | meshOut (lr : Nat)
  | meshIn (lr : Nat)
  | bankA (lr : Nat)
  | bankB (lr p : Nat)
deriving DecidableEq, Repr

/-- What a resource carries in one tick: bytes on the crossbar lanes and the mesh ports, banks, one use of any other (R55, R145). -/
def Res.cap : Res → Nat
  | .xbar .. => 256
  | .meshOut _ | .meshIn _ => 512
  | .bankA _ => 4
  | .bankB .. => 2
  | _ => 1

/-- A memory that occupancies read and write. -/
inductive Space where
  | core (lr lc : Nat)
  | region (lr : Nat)
  | hbm
deriving DecidableEq, Repr

/-- An occupancy: ticks, resource with its share, and the bytes it reads or writes; `add` reads and writes them (R80). -/
structure Occ where
  tick : Nat
  span : Nat := 1
  res : Option Res := none
  load : Nat := 1
  reads : Bool := false
  writes : Bool := false
  mem : Option Space := none
  addr : Nat := 0
  size : Nat := 0
deriving DecidableEq, Repr

/-- An occurrence of a slot entry that a move takes: its start, the window offset or 0, and its bytes (R71, R81). -/
structure SlotUse where
  start : Nat
  offset : Nat
  bytes : Nat
deriving DecidableEq, Repr

/-- An instruction of a body with its issue tick and what follows from it. `left` is what a move could not place before the body's end;
`ready` and `free` are ticks of its tile (R63, R65, R77); `senses` are the first tick and the number of its sense cycles. -/
structure BodyOp where
  sec : Nat
  index : Nat
  phase : Nat
  region : Nat
  core : Option Nat
  tick : Nat
  op : StreamOp
  occ : List Occ := []
  uses : List SlotUse := []
  left : Nat := 0
  ready : Nat := 0
  free : Nat := 0
  senses : Nat × Nat := (0, 0)
deriving DecidableEq, Repr

/-- Chunks of 256 bytes a tick from tick `t`, in address order (R70, R73). -/
def chunkOccs (t step : Nat) (res : Option Res) (rd wr : Bool) (mem : Space) (addr total : Nat) : List Occ :=
  (List.range (ceilDiv total 256)).map (fun k =>
    { tick := t + step * k, res := res, reads := rd, writes := wr, mem := some mem, addr := addr + 256 * k, size := min 256 (total - 256 * k) })

/-- The bytes from element `lo` of a tensor at `base`, `n` elements: first byte and length. -/
def elemSpan (base : Nat) (f : Fmt) (lo n : Nat) : Nat × Nat :=
  let a := lo * fmtBits f / 8
  (base + a, ceilDiv ((lo + n) * fmtBits f) 8 - a)

/-- ARR.TILE: row reads and the array (R63). -/
def tileOccs (lr lc u sigma : Nat) (op : TileOp) : List Occ × Nat :=
  let row := if op.inFmt = .int4 then 128 else 256
  let planes := match op.inFmt with | .int8 => 8 | .int4 => 4 | .uint8 => 9
  let e := u + sigma + 32 * op.rows * planes
  let reads := (List.range op.rows).map (fun k =>
    { tick := u + k, res := some (.cread lr lc (flag op.readPort)), reads := true, mem := some (.core lr lc), addr := 16 * op.src.toNat + row * k
      size := row : Occ })
  (reads ++ (if u < e then [{ tick := u, span := e - u, res := some (.array lr lc op.array.val) }] else []), e)

/-- OPT.TILE: fetch, symbols, results, banks (R68, R145). -/
def optOccs (lr u : Nat) (op : OptOp) : List Occ :=
  if op.count = 0 || op.rows = 0 || op.kblk = 0 then []
  else
    let rp := (List.range 4).filter (fun k => op.rdPorts.getLsbD k)
    let wp := (List.range 2).filter (fun k => op.wrPorts.getLsbD k)
    let A := optABytes op
    let B := optBBytes op
    let F := optFetch op
    let S := optSpan op
    let R := optResBytes op
    let W := ceilDiv R (256 * wp.length)
    let plots := runPlots op.first.val op.count op.even
    let fetch := (List.range F).flatMap (fun k => (List.range rp.length).flatMap (fun n =>
      let at_ := 256 * (k * rp.length + n)
      let port : Occ := { tick := u + k, res := some (.rread lr (rp[n]?.getD 0)) }
      let a : List Occ := if at_ < A then [{ tick := u + k, reads := true, mem := some (.region lr), addr := 16 * op.aAddr.toNat + at_
                                             size := min 256 (A - at_) }] else []
      let lo := max at_ A
      let hi := min (at_ + 256) (A + B)
      let b : List Occ := if lo < hi then [{ tick := u + k, reads := true, mem := some (.region lr), addr := 16 * op.bAddr.toNat + lo - A
                                             size := hi - lo }] else []
      port :: (a ++ b)))
    let results := (List.range W).flatMap (fun k => (List.range wp.length).map (fun n =>
      let at_ := 256 * (k * wp.length + n)
      { tick := u + F + S + 56 + k, res := some (.rwrite lr (wp[n]?.getD 0)), writes := at_ < R, mem := some (.region lr)
        addr := 16 * op.dst.toNat + at_, size := min 256 (R - at_) : Occ }))
    let hold := F + S + 56
    fetch ++ plots.map (fun p => { tick := u + F + 16, span := S, res := some (.plot lr p) : Occ }) ++ results
      ++ [{ tick := u, span := hold, res := some (.bankA lr) }] ++ plots.map (fun p => { tick := u, span := hold, res := some (.bankB lr p) : Occ })

/-- A copy (R73): the source port, the crossbar lane, the destination port. -/
def copyOccs (u lat : Nat) (src dst : Res) (lane : Option Res) (sm dm : Space) (sa da n : Nat) : List Occ :=
  chunkOccs u 1 (some src) true false sm sa n
    ++ (match lane with
        | some r => (List.range (ceilDiv n 256)).map (fun k => { tick := u + k, res := some r, load := min 256 (n - 256 * k) : Occ })
        | none => [])
    ++ chunkOccs (u + lat) 1 (some dst) false true dm da n

/-- The occurrences of an entry that a move takes before the body's end, with the bytes left (R71, R81). -/
def takeSlots (e : Slot) (bytes from_ bodyEnd : Nat) : List SlotUse × Nat :=
  let os := (occurrences e.start e.bytes bytes from_).filter (fun o => decide (o.1 < bodyEnd))
  let uses := (List.range os.length).filterMap (fun k => (os[k]?).map (fun o => { start := o.1, offset := k * e.bytes, bytes := o.2 : SlotUse }))
  (uses, bytes - os.foldl (fun n o => n + o.2) 0)

/-- The share of a region mesh port that a transfer of `total` bytes takes, 256 bytes a tick with its staging chunks (R14, R55; log entry
129). -/
def meshOccs (t : Nat) (res : Res) (total : Nat) : List Occ :=
  (List.range (ceilDiv total 256)).map (fun k => { tick := t + k, res := some res, load := min 256 (total - 256 * k) : Occ })

/-- H2R and R2H: the HBM bytes, the staging chunks and the mesh port of each occurrence (R71, R244). -/
def hbmOccs (lr : Nat) (op : HbmMove) (out : Bool) (off : Nat) (us : List SlotUse) : List Occ :=
  us.flatMap (fun x =>
    { tick := x.start, span := ceilDiv x.bytes 256, reads := !out, writes := out, mem := some .hbm, addr := off + x.offset, size := x.bytes : Occ }
      :: chunkOccs (if out then x.start - 64 else x.start + 160) 1 (some (if out then .rread lr op.rPort.val else .rwrite lr op.rPort.val)) out (!out)
          (.region lr) (16 * op.addr.toNat + x.offset) x.bytes
        ++ meshOccs (if out then x.start - 64 else x.start + 160) (if out then .meshOut lr else .meshIn lr) x.bytes)

/-- LSEND and LRECV: the staging chunks and the mesh port of each occurrence (R81). -/
def linkOccs (lr : Nat) (op : LinkOp) (send : Bool) (us : List SlotUse) : List Occ :=
  us.flatMap (fun x =>
    chunkOccs (if send then x.start - 64 else x.start) 1 (some (if send then .rread lr op.port.val else .rwrite lr op.port.val)) send (!send)
      (.region lr) (16 * op.addr.toNat + x.offset) x.bytes
    ++ meshOccs (if send then x.start - 64 else x.start) (if send then .meshOut lr else .meshIn lr) x.bytes)

/-- A VEC operation (R76, R222): sources, destination. -/
def vecOccs (lr lc u o : Nat) (op : VecOp) : List Occ :=
  let n := op.length.toNat
  if n = 0 then []
  else
    let r := vecRate o op
    let T := ceilDiv n r
    let mem := Space.core lr lc
    let twice := o == 0x12 || o == 0x13
    let dst := 16 * op.dst.toNat
    let pass (p : Nat) : List Occ := (List.range T).flatMap (fun k =>
      let c := min r (n - k * r)
      let t := u + p * T + k
      let rd (base : Nat) (f : Fmt) (res : Option Res) : Occ :=
        let (a, sz) := elemSpan base f (k * r) c
        { tick := t, res := res, reads := true, mem := some mem, addr := a, size := sz }
      (match op.srcA with
        | .staging a => [rd (16 * a.toNat) op.fmtIn (some (.cread lr lc 0))]
        | .acc a _ => [{ tick := t, res := some (.drain lr lc a.val) }]
        | .none => [])
        ++ (if p = 0 && o = 0x02 then [rd dst op.fmtOut none] else [])
        ++ (match op.srcB with
            | .staging b =>
              if p ≠ 0 then []
              else if o = 0x07 || o = 0x08 || o = 0x09 || o = 0x13 then
                [{ tick := t, res := some (.cread lr lc 1), reads := k == 0, mem := some mem, addr := 16 * b.toNat, size := vecBBytes op o }]
              else [rd (16 * b.toNat) op.fmtIn (some (.cread lr lc 1))]
            | _ => []))
    let start := u + vecLat o + (if twice then T else 0)
    let wres := some (Res.cwrite lr lc)
    let elems := (List.range T).map (fun k =>
      let (a, sz) := elemSpan dst op.fmtOut (k * r) (min r (n - k * r))
      { tick := start + k, res := wres, writes := true, mem := some mem, addr := a, size := sz : Occ })
    pass 0 ++ (if twice then pass 1 else [])
      ++ (if o = 0x0C || o = 0x14 then chunkOccs (u + T + vecLat o) 1 wres false true mem dst (vecOutBytes op o) else elems)
      ++ (if o = 0x06 then chunkOccs (u + vecLat o + T) 1 wres false true mem (dst + fmtSpan op.fmtOut n) (9 * ceilDiv n 32) else [])

/-- XCH.CORE and XCH.REGION (R80). -/
def xchOccs (lr lc u : Nat) (op : XchOp) (region : Bool) : List Occ :=
  let n := xchBytes op
  if n = 0 then []
  else
    let lat := if region then 64 else 16
    let T := ceilDiv n 64
    let dr := op.dstRegion.val
    let dc := op.dstCore.val
    let dst := chunkOccs (u + lat + 3) 4 (some (.cwrite dr dc)) op.add true (.core dr dc) (16 * op.dst.toNat) n
    chunkOccs u 4 (some (.cread lr lc (flag op.port))) true false (.core lr lc) (16 * op.src.toNat) n
      ++ [{ tick := u, span := T, res := some (.xout lr lc) }, { tick := u + lat, span := T, res := some (.xin dr dc) }]
      ++ (if region then [{ tick := u, span := T, res := some (.meshOut lr), load := 64 }, { tick := u + lat, span := T, res := some (.meshIn dr), load := 64 }] else [])
      ++ dst ++ (if op.add then dst.map (fun o => { tick := o.tick, res := some (.cread dr dc 1) : Occ }) else [])

/-- What a walk over a stream keeps: the stride values (R72), the last tier of each array with its piece (R63). -/
structure Walk where
  stride : Stride := {}
  tiers : SMap (Nat × Nat) := []
deriving DecidableEq, Repr

/-- An instruction of a stream at its issue tick in repetition `rep` (R59: in later repetitions the moves of a changeover phase's first
piece stay booked and carry nothing). -/
def bodyOp (i : Image) (p : PhaseEntry) (st : Stream) (sec index rep u : Nat) (w : Walk) (op : StreamOp) : BodyOp × Walk :=
  let piece := 4096 * max 1 i.L
  let bodyEnd := p.bodyPieces * piece
  let lr := st.region
  let lc := st.core.getD 0
  let base : BodyOp := { sec := sec, index := index, phase := st.phase, region := lr, core := st.core, tick := u, op := op }
  let idle (b : BodyOp) : BodyOp :=
    if p.changeover && decide (0 < rep) && decide (u < piece) then
      { b with occ := b.occ.map (fun o => { o with reads := false, writes := false, mem := none }) }
    else b
  let slot (table : List Slot) (ref bytes from_ : Nat) : List SlotUse × Nat :=
    match table[ref]? with
    | some e => takeSlots e bytes from_ bodyEnd
    | none => ([], 0)
  let hbm (o : HbmMove) (out : Bool) : BodyOp :=
    let (us, left) := slot i.memSlots o.slotRef.toNat (hbmBytes o) (if out then u + 64 else u)
    let off := 16 * (o.hbm.toNat + strideRep w.stride rep * w.stride.repStride.toNat)
    idle { base with occ := hbmOccs lr o out off us, uses := us.map (fun x => { x with offset := off + x.offset }), left := left }
  let link (o : LinkOp) (send : Bool) : BodyOp :=
    let (us, left) := slot i.linkSlots o.slotRef.toNat (16 * o.length.toNat) (if send then u + 64 else u)
    idle { base with occ := linkOccs lr o send us, uses := us, left := left }
  match op with
  | .tile o =>
    let k := u / piece
    let sigma := if look (0, 64) w.tiers o.array.val = (k, o.tier.val) then 0 else 64
    let (occ, e) := tileOccs lr lc u sigma o
    ({ base with occ := occ, ready := e + 272, senses := (u + sigma, (e - u - sigma) / 32) }, { w with tiers := insertAt w.tiers o.array.val (k, o.tier.val) })
  | .drain o =>
    ({ base with
        occ := { tick := u, span := 256, res := some (.drain lr lc o.array.val) : Occ }
          :: chunkOccs (u + 3) 4 (some (.cwrite lr lc)) false true (.core lr lc) (16 * o.dst.toNat) 16384
        free := u + 256 }, w)
  | .opt o => ({ base with occ := optOccs lr u o }, w)
  | .dummy first count span even =>
    ({ base with occ := if span = 0 then [] else (runPlots first count even).map (fun q => { tick := u, span := span, res := some (.plot lr q) : Occ }) }, w)
  | .h2r o => (hbm o false, w)
  | .r2h o => (hbm o true, w)
  | .r2c o => (idle { base with occ := (copyOccs u 24 (.rread lr o.rPort.val) (.cwrite lr lc) (some (.xbar lr lc false)) (.region lr) (.core lr lc)
                        (16 * o.addrA.toNat) (16 * o.addrB.toNat) (copyBytes o)) }, w)
  | .c2r o => (idle { base with occ := (copyOccs u 24 (.cread lr lc (flag o.cPort)) (.rwrite lr o.rPort.val) (some (.xbar lr lc true)) (.core lr lc) (.region lr)
                        (16 * o.addrB.toNat) (16 * o.addrA.toNat) (copyBytes o)) }, w)
  | .c2c o => (idle { base with occ := (copyOccs u 4 (.cread lr lc (flag o.cPort)) (.cwrite lr lc) none (.core lr lc) (.core lr lc)
                        (16 * o.addrB.toNat) (16 * o.addrA.toNat) (copyBytes o)) }, w)
  | .r2r o => (idle { base with occ := (copyOccs u 4 (.rread lr o.rPort.val) (.rwrite lr (flag o.cPort)) none (.region lr) (.region lr)
                        (16 * o.addrB.toNat) (16 * o.addrA.toNat) (copyBytes o)) }, w)
  | .stride a b => (base, { w with stride := { repStride := BitVec.ofNat 32 a, repMod := BitVec.ofNat 16 b } })
  | .vec o v => ({ base with occ := vecOccs lr lc u o v, free := u + ceilDiv v.length.toNat (max 1 (vecRate o v)) }, w)
  | .xchCore o => (idle { base with occ := xchOccs lr lc u o false }, w)
  | .xchRegion o => (idle { base with occ := xchOccs lr lc u o true }, w)
  | .lsend o => (link o true, w)
  | .lrecv o => (link o false, w)
  | _ => (base, w)

/-- The instructions of a stream from a word on. -/
def walkWords (i : Image) (p : PhaseEntry) (st : Stream) (sec rep : Nat) : List IWord → Nat → Nat → Walk → List BodyOp
  | [], _, _, _ => []
  | x :: xs, k, t, w =>
    let (b, w) := bodyOp i p st sec k rep (t + x.delta) w x.op
    b :: walkWords i p st sec rep xs (k + 1) (t + x.delta) w

/-- The instructions of a phase's body in repetition `rep`, section by section, stream by stream (R46's order). -/
def Image.body (i : Image) (phase rep : Nat) : List BodyOp :=
  match i.phases[phase]? with
  | none => []
  | some p =>
    let of_ (sec : Nat) (l : List Stream) := (l.filter (fun s => s.phase == phase)).flatMap (fun s => walkWords i p s sec rep s.words s.index 0 {})
    of_ 3 i.coreStreams ++ of_ 4 i.seqStreams

/-- The ticks of a phase's body. -/
def Image.bodyTicks (i : Image) (p : PhaseEntry) : Nat := p.bodyPieces * max 1 i.L * 4096

/-- A body moved on by a number of ticks. -/
def BodyOp.at_ (d : Nat) (b : BodyOp) : BodyOp :=
  { b with
    tick := b.tick + d, occ := b.occ.map (fun o => { o with tick := o.tick + d }), uses := b.uses.map (fun u => { u with start := u.start + d })
    ready := b.ready + d, free := b.free + d }

/-- The phases and repetitions of a whole job in order, each with its first tick. -/
def Image.runsFrom (i : Image) : List PhaseEntry → Nat → Nat → List (Nat × Nat × Nat)
  | [], _, _ => []
  | p :: ps, k, t =>
    (List.range p.reps).map (fun n => (k, n, t + n * i.bodyTicks p)) ++ i.runsFrom ps (k + 1) (t + p.reps * i.bodyTicks p)
def Image.runs (i : Image) : List (Nat × Nat × Nat) := i.runsFrom i.phases 0 0

/-- The instructions of a whole job, in ticks of the job (R48: repetitions and phases joined).
DESIGN CHOICE: every repetition is walked, where R48 takes a repeated body twice (log entry 130). -/
def Image.jobOps (i : Image) : List BodyOp := i.runs.flatMap (fun r => (i.body r.1 r.2.1).map (BodyOp.at_ r.2.2))

end Sys2Proof.Machine
end

