-- ==== Sys2Proof/Machine/Checker.lean ====
section
/-! DEFINITION. The load-time checker: the rules of R48 with the chapters that they draw on, over every phase, repetition and stroke of an image, and the six steps of R46. -/

namespace Sys2Proof.Machine

/-- A broken rule: its sub-code, the section and the entry (R49). -/
abbrev Breach48 := Nat × Nat × Nat

/-- The order of R46: sub-code, then section, then entry. -/
def breachBefore (a b : Breach48) : Bool :=
  decide (a.1 < b.1) || (a.1 == b.1 && (decide (a.2.1 < b.2.1) || (a.2.1 == b.2.1 && decide (a.2.2 < b.2.2))))

/-- The first of some breaches. -/
def firstBreach : List Breach48 → Option Breach48
  | [] => none
  | x :: xs => some (xs.foldl (fun m y => if breachBefore y m then y else m) x)

/-- A breach when a condition holds. -/
def breachIf (b : Bool) (x : Breach48) : List Breach48 := if b then [x] else []

/-- Elements with their places. -/
def placed {α : Type} (l : List α) : List (Nat × α) := (List.range l.length).zip l

/-- The breach of an instruction. -/
def BodyOp.breach (b : BodyOp) (sub : Nat) : Breach48 := (sub, b.sec, b.index)

/-- Whether two half-open ranges meet. -/
def overlap (a b c d : Nat) : Bool := decide (a < d) && decide (c < b)

/-- The code of the fastest mode of a range (R20). -/
def fastCode (i : Image) : Nat := modeCode (fastest i.pressureRange)

/-- The ticks of a piece. -/
def Image.pieceTicks (i : Image) : Nat := 4096 * max 1 i.L

/-! ## Rule 0x01: slot entries (R243, R244, R263, R314) -/

/-- The maintenance windows of every stroke (R243). -/
def maintWindows : List (Nat × Nat) := [(880, 1024), (1904, 2048), (2928, 3072), (3440, 3584)]

/-- The lane ticks of a memory slot entry (R244). -/
def Slot.lanes (e : Slot) : Nat := ceilDiv e.bytes 256

/-- Entries of one table that overlap an earlier one of the same key. -/
def slotOverlaps (sec : Nat) (key : Slot → Nat × Nat × Nat) (l : List Slot) : List Breach48 :=
  (placed l).flatMap (fun x => breachIf
    ((l.take x.1).any (fun e => key e == key x.2 && overlap e.start (e.start + e.len) x.2.start (x.2.start + x.2.len))) (0x01, sec, x.1))

/-- The direction gap of R244: `b` follows `a`, `shift` ticks on. -/
def gapBroken (a b : Slot) (shift : Nat) : Bool :=
  a.unit == b.unit && a.out != b.out && b.bytes != 0 && decide (a.start < b.start + shift) && decide (b.start + shift < a.start + a.len + 8)

/-- Rule 0x01 on slot entries. -/
def Image.slotRules (i : Image) : List Breach48 :=
  let m := fastCode i
  let link := [750, 1000, 1500][m]?.getD 750
  let host := [375, 500, 750][m]?.getD 375
  let mem := (placed i.memSlots).flatMap (fun x =>
    let e := x.2
    let gap := i.memSlots.any (fun a =>
      (a.phase == e.phase && (gapBroken a e 0 || gapBroken a e 4096)) || (a.phase + 1 == e.phase && gapBroken a e 4096))
    breachIf (decide (e.len < e.lanes) || maintWindows.any (fun w => e.lanes != 0 && overlap e.start (e.start + e.lanes) w.1 w.2) || gap) (0x01, 5, x.1))
  let links := (placed i.linkSlots).flatMap (fun x =>
    let e := x.2
    breachIf (decide (256 < e.len) || decide (e.len * link / (3 * 256) < ceilDiv e.bytes 208) || overlap e.start (e.start + e.len) 3520 3584
      || !bitOf i.lamniMask e.unit) (0x01, 6, x.1))
  let hosts := (placed i.hostSlots).flatMap (fun x => breachIf (decide (x.2.len * host / 6 < x.2.bytes)) (0x01, 7, x.1))
  mem ++ links ++ hosts
    ++ slotOverlaps 5 (fun e => (e.phase, e.unit, 0)) i.memSlots
    ++ slotOverlaps 6 (fun e => (e.phase, e.unit, flag e.out)) i.linkSlots
    ++ slotOverlaps 7 (fun e => (e.phase, e.unit, flag e.out)) i.hostSlots
    ++ slotOverlaps 8 (fun e => (e.phase, e.region, e.core)) i.coxSlots

/-! ## Rule 0x01: instructions (R52, R54, R55, R71, R81, R145) -/

/-- A use of a resource: its ticks, its share and its instruction. -/
structure Use where
  res : Res
  first : Nat
  last : Nat
  load : Nat
  sec : Nat
  index : Nat
deriving DecidableEq, Repr

/-- The uses of some instructions. -/
def usesOf (ops : List BodyOp) : List Use :=
  ops.flatMap (fun b => b.occ.filterMap (fun o =>
    o.res.map (fun r => { res := r, first := o.tick, last := o.tick + o.span, load := o.load, sec := b.sec, index := b.index })))

/-- The first use, in order, at which a resource carries more than it can. -/
def overUse (cap : Nat) : List Use → Nat → Option Use
  | [], _ => none
  | u :: us, n => if cap < n + u.load then some u else overUse cap us (n + u.load)

/-- Overlaps and rates (R55, R145): looked at where a use begins. -/
def loadRules (us : List Use) : List Breach48 :=
  us.filterMap (fun u =>
    (overUse u.res.cap (us.filter (fun v => v.res == u.res && decide (v.first ≤ u.first) && decide (u.first < v.last))) 0).map
      (fun v => (0x01, v.sec, v.index)))

/-- Two writes to one 16-byte unit of staging in one tick (R54). -/
def writeRules (ops : List BodyOp) : List Breach48 :=
  let ws := ops.flatMap (fun b => b.occ.filterMap (fun o =>
    match o.mem with
    | some .hbm | none => none
    | some m => if o.writes then some (m, o.tick, o.addr / 16, ceilDiv (o.addr + o.size) 16, b.sec, b.index) else none))
  (placed ws).flatMap (fun x =>
    let (m, t, a, z, sec, index) := x.2
    breachIf ((ws.take x.1).any (fun y => y.1 == m && y.2.1 == t && overlap a z y.2.2.1 y.2.2.2.1)) (0x01, sec, index))

/-- The rank of a marker (R52). -/
def StreamOp.marker : StreamOp → Option Nat
  | .piece _ => some 1
  | .change _ => some 2
  | .catch => some 3
  | _ => none

/-- The issue limits of R52 from a word on: the tick, the last marker's rank, the units of the words in the tick. DEDUCED, a marker repeated in
one tick is out of order too, before rule 0x0C looks at it (log entry 130). -/
def issueRules (sec : Nat) : List IWord → Nat → Nat → Nat → List Nat → List Breach48
  | [], _, _, _, _ => []
  | w :: ws, k, first, rank, units =>
    let fresh := decide (0 < w.delta) || first == 1
    let rank := if fresh then 0 else rank
    let units := if fresh then [] else units
    match w.op.marker with
    | some r =>
      breachIf (!units.isEmpty || decide (r ≤ rank)) (0x01, sec, k) ++ issueRules sec ws (k + 1) 0 r units
    | none =>
      let u := w.op.unit
      breachIf (decide (4 ≤ units.length) || units.contains u) (0x01, sec, k) ++ issueRules sec ws (k + 1) 0 rank (u :: units)

/-- The slot entry that a move names and whether the move may use it (R71, R81); DESIGN CHOICE, a move of no bytes needs none (log entry 130). -/
def Image.slotBroken (i : Image) (b : BodyOp) : Bool :=
  let entry (table : List Slot) (ref : Nat) (out : Bool) (more : Slot → Bool) : Bool :=
    match table[ref]? with
    | none => true
    | some e => !e.sequencer || e.region != b.region || e.phase != b.phase || e.out != out || more e
  let split (e : Slot) : Bool := b.uses.any (fun u => windowUnit u.offset != e.unit || windowUnit (u.offset + u.bytes - 1) != e.unit)
  let port (l : Nat) (e : Slot) : Bool := e.unit != l || !bitOf i.lamniMask e.unit
  match b.op with
  | .h2r o => o.length != 0 && entry i.memSlots o.slotRef.toNat false split
  | .r2h o => o.length != 0 && entry i.memSlots o.slotRef.toNat true split
  | .lsend o => o.length != 0 && entry i.linkSlots o.slotRef.toNat true (port o.lport.val)
  | .lrecv o => o.length != 0 && entry i.linkSlots o.slotRef.toNat false (port o.lport.val)
  | _ => false

/-- The entry of a move: its table and index. -/
def BodyOp.entry? (b : BodyOp) : Option (Nat × Nat) :=
  match b.op with
  | .h2r o | .r2h o => some (5, o.slotRef.toNat)
  | .lsend o | .lrecv o => some (6, o.slotRef.toNat)
  | _ => none

/-- Two moves on one entry in one occurrence (R71, R81). -/
def sharedSlots (ops : List BodyOp) : List Breach48 :=
  let us := ops.flatMap (fun b => match b.entry? with | some e => b.uses.map (fun u => (e, u.start, b.breach 0x01)) | none => [])
  (placed us).flatMap (fun x => breachIf ((us.take x.1).any (fun y => y.1 == x.2.1 && y.2.1 == x.2.2.1)) x.2.2.2)

/-! ## Rules 0x02 and 0x0C: output tiles (R64, R55) -/

/-- An output tile in a piece: filling until a tick, ready from it on; draining until a tick; with the instruction that put it there. -/
structure TileUse where
  piece : Nat
  draining : Bool
  until_ : Nat
  index : Nat
deriving DecidableEq, Repr

/-- A tile not free at the last tick of its piece (R55). -/
def TileUse.open_ (pieceTicks : Nat) (t : TileUse) : Bool := !t.draining || decide ((t.piece + 1) * pieceTicks ≤ t.until_)

/-- The tiles of one core over a body: what its instructions find and leave (R64). -/
def tileRules (pt : Nat) : List BodyOp → SMap (Option TileUse) → List Breach48
  | [], m => m.filterMap (fun e => match e.2 with | some t => if t.open_ pt then some (0x0C, 3, t.index) else none | none => none)
  | b :: bs, m =>
    let piece := b.tick / pt
    let step (key : Nat) (read release : Bool) (acc : Bool) : List Breach48 :=
      let old : Option TileUse := look none m key
      let stale := match old with | some t => breachIf (t.piece != piece && t.open_ pt) (0x0C, 3, t.index) | none => []
      let cur := match old with
        | some t => if t.piece != piece || (t.draining && decide (t.until_ ≤ b.tick)) then none else some t
        | none => none
      let ready := match cur with | some t => !t.draining && decide (t.until_ ≤ b.tick) | none => false
      let held := match cur with | some t => !t.draining | none => false
      let bad := if read then !ready else if acc then !held else cur.isSome
      let new := if read then
          (if release && ready then some { piece := piece, draining := true, until_ := b.free, index := b.index : TileUse } else cur)
        else some { piece := piece, draining := false, until_ := b.ready, index := b.index : TileUse }
      stale ++ breachIf bad (b.breach 0x02) ++ tileRules pt bs (insertAt m key new)
    match b.op with
    | .tile o => if o.rows = 0 then tileRules pt bs m else step (2 * o.array.val + flag o.tile) false false o.accumulate
    | .drain o => step (2 * o.array.val + flag o.tile) true true false
    | .vec _ v =>
      match v.srcA with
      | .acc a t => step (2 * a.val + flag t) true v.release false
      | _ => tileRules pt bs m
    | _ => tileRules pt bs m

/-! ## Rule 0x04: duty (R48, R148) -/

/-- The duty of a stroke of a body as the streams give it. -/
def Image.dutyAt (i : Image) (phase region stroke : Nat) : Nat := (i.switching phase region stroke).length

/-- The duties of a body. -/
def Image.dutyBody (i : Image) (phase region : Nat) : List Nat :=
  match i.phases[phase]? with
  | some p => (List.range (p.bodyPieces * max 1 i.L)).map (fun s => if bitOf p.mask region then i.dutyAt phase region s else 0)
  | none => []

/-- The duties of a job as executed, 0 before its first stroke and after its last (R48). -/
def Image.dutySeq (i : Image) (region : Nat) : List Nat :=
  let phases := (List.range i.phases.length).flatMap (fun k =>
    match i.phases[k]? with
    | some p => let body := i.dutyBody k region; (List.range p.reps).flatMap (fun _ => body)
    | none => [])
  0 :: (phases ++ [0])

/-- Whether every window of 64 entries spans at most 16. -/
def slewOk (seq : List Nat) : Bool :=
  (List.range (seq.length - 63)).all (fun k =>
    let w := slice seq k 64
    decide (w.foldl max 0 ≤ w.foldl min 128 + 16))
def slewRule (seq : List Nat) : Bool := if seq.length < 64 then decide (seq.foldl max 0 ≤ seq.foldl min 128 + 16) else slewOk seq

/-- Rule 0x04: a record that differs, then the slew of each region, reported at the region's first record. -/
def Image.dutyRules (i : Image) : List Breach48 :=
  (placed i.duty).flatMap (fun x => breachIf (x.2.values != i.dutyBody x.2.phase x.2.scope) (0x04, 9, x.1))
    ++ i.regions.flatMap (fun e => breachIf (!slewRule (i.dutySeq e.region)) (0x04, 9, (i.duty.findIdx? (fun d => d.scope == e.region)).getD 0))

/-! ## Rule 0x05: power (R415) -/

/-- The fixed coefficients of R415 in mW by mode: region, core, duty. -/
def powerFixed : List (List Nat) := [[28750, 28125, 18750], [644, 259, 117], [126, 68, 43]]

/-- The energies of R415 in 0.1 pJ by mode: sense cycle, HBM byte, Lamni frame, host byte. -/
def powerEnergy : List (List Nat) := [[8050, 4880, 2920], [219, 219, 219], [64000, 64000, 64000], [1450, 1450, 1450]]

/-- A coefficient. -/
def coeff (t : List (List Nat)) (k m : Nat) : Nat := ((t[k]?).getD [])[m]?.getD 0

/-- How many of `n` sense cycles, the first at tick `first` and one every 32 ticks, begin in a stroke. -/
def sensesIn (s : Nat) (x : Nat × Nat) : Nat :=
  let before (t : Nat) : Nat := min x.2 (ceilDiv (t - x.1) 32)
  before (4096 * (s + 1)) - before (4096 * s)

/-- The checker's estimate in whole watts of a stroke of a body in mode `m`. -/
def Image.estimate (i : Image) (ops : List BodyOp) (phase s m : Nat) : Nat :=
  let of_ (l : List Slot) := l.filter (fun e => e.phase == phase)
  let bytes (l : List Slot) : Nat := (of_ l).foldl (fun n e => n + e.bytes) 0
  let cores := i.regions.foldl (fun n e => n + popcount e.coreMask) 0
  let duty := i.regions.foldl (fun n e => n + ((i.dutyBody phase e.region)[s]?).getD 0) 0
  let sense := ops.foldl (fun n b => n + sensesIn s b.senses) 0
  let frames := (of_ i.linkSlots).foldl (fun n e => n + ceilDiv e.bytes 208) 0
  let fixed := coeff powerFixed 0 m * i.regions.length + coeff powerFixed 1 m * cores + coeff powerFixed 2 m * duty
  let energy := coeff powerEnergy 0 m * sense + coeff powerEnergy 1 m * bytes i.memSlots + coeff powerEnergy 2 m * frames
    + coeff powerEnergy 3 m * bytes i.hostSlots
  let rate := match codeMode m with | some k => ticksPerUs k | none => 0
  ceilDiv (fixed * 40960000 + energy * rate) 40960000000

/-- The package figures of R23 by mode. -/
def packagePower : List Nat := [1750, 1150, 650]

/-- Rule 0x05: a declared figure below the estimate or above the package figure. -/
def Image.powerRules (i : Image) : List Breach48 :=
  (placed i.power).flatMap (fun x =>
    let ops := i.body x.2.phase 0
    let bad := (List.range (x.2.values.length / 3)).any (fun s => (List.range 3).any (fun m =>
      let v := (x.2.values[3 * s + m]?).getD 0
      bitOf i.pressureRange m && (decide (v < i.estimate ops x.2.phase s m) || decide ((packagePower[m]?).getD 0 < v))))
    breachIf bad (0x05, 10, x.1))

/-! ## Rule 0x06: budgets (R20, R22, R244, R245) -/

/-- The first entry, in order, at which a sum of bytes passes a limit. -/
def overBudget (sec limit : Nat) : List (Nat × Slot) → Nat → List Breach48
  | [], _ => []
  | (k, e) :: l, n => if limit < n + e.bytes then [(0x06, sec, k)] else overBudget sec limit l (n + e.bytes)

/-- Lanes in use at an entry's first lane tick, entries in order: more than the stack has (R244). -/
def laneRules (lanes : Nat) (es : List (Nat × Slot)) : List Breach48 :=
  es.filterMap (fun x =>
    let at_ := es.filter (fun y => y.2.unit / 32 == x.2.unit / 32 && decide (y.2.start ≤ x.2.start) && decide (x.2.start < y.2.start + y.2.lanes))
    (at_[lanes]?).map (fun y => (0x06, 5, y.1)))

/-- Rule 0x06. -/
def Image.budgetRules (i : Image) (class0 : Bool) : List Breach48 :=
  let m := fastCode i
  let at_ (t : List Nat) : Nat := (t[m]?).getD 0
  let phases := (List.range i.phases.length).flatMap (fun p =>
    let of_ (l : List Slot) := (placed l).filter (fun x => x.2.phase == p)
    let mem := of_ i.memSlots
    let link := of_ i.linkSlots
    let host := of_ i.hostSlots
    overBudget 5 (at_ [20992000, 27989333, 41984000]) mem 0
      ++ (List.range 8).flatMap (fun s => overBudget 5 (stackBudget class0 i.express m) (mem.filter (fun x => x.2.unit / 32 == s)) 0)
      ++ laneRules (at_ [3, 4, 6]) mem
      ++ [false, true].flatMap (fun out =>
          let dir (l : List (Nat × Slot)) := l.filter (fun x => x.2.out == out)
          overBudget 6 (at_ [16384000, 21845333, 32768000]) (dir link) 0
            ++ (List.range 16).flatMap (fun n => overBudget 6 (at_ [1024000, 1365333, 2048000]) ((dir link).filter (fun x => x.2.unit == n)) 0)
            ++ overBudget 7 (at_ [512000, 682666, 1024000]) (dir host) 0))
  let odd (b : BodyOp) : Bool :=
    match b.op with
    | .opt o => (runPlots o.first.val o.count o.even).any (fun q => q % 2 == 1)
    | .dummy first count _ even => (runPlots first count even).any (fun q => q % 2 == 1)
    | _ => false
  let light := if !bitOf i.pressureRange 2 then [] else
    (placed i.regions).flatMap (fun x => breachIf ((List.range 64).any (fun k => bitOf x.2.opticalMask (2 * k + 1))) (0x06, 1, x.1))
      ++ (List.range i.phases.length).flatMap (fun p => (i.body p 0).flatMap (fun b => breachIf (odd b) (b.breach 0x06)))
  phases ++ light

/-! ## Rule 0x07: padded routes (R56, R60, R131) -/

/-- A read for R56: its issue tick, its tick, the bytes, and its entry. -/
structure Read56 where
  issue : Nat
  tick : Nat
  mem : Space
  lo : Nat
  hi : Nat
  sec : Nat
  index : Nat
  of_ : Nat
deriving DecidableEq, Repr

/-- The escape entries of a core in a phase, in slot and booking order (R131). -/
def Image.escapes (i : Image) (phase region core : Nat) : List (Nat × Slot) :=
  let es := (placed i.coxSlots).filter (fun x => x.2.phase == phase && x.2.region == region && x.2.core == core && !x.2.sequencer)
  (List.range 32).flatMap (fun k => es.filter (fun x => x.2.start == 128 * k))

/-- The descriptor reads of a phase's body (R131): tick, place in the escape ring, and the slot entry. -/
def Image.escapeReads (i : Image) (phase : Nat) : List (Nat × Space × Nat × Nat) :=
  match i.phases[phase]? with
  | none => []
  | some p =>
    i.regions.flatMap (fun e => (List.range 32).flatMap (fun lc =>
      let es := (i.escapes phase e.region lc).flatMap (fun x => List.replicate x.2.bytes x)
      (List.range p.bodyPieces).flatMap (fun k => (List.range (max 1 i.L)).flatMap (fun s => (placed es).map (fun x =>
        let j := s * es.length + x.1
        (k * i.pieceTicks + 4096 * s + x.2.2.start, Space.core e.region lc, e.coreStaging - 4096 + 16 * (j % 256), x.2.1))))))

/-- The reads of instructions, each numbered by its instruction's place. -/
def readsOf (ops : List BodyOp) : List Read56 :=
  (placed ops).flatMap (fun x => x.2.occ.filterMap (fun o =>
    match o.mem with
    | some m => if o.reads then some { issue := x.2.tick, tick := o.tick, mem := m, lo := o.addr, hi := o.addr + o.size, sec := x.2.sec, index := x.2.index, of_ := x.1 } else none
    | none => none))

/-- A write: its issue tick, its arrival, the bytes. -/
structure Write56 where
  issue : Nat
  tick : Nat
  span : Nat
  mem : Space
  lo : Nat
  hi : Nat
  of_ : Nat
  sec : Nat
  index : Nat
deriving DecidableEq, Repr

/-- The writes of instructions. -/
def writesOf (ops : List BodyOp) : List Write56 :=
  (placed ops).flatMap (fun x => x.2.occ.filterMap (fun o =>
    match o.mem with
    | some m => if o.writes then some { issue := x.2.tick, tick := o.tick, span := o.span, mem := m, lo := o.addr, hi := o.addr + o.size, of_ := x.1, sec := x.2.sec, index := x.2.index } else none
    | none => none))

/-- A consumer that issues before the data it reads have arrived (R56): a write on its way when it issues, or one that lands before the
byte is read; of HBM, a write occurrence whose last lane tick is less than 256 ticks before the read occurrence. -/
def early (r : Read56) (w : Write56) : Bool :=
  r.mem == w.mem && overlap r.lo r.hi w.lo w.hi &&
    (if r.mem = .hbm then decide (w.tick < r.tick) && decide (r.tick < w.tick + w.span + 255)
     else r.of_ != w.of_ && decide (r.issue ≤ w.tick) && (decide (w.issue < r.issue) || decide (w.tick < r.tick)))

/-- The ticks from which to which a region sleeps over a job (R60): from the end of a SLEEP's stroke to 2,048 ticks after the next WAKE. -/
def sleeps (ops : List BodyOp) : List (Nat × Nat × Option Nat) :=
  ops.filterMap (fun b =>
    match b.op with
    | .sleep r =>
      let wakes := ops.filterMap (fun a => match a.op with | .wake q => if q = r && b.tick < a.tick then some a.tick else none | _ => none)
      some (r, (b.tick / 4096 + 1) * 4096, (leastOf wakes).map (· + 2048))
    | _ => none)

/-- The region whose resource an occupancy takes. -/
def Res.region : Res → Nat
  | .cread r _ _ | .cwrite r _ | .rread r _ | .rwrite r _ | .xbar r _ _ | .array r _ _ | .drain r _ _ | .plot r _ | .xout r _ | .xin r _
  | .meshOut r | .meshIn r | .bankA r | .bankB r _ => r

/-- The words that a sleeping region's streams still carry (R60). -/
def StreamOp.quiet : StreamOp → Bool
  | .nop | .piece _ | .change _ | .catch => true
  | _ => false

/-- Whether an instruction runs in a sleeping region. -/
def runsAsleep (z : List (Nat × Nat × Option Nat)) (b : BodyOp) : Bool :=
  let meets (r first last : Nat) : Bool := z.any (fun s => s.1 == r && decide (s.2.1 < last) && (match s.2.2 with | some e => decide (first < e) | none => true))
  !b.op.quiet && (meets b.region b.tick (b.tick + 1) || b.occ.any (fun o => match o.res with | some r => meets r.region o.tick (o.tick + o.span) | none => false))

/-- Rule 0x07 over a whole job. -/
def Image.routeRules (i : Image) (ops : List BodyOp) : List Breach48 :=
  let ws := writesOf ops
  let rs := readsOf ops
  let esc := i.runs.flatMap (fun x => (i.escapeReads x.1).map (fun e =>
    { issue := e.1 + x.2.2, tick := e.1 + x.2.2, mem := e.2.1, lo := e.2.2.1, hi := e.2.2.1 + 16, sec := 8, index := e.2.2.2, of_ := ops.length : Read56 }))
  let z := sleeps ops
  (rs ++ esc).flatMap (fun r => breachIf (ws.any (early r)) (0x07, r.sec, r.index))
    ++ ops.flatMap (fun b => breachIf (runsAsleep z b) (b.breach 0x07))

/-! ## Rule 0x08: the cox (R129, R130, R244) -/

/-- The index of the first ARR.TILE word of a core in a phase. -/
def Image.firstTile (i : Image) (phase region core : Nat) : Option Nat :=
  (i.coreStreams.filter (fun s => s.phase == phase && s.region == region && s.core == some core)).findSome? (fun s =>
    ((placed s.words).find? (fun w => match w.2.op with | .tile _ => true | _ => false)).map (fun w => s.index + w.1))

/-- Rule 0x08. -/
def Image.coxRules (i : Image) : List Breach48 :=
  let tiles (e : Slot) : Bool := !e.sequencer && (i.firstTile e.phase e.region e.core).isSome
  let same (a b : Slot) : Bool := a.phase == b.phase && a.region == b.region && a.core == b.core && a.sequencer == b.sequencer
  let staging (e : Slot) : Nat := ((i.regions.find? (fun r => r.region == e.region)).map (·.coreStaging)).getD 0
  (placed i.coxSlots).flatMap (fun x =>
      let booked : Nat := ((i.coxSlots.take (x.1 + 1)).filter (same x.2)).foldl (fun n e => n + e.bytes) 0
      breachIf (x.2.start % 128 != 0 || x.2.len != 128 || x.2.bytes == 0 || decide (2 < x.2.bytes) || decide (16 < booked) || !tiles x.2
        || decide (staging x.2 < 4096)) (0x08, 8, x.1))
    ++ (placed i.memSlots).flatMap (fun x =>
      let before := (i.memSlots.take x.1).filter (fun e => e.use == 1)
      let crowd := (before.filter (fun e => e.phase == x.2.phase && e.unit == x.2.unit)).length
      breachIf (x.2.use == 1 && (!tiles x.2 || x.2.out || x.2.bytes != 256 || before.any (same x.2) || decide (32 ≤ crowd))) (0x08, 5, x.1))
    ++ i.coreStreams.flatMap (fun s =>
      match s.core with
      | some lc =>
        match i.firstTile s.phase s.region lc with
        | some k => breachIf (!(i.memSlots.any (fun e => e.use == 1 && !e.sequencer && e.phase == s.phase && e.region == s.region && e.core == lc))) (0x08, 3, k)
        | none => []
      | none => [])

/-! ## Rule 0x09: the express window (R37) -/

/-- Whether ticks lie as an express mode must: inside the window for mode 1, outside it for mode 0. -/
def inExpress (inside : Bool) (t span : Nat) : Bool :=
  let k := t % 4096
  if inside then decide (3584 ≤ k) && decide (k + span ≤ 4096) else decide (k + span ≤ 3584)

/-- The resources of the region and chip levels that the window reserves (R12, R37). -/
def Res.shared : Res → Bool
  | .plot .. | .rread .. | .rwrite .. | .xbar .. | .meshOut _ | .meshIn _ => true
  | _ => false

/-- Rule 0x09: bookings by their ticks; cores named by the resource map, a stream descriptor, a slot owner or an exchange. -/
def Image.expressRules (i : Image) (class0 : Bool) (cores : Nat) : List Breach48 :=
  let inside := i.express == 1
  let express (lc : Nat) : Bool := decide (32 ≤ lc + cores)
  if i.express = 2 then breachIf class0 (0x09, 0, 0x056)
  else if i.express = 0 && !class0 then []
  else
    let out (lc : Nat) : Bool := express lc != inside
    let slots (sec : Nat) (l : List Slot) := (placed l).flatMap (fun x =>
      breachIf (!inExpress inside x.2.start x.2.len || (!x.2.sequencer && out x.2.core)) (0x09, sec, x.1))
    let owners := (placed i.coxSlots).flatMap (fun x => breachIf (!x.2.sequencer && out x.2.core) (0x09, 8, x.1))
    let streams := (placed i.coreStreams).flatMap (fun x =>
      breachIf ((x.2.core.map out).getD false) (0x09, 3, x.1)
        ++ (placed x.2.words).flatMap (fun w => match w.2.op with
          | .xchCore o | .xchRegion o => breachIf (out o.dstCore.val) (0x09, 3, x.2.index + w.1)
          | _ => []))
    (placed i.regions).flatMap (fun x => breachIf ((List.range 32).any (fun lc => bitOf x.2.coreMask lc && out lc)) (0x09, 1, x.1))
      ++ streams ++ owners ++ slots 5 i.memSlots ++ slots 6 i.linkSlots ++ slots 7 i.hostSlots
      ++ (List.range i.phases.length).flatMap (fun p => (i.body p 0).flatMap (fun b =>
        breachIf (b.occ.any (fun o => match o.res with | some r => r.shared && !inExpress inside o.tick o.span | none => false)) (b.breach 0x09)))

/-! ## Rule 0x0B: held inputs (R31, R290) -/

/-- A range less another. -/
def lessRange (a b : Nat) (x : Nat × Nat) : List (Nat × Nat) :=
  (if x.1 < min x.2 a then [(x.1, min x.2 a)] else []) ++ (if max x.1 b < x.2 then [(max x.1 b, x.2)] else [])

/-- Rule 0x0B: what piece m reads before it writes it is not written by piece m nor by the `W - 1` pieces that follow. -/
def Image.heldRules (i : Image) (ops : List BodyOp) (deltaF : Nat) : List Breach48 :=
  let W := ceilDiv (i.D + deltaF) (max 1 i.L) + 1
  let pt := i.pieceTicks
  let ws := writesOf ops
  let esc := i.runs.flatMap (fun x => (i.escapeReads x.1).map (fun e =>
    { issue := e.1 + x.2.2, tick := e.1 + x.2.2, mem := e.2.1, lo := e.2.2.1, hi := e.2.2.1 + 16, sec := 8, index := e.2.2.2, of_ := ops.length : Read56 }))
  (readsOf ops ++ esc).flatMap (fun r =>
    let m := r.issue / pt
    let own := ws.filter (fun w => w.mem == r.mem && w.issue / pt == m && decide (w.tick < r.tick) && overlap w.lo w.hi r.lo r.hi)
    let open_ := own.foldl (fun l w => l.flatMap (lessRange w.lo w.hi)) [(r.lo, r.hi)]
    ws.flatMap (fun w =>
      let n := w.issue / pt
      breachIf (w.mem == r.mem && decide (m ≤ n) && decide (n < m + W) && open_.any (fun x => overlap x.1 x.2 w.lo w.hi)) (0x0B, w.sec, w.index)))

/-! ## Rule 0x0C: closure and markers (R52, R53, R55, R57, R58) -/

/-- The markers of a stream: every piece of the body once, at its first tick. -/
def pieceMarks (i : Image) (p : PhaseEntry) (sec : Nat) (s : Stream) (ops : List BodyOp) : List Breach48 :=
  let pt := i.pieceTicks
  let marks := ops.filterMap (fun b => match b.op with | .piece k => some (b, k) | _ => none)
  ops.flatMap (fun b => breachIf (decide (i.bodyTicks p ≤ b.tick)) (b.breach 0x0C))
    ++ (placed marks).flatMap (fun x =>
      breachIf (x.2.1.tick % pt != 0 || x.2.2 != x.2.1.tick / pt || (marks.take x.1).any (fun y => y.1.tick / pt == x.2.1.tick / pt)) (x.2.1.breach 0x0C))
    ++ breachIf (!s.words.isEmpty && (List.range p.bodyPieces).any (fun k => !(marks.any (fun x => x.1.tick == k * pt)))) (0x0C, sec, s.index)

/-- The occupancies of an instruction within the piece in which it issues, and its move whole (R55). -/
def closed (pt : Nat) (b : BodyOp) : Bool :=
  let k := b.tick / pt
  b.left == 0 && b.occ.all (fun o => decide (k * pt ≤ o.tick) && decide (o.tick + o.span ≤ (k + 1) * pt))

/-- The catches of R58. -/
def Image.catchRules (i : Image) : List Breach48 :=
  if i.lamniMask = 0 then []
  else (placed i.phases).flatMap (fun x =>
    match (List.range 16).find? (bitOf x.2.mask) with
    | none => []
    | some g =>
      let ss := i.seqStreams.filter (fun s => s.phase == x.1 && s.region == g)
      let at_ := ss.flatMap (fun s => (withTicks s.words 0).filterMap (fun w => match w.2.op with | .catch => some w.1 | _ => none))
      breachIf ((List.range x.2.bodyPieces).any (fun k => !(at_.contains (k * i.pieceTicks)))) (0x0C, 4, ((ss.head?).map (·.index)).getD 0))

/-! ## Rules 0x0D and 0x0E -/

/-- Rule 0x0D: units outside the resource map or the phase's mask. -/
def Image.mapRules (i : Image) : List Breach48 :=
  let has (phase r : Nat) : Bool := i.regions.any (fun e => e.region == r) && (match i.phases[phase]? with | some p => bitOf p.mask r | none => false)
  let core (r lc : Nat) : Bool := i.regions.any (fun e => e.region == r && bitOf e.coreMask lc)
  let plots (r : Nat) (l : List Nat) : Bool := i.regions.any (fun e => e.region == r && e.optical && l.all (bitOf e.opticalMask))
  let word (phase r : Nat) : StreamOp → Bool
    | .opt o => decide (o.count ≠ 0) && !plots r (runPlots o.first.val o.count o.even)
    | .dummy first count _ even => decide (count ≠ 0) && !plots r (runPlots first count even)
    | .xchCore o | .xchRegion o => !(has phase o.dstRegion.val && core o.dstRegion.val o.dstCore.val)
    | .wake q | .sleep q => !(i.regions.any (fun e => e.region == q))
    | _ => false
  let streams (sec : Nat) (l : List Stream) := (placed l).flatMap (fun x =>
    let s := x.2
    breachIf (!has s.phase s.region || (match s.core with | some lc => !core s.region lc | none => false)) (0x0D, sec, x.1)
      ++ (placed s.words).flatMap (fun w => breachIf (word s.phase s.region w.2.op) (0x0D, sec, s.index + w.1)))
  let slots (sec : Nat) (l : List Slot) := (placed l).flatMap (fun x =>
    breachIf (!has x.2.phase x.2.region || (!x.2.sequencer && !core x.2.region x.2.core)
      || (sec == 5 && decide (ceilDiv i.window windowStack ≤ x.2.unit / 32)) || (sec == 7 && !bitOf i.hostMask x.2.unit)) (0x0D, sec, x.1))
  streams 3 i.coreStreams ++ streams 4 i.seqStreams ++ slots 5 i.memSlots ++ slots 6 i.linkSlots ++ slots 7 i.hostSlots ++ slots 8 i.coxSlots

/-- Rule 0x0E: the changeover markers of R59, and none in phase 0. -/
def Image.changeRules (i : Image) : List Breach48 :=
  let stream (sec : Nat) (s : Stream) : List Breach48 :=
    let flagged := match i.phases[s.phase]? with | some p => p.changeover | none => false
    let good (k : Nat) (w : IWord) : Bool := flagged && k == 1 && w.delta == 0 && (match w.op with | .change q => q == s.phase | _ => false)
    (placed s.words).flatMap (fun x => match x.2.op with | .change _ => breachIf (!good x.1 x.2) (0x0E, sec, s.index + x.1) | _ => [])
      ++ breachIf (flagged && !s.words.isEmpty && !(match s.words[0]?, s.words[1]? with
          | some a, some b => a.delta == 0 && a.op == .piece 0 && (match b.op with | .change _ => true | _ => false)
          | _, _ => false)) (0x0E, sec, s.index)
  breachIf ((i.phases.head?).any (·.changeover)) (0x0E, 2, 0) ++ i.coreStreams.flatMap (stream 3) ++ i.seqStreams.flatMap (stream 4)

/-! ## The verification (R46) -/

/-- The rules of R48 that look at the streams of one section. -/
def Image.streamRules (i : Image) (sec : Nat) (l : List Stream) : List Breach48 :=
  l.flatMap (fun s =>
    match i.phases[s.phase]? with
    | none => []
    | some p =>
      let ops := walkWords i p s sec 0 s.words s.index 0 {}
      issueRules sec s.words s.index 1 0 [] ++ pieceMarks i p sec s ops ++ (if sec = 3 then tileRules i.pieceTicks ops [] else []))

/-- The first rule that an image breaks, in sub-code order (R46 step 6, R48). -/
def Chip.checkRules (c : Chip) (i : Image) : Option Breach48 :=
  let ops := i.jobOps
  firstBreach (i.slotRules ++ loadRules (usesOf ops) ++ writeRules ops ++ i.streamRules 3 i.coreStreams ++ i.streamRules 4 i.seqStreams
    ++ ops.flatMap (fun b => breachIf (i.slotBroken b) (b.breach 0x01)) ++ sharedSlots ops
    ++ i.dutyRules ++ i.powerRules ++ i.budgetRules c.cfg.class0 ++ i.routeRules ops ++ i.coxRules
    ++ i.expressRules c.cfg.class0 c.cfg.expressCores.toNat ++ breachIf (decide (i.D < 1563)) (0x0A, 0, 0x05A) ++ i.heldRules ops (c.deltaF i)
    ++ ops.flatMap (fun b => breachIf (!closed i.pieceTicks b) (b.breach 0x0C)) ++ i.catchRules ++ i.mapRules ++ i.changeRules)

/-- Steps 1 to 6 of R46 on a byte string: the first failure. -/
def Chip.verify (c : Chip) (b : List Byte) : Option LoadFail :=
  let i := readImage b 0
  step1 c.cfg.class0 b <|> step2 b
    <|> failIf (i.digest != BitVec.ofNat 512 (leAt b 0x10 64)) { status := statusDigest, entry := 0x10 }
    <|> failIf (i.apid != c.vault.apid) { status := statusApid, entry := 0x50 }
    <|> failIf (!(bitOf i.pressureRange 1 || bitOf i.pressureRange 2 || (bitOf i.pressureRange 0 && !c.vault.gradeH)))
        { status := statusPressure, entry := 0x54 }
    <|> (c.checkRules i).map (fun x => { status := statusCheck, sub := x.1, sec := x.2.1, entry := x.2.2 })

end Sys2Proof.Machine
end

