-- ==== Sys2Proof/Machine/Load.lean ====
section
/-! DEFINITION. Loading images (R46, R47, R310, R311): segments, the end of a check, the switch to a replacing copy, unloading. -/

namespace Sys2Proof.Machine

/-- A load is discarded. -/
def Chip.dropLoad (c : Chip) (l : Load) : Chip := { c with sch := { c.sch with loads := c.sch.loads.filter (fun k => decide (k ≠ l)) } }

/-- The open load of a queue: the one that segments still continue. -/
def Chip.openLoad (c : Chip) (q : BitVec 15) : Option Load := c.sch.loads.find? (fun l => l.queue == q && !l.complete)

/-- Whether a first segment may open a load (R46, R47, R311): its length, its range, the count of images held. -/
def Chip.mayOpen (c : Chip) (q : BitVec 15) (base len : Nat) : Bool :=
  let others := c.sch.loads.filter (fun l => !(l.queue == q && !l.complete))
  let busy := (c.sch.images ++ c.sch.replacing).map (fun i => (i.base, i.length)) ++ others.map (fun l => (l.base, l.length)) ++ c.jobRanges (fun _ => true)
  let full := decide (64 ≤ c.sch.images.length)
  let beyond := c.jobs.any (fun j => j.st == .held .image) && !(others.any (·.replaceOnly))
  decide (1024 ≤ len) && decide (len ≤ 2 ^ 32) && decide (base + len ≤ dataSpace) && !(busy.any (meets (base, len))) && (!full || beyond)

/-- The bytes of a segment come to HBM; the segment that completes the image is answered after the check (R311). -/
def Chip.putSegment (c : Chip) (h : Hdr) (l : Load) (data : List Byte) : Chip :=
  let c := c.writeData (l.base + l.got) data
  let l := { l with got := l.got + data.length }
  if l.got = l.length then { c with sch := { c.sch with loads := c.sch.loads ++ [{ l with complete := true, ref := h.seq, tag := h.tag }] } }
  else ({ c with sch := { c.sch with loads := c.sch.loads ++ [l] } }).receipt h statusOk

/-- LOAD_SEGMENT (R310, R311). A first segment on a queue whose load is open takes that load's place; one that is refused leaves it. -/
def Chip.segment (c : Chip) (h : Hdr) (segLen base off : Nat) (data : List Byte) : Chip :=
  let data := data.take segLen
  let old := c.openLoad h.queue
  let c' := match old with | some l => c.dropLoad l | none => c
  if segLen < 16 || 8192 < segLen || segLen % 16 ≠ 0 then c.receipt h statusBadField
  else if off = 0 then
    let len := leAt data 8 8
    if !c.mayOpen h.queue base len || len < segLen then c.receipt h statusLenRange
    else c'.putSegment h { queue := h.queue, base := base, length := len, got := 0, ref := 0, tag := 0, complete := false
                           replaceOnly := decide (64 ≤ c.sch.images.length) } data
  else match old with
    | none => c.receipt h statusBadField
    | some l =>
      if l.base ≠ base || l.got ≠ off then c'.receipt h statusBadField
      else if l.length < l.got + segLen then c.receipt h statusLenRange
      else c'.putSegment h l data
def execLoadSegment (h : Hdr) (res : BitVec 24) (segLen : Nat) (imageOffset offset : BitVec 64) (data : List Byte) (s : State) :
    Host.Outcome State Fault Refusal :=
  act (fun c => c.treat h (decide (24 + segLen ≤ h.length)) c.serves (fun c =>
    if res ≠ 0 then c.receipt h statusBadField else c.segment h segLen imageOffset.toNat offset.toNat data)) s

/-- An unload that is accepted (R46, R311). -/
def Chip.unload (c : Chip) (h : Hdr) (id : BitVec 256) : Chip :=
  match c.image? id with
  | none => c.receipt h statusDigest
  | some _ =>
    if c.jobs.any (fun j => j.image == id && (j.holds || j.onPause)) then c.receipt h statusBadField
    else
      let keep (l : List Image) := l.filter (fun i => decide (i.id ≠ id))
      ({ c with sch := { c.sch with images := keep c.sch.images, replacing := keep c.sch.replacing } }).receipt h statusOk
/-- LOAD_UNLOAD (R310, R311): reserved bytes 0, 32 bytes of data, offset 0. -/
def execLoadUnload (h : Hdr) (res : BitVec 24) (segLen : Nat) (offset : BitVec 64) (imageId : BitVec 256) (s : State) :
    Host.Outcome State Fault Refusal :=
  act (fun c => c.treat h (decide (24 + segLen ≤ h.length)) c.serves (fun c =>
    if res ≠ 0 || segLen ≠ 32 || offset ≠ 0 then c.receipt h statusBadField else c.unload h imageId)) s

/-- The outcome of a check is recorded and answered (R49, R311): the image identifier is the one of the header as received. -/
def Chip.loadDone (c : Chip) (l : Load) (f : LoadFail) (id : Nat) : Chip :=
  let c := { c with sch := { c.sch with
    lastStatus := BitVec.ofNat 8 f.status, lastSub := BitVec.ofNat 8 f.sub, lastSection := BitVec.ofNat 16 f.sec, lastEntry := BitVec.ofNat 32 f.entry } }
  c.send l.queue.toNat l.tag (some l.ref)
    (.loadDone (BitVec.ofNat 8 f.status) (BitVec.ofNat 8 f.sub) l.ref (BitVec.ofNat 256 id) (BitVec.ofNat 32 f.entry) (BitVec.ofNat 16 f.sec))

/-- CHECK_COMPLETE (R46, R47, R252): the load of a queue that waits for its check. An image that could not be read without an uncorrectable
codeword fails with IMAGE_DIGEST. -/
def Chip.checkComplete (c : Chip) (q : BitVec 15) (readBad : Bool) : Chip :=
  match c.sch.loads.find? (fun l => l.queue == q && l.complete) with
  | none => c
  | some l =>
    let c := c.dropLoad l
    let bytes := readWindow c.mem.hbm 0 l.base l.length
    let id := leAt bytes 0x10 32
    if readBad then
      let at_ := l.base + Config.figure c.freeCtr % max 1 l.length
      (c.draw.2.channelFault (windowAddr 0 at_) false).loadDone l { status := statusDigest, entry := 0x10 } id
    else match c.verify bytes with
      | some f => c.loadDone l f id
      | none =>
        let i := readImage bytes l.base
        let held := (c.image? i.id).isSome
        if held then
          let rest := c.sch.replacing.filter (fun k => decide (k.id ≠ i.id))
          ({ c with sch := { c.sch with replacing := rest ++ [i] } }).loadDone l { status := statusOk } id
        else if l.replaceOnly || decide (64 ≤ c.sch.images.length) then c.loadDone l { status := statusLenRange } id
        else ({ c with sch := { c.sch with images := c.sch.images ++ [i] } }).loadDone l { status := statusOk } id
def execCheckComplete (queue : BitVec 15) (readBad : Bool) (s : State) : Host.Outcome State Fault Refusal :=
  act (fun c => c.checkComplete queue readBad) s

/-- IMAGE_REPLACE (R47, R82): from this stroke boundary on the jobs of the image use the new copy; a job held for it is released, and re-rows
at the next stroke boundary. -/
def Chip.imageReplace (c : Chip) (id : BitVec 256) : Chip :=
  match c.sch.replacing.find? (fun i => i.id == id) with
  | none => c
  | some i =>
    { c with
      sch := { c.sch with
        images := c.sch.images.map (fun k => if k.id = id then i else k), replacing := c.sch.replacing.filter (fun k => decide (k.id ≠ id)) }
      jobs := c.jobs.map (fun j => if j.image = id && j.st = .held .image then { j with st := .running } else j) }
def execImageReplace (imageId : BitVec 256) (s : State) : Host.Outcome State Fault Refusal := act (fun c => c.imageReplace imageId) s

end Sys2Proof.Machine
end

