-- ==== Sys2Proof/Machine/Bulk.lean ====
section
/-! DEFINITION. BULK packets (R313) and input streams (R315, R316). -/

namespace Sys2Proof.Machine

/-- A BULK length that the device takes (R313). -/
def bulkLength (len : Nat) : Bool := decide (len ≤ 8192) && len % 16 == 0

/-- Whether a range meets a loaded image, a load in progress, or a window or save area of a running job (R313). -/
def Chip.bulkBusy (c : Chip) (r : Nat × Nat) : Bool := (c.imageRanges ++ c.jobRanges (fun j => j.holds)).any (meets r)

/-- The checks of op 1 and op 2 (R313): the status. -/
def Chip.bulkStatus (c : Chip) (addr len : Nat) : Nat :=
  if !bulkLength len then statusLenRange
  else if dataSpace < addr + len then statusLenRange
  else if c.bulkBusy (addr, len) then statusBadField
  else statusOk

/-- Whether the device takes this packet in recovery (R327): a BULK write on queue 0. -/
def Chip.takesBulk (c : Chip) (h : Hdr) : Bool := c.serves || (c.start.recovery && h.queue == 0)

/-- The stack at which a range of the data space starts. -/
def dataStack (addr : Nat) : Nat := addrStack (windowAddr 0 addr)

/-- The bytes of the data space as a transfer reads them: those of an uncorrectable codeword are open (R252; log entry 142). -/
def Chip.readData (c : Chip) (addr len : Nat) (code : HbmCode) : List Byte :=
  match code.bad with
  | none => readWindow c.mem.hbm 0 addr len
  | some L => (List.range len).map (fun i =>
      let a := windowAddr 0 (addr + i)
      if a / 16 = L / 16 then BitVec.ofNat 8 (Config.figure (c.freeCtr + i)) else getByte c.mem.hbm a)

/-- BULK_WRITE_DATA (R313): reserved bytes that are not 0 are refused, as in every BULK packet (log entry 80). -/
def execBulkWriteData (h : Hdr) (res : BitVec 24) (len : Nat) (addr : BitVec 64) (data : List Byte) (code : HbmCode) (s : State) :
    Host.Outcome State Fault Refusal :=
  act (fun c => c.treat h (decide (16 ≤ h.length) && decide (16 + len ≤ h.length)) (c.takesBulk h) (fun c =>
    let st := if res ≠ 0 then statusBadField else c.bulkStatus addr.toNat len
    if st = statusOk then ((c.writeData addr.toNat (data.take len)).hbmCode (dataStack addr.toNat) code).receipt h statusOk else c.receipt h st)) s

/-- BULK_READ_DATA (R313): one BULK_DATA packet, or a receipt with the refusal. -/
def execBulkReadData (h : Hdr) (res : BitVec 24) (len : Nat) (addr : BitVec 64) (code : HbmCode) (s : State) : Host.Outcome State Fault Refusal :=
  act (fun c => c.treat h (decide (16 ≤ h.length)) c.serves (fun c =>
    let st := if res ≠ 0 then statusBadField else c.bulkStatus addr.toNat len
    if st = statusOk then
      let bytes := c.readData addr.toNat len code
      let c := ({ c with freeCtr := if code.bad.isSome then c.freeCtr + len else c.freeCtr } : Chip).hbmCode (dataStack addr.toNat) code
      c.answer h (.bulkData 0 h.seq addr bytes)
    else c.receipt h st)) s

/-- The complete prefix once a range is written: the lowest stream byte not yet written (R316). -/
def prefixOf (p : Nat) : Nat → List (Nat × Nat) → Nat
  | 0, _ => p
  | n + 1, rs =>
    match rs.find? (fun r => decide (r.1 ≤ p) && decide (p < r.2)) with
    | some r => prefixOf r.2 n rs
    | none => p

/-- A job whose stream bytes from `a` up to `b` are written. -/
def Job.written (j : Job) (a b : Nat) : Job :=
  let rs := j.inRanges ++ (if a < b then [(a, b)] else [])
  let p := prefixOf j.pIn rs.length rs
  { j with pIn := p, inRanges := rs.filter (fun r => decide (p < r.1)) }

/-- An input stream write (R313, R316): its bytes come to the ring; bytes of committed pieces are not written again. -/
def Chip.writeInput (c : Chip) (h : Hdr) (len off : Nat) (data : List Byte) (code : HbmCode) : Chip :=
  if !bulkLength len then c.receipt h statusLenRange
  else match c.job? (Hdr.jobId h) with
    | none => c.receipt h statusBadField
    | some j =>
      match c.imageOf j with
      | none => c.receipt h statusBadField
      | some i =>
        let low := i.streamAt false j.committed
        let ring := j.body.inBytes.toNat
        if !(i.hostSlots.any (fun e => !e.out)) then c.receipt h statusBadField
        else if low + ring < off + len then c.receipt h statusLenRange
        else
          let skip := low - off
          let from_ := off + skip
          let hbm := writeRing c.mem.hbm j.body.windowBase.toNat j.body.inOff.toNat ring from_ ((data.take len).drop skip)
          let c := { c with mem := { c.mem with hbm := hbm } }
          let c := c.hbmCode (addrStack j.body.windowBase.toNat) code
          (c.upJob j.id (fun k => k.written off (off + len))).receipt h statusOk

/-- BULK_WRITE_INPUT_STREAM (R313, R316). -/
def execBulkWriteInputStream (h : Hdr) (res : BitVec 24) (len : Nat) (offset : BitVec 64) (data : List Byte) (code : HbmCode) (s : State) :
    Host.Outcome State Fault Refusal :=
  act (fun c => c.treat h (decide (16 ≤ h.length) && decide (16 + len ≤ h.length)) c.serves (fun c =>
    if res ≠ 0 then c.receipt h statusBadField else c.writeInput h len offset.toNat data code)) s

end Sys2Proof.Machine
end

