-- ==== Sys2Proof/Machine/Fleet.lean ====
section
/-! DEFINITION. The fleet (R276 to R296): fleet time, weigh-in, lead-in and catches, fault signals and their effects, salvage. -/

namespace Sys2Proof.Machine

/-! ## Fleet time (R279) -/

/-- Whether a fleet job runs: admitted or started (R419). -/
def Chip.fleetJobs (c : Chip) : List Job := c.jobs.filter (fun j => j.fleet && j.holds)

/-- The fleet stroke count set anew (R282, R419): quarantined ports count their 1,024 strokes afresh. -/
def Chip.setFleetStroke (c : Chip) (n : BitVec 48) : Chip :=
  { c with
    clk := { c.clk with fleetStroke := n }
    ports := adjust {} (fun _ => true) (fun q => if q.state = 3 && q.retryAt ≠ 0 then { q with retryAt := n.toNat + 1024 } else q) c.ports }

/-- The history of a port's lead-in frames (R286): base-3 digits, the lowest of the fleet stroke that runs, 0 none, 1 agreeing, 2 not;
16 strokes back are kept. -/
def leadInStep (h : Nat) : Nat := 3 * h % 3 ^ 17

/-- Every agreeing frame of a history becomes a disagreeing one: the job's origin has dropped since. -/
def leadInDemote : Nat → Nat → Nat
  | 0, _ => 0
  | n + 1, h => 3 * leadInDemote n (h / 3) + (if h % 3 = 1 then 2 else h % 3)

/-- The digit of the present stroke set. -/
def leadInSet (h d : Nat) : Nat := h / 3 * 3 + d

/-- The identifier of the image of a job that uses a port, 0 for none (R281). -/
def Chip.portImage (c : Chip) (p : Nat) : BitVec 256 := match c.portJob p with | some j => j.image | none => 0

/-- A WEIGH payload of this device (R281). -/
def Chip.weighMsg (c : Chip) (p : Nat) : WeighMsg :=
  { version := 1, joined := (List.range 16).any (fun n => (c.port n).state == 4), member := c.cfg.member, fleetId := c.cfg.fleetId
    port := BitVec.ofNat 8 p, lastReason := (c.port p).weighReason.setWidth 8, apid := c.vault.apid, fleetDigest := c.cfg.fleetDigest
    portImage := c.portImage p, fleetStroke := c.clk.fleetStroke, serial := c.vault.serial }

/-- What the frame positions of a port that no other frame takes carry in a fleet stroke (R260, R264, R268, R281, R283): IDLE frames; WEIGH
frames in weigh-in; in quarantine a WEIGH frame in the control window (log entry 87). -/
def Chip.portFill (c : Chip) (p : Nat) : List FleetOut :=
  let q := c.port p
  let idle : FleetOut := { port := p, lane := none, hdr := c.portHdr p .idle, msg := .idle }
  let weigh := c.frameOn p (.weigh (c.weighMsg p))
  if q.state = 1 || q.state = 4 then [idle]
  else if q.state = 2 || (q.state = 3 && q.weighing) then [{ weigh with lane := none }]
  else if q.state = 3 then [idle, weigh]
  else []

/-- The frames that fill the ports' positions in a fleet stroke. -/
def Chip.fillPorts (c : Chip) : Chip := { c with fleetOut := c.fleetOut ++ (List.range 16).flatMap c.portFill }

/-- A fleet stroke boundary (R279, R281, R285): the count, once it runs, advances; lead-in CATCH frames go out on the ports of fleet jobs in the
64 strokes before their S0; what else the ports carry in the stroke fills them. -/
def Chip.fleetStroke (c : Chip) : Chip :=
  if !c.clk.refclkOk then c
  else if !c.clk.fleetRunning then c.fillPorts
  else
    let n := c.clk.fleetStroke + 1
    let c : Chip := { c with
      clk := { c.clk with fleetStroke := n, sinceFsync := c.clk.sinceFsync + 1 }
      jobs := c.jobs.map (fun (j : Job) => if j.fleet && j.st == .admitted then
        { j with leadIns := j.leadIns.map (fun e => (e.1, leadInStep e.2)) } else j) }
    let soon (j : Job) : Bool := let s0 := (startStroke j.body)
      j.fleet && j.st == .admitted && decide (s0 ≤ n.toNat + 64) && decide (n.toNat < s0)
    let c := overAll (c.jobs.filter soon) (fun c j => c.sendOn (c.jobPorts j) (.catch (c.catchMsg j true))) c
    c.fillPorts
def execFleetStroke (s : State) : Host.Outcome State Fault Refusal := act Chip.fleetStroke s

/-- FSYNC_EDGE (R279, R419): an edge, its place given in half nanoseconds from the nearest expected edge's grid boundary. The first after
power-up starts the count; one within 10 ns aligns the grid; another is ignored while a fleet job runs, else the third in a row at the
same place realigns the grid on it. -/
def Chip.fsyncEdge (c : Chip) (position : Int) : Chip :=
  let seen (c : Chip) : Chip := { c with clk := { c.clk with fsyncOk := true, sinceFsync := 0, strayCount := 0, strayPos := 0 } }
  if !c.clk.fleetRunning then seen { c with clk := { c.clk with fleetRunning := true, fleetStroke := 0 } }
  else if position.natAbs ≤ 20 then seen c
  else if !c.fleetJobs.isEmpty then c
  else
    let n := if c.clk.strayCount ≠ 0 && (position - c.clk.strayPos).natAbs ≤ 20 then c.clk.strayCount + 1 else 1
    if n < 3 then { c with clk := { c.clk with strayCount := n, strayPos := position } }
    else (seen c).setFleetStroke (BitVec.ofNat 48 ((c.clk.fleetStroke.toNat + 32768) / 65536 * 65536))
def execFsyncEdge (position : Int) (s : State) : Host.Outcome State Fault Refusal := act (fun c => c.fsyncEdge position) s

/-- FSYNC_LOST (R279): no edge for 131,072 fleet strokes is logged, and fleet jobs are refused. -/
def execFsyncLost (s : State) : Host.Outcome State Fault Refusal :=
  act (fun c =>
    if c.clk.fsyncOk && 131072 ≤ c.clk.sinceFsync then
      ({ c with clk := { c.clk with fsyncOk := false } }).eventOpen 0 3 (locusWord none none none) 0
    else c) s

/-! ## Weigh-in (R281 to R283) -/

/-- The first disagreement of R282 with a peer's frame, 0 for none; `n` is the own count when it was sent. -/
def Chip.weighDiffers (c : Chip) (p : Nat) (n : BitVec 48) (w : WeighMsg) : Nat :=
  let joined := (List.range 16).any (fun n => (c.port n).state == 4)
  if w.apid ≠ c.vault.apid then 1
  else if w.fleetId ≠ c.cfg.fleetId then 2
  else if w.fleetDigest ≠ c.cfg.fleetDigest then 3
  else if w.member = c.cfg.member then 4
  else if w.portImage ≠ c.portImage p then 5
  else if joined && w.fleetStroke ≠ n then 6
  else 0

/-- A weigh-in that compares (R265, R282): the port is quarantined for a reason, or comes up; a device that is not joined adopts the count of
one that is, or of a lower member. A port whose hop delay is above the budget less 50 ns is not accepted: it repeats step 5 of its bring-up (R274;
log entry 139). -/
def Chip.weighIn (c : Chip) (p : Nat) (n : BitVec 48) (w : WeighMsg) : Chip :=
  let joined := (List.range 16).any (fun n => (c.port n).state == 4)
  let why := c.weighDiffers p n w
  let c := c.upPort p (fun q => { q with
    weighCount := 0, peerPort := w.port.setWidth 4, peerFleet := w.fleetId, peerMember := w.member })
  if why ≠ 0 then c.quarantine p why
  else if c.cfg.hopBudget.toNat < (c.port p).hop.toNat + 50 then c.upPort p (fun q => { q with state := 1, weighing := false, remeasure := true })
  else
    let c := c.when (!joined && (w.joined || decide (w.member.toNat < c.cfg.member.toNat))) (fun c =>
      c.setFleetStroke (c.clk.fleetStroke + (w.fleetStroke - n)))
    c.upPort p (fun q => { q with state := 4, weighReason := 0, attempts := 0, retryAt := 0, weighing := false, catchMiss := 0, catches := [] })

/-- WEIGH_FRAME (R281, R282): a frame that passes its code counts; the 16th in a row is compared, with the own fleet stroke count at its send
time, `behind` strokes ago. One near a grid boundary is skipped. -/
def execWeighFrame (p : Fin 16) (l : Fin 9) (hdr : FrameHdr) (msg : WeighMsg) (behind : Nat) (nearBoundary : Bool) (code : CodeResult)
    (s : State) : Host.Outcome State Fault Refusal :=
  act (fun c =>
    let q := c.port p.val
    if !(q.state == 2 || (q.state == 3 && q.weighing)) then c
    else c.takeFrame p l hdr code (fun c => c.upPort p.val (fun q => { q with weighCount := 0 })) (fun c =>
      if nearBoundary then c
      else if q.weighCount + 1 < 16 then c.upPort p.val (fun q => { q with weighCount := q.weighCount + 1 })
      else c.weighIn p.val (c.clk.fleetStroke - BitVec.ofNat 48 behind) msg)) s

/-- WEIGH_IN_RETRY (R281): a quarantined port weighs in again every 1,024 fleet strokes. -/
def execWeighInRetry (p : Fin 16) (s : State) : Host.Outcome State Fault Refusal :=
  act (fun c =>
    let q := c.port p.val
    if q.state = 3 && q.retryAt ≠ 0 && q.retryAt ≤ c.clk.fleetStroke.toNat then
      c.upPort p.val (fun q => { q with
        retryAt := c.clk.fleetStroke.toNat + 1024, weighing := true, weighCount := 0, attempts := satAdd q.attempts 1 })
    else c) s

/-- LINK_EXCLUDE (R283, R296): the host takes a port that no job uses out of service. -/
def Chip.linkExclude (c : Chip) (p : Nat) : Chip :=
  if (c.portJob p).isSome then c.upPort p (fun q => { q with ctrlResult := 2 })
  else (c.upPort p (fun q => { q with state := 0, weighReason := 8, ctrlResult := 1, retryAt := 0, weighCount := 0 })).portOut p
def execLinkExclude (p : Fin 16) (s : State) : Host.Outcome State Fault Refusal := act (fun c => c.linkExclude p.val) s

/-! ## Catches (R280, R284 to R286) -/

/-- A job's own distance to its origin (R285): 0 at the origin, else one more than the least that a peer reports for it. -/
def ownDistance (own origin : BitVec 10) (peers : SMap Nat) : BitVec 8 :=
  if origin = own then 0 else satOf 8 (1 + peers.foldl (fun m e => min m e.2) 254)

/-- A lead-in CATCH frame of an admitted fleet job (R285, R286): the origin seen, the distance, whether the frame agrees. -/
def Job.leadIn (j : Job) (own : BitVec 10) (p : Nat) (m : CatchMsg) : Job :=
  let lowest := if m.member.toNat < m.origin.toNat then m.member else m.origin
  let drops := decide (lowest.toNat < j.origin.toNat)
  let origin := if drops then lowest else j.origin
  let hist := if drops then j.leadIns.map (fun e => (e.1, leadInDemote 17 e.2)) else j.leadIns
  let peers : SMap Nat := if drops then [] else j.peerDist
  let agrees := m.imageId == j.image && m.start == j.body.fleetStart.setWidth 48 && m.mode.toNat == modeCode j.mode && m.origin == origin
  let peers := if m.origin = origin then insertAt peers p m.distance.toNat else drop peers p
  { j with
    origin := origin, peerDist := peers, distance := ownDistance own origin peers
    leadIns := insertAt hist p (leadInSet (look 0 hist p) (if agrees then 1 else 2)) }

/-- A CATCH frame of a running job (R280, R284): its offset in 0.1 ns, and whether its stroke, epoch and image are this member's: those of the
own catch that it answers, the frames of a port coming in the order of the catches. -/
def Chip.runCatch (c : Chip) (p l : Nat) (j : Job) (m : CatchMsg) (offset : Int) : Chip :=
  let far := decide (200 < offset.natAbs)
  let n := if far then (c.port p).catchMiss + 1 else 0
  let c := c.upPort p (fun q => { q with
    offset := BitVec.ofInt 16 (max (-32768) (min 32767 offset)), catchMiss := if 3 ≤ n then 0 else n })
  let c := c.when (decide (3 ≤ n)) (fun c => c.linkFault p l 3)
  let due := (c.port p).catches.head?
  let c := c.upPort p (fun q => { q with catches := q.catches.drop 1 })
  if m.imageId = j.image && due == some (m.jobStroke.toNat, m.epoch) then c
  else (c.linkFault p l 4).quarantine p 7

/-- CATCH_FRAME (R280, R285): on a port that is up, for the fleet job that uses it. One that is lost leaves its catch behind. -/
def execCatchFrame (p : Fin 16) (l : Fin 9) (hdr : FrameHdr) (msg : CatchMsg) (offset : Int) (code : CodeResult) (s : State) :
    Host.Outcome State Fault Refusal :=
  act (fun c =>
    if (c.port p.val).state ≠ 4 then c
    else c.takeFrame p l hdr code (fun c => (c.upPort p.val (fun q => { q with catches := q.catches.drop 1 })).linkFault p.val l.val 1) (fun c =>
      match c.portJob p.val with
      | some j =>
        if !j.fleet then c
        else if msg.leadIn then
          if j.st ≠ .admitted then c
          else
            let k := j.leadIn c.cfg.member p.val msg
            let c := c.upJob j.id (fun _ => k)
            overAll (c.jobPorts k) (fun c n => c.upPort n (fun q => { q with distance := k.distance })) c
        else if j.live then c.runCatch p.val l.val j msg offset
        else c
      | none => c)) s

/-- FLEET_JOB_START (R279, R286): at S0 the job starts if every port's last 16 lead-in frames agree and the distance is at most half the
reach; else ABORT is sent and the job ends. -/
def Chip.fleetStart (c : Chip) (j : Job) (i : Image) : Chip :=
  let recent (p : Nat) : List Nat := (List.range 16).map (fun k => look 0 j.leadIns p / 3 ^ (k + 1) % 3)
  let all := (c.jobPorts j).flatMap recent
  if all.all (· == 1) && decide (2 * j.distance.toNat ≤ c.cfg.reach.toNat) then
    (overAll (c.jobPorts j) (fun c p => c.upPort p (fun q => { q with catches := [] })) c).startJob j i
  else
    let status := if all.any (· == 2) then statusBadField else statusDegraded
    (c.raiseSignal j 5 0 0xF status).endJob j status 0 16
def execFleetJobStart (job : JobId) (s : State) : Host.Outcome State Fault Refusal :=
  act (fun c =>
    match c.job? job with
    | some j =>
      match c.imageOf j with
      | some i => if j.fleet && j.st = .admitted && (startStroke j.body) ≤ c.clk.fleetStroke.toNat then c.fleetStart j i else c
      | none => c
    | none => c) s

/-! ## Signals (R287 to R291) -/

/-- A signal forwarded on the other ports of its job (R288). -/
def Chip.forward (c : Chip) (j : Job) (p : Nat) (m : SignalMsg) : Chip :=
  ({ c with sch := { c.sch with forwarded := satAdd c.sch.forwarded 1 } }).sendOn ((c.jobPorts j).filter (fun n => n ≠ p))
    (.signal { m with hops := m.hops + 1 })

/-- A signal received for a job (R287, R288, R291): one of a kind not listed, and one of an earlier epoch, is discarded and counted; a REROW counts only below every stroke
known; another once per origin and sequence. -/
def Chip.takeSignal (c : Chip) (j : Job) (p : Nat) (m : SignalMsg) : Chip :=
  if m.kind = 0 || 6 < m.kind.toNat then { c with sch := { c.sch with unlisted := satAdd c.sch.unlisted 1 } }
  else if m.epoch.toNat < j.epoch.toNat then { c with sch := { c.sch with stale := satAdd c.sch.stale 1 } }
  else if m.kind = 1 then
    if (match j.knownX with | some x => decide (x ≤ m.stroke.toNat) | none => false) then c
    else (c.upJob j.id (fun k => { k with knownX := some m.stroke.toNat })).forward j p m
  else if m.origin = c.cfg.member || j.signals.any (fun s => s.origin == m.origin && s.seq == m.sequence) then c
  else
    let e : Signal := { kind := m.kind, origin := m.origin, seq := m.sequence, due := m.stroke.toNat + c.jobDeltaF j + 1, status := m.status }
    (c.upJob j.id (fun k => { k with signals := k.signals ++ [e] })).forward j p m

/-- A link cause that the far device saw on a lane this device sends on (R273, R288): the third within 10 s moves the transmit lane at
the restart boundary. -/
def Chip.farLane (c : Chip) (p : Nat) (m : SignalMsg) : Chip :=
  if m.hops ≠ 0 || m.kind ≠ 1 || 8 < m.lane.toNat then c
  else
    let r := c.hit (.lane (144 + laneKey p m.lane.toNat)) 3
    if r.2 then r.1.addRemedy (.lane (16 + p) m.lane.toNat) else r.1

/-- FAULT_FRAME (R287, R288): a signal that comes on a port of the job it names. -/
def execFaultFrame (p : Fin 16) (l : Fin 9) (hdr : FrameHdr) (msg : SignalMsg) (code : CodeResult) (s : State) :
    Host.Outcome State Fault Refusal :=
  act (fun c =>
    if (c.port p.val).state ≠ 4 then c
    else c.takeFrame p l hdr code (fun c => c.linkFault p.val l.val 1) (fun c =>
      match c.portJob p.val with
      | some j => if j.fleet && j.image = msg.imageId then (c.farLane p.val msg).takeSignal j p.val msg else c
      | none => c)) s

/-! ## Effects (R289, R292, R294) -/

/-- What is due in a job that restarts from `start` in place of `now` (R289, R295): signals on their way keep their distance in strokes, a
pause applies at the first piece boundary after the restart. -/
def Signal.restart (now start : Nat) (s : Signal) : Signal :=
  if s.applied then s else { s with due := if s.kind = 4 then start + 1 else start + (s.due - now) }

/-- FLEET_REROW (R289, R291, R295): at x + Δf + 1 the job restarts from its oldest uncommitted piece and its epoch advances; an ABORT or a
SALVAGE due by then goes first. -/
def Chip.fleetRerow (c : Chip) (j : Job) (x : Nat) : Chip :=
  if j.stroke < x + c.jobDeltaF j + 1 || (j.signalDue [5, 6]).isSome then c
  else
    let c := c.rerowJob j
    c.upJob j.id (fun k => { k with
      epoch := k.epoch + 1, knownX := none, signals := if k.abortReq.isSome then k.signals else k.signals.map (Signal.restart j.stroke k.stroke) })
def execFleetRerow (job : JobId) (s : State) : Host.Outcome State Fault Refusal :=
  act (fun c =>
    match c.job? job with
    | some j =>
      match j.knownX with
      | some x => if j.fleet && j.abortReq.isNone && (j.st = .running || j.st = .draining) then c.fleetRerow j x else c
      | none => c
    | none => c) s

/-- The easy set after the signals that are due (R289). -/
def easyAfter (now : Nat) (set : List (BitVec 10)) (s : Signal) : List (BitVec 10) :=
  if s.applied || now < s.due then set
  else if s.kind = 2 then (if set.contains s.origin then set else set ++ [s.origin])
  else if s.kind = 3 then set.filter (fun o => o ≠ s.origin)
  else set

/-- FLEET_EASY (R289): at a piece boundary the members whose EASY_ON or EASY_OFF is due join or leave the easy set; the tick of every region
of the job is halved while the set is not empty. -/
def Chip.fleetEasy (c : Chip) (j : Job) : Chip :=
  if !(c.atPiece j) || (j.signalDue [2, 3]).isNone then c
  else
    let set := j.signals.foldl (easyAfter j.stroke) j.easySet
    let easy := !set.isEmpty
    let c := c.upJob j.id (fun k => { k with
      easySet := set, easy := easy, easyFrom := if j.easy = easy then j.easyFrom else j.stroke
      signals := k.signals.map (fun s => if (s.kind = 2 || s.kind = 3) && s.due ≤ k.stroke then { s with applied := true } else s) })
    overAll (j.map.map (·.2)) (fun c g => if (c.region g).halved = easy then c else c.setHalved g easy) c
def execFleetEasy (job : JobId) (s : State) : Host.Outcome State Fault Refusal :=
  act (fun c =>
    match c.job? job with
    | some j => if j.fleet then c.fleetEasy j else c
    | none => c) s

/-- FLEET_PAUSE (R289): at the first piece boundary at or after x + Δf + 1 the job pauses there: into the area and for the reason it was
asked here, or into its own save area for a peer's signal (R319). -/
def Chip.fleetPause (c : Chip) (j : Job) : Chip :=
  if j.st ≠ .running || !(c.atPiece j) || (j.signalDue [4]).isNone then c
  else
    let p : PauseReq := match j.fleetPause with
      | some q => { q with boundary := j.stroke }
      | none => { boundary := j.stroke, reason := 3, area := j.body.saveArea }
    let k := { j with
      pause := some p, fleetPause := none
      signals := j.signals.map (fun s => if s.kind = 4 && s.due ≤ j.stroke then { s with applied := true } else s) }
    (c.upJob j.id (fun _ => k)).reachPause k j.stroke
def execFleetPause (job : JobId) (s : State) : Host.Outcome State Fault Refusal :=
  act (fun c =>
    match c.job? job with
    | some j => if j.fleet then c.fleetPause j else c
    | none => c) s

/-- FLEET_ABORT (R289): at x + Δf + 1 the job ends with the status that the signal carries; OK stands for the host's abort. -/
def execFleetAbort (job : JobId) (s : State) : Host.Outcome State Fault Refusal :=
  act (fun c =>
    match c.job? job with
    | some j =>
      match j.signalDue [5] with
      | some m => if j.fleet && j.live then c.endJob j m.status.toNat 0 (if m.status = 0 then 2 else 0) else c
      | none => c
    | none => c) s

/-- A job salvaged (R294): uncommitted work is discarded, spares substituted, the record of its oldest uncommitted piece written to the
salvage area, its regions released; without an area it is aborted. -/
def Chip.salvageJob (c : Chip) (j : Job) (i : Image) : Chip :=
  if j.body.salvageArea = 0 then c.endJob j statusDegraded 0 0
  else
    let c := (c.discard j).jobRemedies j
    match c.job? j.id with
    | some k => (c.writeData j.body.salvageArea.toNat (c.saveRecord k i k.stroke)).endJob k statusDegraded 0 1
    | none => c

/-- SALVAGE (R294): at x + Δf + 1. -/
def execSalvage (job : JobId) (s : State) : Host.Outcome State Fault Refusal :=
  act (fun c =>
    match c.job? job with
    | some j =>
      match c.imageOf j with
      | some i => if j.fleet && j.live && (j.signalDue [6]).isSome then c.salvageJob j i else c
      | none => c
    | none => c) s

end Sys2Proof.Machine
end

