-- ==== Sys2Proof/Machine/Level.lean ====
section
/-! DEFINITION. The level (R343 to R347): periods, the regular and the injected sequence, the result queue, self-calibration. -/

namespace Sys2Proof.Machine

/-- The channels that the level converts: 0 to 90 (R343). -/
def levelChannels : Nat := 91

/-- The corrected value of a raw reading (R346), saturating at 23 bits (R345). -/
def Level.corrected (l : Level) (raw : Int) : Int :=
  clampInt (-4194303) 4194303 (floorDiv ((raw - l.offset.toInt) * (l.gain.toNat : Int)) (2 ^ 22))

/-- Whether a value passes the full scale of 2^19 (R345). -/
def overRange (v : Int) : Bool := decide (2 ^ 19 < v) || decide (v < -(2 ^ 19))

/-- A queue entry (R345). -/
def levelEntry (channel : Nat) (injected : Bool) (v : Int) (cycles : Nat) : LevelEntry :=
  BitVec.ofNat 64 (field channel 57 + field (flag injected) 56 + field (flag (overRange v)) 55 + field (trunc 23 v) 32
    + cycles / 16 % 2 ^ 32)

/-- What MON_CH_VALUE shows of a result (R349). -/
def channelWord (v : Int) : BitVec 32 := BitVec.ofNat 32 (2 ^ 31 + field (flag (overRange v)) 30 + trunc 23 v)

/-- A result enters the queue, or is dropped and counted when it is full (R345). -/
def Level.result (l : Level) (channel : Nat) (injected : Bool) (raw : Int) (cycles : Nat) : Level :=
  let v := l.corrected raw
  let l := { l with values := put 0 l.values channel (channelWord v) }
  if l.queue.length < 256 then { l with queue := l.queue ++ [levelEntry channel injected v cycles] }
  else { l with dropped := satAdd l.dropped 1 }

/-- The regular channel after the last one converted (R344). -/
def Level.nextRegular (l : Level) : Option Nat :=
  let on (k : Nat) : Bool := decide (k < levelChannels) && l.mask.getLsbD k
  let from_ := match l.last with | some k => k + 1 | none => 0
  match (List.range levelChannels).find? (fun k => decide (from_ ≤ k) && on k) with
  | some k => some k
  | none => (List.range levelChannels).find? on

/-- What the next period converts (R344, R347): the injected conversions that a waiting calibration waits for, then the calibration; else
the oldest injected one, else the next regular channel. -/
def Level.choose (l : Level) : Level :=
  if l.cal = 2 then { l with now := none }
  else if l.cal = 1 && l.calWait = 0 then { l with now := none, cal := 2, calResult := if l.calResult = 1 then 2 else l.calResult }
  else
    match l.inject with
    | k :: rest => { l with now := some (k, true), inject := rest, calWait := l.calWait - 1 }
    | [] =>
      if l.cal = 1 then { l with now := none, cal := 2, calWait := 0, calResult := if l.calResult = 1 then 2 else l.calResult }
      else match l.nextRegular with
        | some k => { l with now := some (k, false), last := some k }
        | none => { l with now := none }

/-- LEVEL_PERIOD_END (R344, R345): the conversion under way ends with a raw reading, and the next one is chosen. -/
def execLevelPeriodEnd (raw : Int) (s : State) : Host.Outcome State Fault Refusal :=
  act (fun c =>
    if !c.start.powerGood || c.lvl.cal = 2 then c
    else
      let l := match c.lvl.now with
        | some (k, i) => c.lvl.result k i raw c.clk.aon
        | none => c.lvl
      { c with lvl := l.choose }) s

/-- MON_INJECT_REQUEST (R344, R347): at most four pending; another, or a channel from 91 on, is refused and counted. -/
def Chip.cmdInject (c : Chip) (channel : Nat) : Chip :=
  if levelChannels ≤ channel || 4 ≤ c.lvl.inject.length then
    { c with lvl := { c.lvl with injectRefused := satAdd c.lvl.injectRefused 1 } }
  else { c with lvl := { c.lvl with inject := c.lvl.inject ++ [channel] } }
def execMonInjectRequest (channel : BitVec 7) (s : State) : Host.Outcome State Fault Refusal :=
  act (fun c => c.cmdInject channel.toNat) s

/-- MON_SELF_CALIBRATE (R347): a self-calibration waits for the injected conversions pending; refused while one waits or runs. -/
def Chip.cmdCalibrate (c : Chip) : Chip :=
  if c.lvl.cal ≠ 0 then { c with lvl := { c.lvl with calResult := 5 } }
  else { c with lvl := { c.lvl with cal := 1, calWait := c.lvl.inject.length, calResult := 1 } }
def execMonSelfCalibrate (s : State) : Host.Outcome State Fault Refusal := act Chip.cmdCalibrate s

/-- The offset and gain that eight readings give (R346), none when the calibration fails. -/
def calibration (rs : List Int) : Option (Int × Nat) :=
  let r (k : Nat) : Int := (rs[k]?).getD 0
  let o := r 1
  let span := (r 2 + r 3 + r 4) - (r 5 + r 6 + r 7)
  if span ≤ 0 || 2048 < o.natAbs then none
  else
    let gr := (floorDiv (2 * (3 * 786432 * 2 ^ 22) + span) (2 * span).toNat).toNat
    if 100 * gr < 98 * 2 ^ 22 || 102 * 2 ^ 22 < 100 * gr then none else some (o, gr)

/-- The factors taken from a calibration. -/
def Level.take (l : Level) (x : Int × Nat) : Level := { l with offset := BitVec.ofInt 32 x.1, gain := BitVec.ofNat 32 x.2 }

/-- LEVEL_CALIBRATION_DONE (R346, R347): the factors are set, or kept with a transient event; the sequence goes on. -/
def execLevelCalibrationDone (readings : List Int) (s : State) : Host.Outcome State Fault Refusal :=
  if readings.length ≠ 8 then .refused (.illFormed "a calibration has 8 readings, R346")
  else act (fun c =>
    if c.lvl.cal ≠ 2 then c
    else
      match calibration readings with
      | some x => { c with lvl := ({ c.lvl.take x with cal := 0, calResult := 3 } : Level).choose }
      | none =>
        let c := { c with lvl := ({ c.lvl with cal := 0, calResult := 6 } : Level).choose }
        c.eventOpen 3 1 (locusWord none none none) 0) s

/-- The value that MON_QUEUE_LO shows, and what its read latches for MON_QUEUE_HI (R349, R401). -/
def Level.headLow (l : Level) : Word := match l.queue with | e :: _ => e.setWidth 32 | [] => 0xFFFFFFFF
def Level.headHigh (l : Level) : Word := match l.queue with | e :: _ => (e >>> 32).setWidth 32 | [] => 0xFFFFFFFF
def Level.showHigh (l : Level) : Word := if l.queue.isEmpty then 0xFFFFFFFF else l.latch

/-- MON_QUEUE_POP (R345, R349): a read of MON_QUEUE_HI removes the head entry. -/
def Chip.queuePop (c : Chip) : Chip := { c with lvl := { c.lvl with queue := c.lvl.queue.drop 1 } }
def execMonQueuePop (s : State) : Host.Outcome State Fault Refusal := act Chip.queuePop s

end Sys2Proof.Machine
end

