-- ==== Sys2Proof/Machine/Survey.lean ====
section
/-! DEFINITION. Surveys (R335 to R339, R112, R113, R135, R153, R269): when a unit falls due, how it leaves its seat and returns; and the survey store (R340, R341). -/

namespace Sys2Proof.Machine

/-! ## Units -/

/-- The key of a unit in its table: array, plot or lane. -/
def unitKey : SurveyUnit → Nat
  | .periphery g c a => (g.val * 34 + c.val) * 17 + a.val
  | .plot g o => g.val * 136 + o.val
  | .lane p l => p.val * 9 + l.val

/-- The unit kind in the order of R335: 1 periphery, 2 plot, 3 lane (log entry 34). -/
def unitKind : SurveyUnit → Nat
  | .periphery .. => 1 | .plot .. => 2 | .lane .. => 3

/-- The region of a unit, none for a lane. -/
def unitRegion : SurveyUnit → Option Nat
  | .periphery g _ _ => some g.val
  | .plot g _ => some g.val
  | .lane _ _ => none

/-- Whether two units share a stand-in: one core, one laser group, one port direction (R339). -/
def sameStandIn (u v : SurveyUnit) : Bool :=
  match u, v with
  | .periphery g c _, .periphery g' c' _ => g == g' && c == c'
  | .plot g o, .plot g' o' => g == g' && o.val / 17 == o'.val / 17
  | .lane p _, .lane p' _ => p == p'
  | _, _ => false

/-- The units that share a unit's stand-in. -/
def standInUnits : SurveyUnit → List SurveyUnit
  | .periphery g c _ => (List.range 17).map (fun n => .periphery g c (Fin.ofNat 17 n))
  | .plot g o => (List.range 17).map (fun n => .plot g (Fin.ofNat 136 (o.val / 17 * 17 + n)))
  | .lane p _ => (List.range 9).map (fun n => .lane p (Fin.ofNat 9 n))

/-- What is recorded of a unit's surveys. -/
def Chip.surveyOf (c : Chip) (u : SurveyUnit) : SurveySt :=
  match u with
  | .periphery .. => (c.arr (unitKey u)).survey
  | .plot .. => (c.plot (unitKey u)).survey
  | .lane .. => (c.lane (unitKey u)).survey

/-- The block with a unit's record changed. -/
def Chip.upSurvey (c : Chip) (u : SurveyUnit) (f : SurveySt → SurveySt) : Chip :=
  match u with
  | .periphery .. => c.upArr (unitKey u) (fun x => { x with survey := f x.survey })
  | .plot .. => c.upPlot (unitKey u) (fun x => { x with survey := f x.survey })
  | .lane .. => c.upLane (unitKey u) (fun x => { x with survey := f x.survey })

/-- A unit's record with what a wake of its region made due (R338): cause age, from the wake on. -/
def Chip.surveyNow (c : Chip) (u : SurveyUnit) : SurveySt :=
  let s := c.surveyOf u
  match unitRegion u with
  | some g =>
    let r := c.region g
    if s.wakeNo < r.wakeNo && !s.due then { s with due := true, cause := 2, dueAt := r.wokeAt } else s
  | none => s

/-- The causes of ARR_SURVEY (R349): 1 temperature, 2 age, 3 drift; drift goes before temperature, and that before age (R339). -/
def causeRank (cause : BitVec 2) : Nat := if cause = 3 then 0 else if cause = 1 then 1 else 2

/-- Whether a due unit goes before another (R339). -/
def Chip.surveyBefore (c : Chip) (u v : SurveyUnit) : Bool :=
  let a := c.surveyNow u
  let b := c.surveyNow v
  let ra := causeRank a.cause
  let rb := causeRank b.cause
  decide (ra < rb) || (ra == rb && (decide (a.dueAt < b.dueAt) || (a.dueAt == b.dueAt && decide (unitKey u < unitKey v))))

/-- Whether a unit is retired: never surveyed again. -/
def Chip.unitRetired (c : Chip) (u : SurveyUnit) : Bool :=
  match u with
  | .periphery .. => (c.arr (unitKey u)).retiredPeri
  | .plot .. => (c.plot (unitKey u)).state == 4
  | .lane p l => (c.port p.val).retiredRx.getLsbD l.val

/-- Whether a unit serves a seat, so that it needs a stand-in (R335). -/
def Chip.unitSeated (c : Chip) (u : SurveyUnit) : Bool :=
  match u with
  | .periphery .. => (c.sensesOf (unitKey u)).isSome
  | .plot .. => (c.plot (unitKey u)).state == 0
  | .lane p l => (mapFind (c.port p.val).mapRx l.val).isSome

/-- Whether a unit's stand-in is in permanent use: none is free and no rotation will give one back (R113, R153, R269). -/
def Chip.standInGone (c : Chip) (u : SurveyUnit) : Bool :=
  let k := unitKey u
  match u with
  | .periphery .. => (c.sparePeri k).isNone && (coreArrays k).all (fun q => (c.arr q).away.isNone)
  | .plot g o => (groupPlots g.val (o.val / 17)).all (fun q => !(c.plotReady q) && decide ((c.plot q).state ≠ 2))
  | .lane p _ =>
    let q := c.port p.val
    (spareLane q.mapRx q.retiredRx q.rotOut).isNone && q.rotOut.isNone

/-- The source of a unit's events. -/
def unitSource (u : SurveyUnit) : Nat :=
  match u with
  | .periphery .. => srcCore (unitKey u / 17)
  | .plot g _ => srcRgn g.val
  | .lane p _ => srcPort p.val
def unitLocus (u : SurveyUnit) : BitVec 32 :=
  match u with
  | .periphery .. => arrLocus (unitKey u) none
  | .plot .. => plotLocus (unitKey u)
  | .lane p l => portLocus p.val (some l.val)

/-- A due unit whose stand-in is gone is deferred, and logs it once (R339, R376). -/
def Chip.deferSurvey (c : Chip) (u : SurveyUnit) : Chip :=
  if (c.surveyOf u).deferred then c
  else (c.event (unitSource u) 3 0x404 false (unitLocus u) (unitKind u)).upSurvey u (fun s => { s with deferred := true })

/-! ## Falling due -/

/-- Whether a unit is tested (R337): not under survey nor retired, in a region that is awake or on a port that is up. -/
def Chip.surveyTested (c : Chip) (u : SurveyUnit) : Bool :=
  !(c.mon.running.contains u) && !(c.unitRetired u) &&
    (match u with
     | .lane p _ => (c.port p.val).state == 4
     | _ => match unitRegion u with | some g => decide (2 ≤ (c.region g).power.toNat) | none => false)

/-- The sum of a list. -/
def total (l : List Nat) : Nat := l.foldl (fun n m => n + m) 0

/-- The rms lock residual of a bank in codes above 8 (R172, R337): the mean square above 64. -/
def Bank.restless (b : Bank) : Bool := decide (64 * b.squares.length < total b.squares)

/-- The drift conditions of R337 that the block itself records: out-of-range conversions and rail counts since the last survey, restless
locks, the flag rates of R135 at 1/16 of a share, a lane at its warning point. A drift that the test itself brings is of a channel that the
block does not record (log entry 127). -/
def Chip.drifts (c : Chip) (u : SurveyUnit) : Bool :=
  let k := unitKey u
  match u with
  | .periphery .. =>
    match c.sensesOf k with
    | some a => !(c.arr a).oor.isEmpty || (c.arr a).flags.any (fun e => decide (16 ≤ (c.arr a).flagCount e.1))
    | none => false
  | .plot .. => (c.plot k).drift || decide (1024 ≤ (c.plot k).flagCount) || (List.range 18).any (fun b => (c.bank (k * 18 + b)).restless)
  | .lane .. => (c.lane k).warned

/-- Ten minutes of always-on time. -/
def tenMinutes : Nat := 15000000000

/-- SURVEY_TEST (R337): the 1 ms test of a unit; drift goes before temperature, and that before age. -/
def Chip.surveyTest (c : Chip) (u : SurveyUnit) (temp : BitVec 12) (drift : Bool) : Chip :=
  if !c.surveyTested u then c
  else
    let s := c.surveyNow u
    let moved := 10 * (if temp.toNat < s.temp.toNat then s.temp.toNat - temp.toNat else temp.toNat - s.temp.toNat)
    let cause : BitVec 2 := if drift || c.drifts u then 3 else if 16 * c.cfg.surveyThreshold.toNat < moved then 1
      else if s.time + tenMinutes ≤ c.clk.aon then 2 else 0
    let c := if s.due then
        c.upSurvey u (fun _ => { s with cause := if cause ≠ 0 && causeRank cause < causeRank s.cause then cause else s.cause })
      else if cause = 0 then c
      else c.upSurvey u (fun _ => { s with due := true, cause := cause, dueAt := c.clk.aon })
    c.when ((c.surveyNow u).due && c.unitSeated u && c.standInGone u) (fun c => c.deferSurvey u)
def execSurveyTest (unit : SurveyUnit) (meanTemp : BitVec 12) (drift : Bool) (s : State) : Host.Outcome State Fault Refusal :=
  act (fun c => c.surveyTest unit meanTemp drift) s

/-! ## Leaving and returning -/

/-- Whether every bank of a plot is locked, as its survey needs (R172, R176): a bank that re-swept acquires first. -/
def Chip.locked (c : Chip) (u : SurveyUnit) : Bool :=
  match u with
  | .plot .. => (List.range 18).all (fun b => (c.bank (unitKey u * 18 + b)).lock == 3)
  | _ => true

/-- Whether a unit may start its survey: due, its locks in order, first of its stand-in's due units, no survey running there. -/
def Chip.surveyTurn (c : Chip) (u : SurveyUnit) : Bool :=
  (c.surveyNow u).due && c.locked u && !(c.unitRetired u) && !(c.mon.running.any (sameStandIn u))
    && (standInUnits u).all (fun v => v == u || !(c.surveyNow v).due || c.unitRetired v || !(c.locked v) || (c.unitSeated v && c.standInGone v) || c.surveyBefore u v)

/-- A unit is under survey from now. -/
def Chip.beginSurvey (c : Chip) (u : SurveyUnit) : Chip :=
  let s := c.surveyNow u
  let c := c.upSurvey u (fun _ => { s with active := true, deferred := false })
  { c with mon := { c.mon with running := c.mon.running ++ [u] } }

/-- SURVEY_START (R112, R153, R269, R339): at the first boundary its rule allows, a due unit leaves its seat to its stand-in; a unit without
a seat is surveyed where it is; a lane asks the far device for its rotation. -/
def Chip.surveyStart (c : Chip) (u : SurveyUnit) : Chip :=
  if !c.surveyTurn u then c
  else if c.unitSeated u && c.standInGone u then c.deferSurvey u
  else
    let k := unitKey u
    match u with
    | .periphery g _ _ =>
      match c.sensesOf k with
      | none => c.beginSurvey u
      | some home =>
        match c.sparePeri k with
        | some q =>
          if !c.atSeatBoundary g.val then c
          else
            let c := { c with peri := put home c.peri home q }
            (c.upArr k (fun x => { x with away := some home })).beginSurvey u
        | none => c
    | .plot g o =>
      let p := c.plot k
      if p.state = 0 then
        match c.freePlot g.val (o.val / 17) with
        | some q =>
          if !c.atSeatBoundary g.val then c
          else
            let c := (c.upPlot k (fun x => { x with state := 2, reason := 1, seat := 0xFF, parked := false, away := true })).takeSeat q p.seat.toNat
            c.beginSurvey u
        | none => c
      else (c.upPlot k (fun x => { x with state := if x.state = 1 then 2 else x.state })).beginSurvey u
    | .lane p l =>
      let q := c.port p.val
      if (mapFind q.mapRx l.val).isNone then c.beginSurvey u
      else if !q.pendRx.isEmpty || q.rotOut.isSome then c
      else (c.askLane p.val 2 l.val).beginSurvey u
def execSurveyStart (unit : SurveyUnit) (s : State) : Host.Outcome State Fault Refusal := act (fun c => c.surveyStart unit) s

/-- The class of a plot by its margin in 1/256 LSB and whether its flag rate is at 1/8 of its share (R135): 0 healthy, 1 weak,
2 substitute. -/
def plotClass (margin : BitVec 8) (flags : Bool) : BitVec 2 :=
  if margin.toNat ≤ 89 || flags then 2 else if margin.toNat ≤ 115 then 1 else 0

/-- Taps set, each at its index. -/
def setTaps (m : SMap (BitVec 8 × BitVec 6)) (ts : List TapSet) : SMap (BitVec 8 × BitVec 6) :=
  ts.foldl (fun m t => insertAt m t.index (t.first, t.second)) m

/-- A weak plot that the table does not hold: its margin and place. -/
structure Spill where
  margin : BitVec 8
  array : Nat
  rowGroup : Nat
  colGroup : Nat
deriving DecidableEq, Repr

/-- The entry of a full weak-plot table with the largest margin, of a plot that is not of class Substitute: such a plot keeps its entry until
the switch (R135). -/
def Chip.widest (c : Chip) (core : Nat) : Option (Nat × TableEntry) :=
  let sub (e : TableEntry) : Bool := (look ({} : Quality) (c.arr e.array).quality (e.rowGroup * 17 + e.colGroup)).cls == 2
  ((c.core core).table.filter (fun e => e.2.state != 0 && !(sub e.2))).foldl (fun best e =>
    match best with
    | none => some e
    | some b => if b.2.margin.toNat < e.2.margin.toNat then some e else some b) none

/-- A plot that survey classes weak or worse takes a table entry; of more than 16 the ones with the smallest margin are held, and the one that
is not is left over (R135). -/
def Chip.holdWeak (c : Chip) (core a : Nat) (v : PlotSurvey) : Chip × List Spill :=
  let i := v.rowGroup.val
  let j := v.colGroup.val
  let k := c.core core
  let here (e : TableEntry) : Bool := e.state != 0 && e.array == a && e.rowGroup == i && e.colGroup == j
  if k.table.any (fun e => here e.2) then
    (c.upCore core (fun k => { k with table := adjust {} (fun _ => true) (fun e => if here e then { e with margin := v.margin } else e) k.table }), [])
  else if (k.table.filter (fun e => e.2.state != 0)).length < 16 then (c.upCore core (fun k => k.addEntry a i j v.margin), [])
  else
    match c.widest core with
    | some (_, e) =>
      if v.margin.toNat < e.margin.toNat then
        (c.upCore core (fun k => (k.dropEntry e.array e.rowGroup e.colGroup).addEntry a i j v.margin), [⟨e.margin, e.array, e.rowGroup, e.colGroup⟩])
      else (c, [⟨v.margin, a, i, j⟩])
    | none => (c, [⟨v.margin, a, i, j⟩])

/-- Weak plots of an array held in turn, with all that is left over. -/
def Chip.holdAll (c : Chip) (core a : Nat) : List PlotSurvey → Chip × List Spill
  | [] => (c, [])
  | v :: vs =>
    let (c, l) := c.holdWeak core a v
    let (c, m) := c.holdAll core a vs
    (c, l ++ m)

/-- The class of a plot of an array: its margin, and 32 flagged items in 65,536 sensing strokes, 1/8 of its share (R135). -/
def Arr.classOf (x : Arr) (v : PlotSurvey) : BitVec 2 :=
  plotClass v.margin (decide (32 ≤ x.flagCount (v.rowGroup.val * 17 + v.colGroup.val)))

/-- The plots of an array as a survey of its periphery found them (R110, R135, R336): each plot in use is classed; the weak ones are held, and
those of class Substitute, with what the table cannot hold, are substituted, smallest margin first. -/
def Chip.arrayPlots (c : Chip) (a : Nat) (vs : List PlotSurvey) : Chip :=
  let x := c.arr a
  let vs := sortBy (fun (v : PlotSurvey) => v.margin.toNat) (vs.filter (fun v => decide (v.colGroup.val < 16) || (x.sub v.rowGroup.val).active))
  let core := c.driver a
  let c := c.upArr a (fun x => { x with
    quality := vs.foldl (fun m v => put {} m (v.rowGroup.val * 17 + v.colGroup.val) { margin := v.margin, cls := x.classOf v }) x.quality })
  let c := overAll (vs.filter (fun v => x.classOf v == 0)) (fun c v =>
    c.upCore core (fun k => k.dropEntry a v.rowGroup.val v.colGroup.val)) c
  let (c, spill) := c.holdAll core a (vs.filter (fun v => x.classOf v != 0))
  let worse := (vs.filter (fun v => x.classOf v == 2)).map (fun v => (⟨v.margin, a, v.rowGroup.val, v.colGroup.val⟩ : Spill))
  overAll (sortBy (fun (w : Spill) => w.margin.toNat) (worse ++ spill)).eraseDups (fun c w => c.startPlotCopy w.array w.rowGroup w.colGroup) c

/-- A survey is over: the unit's record, the counts. -/
def Chip.endSurvey (c : Chip) (u : SurveyUnit) (ok : Bool) (temp : BitVec 12) : Chip :=
  let wakes := match unitRegion u with | some g => (c.region g).wakeNo | none => 0
  let c := c.upSurvey u (fun s => if ok then
      { s with active := false, due := false, deferred := false, time := c.clk.aon, temp := temp, wakeNo := wakes }
    else { s with active := false })
  { c with mon := { c.mon with running := c.mon.running.filter (fun v => decide (v ≠ u)), done := if ok then satAdd c.mon.done 1 else c.mon.done } }

/-- The bank settings of a plot's survey (R335): dither amplitude, feed-forward values, ring trims. -/
def Chip.bankSurvey (k : Nat) (c : Chip) (v : BankSurvey) : Chip :=
  let b := k * 18 + v.bank.val
  let c := c.upBank b (fun x => { x with amplitude := v.amplitude, ff := v.ff, squares := [] })
  { c with trims := v.trims.zipIdx.foldl (fun m t => put 0 m (b * 16 + t.2) t.1) c.trims }

/-- A periphery's survey ends: its taps are set, its plots classed, and it is back on its seat (R112, R336). -/
def Chip.endPeriphery (c : Chip) (u : SurveyUnit) (g : Nat) (r : SurveyResult) : Chip :=
  let k := unitKey u
  let back := (c.arr k).away
  if back.isSome && !c.atSeatBoundary g then c
  else
    let c := match back with
      | some home => { c.upArr k (fun x => { x with away := none }) with peri := put home c.peri home k }
      | none => c
    let c := c.endSurvey u r.ok r.temp
    if !r.ok then c
    else
      let c := c.upArr k (fun x => { x with taps := setTaps x.taps r.taps })
      match back with
      | some home => (c.upArr home (fun x => { x with oor := [] })).arrayPlots home r.plots
      | none => c

/-- An optical plot's survey ends (R152, R153, R336): it becomes free; of class Substitute it is held, and retired when it was held for that or
for an overflow already, or when the survey of a held plot failed. -/
def Chip.endPlot (c : Chip) (u : SurveyUnit) (r : SurveyResult) : Chip :=
  let k := unitKey u
  let p := c.plot k
  let c := (c.endSurvey u r.ok r.temp).upPlot k (fun x => { x with away := false })
  let v := r.plots.head?
  let margin := match v with | some x => x.margin | none => p.margin
  let cls := plotClass margin (decide (2048 ≤ p.flagCount))
  let heldFor := p.state = 3 && (p.reason = 2 || p.reason = 3)
  let c := if !r.ok then c
    else overAll r.banks (Chip.bankSurvey k) (c.upPlot k (fun x => { x with
      margin := margin, cls := cls, taps := setTaps x.taps r.taps, drift := false }))
  if p.state = 3 && p.seat ≠ 0xFF then
    if !r.ok || (heldFor && cls = 2) then (c.leaveSeat k p.reason.toNat true false).endPlotHolds else c
  else if heldFor && (!r.ok || cls = 2) then c.upPlot k (fun x => { x with state := 4 })
  else if !r.ok then c.upPlot k (fun x => { x with state := if x.state = 2 then 1 else x.state })
  else if cls = 2 then
    c.upPlot k (fun x => { x with state := 3, reason := 2, survey := { x.survey with due := true, cause := 3, dueAt := c.clk.aon } })
  else c.upPlot k (fun x => { x with state := 1 })

/-- A lane's survey ends (R269): its taps are set, and a lane that left its logical lane asks to return. -/
def Chip.endLane (c : Chip) (u : SurveyUnit) (p l : Nat) (r : SurveyResult) : Chip :=
  let q := c.port p
  if q.rotOut ≠ some l && (mapFind q.mapRx l).isSome then c
  else
    let c := (c.endSurvey u r.ok r.temp).upLane (unitKey u) (fun x =>
      if r.ok then { x with taps := setTaps x.taps r.taps, warned := false } else x)
    if q.rotOut = some l then c.askLane p 3 l else c

/-- SURVEY_END (R336): a survey completes and its unit returns at a boundary its rule allows. -/
def Chip.surveyEnd (c : Chip) (u : SurveyUnit) (r : SurveyResult) : Chip :=
  if !(c.mon.running.contains u) then c
  else match u with
    | .periphery g _ _ => c.endPeriphery u g.val r
    | .plot .. => c.endPlot u r
    | .lane p l => c.endLane u p.val l.val r
def execSurveyEnd (unit : SurveyUnit) (result : SurveyResult) (s : State) : Host.Outcome State Fault Refusal :=
  act (fun c => c.surveyEnd unit result) s

/-! ## The survey store -/

/-- What the store keeps of an array, a plot, a lane, a port, a bank, a stack (R340); a held plot is kept as free (R157); of the lasers of a
handover the outgoing one as standby with its group, the others that are on their way as standby or cold (R183). -/
def Arr.kept (a : Arr) : Arr :=
  { retiredPeri := a.retiredPeri, retiredCells := a.retiredCells, candidate := a.candidate, map := a.map, stuck := a.stuck, taps := a.taps
    survey := { temp := a.survey.temp }
    subs := adjust {} (fun _ => true) (fun s => { active := s.active, spareFailed := s.spareFailed, group := if s.active then s.group else 0 }) a.subs
    quality := a.quality, waiting := a.waiting }
def Plot.kept (p : Plot) : Plot :=
  { p with
    state := if p.state = 2 || p.state = 3 then 1 else p.state, seat := if p.state = 3 then 0xFF else p.seat, away := false
    parked := false, checkFails := 0, oor := 0, survey := { temp := p.survey.temp }, wrongLocks := 0, resweeps := 0
    drift := false, absentSince := none, margin := 0, cls := 0, senses := 0, flags := [], exerciseFail := false }
def Lane.kept (l : Lane) : Lane := { commission := l.commission, reason := l.reason, survey := { temp := l.survey.temp }, taps := l.taps }
def Port.kept (p : Port) : KeptPort := { mapRx := p.mapRx, mapTx := p.mapTx, retiredRx := p.retiredRx, retiredTx := p.retiredTx }
def Bank.kept (b : Bank) : Bank := { amplitude := b.amplitude, ff := b.ff, fault := b.fault }
def Laser.kept (l : Laser) : Laser :=
  { state := if l.state = 1 then 0 else if l.state = 3 || l.state = 5 then 2 else l.state
    group := if l.state = 3 || (l.state = 5 && l.leaving = 0) then 0xF else l.group, reason := l.reason, commission := l.commission }
def Stack.kept (s : Stack) : Stack := { state := s.state, failed := s.failed }

/-- A table whose entries are changed, the ones that come to the default dropped. -/
def mapTable {V W : Type} [DecidableEq W] (d : W) (f : V → W) (m : SMap V) : SMap W :=
  m.filterMap (fun e => if f e.2 = d then none else some (e.1, f e.2))

/-- A periphery out for survey is kept as on its seat (R113, R341). -/
def Chip.keptPeri (c : Chip) : SMap Nat :=
  c.arrays.foldl (fun m e => match e.2.away with | some home => put home m home e.1 | none => m) c.peri

/-- The payload of a commit made now. -/
def Chip.keptNow (c : Chip) : Kept :=
  { arrays := mapTable {} Arr.kept c.arrays, tiers := c.tiers, peri := c.keptPeri, cells := c.cells, seats := c.seats
    retiredCores := (c.cores.filter (·.2.retired)).map (·.1), lostRegions := (c.regions.filter (·.2.lost)).map (·.1)
    plots := c.plots.map (fun e => (e.1, e.2.kept)), lasers := c.lasers.map (fun e => (e.1, e.2.kept))
    linkLasers := c.linkLasers.map (fun e => (e.1, e.2.kept)), banks := mapTable {} Bank.kept c.banks, trims := c.trims
    lanes := mapTable {} Lane.kept c.lanes, ports := mapTable {} Port.kept c.ports, hbmStacks := mapTable {} Stack.kept c.hbmStacks
    retain := c.log.retain, retainNext := c.log.retainNext, retainAny := c.log.retainAny }

/-- The bank with the newer sequence. -/
def Mon.newer (m : Mon) : StoreBank := if m.inUse then m.bank1 else m.bank0

/-- STORE_COMMIT (R341): changes not yet committed begin to go to the older bank, at most once a second: its commit word is cleared, its
header and payload written. -/
def execStoreCommit (s : State) : Host.Outcome State Fault Refusal :=
  act (fun c =>
    let now := c.keptNow
    let m := c.mon
    if m.writing || m.newer.payload == some now || !c.start.powerGood || (0 < m.commitAt && c.clk.aon < m.commitAt + msCycles 1000) then c
    else
      let b : StoreBank := { sequence := m.newer.sequence + 1, payload := some now, committed := false }
      { c with mon := { m with
        writing := true, commitAt := c.clk.aon, bank0 := if m.inUse then b else m.bank0, bank1 := if m.inUse then m.bank1 else b } }) s

/-- STORE_COMMIT_DONE (R341): the bank read back well gets its commit word and is the newer one; else it stays uncommitted. -/
def execStoreCommitDone (crcOk : Bool) (s : State) : Host.Outcome State Fault Refusal :=
  act (fun c =>
    let m := c.mon
    if !m.writing then c
    else if crcOk then
      { c with mon := { m with
        writing := false, inUse := !m.inUse
        bank0 := if m.inUse then { m.bank0 with committed := true } else m.bank0
        bank1 := if m.inUse then m.bank1 else { m.bank1 with committed := true } } }
    else { c with mon := { m with writing := false } }) s

end Sys2Proof.Machine
end

