-- ==== Sys2Proof/Machine/Regs.lean ====
section
/-! DEFINITION. What every management register reads as (R397, R398, R404, R406, R407, R409), and what a read changes (R10, R401, R403). -/

namespace Sys2Proof.Machine

/-! ## Fields -/

/-- A field's value at bits `[hi:lo]` of a register. -/
def bits (v hi lo : Nat) : Nat := field (v % 2 ^ (hi + 1 - lo)) lo

/-- A count at bits `[hi:lo]`, held at the field's all-ones value. -/
def held (v hi lo : Nat) : Nat := field (min v (2 ^ (hi + 1 - lo) - 1)) lo

/-- A flag at a bit. -/
def bitAt (b : Bool) (lo : Nat) : Nat := field (flag b) lo

/-- A field that is kept: 0 until phase 3 has restored it (R404). -/
def Chip.kept (c : Chip) (n : Nat) : Nat := if c.start.restored then n else 0

/-- A field of the configuration in use: 0 before phase 2 and in the recovery state (R329, R404). -/
def Chip.cfgField (c : Chip) (n : Nat) : Nat := if c.cfg.loaded && !c.start.recovery then n else 0

/-- A field of the identity vault: 0 until phase 1 has read it (R404). -/
def Chip.vaultField (c : Chip) (n : Nat) : Nat := if c.vault.read then n else 0

/-- Whole seconds of always-on time, rounded up. -/
def secondsUp (cycles : Nat) : Nat := ceilDiv cycles 25000000

/-! ## The log -/

/-- Whether a source of R378 exists. -/
def isSource (n : Nat) : Bool :=
  decide (n < 4) || n == 5 || (decide (0x10 ≤ n) && decide (n < 0x18)) || (decide (0x20 ≤ n) && decide (n < 0x30))
    || (decide (0x100 ≤ n) && decide (n < 0x110)) || (decide (0x1000 ≤ n) && decide (n < 0x1400) && decide (n % 64 < 34))

/-- The sequence that a source's next record takes; of the retain ring, its next index (R407). -/
def Chip.logNext (c : Chip) (src : Nat) : Nat :=
  if src = 5 then (if c.log.retainAny then c.kept c.log.retainNext.toNat else 0) else (look ({} : Ring) c.log.rings src).next.toNat

/-- Whether a source has written (R383). -/
def Chip.logAny (c : Chip) (src : Nat) : Bool :=
  if src = 5 then c.log.retainAny && c.start.restored else (look ({} : Ring) c.log.rings src).any

/-- The sequence of a source's newest record (R383, R407): one less than the next. -/
def Chip.logNewest (c : Chip) (src : Nat) : Nat := if c.logAny src then (c.logNext src + 2 ^ 32 - 1) % 2 ^ 32 else 0

/-- The record that SAF_LOG_SEL and SAF_LOG_INDEX select, if its ring holds it (R383). -/
def Chip.logRecord (c : Chip) : Option EventRec :=
  let src := c.saf.logSel.toNat
  if src = 5 then (if c.start.restored then (c.log.retain.find? (fun r => r.1 == c.saf.logIndex)).map (·.2) else none)
  else (look ({} : Ring) c.log.rings src).recs.find? (fun r => r.seq == c.saf.logIndex)

/-- The 32 bytes of a record (R377); a record copied into the retain ring carries flag bit 1. -/
def EventRec.bytes (r : EventRec) : List Byte :=
  leBytes 2 r.source.toNat ++ leBytes 1 r.cls.toNat ++ leBytes 1 r.flags.toNat ++ leBytes 4 r.seq.toNat ++ leBytes 6 r.stroke.toNat
    ++ leBytes 2 r.code.toNat ++ leBytes 8 r.logTime.toNat ++ leBytes 4 r.locus.toNat ++ leBytes 4 r.detail.toNat

/-! ## Standing figures -/

/-- The logical optical plots of a region with no seat (R157). -/
def Chip.absentPlots (c : Chip) (g : Nat) : Nat :=
  128 - countBelow 136 (fun o => let p := c.plot (g * 136 + o); (p.state == 0 || p.state == 3) && decide (p.seat.toNat < 128))

/-- SAF_CAPACITY (R376, R383). -/
def Chip.capacity (c : Chip) : Nat :=
  c.kept (held (total ((List.range 16).map c.absentPlots)) 31 16) + held (countBelow 16 (fun p => (c.port p).state == 5)) 15 8
    + c.kept (held (countBelow 8 (fun s => (c.stack s).state != 0)) 7 0)

/-- The lost regions (SAF_STATUS). -/
def Chip.lostMask (c : Chip) : Nat := total ((List.range 16).map (fun g => bitAt (c.region g).lost g))

/-- Whether a group has a free plot, locked and surveyed (OPT_SPARE). -/
def Chip.opticalSpare (c : Chip) (g k : Nat) : Bool := (c.freePlot g k).isSome

/-- Whether a core has a periphery that serves no seat, or that a rotation will give back (R113). -/
def Chip.peripherySpare (c : Chip) (core : Nat) : Bool :=
  (List.range 17).any (fun n =>
    let q := core * 17 + n
    (c.arr q).away.isSome || (!(c.arr q).retiredPeri && (c.sensesOf q).isNone))

/-- Whether a core has a free cell block (R114). -/
def Chip.cellSpare (c : Chip) (core : Nat) : Bool :=
  (List.range 17).any (fun n =>
    let q := core * 17 + n
    !(c.arr q).retiredCells && (c.logicalOf q).isNone && !(c.arr q).copying)

/-- SAF_SPARES of a region (R376, R383). -/
def Chip.spares (c : Chip) (g : Nat) : Nat :=
  let cores := (List.range 34).map (fun n => g * 34 + n)
  c.kept (held (c.spareCores g).length 31 30) + c.kept (held (c.spareCoreArrays g).length 29 24)
    + held (countBelow 8 (c.opticalSpare g)) 23 20
    + c.kept (held (countBelow 10 (fun n => (c.laser (g * 10 + n)).state.toNat ≤ 2)) 19 18)
    + held (c.arrays.filter (fun e => e.1 / 578 == g && e.2.impaired)).length 17 12
    + c.kept (held (cores.filter (fun k => !(c.peripherySpare k))).length 11 6)
    + c.kept (held (cores.filter (fun k => !(c.cellSpare k))).length 5 0)

/-- The latest corrected value of a level channel, 0 before its first. -/
def Chip.channelValue (c : Chip) (k : Nat) : Int := sext 23 (look 0 c.lvl.values k).toNat

/-- The measured package power in W (TOP_POWER): channel 0 in 32 µV times channel 1 in 320 µA (R343), rounded down. -/
def Chip.measuredPower (c : Chip) : Nat := ((c.channelValue 0 * c.channelValue 1 * 10240).toNat) / 10 ^ 12

/-- The units of R335. -/
def allUnits : List SurveyUnit :=
  (List.range (16 * 34 * 17)).map periUnit ++ (List.range (16 * 136)).map plotUnit
    ++ (List.range 144).map (fun n => .lane (Fin.ofNat 16 (n / 9)) (Fin.ofNat 9 n))

/-- The units due and not started, and the units deferred (R349). -/
def Chip.dueUnits (c : Chip) : Nat :=
  (allUnits.filter (fun u => (c.surveyNow u).due && !(c.mon.running.contains u) && !(c.unitRetired u))).length
def Chip.deferredUnits (c : Chip) : Nat :=
  (c.arrays.filter (·.2.survey.deferred)).length + (c.plots.filter (·.2.survey.deferred)).length
    + (c.lanes.filter (·.2.survey.deferred)).length

/-- The jobs in a state. -/
def Chip.jobsIn (c : Chip) (p : Job → Bool) : Nat := (c.jobs.filter p).length

/-! ## Chip-level blocks -/

/-- Whether a region runs in the easy state (R374, R406): its tick is halved and not stopped. -/
def Chip.runsHalved (c : Chip) (g : Nat) : Bool := (c.region g).halved && (c.region g).power != 0

/-- TOP registers (R406, R407). -/
def Chip.topReg (c : Chip) (o : Nat) : Nat :=
  if o = 0x00 then bits 0x58 31 24 + bits 0x10 23 16 + c.vaultField (bits c.vault.stepping.toNat 15 8 + bitAt c.vault.gradeH 0)
  else if 0x04 ≤ o ∧ o < 0x14 then c.vaultField (c.vault.serial.toNat / 2 ^ (8 * (o - 4)) % 2 ^ 32)
  else if o = 0x14 then c.vault.apid.toNat
  else if o = 0x18 then
    bitAt c.start.ready 31 + bitAt c.start.recovery 30 + bitAt ((List.range 16).any c.runsHalved) 29
      + bitAt c.saf.thermalStop 28 + bits c.acc.level.toNat 27 26 + bitAt ((List.range 16).any (fun p => (c.port p).state == 4)) 25
      + bitAt (c.capacity != 0 || c.kept c.lostMask != 0) 24 + bitAt c.saf.railsOk 23
      + total ((List.range 16).map (fun g => bitAt (c.jobs.any (fun j => j.inRegion g)) g))
  else if o = 0x1C then
    total ((List.range 16).map (fun g =>
      let r := c.region g
      bits (if r.power.toNat < 2 then 3 else if r.power = 3 then 2 else r.mode.toNat) (2 * g + 1) (2 * g)))
  else if o = 0x20 then total ((List.range 16).map (fun g => bitAt (c.runsHalved g) g))
  else if o = 0x24 then
    c.cfgField (bits c.powerLimit 31 16) + c.vaultField (if c.vault.gradeH then bits 6 10 8 else bits 7 10 8)
      + c.cfgField (bits c.cfg.modes.toNat 2 0)
  else if o = 0x28 then held (c.powerOf []) 31 16 + held c.measuredPower 15 0
  else if o = 0x40 then c.log.newChip.toNat
  else if o = 0x44 then c.log.newRgn.toNat
  else if 0x50 ≤ o ∧ o < 0x60 then c.logNext ((o - 0x50) / 4)
  else if o = 0x60 then c.logNext 5
  else if 0x80 ≤ o ∧ o < 0xA0 then c.logNext (srcStack ((o - 0x80) / 4))
  else if 0xA0 ≤ o ∧ o < 0xE0 then c.logNext (srcPort ((o - 0xA0) / 4))
  else if 0xE0 ≤ o ∧ o < 0x120 then c.logNext (srcRgn ((o - 0xE0) / 4))
  else if 0x400 ≤ o ∧ o < 0xC80 then c.logNext (srcCore ((o - 0x400) / 4))
  else 0

/-- A host port's status and drop counts (R324). -/
def Chip.hostPortReg (c : Chip) (p : Fin 2) (drops : Bool) : Nat :=
  let x := c.hport p
  let f := (if p = 0 then c.cfg.port0 else c.cfg.port1).flags
  if drops then bits x.malformed.toNat 31 16 + bits x.foreign.toNat 15 0
  else bits x.speed.toNat 31 30 + c.cfgField (bitAt (f.getLsbD 4) 29 + bitAt (f.getLsbD 3) 28) + bits x.fec.toNat 15 0

/-- HST registers (R324). -/
def Chip.hstReg (c : Chip) (o : Nat) : Nat :=
  let q := c.host.queueSel.toNat
  let k := c.queue q
  if o = 0x000 then c.hostPortReg 0 false
  else if o = 0x004 then c.hostPortReg 1 false
  else if o = 0x008 then c.hostPortReg 0 true
  else if o = 0x00C then c.hostPortReg 1 true
  else if o = 0x100 then q
  else if o = 0x104 then
    let m := match c.cfg.classMap[q]? with | some b => b.toNat | none => 0
    c.cfgField (bits m 31 30 + bitAt (bitOf m 2) 29 + bitAt (c.queueFloats q) 28) + bits k.retained.length 23 16 + bits k.ahead.toNat 15 8
      + held (c.jobsIn (fun j => j.id.queue.toNat == q && j.st == .pending)) 4 0
  else if o = 0x108 then k.expected.toNat
  else if o = 0x10C then k.next.toNat
  else if o = 0x110 then c.host.queueCtrl.toNat
  else if o = 0x200 then
    held (c.jobsIn (fun j => j.st == .pending)) 31 16 + held (c.jobsIn Job.holds) 15 8 + held (c.jobsIn Job.onPause) 7 0
  else if o = 0x204 then bits c.host.pausesIn.toNat 31 16 + bits c.host.pausesOut.toNat 15 0
  else if o = 0x300 then c.logTime.toNat % 2 ^ 32
  else if o = 0x304 then c.clk.logLatch.toNat
  else 0

/-- MON registers (R349). -/
def Chip.monReg (c : Chip) (o : Nat) : Nat :=
  let l := c.lvl
  let m := c.mon
  if o = 0x00 then
    bitAt (l.cal != 0) 31 + c.cfgField (bitAt (c.cfg.features.getLsbD 1) 30 + bitAt (c.cfg.mains.getLsbD 0) 29)
      + held l.inject.length 28 26 + bits l.injectRefused.toNat 25 18 + bits l.dropped.toNat 17 9 + held l.queue.length 8 0
  else if o = 0x08 then l.calResult.toNat
  else if 0x10 ≤ o ∧ o < 0x1C then l.mask.toNat / 2 ^ (8 * (o - 0x10)) % 2 ^ 32
  else if o = 0x20 then l.headLow.toNat
  else if o = 0x24 then l.showHigh.toNat
  else if o = 0x28 then l.offset.toNat
  else if o = 0x2C then l.gain.toNat
  else if o = 0x30 then l.chSel.toNat
  else if o = 0x34 then (if l.chSel.toNat < levelChannels then (look 0 l.values l.chSel.toNat).toNat else 0)
  else if o = 0x100 then c.cfgField (bits c.cfg.surveyThreshold.toNat 31 24) + held c.dueUnits 23 12 + held m.running.length 11 0
  else if o = 0x104 then m.done.toNat
  else if o = 0x108 then held c.deferredUnits 31 16 + bits m.abandoned.toNat 15 0
  else if o = 0x10C then
    bitAt m.inUse 31 + bitAt m.factory 30 + bitAt m.writing 29 + bits m.found1.toNat 27 26 + bits m.found0.toNat 25 24
  else if o = 0x110 then c.kept (m.newer.sequence % 2 ^ 32)
  else 0

/-! ## Crossings (R358, R361) -/

/-- Whether a class of R358 has an instance. -/
def isCrossing (cls inst : Nat) : Bool :=
  if cls ≤ 4 then decide (inst < 16)
  else if cls = 5 then decide (inst < 40)
  else if cls = 6 then decide (inst < 8)
  else if cls = 7 then decide (inst < 144)
  else if cls = 8 then decide (inst < 2)
  else cls == 9 && inst == 0

/-- Whether a side of a crossing is in reset (R357): a region that wakes, an HBM PHY before its training, a lane in bring-up. -/
def Chip.crossInReset (c : Chip) (cls inst : Nat) : Bool :=
  let wakes (g : Nat) : Bool := (c.region g).power == 1
  if cls ≤ 4 then wakes inst
  else if cls = 5 then
    if inst < 16 then wakes inst else if inst < 24 then !c.start.memory else (c.port (inst - 24)).state == 1
  else if cls = 6 then !c.start.memory
  else if cls = 7 then (c.port (inst / 9)).state == 1
  else false

/-- Whether the destination clock of a crossing is stopped (R356). -/
def Chip.crossHeld (c : Chip) (cls inst : Nat) : Bool :=
  if cls = 0 || cls = 1 || cls = 4 then !c.clk.masterLock || decide ((c.region inst).power.toNat < 2)
  else if cls = 2 then false
  else !c.clk.masterLock

/-- CLK_CROSS_STATE: the drops and the discarded captures are figures that the spec leaves to the phases of the clocks. -/
def Chip.crossState (c : Chip) : Nat :=
  let cls := c.clk.crossClass.toNat
  let inst := c.clk.crossInst.toNat
  if !isCrossing cls inst then 0
  else
    bitAt (c.crossInReset cls inst) 31 + bitAt (c.crossHeld cls inst) 30 + bits (Config.figure c.freeCtr) 23 16
      + bits (Config.figure (c.freeCtr + 1)) 15 0

/-- CLK registers (R296, R334, R361). -/
def Chip.clkReg (c : Chip) (o : Nat) : Nat :=
  let k := c.clk
  if o = 0x000 then
    bitAt k.refclkOk 31 + bitAt k.onBackup 30 + bitAt k.masterLock 29
      + total ((List.range 16).map (fun g => bitAt (k.masterLock && decide (2 ≤ (c.region g).power.toNat)) g))
  else if o = 0x004 then bits k.refLosses.toNat 31 16 + bits k.symbolUnlock.toNat 15 0
  else if o = 0x010 then bits k.crossClass.toNat 12 8 + bits k.crossInst.toNat 7 0
  else if o = 0x014 then c.crossState
  else if o = 0x100 then
    bitAt ((List.range 16).any (fun p => (c.port p).state == 4)) 31 + bitAt k.fsyncOk 30
      + bitAt ((List.range 16).any (fun p => (c.port p).state == 3)) 29
      + c.cfgField (bits c.cfg.member.toNat 25 16 + bits c.cfg.reach.toNat 15 10 + bits c.cfg.fleetId.toNat 9 0)
  else if o = 0x104 then k.fleetStroke.toNat % 2 ^ 32
  else if o = 0x108 then k.fleetLatch.toNat
  else if o = 0x200 then
    bitAt c.start.ready 31 + bitAt c.start.recovery 30 + bits c.start.reason.toNat 27 24 + bits c.start.phase.toNat 23 20
      + bits c.start.startMs.toNat 15 0
  else 0

/-- SAF registers (R383). -/
def Chip.safReg (c : Chip) (o : Nat) : Nat :=
  let f := c.saf
  let src := f.logSel.toNat
  if o = 0x000 then
    bitAt f.railsOk 31 + bitAt f.easy 30 + bitAt f.thermalStop 29 + bits f.dieTemp.toNat 28 16 + c.kept c.lostMask
  else if o = 0x004 then c.capacity
  else if o = 0x008 then bits f.transient.toNat 31 16 + bits f.permanent.toNat 15 0
  else if o = 0x00C then bits f.dangCompute.toNat 31 16 + bits f.dangLight.toNat 15 8 + bits f.dangRail.toNat 7 0
  else if o = 0x010 then f.spareSel.toNat
  else if o = 0x014 then c.spares f.spareSel.toNat
  else if o = 0x100 then src
  else if o = 0x104 then f.logIndex.toNat
  else if !isSource src then 0
  else if o = 0x108 then c.logNewest src
  else if o = 0x10C then
    bitAt c.logRecord.isSome 31 + bitAt (!(c.logAny src)) 30 + (if src = 5 then 0 else bits (look ({} : Ring) c.log.rings src).dropped.toNat 15 0)
  else if 0x110 ≤ o ∧ o < 0x130 then
    match c.logRecord with
    | some r => leAt r.bytes (o - 0x110) 4
    | none => 0
  else 0

/-- IDN registers (R334, R396). -/
def Chip.idnReg (c : Chip) (o : Nat) : Nat :=
  let a := c.acc
  let cert := if a.certSel = 0 then c.vault.cert0 else c.vault.cert1
  if o = 0x000 then
    bits a.level.toNat 31 30 + c.vaultField (bitAt c.vault.ownerKey.isSome 29) + c.cfgField (bitAt (c.cfg.access.getLsbD 0) 28)
      + (if a.level = 0 then 0 else held (secondsUp (a.expiry - c.clk.aon)) 15 0)
  else if o = 0x008 then
    bits a.result.toNat 31 24 + bits a.failures.toNat 23 16
      + (match a.lockoutUntil with | some t => held (secondsUp (t - c.clk.aon)) 15 0 | none => 0)
  else if 0x050 ≤ o ∧ o < 0x070 then
    match a.challenge with
    | some x => x.1.toNat / 2 ^ (8 * (o - 0x050)) % 2 ^ 32
    | none => 0
  else if o = 0x070 then a.src.toNat % 2 ^ 32
  else if o = 0x074 then a.src.toNat / 2 ^ 32
  else if o = 0x078 then a.dst.toNat % 2 ^ 32
  else if o = 0x07C then a.dst.toNat / 2 ^ 32
  else if o = 0x084 then a.keyResult.toNat
  else if o = 0x100 then bits a.certSel.toNat 31 31 + c.vaultField (held cert.length 26 16) + bits a.certWord.toNat 10 0
  else if o = 0x104 then c.vaultField (leAt cert (4 * a.certWord.toNat) 4)
  else if o = 0x200 then bits a.diagSpace.toNat 31 30 + bitAt a.diagOut 29
  else if o = 0x204 then a.diagAddr.toNat % 2 ^ 32
  else if o = 0x208 then a.diagAddr.toNat / 2 ^ 32
  else if 0x210 ≤ o ∧ o < 0x220 then leAt a.diagData (o - 0x210) 4
  else if o = 0x800 then bits c.cfg.inUse.toNat 8 8 + bits c.cfg.reason1.toNat 7 4 + bits c.cfg.reason0.toNat 3 0
  else if o = 0x804 then c.cfg.sequence.toNat
  else if o = 0x808 then c.cfg.src.toNat % 2 ^ 32
  else if o = 0x80C then c.cfg.src.toNat / 2 ^ 32
  else if o = 0x814 then bits c.cfg.verify.toNat 11 8 + bits c.cfg.result.toNat 7 0
  else 0

/-- SCH registers (R49, R296). -/
def Chip.schReg (c : Chip) (o : Nat) : Nat :=
  let s := c.sch
  if o = 0x00 then held s.images.length 23 16 + bitAt (s.loads.any (·.complete)) 7
  else if o = 0x04 then bits s.lastStatus.toNat 31 24 + bits s.lastSub.toNat 23 16 + bits s.lastSection.toNat 15 0
  else if o = 0x08 then s.lastEntry.toNat
  else if o = 0x0C then s.rerowTotal.toNat
  else if o = 0x10 then bits s.raised.toNat 31 24 + bits s.stale.toNat 23 16 + bits s.forwarded.toNat 15 0
  else 0

/-! ## Ports and stacks -/

/-- The state of a receive lane (R275): active, spare, rotating, retired, down; until the port's first bring-up it reads its reset value. -/
def Port.laneState (q : Port) (l : Nat) : Nat :=
  if !q.begun then 0
  else if q.retiredRx.getLsbD l then 3
  else if q.state = 0 || q.state = 1 || q.state = 5 then 4
  else if q.rotOut = some l then 2
  else if (mapFind q.mapRx l).isSome then 0 else 1

/-- What LAS_LINK_SEL of a port selects (R183): its own link laser or the spare of its quad, and a line. -/
def Chip.linkSelected (c : Chip) (p : Nat) : LaserRef × Nat :=
  let s := look 0 c.linkSel p
  (.link (Fin.ofNat 20 (if s.getLsbD 4 then 16 + p / 4 else p)), s.toNat % 16)

/-- A laser's state register (R183). -/
def Chip.laserState (c : Chip) (r : LaserRef) : Nat :=
  let l := c.laserAt r
  c.kept (bits l.state.toNat 31 29 + bits l.group.toNat 28 25 + bits l.reason.toNat 24 21) + bits l.fade.toNat 15 0

/-- A laser's line power register (R183). -/
def Chip.laserLine (c : Chip) (r : LaserRef) (line : Nat) : Nat :=
  let l := c.laserAt r
  held (look 0 l.power line) 31 16 + c.kept (held (commissioned r l (c.biasMode r) line) 15 0)

/-- The registers of a Lamni port (R183, R275, R296). -/
def Chip.lnkReg (c : Chip) (p o : Nat) : Nat :=
  let q := c.port p
  let l := q.laneSel.toNat
  let x := c.lane (laneKey p l)
  let on := decide (l < 9)
  if o = 0x00 then bits q.state.toNat 31 28 + bits q.retiredRx.toNat 24 16 + bitAt (c.portJob p).isSome 0
  else if o = 0x04 then q.mapRx.toNat
  else if o = 0x08 then q.mapTx.toNat
  else if o = 0x0C then bits q.hop.toNat 31 16 + held (c.cfg.hopBudget.toNat - q.hop.toNat) 15 0
  else if o = 0x10 then l
  else if o = 0x14 then
    if on then bits (q.laneState l) 31 29 + bits x.reason.toNat 28 26 + bits x.width.toNat 23 16 + bits x.height.toNat 15 8
      + c.kept (bits x.commission.toNat 7 0) else 0
  else if o = 0x18 then (if on then bits x.corrected.toNat 31 16 + bits x.uncorr.toNat 15 0 else 0)
  else if o = 0x1C then
    bits q.headerFaults.toNat 31 24 + bits q.timingFaults.toNat 23 16 + bits q.markerFaults.toNat 15 8 + bits q.codewordFaults.toNat 7 0
  else if o = 0x20 then bits q.peak.toNat 31 16 + bits q.minLead.toNat 15 0
  else if o = 0x28 then q.cmdResult.toNat
  else if o = 0x30 then bits q.weighReason.toNat 31 28 + bits q.attempts.toNat 15 0
  else if o = 0x34 then bits q.peerPort.toNat 31 28 + bits q.peerFleet.toNat 25 16 + bits q.peerMember.toNat 9 0
  else if o = 0x38 then bits q.distance.toNat 31 24 + bits q.offset.toNat 15 0
  else if o = 0x3C then q.ctrlResult.toNat
  else if o = 0xF00 then
    let s := look 0 c.linkSel p
    bitAt (s.getLsbD 4) 8 + s.toNat % 16
  else if o = 0xF04 then c.laserState (c.linkSelected p).1
  else if o = 0xF08 then (let s := c.linkSelected p; if s.2 < 9 then c.laserLine s.1 s.2 else 0)
  else 0

/-- The registers of an HBM stack (R256). -/
def Chip.memReg (c : Chip) (s o : Nat) : Nat :=
  let k := c.stack s
  if o = 0x00 then bits k.temp.toNat 31 24 + c.kept (bits k.state.toNat 17 16) + bitAt (c.stackHeld s) 0
  else if o = 0x04 then c.kept k.failed.toNat
  else if o = 0x08 then
    c.kept (held (32 * stackData k / 2 ^ 20) 31 16 + held (reducedBudget (stackBudget c.cfg.class0 2 0) (failedChannels k) / 1024) 15 0)
  else if o = 0x0C then bits k.corrected.toNat 31 16 + bits k.uncorr.toNat 15 0
  else if o = 0x10 then bits k.ondie.toNat 31 16 + bits k.parity.toNat 15 0
  else if o = 0x14 then bits k.passes.toNat 31 16 + bits k.progress.toNat 7 0
  else 0

/-! ## Regions -/

/-- Region registers (R116, R137, R256, R334). -/
def Chip.rgnReg (c : Chip) (g o : Nat) : Nat :=
  let r := c.region g
  if o = 0x100 then r.swapAt.toNat % 2 ^ 32
  else if o = 0x104 then r.swapAt.toNat / 2 ^ 32
  else if o = 0x108 then bitAt r.armed 31 + bits r.swapResult.toNat 26 24
  else if o = 0x200 then bits r.optPeak.toNat 31 24 + bits r.optLast.toNat 23 16
  else if o = 0x204 then r.optServed.toNat
  else if o = 0x208 then r.optOverflows.toNat
  else if o = 0x300 then bits r.stgCorrected.toNat 31 16 + bits r.stgUncorr.toNat 15 0
  else if o = 0x400 then bits r.power.toNat 31 30 + bits r.wakes.toNat 15 0
  else 0

/-- The physical plot of a logical plot as its map reports it (R157). -/
def Chip.plotByte (c : Chip) (g lp : Nat) : Nat := match c.plotSeat g lp with | some k => k % 136 | none => 0xFF

/-- OPT registers (R157). -/
def Chip.optReg (c : Chip) (g o : Nat) : Nat :=
  let r := c.region g
  let sel := r.plotSel.toNat
  let p := c.plot (g * 136 + sel)
  let on := decide (sel < 136)
  if o = 0x000 then
    c.kept (held (c.absentPlots g) 23 16) + bits r.dutyLast.toNat 15 8 + bitAt (r.mode == 2 && decide (2 ≤ r.power.toNat)) 2 + bitAt r.held154 1
  else if o = 0x004 then
    total ((List.range 8).map (fun k => bitAt ((groupPlots g k).any (fun q => (c.plot q).away)) (8 + k) + bitAt (c.opticalSpare g k) k))
  else if 0x100 ≤ o ∧ o < 0x180 then
    c.kept (leNat ((List.range 4).map (fun n => BitVec.ofNat 8 (c.plotByte g (o - 0x100 + n)))))
  else if o = 0x200 then sel
  else if !on then 0
  else if o = 0x204 then
    c.kept (bits p.state.toNat 31 29 + bits p.reason.toNat 27 24 + bits p.seat.toNat 23 16) + bitAt p.parked 28
  else if o = 0x208 then bits p.margin.toNat 31 24 + bits p.cls.toNat 17 16 + held p.flagCount 15 0
  else if o = 0x20C then bits p.checkFails.toNat 31 16 + bits p.oor.toNat 15 0
  else 0

/-- LAS registers (R183). -/
def Chip.lasReg (c : Chip) (g o : Nat) : Nat :=
  let r := c.region g
  let x : LaserRef := .compute (Fin.ofNat 16 g) (Fin.ofNat 10 r.lasLaser.toNat)
  if o = 0x00 then c.kept (total ((List.range 8).map (fun k => bits (c.groupLaser g k) (4 * k + 3) (4 * k))))
  else if o = 0x04 then bits r.lasLine.toNat 11 8 + bits r.lasLaser.toNat 3 0
  else if o = 0x14 then r.lasResult.toNat
  else if 10 ≤ r.lasLaser.toNat then 0
  else if o = 0x08 then c.laserState x
  else if o = 0x0C then c.laserLine x r.lasLine.toNat
  else 0

/-- The rms of the residuals of a second, in quarter codes, rounded down (R172, R183). -/
def Bank.rms (b : Bank) : Nat := countBelow 255 (fun x => decide ((x + 1) ^ 2 * b.squares.length ≤ 16 * total b.squares) && !b.squares.isEmpty)

/-- HTR registers (R183). -/
def Chip.htrReg (c : Chip) (g o : Nat) : Nat :=
  let r := c.region g
  let k := g * 136 + r.htrPlot.toNat
  let b := k * 18 + r.htrBank.toNat
  let x := c.bank b
  let p := c.plot k
  let mine := c.banks.filter (fun e => e.1 / 2448 == g)
  if o = 0x00 then held (mine.filter (·.2.lock == 1)).length 23 16 + c.kept (held (mine.filter (·.2.fault)).length 15 0)
  else if o = 0x04 then bits r.htrPlot.toNat 23 16 + bits r.htrBank.toNat 12 8 + bits r.htrRing.toNat 3 0
  else if 136 ≤ r.htrPlot.toNat then 0
  else if o = 0x14 then bits p.wrongLocks.toNat 31 16 + bits p.resweeps.toNat 15 0
  else if 18 ≤ r.htrBank.toNat then 0
  else if o = 0x08 then
    bits (clampInt 0 65535 x.bias).toNat 31 16 + bits x.amplitude.toNat 15 8 + bits (ditherUnits r.htrPlot.toNat r.htrBank.toNat) 5 0
  else if o = 0x0C then
    bits x.lock.toNat 31 29 + bitAt x.tagOk 28 + bits x.tagLine.toNat 27 24 + bits x.peak.toNat 23 16 + held x.rms 15 8
      + bits (trunc 8 (clampInt (-127) 127 x.residual)) 7 0
  else if o = 0x10 then c.kept (look 0 c.trims (b * 16 + r.htrRing.toNat)).toNat
  else 0

/-! ## Cores and arrays -/

/-- The physical core whose arrays a digital seat drives (R367). -/
def Chip.drivenCore (c : Chip) (core : Nat) : Nat :=
  match c.seated core with
  | some lc => core / 34 * 34 + lc
  | none => core

/-- The slots booked for escapes on a core in the current phase (R130, R137). -/
def Chip.escapeSlots (c : Chip) (core : Nat) : Nat :=
  match c.seated core with
  | some lc => c.jobs.foldl (fun n j =>
      match j.logical (core / 34), c.imageOf j, c.pos j with
      | some lr, some i, some p =>
        if j.st = .running then n + ((i.escapes p.phase lr lc).map (·.2.start)).eraseDups.length else n
      | _, _, _ => n) 0
  | none => 0

/-- COX and CORE registers of a physical core (R137, R198, R220, R238, R256). -/
def Chip.coreReg (c : Chip) (core o : Nat) : Nat :=
  let k := c.core core
  if o = 0x1800 then
    bits (k.table.filter (fun e => e.2.state == 3)).length 20 16 + bitAt (k.table.any (fun e => e.2.state == 2)) 7 + bitAt (c.ledgerNow core) 6
  else if o = 0x1804 then bits k.peakItems.toNat 31 24 + bits k.lastItems.toNat 23 16 + bits (c.escapeSlots core) 15 8
  else if o = 0x1808 then k.served.toNat
  else if o = 0x180C then bits k.noEntry.toNat 31 16 + bits k.slotsLost.toNat 15 0
  else if o = 0x1810 then bits k.benchFails.toNat 31 16 + bits k.senseFails.toNat 15 0
  else if o = 0x1814 then bits k.stuckArray.toNat 12 8 + bits k.stuckEntry.toNat 5 0
  else if o = 0x1818 then
    if k.stuckArray.toNat < 17 then
      match (c.arr (c.drivenCore core * 17 + k.stuckArray.toNat)).stuck[k.stuckEntry.toNat]? with
      | some e => c.kept (bitAt true 31 + bits e.tier.val 29 24 + bits e.row.val 23 16 + bits e.column 15 7 + bits e.intended.toNat 6 5
          + bits (trunc 2 e.stuck) 4 3)
      | none => 0
    else 0
  else if o = 0x181C then k.tableSel.toNat
  else if o = 0x1820 then
    let e : TableEntry := look {} k.table k.tableSel.toNat
    bitAt (e.state == 3) 31 + bitAt (e.state == 2) 30 + bits (e.array % 17) 28 24 + bits e.rowGroup 19 16 + bits e.colGroup 12 8 + bits e.margin.toNat 7 0
  else if o = 0x1900 then bits k.datumConv.toNat 31 16 + bits k.datumAdd.toNat 15 0
  else if o = 0x1904 then k.datumInvalid.toNat
  else if o = 0x1908 then bits k.datumOp.toNat 31 24 + bits k.datumG.toNat 23 16 + bits k.datumStroke.toNat 15 0
  else if o = 0x190C then bits k.accRange.toNat 31 24 + bits k.accUncorr.toNat 23 16 + bits k.accCorr.toNat 15 0
  else if o = 0x1910 then bits k.quantOutlier.toNat 31 16 + bits k.quantRange.toNat 15 0
  else if o = 0x1914 then bits k.quantOverrun.toNat 31 24 + bits k.quantInvalid.toNat 23 16 + bits k.quantFlat.toNat 15 0
  else if o = 0x1918 then bits k.tagExpected.toNat 31 28 + bits k.tagFound.toNat 27 24 + bits k.streamFaults.toNat 15 0
  else if o = 0x191C then bits k.vecInvalid.toNat 31 16 + bits k.vecOverflow.toNat 15 0
  else if o = 0x1920 then bits k.emptyRows.toNat 31 16 + bits k.tableUncorr.toNat 15 8 + bits k.tableCorr.toNat 7 0
  else if o = 0x1924 then bits k.stgCorrected.toNat 31 16 + bits k.stgUncorr.toNat 15 0
  else 0

/-- The state code of a tier (R96). -/
def TierSt.code : TierSt → Nat
  | .blank => 0 | .programming => 1 | .ready => 2 | .held => 3 | .worn => 4 | .failed => 5

/-- The byte of a row group's spare plot (R116). -/
def PlotSub.byte (s : PlotSub) : Nat :=
  bitAt s.active 7 + bitAt (s.copying && s.since.isSome && !s.copied) 6 + bitAt s.spareFailed 5 + bits s.group.toNat 4 0

/-- The tier that a copy is at, by the time since it began: `first` cycles before the first tier, `each` for `n` tiers at a time; none before it. -/
def copyTierAt (tiers : List (Fin 64)) (first each n : Nat) (d : Nat) : Nat :=
  if d < first then 0xFF else ((tiers[min ((d - first) / each * n) (tiers.length - 1)]?).map (·.val)).getD 0xFF

/-- The tier being copied on an array (R110, R114, R369): of its own move or of one into it, else into one of its spare plots; 0xFF for none. A
plot takes 40 µs and 160 µs a tier, a cell block 41 ms a tier, four at a time in a spare core (log entry 124). -/
def Chip.copyTier (c : Chip) (a : Nat) : Nat :=
  let x := c.arr a
  let source := if x.moveTo.isSome then a else ((c.arrays.find? (fun e => e.2.moveTo == some a)).map (·.1)).getD a
  let dest := (x.moveTo).getD a
  match x.copyAt, x.subs.find? (fun s => s.2.copying && s.2.since.isSome && !s.2.copied) with
  | some t, s =>
    if x.copying && !x.copied then copyTierAt (c.liveTiers source) 0 1025000 (if 32 ≤ dest / 17 % 34 then 4 else 1) (c.clk.aon - t)
    else match s with
      | some s => copyTierAt (c.liveTiers a) 1000 4000 1 (c.clk.aon - s.2.since.getD 0)
      | none => 0xFF
  | none, some s => copyTierAt (c.liveTiers a) 1000 4000 1 (c.clk.aon - s.2.since.getD 0)
  | none, none => 0xFF

/-- ARR registers of a physical array (R116, R349). -/
def Chip.arrReg (c : Chip) (a o : Nat) : Nat :=
  let x := c.arr a
  if o = 0x00 then
    c.kept (bits ((c.logicalOf a).elim 0x1F (·.2)) 28 24 + bits ((c.sensesOf a).elim 0x1F (· % 17)) 20 16
        + bitAt x.retiredPeri 6 + bitAt x.retiredCells 5 + bitAt x.candidate 4)
      + c.kept (bits (c.copyTier a) 15 8) + bitAt x.away.isSome 7
  else if 0x10 ≤ o ∧ o < 0x30 then
    c.kept (total ((List.range 8).map (fun n =>
      let t := c.tier (tierKey a (2 * (o - 0x10) + n))
      bits (8 * flag t.int4 + t.st.code) (4 * n + 3) (4 * n))))
  else if 0x40 ≤ o ∧ o < 0x80 then
    c.kept (leNat ((List.range 4).map (fun n =>
      let t := o - 0x40 + n
      BitVec.ofNat 8 (look (Fin.ofNat 64 t) x.map t).val)))
  else if o = 0x84 then x.progSrc.toNat
  else if o = 0x88 then
    bits x.progResult.toNat 31 24 + bits x.stuckAdded.toNat 23 16 + bitAt x.busy 6
      + bits x.progTier.toNat 5 0
  else if o = 0x8C then bitAt x.staged 31 + bits x.swapResult.toNat 26 24 + bits x.swapB.toNat 13 8 + bits x.swapA.toNat 5 0
  else if o = 0x90 then bits x.wearSel.toNat 29 24 + c.kept (bits (c.tier (tierKey a x.wearSel.toNat)).count.toNat 13 0)
  else if 0xA0 ≤ o ∧ o < 0xB0 then
    c.kept (leNat ((List.range 4).map (fun n => BitVec.ofNat 8 (x.sub (o - 0xA0 + n)).byte)))
  else if o = 0xB0 then bits x.qselCol.toNat 12 8 + bits x.qselRow.toNat 3 0
  else if o = 0xB4 then
    if x.qselCol.toNat < 17 then
      let q : Quality := look {} x.quality (x.qselRow.toNat * 17 + x.qselCol.toNat)
      c.kept (bits q.margin.toNat 31 24 + bits q.cls.toNat 17 16)
        + held (256 * x.flagCount (x.qselRow.toNat * 17 + x.qselCol.toNat)) 15 0
    else 0
  else if o = 0xB8 then
    let s := c.surveyNow (periUnit a)
    held ((c.clk.aon - s.time) / 25000000) 31 16 + c.kept (bits s.temp.toNat 15 4) + bits s.cause.toNat 3 2 + bitAt s.due 1 + bitAt x.away.isSome 0
  else 0

/-- A register of a region's block (R397). -/
def Chip.regionReg (c : Chip) (g o : Nat) : Nat :=
  if o < 0x10000 then c.rgnReg g o
  else if o < 0x20000 then c.optReg g (o - 0x10000)
  else if o < 0x30000 then c.lasReg g (o - 0x20000)
  else if o < 0x40000 then c.htrReg g (o - 0x30000)
  else
    let k := (o - 0x40000) / 0x2000
    let p := (o - 0x40000) % 0x2000
    if 34 ≤ k then 0
    else if p < 0x400 then 0
    else if p < 0x400 + 17 * 0x100 then c.arrReg ((g * 34 + k) * 17 + (p - 0x400) / 0x100) ((p - 0x400) % 0x100)
    else c.coreReg (g * 34 + k) p

/-- What a register reads as (R397, R398). -/
def Chip.regValue (c : Chip) (a : Nat) : Word :=
  let o := a % 0x10000
  BitVec.ofNat 32 (
    if a % 4 ≠ 0 then 0
    else if a < 0x10000 then c.topReg o
    else if a < 0x20000 then c.hstReg o
    else if a < 0x30000 then c.monReg o
    else if a < 0x40000 then c.clkReg o
    else if a < 0x50000 then c.safReg o
    else if a < 0x60000 then c.idnReg o
    else if a < 0x70000 then c.schReg o
    else if 0x100000 ≤ a ∧ a < 0x200000 then c.lnkReg (a / 0x10000 % 16) o
    else if 0x200000 ≤ a ∧ a < 0x280000 then c.memReg (a / 0x10000 % 16) o
    else if 0x1000000 ≤ a ∧ a < 0x2000000 then c.regionReg (a / 0x100000 % 16) (a % 0x100000)
    else 0)

/-! ## What a read changes -/

/-- The low register of a latched pair captures its high half (R401). -/
def Chip.latchRead (c : Chip) (a : Nat) : Chip :=
  if a = 0x10300 then { c with clk := { c.clk with logLatch := (c.logTime >>> 32).setWidth 32 } }
  else if a = 0x20020 then { c with lvl := { c.lvl with latch := c.lvl.headHigh } }
  else if a = 0x30104 then { c with clk := { c.clk with fleetLatch := (c.clk.fleetStroke >>> 32).setWidth 16 } }
  else c

/-- A region's RC fields (R137, R183) and a core's. -/
def Chip.clearRegion (c : Chip) (g o : Nat) : Chip :=
  let r := c.region g
  if o = 0x200 then c.upRegion g (fun r => { r with optPeak := 0 })
  else if o = 0x3000C then
    if r.htrPlot.toNat < 136 && r.htrBank.toNat < 18 then
      c.upBank ((g * 136 + r.htrPlot.toNat) * 18 + r.htrBank.toNat) (fun b => { b with peak := 0 })
    else c
  else if 0x40000 ≤ o ∧ (o - 0x40000) / 0x2000 < 34 ∧ (o - 0x40000) % 0x2000 = 0x1804 then
    c.upCore (g * 34 + (o - 0x40000) / 0x2000) (fun k => { k with peakItems := 0 })
  else c

/-- An RC field is cleared by its read (R9, R403): a peak begins again, and so does the smallest lead of LNK_BUFFER; MON_QUEUE_HI removes
the head entry. -/
def Chip.clearRead (c : Chip) (a : Nat) : Chip :=
  if a = 0x20024 then c.queuePop
  else if 0x100000 ≤ a ∧ a < 0x200000 ∧ a % 0x10000 = 0x20 then c.upPort (a / 0x10000 % 16) (fun q => { q with peak := 0, minLead := 0xFFFF })
  else if 0x1000000 ≤ a ∧ a < 0x2000000 then c.clearRegion (a / 0x100000 % 16) (a % 0x100000)
  else c

/-- The block after a read of a register: a latch, a cleared field, or two free figures taken. -/
def Chip.afterRead (c : Chip) (a : Nat) : Chip :=
  if a % 4 ≠ 0 then c
  else if a = 0x30014 then { c with freeCtr := c.freeCtr + 2 }
  else (c.latchRead a).clearRead a

/-- A run of registers read in ascending order (R399). -/
def Chip.readRegs (c : Chip) (a : Nat) : Nat → List Word × Chip
  | 0 => ([], c)
  | n + 1 =>
    let r := (c.afterRead a).readRegs (a + 4) n
    (c.regValue a :: r.1, r.2)

/-! ## The commands -/

/-- Whether level 0 closes an address (R400): the IDN_DIAG registers. -/
def diagAddress (a : Nat) : Bool :=
  a == 0x50200 || a == 0x50204 || a == 0x50208 || (decide (0x50210 ≤ a) && decide (a < 0x50220) && a % 4 == 0)

/-- Whether the access level closes one of a run of registers (R390, R400). -/
def Chip.closedRun (c : Chip) (a n : Nat) : Bool := c.acc.level == 0 && (List.range n).any (fun k => diagAddress (a + 4 * k))

/-- The lengths of a REG body (R301 step 6, R312). -/
def regLengths (h : Hdr) (a count body : Nat) : Bool :=
  decide (8 ≤ h.length) && (count == 0 || (decide (count ≤ 128) && decide (a + 4 * count ≤ 0xFFFFFFFF) && decide (8 + body ≤ h.length)))

/-- What the code of the register fabric reports of a run of accesses (R252), and how many of them are performed: corrected words are counted with
stack 0; at an uncorrectable one the run ends, its access not performed, with a transient event (log entry 142). -/
def Chip.fabric (c : Chip) (n : Nat) (f : Fabric) : Chip × Nat :=
  let c := c.stackCounts 0 f.corrected 0 false
  match f.bad with
  | some k => if k < n then (c.eventOpen (srcStack 0) 1 (locusWord none (some 0) none) k, k) else (c, n)
  | none => (c, n)

/-- REG_READ (R312, R326, R327, R399): answered with REG_DATA; a reserved byte that is not 0 and an address that is no multiple of 4
are refused (log entries 40 and 80). -/
def execRegRead (h : Hdr) (res : Byte) (addr : BitVec 32) (count : Nat) (fabric : Fabric) (s : State) : Host.Outcome State Fault Refusal :=
  act (fun c =>
    let a := addr.toNat
    c.treat h (regLengths h a count 0) (!c.start.recovery || h.queue == 0) (fun c =>
      if res ≠ 0 || a % 4 ≠ 0 then c.receipt h statusBadField
      else if c.closedRun a count then c.receipt h statusAccess
      else
        let f := c.fabric count fabric
        let r := f.1.readRegs a f.2
        r.2.answer h (.regData 0 h.seq (BitVec.ofNat 16 f.2) addr r.1))) s

/-- One access of the register fabric: performed unless its word is uncorrectable (R252). -/
def Chip.access (c : Chip) (fabric : Fabric) (f : Chip → Chip) : Chip :=
  let r := c.fabric 1 fabric
  r.1.when (r.2 == 1) f

/-- RC_FIELD_READ (R9, R403) and LATCHED_LOW_READ (R401): one performed read of such a register. -/
def execRcFieldRead (addr : BitVec 32) (fabric : Fabric) (s : State) : Host.Outcome State Fault Refusal :=
  act (fun c => c.access fabric (fun c => c.clearRead addr.toNat)) s
def execLatchedLowRead (addr : BitVec 32) (fabric : Fabric) (s : State) : Host.Outcome State Fault Refusal :=
  act (fun c => c.access fabric (fun c => c.latchRead addr.toNat)) s

end Sys2Proof.Machine
end

