-- ==== Sys2Proof/Machine/Identity.lean ====
section
/-! DEFINITION. The configuration image (R329, R331, R333), identity, access levels, attestation, the diagnostic window and the test port (R384 to R396). -/

namespace Sys2Proof.Machine

/-! ## The configuration image (R329) -/

/-- Where a copy lies in the flash (R328). -/
def copyBase (copy : Bool) : Nat := if copy then 0x1000000 else 0

/-- The length of a configuration image. -/
def cfgLength : Nat := 36864

/-- A copy as the flash holds it. -/
def Chip.flashCopy (c : Chip) (copy : Bool) : List Byte := readBytes c.mem.flash (copyBase copy) cfgLength

/-- Whether bytes of an image are all 0. -/
def zerosAt (b : List Byte) (o n : Nat) : Bool := (slice b o n).all (· == 0)

/-- A host port's fields of an image. -/
def readCfgPort (b : List Byte) (n : Nat) : CfgPort :=
  let o := 0x100 + 64 * n
  { mac := BitVec.ofNat 48 (leAt b o 6), flags := BitVec.ofNat 8 (leAt b (o + 6) 2), vid := BitVec.ofNat 16 (leAt b (o + 8) 2)
    udpPort := BitVec.ofNat 16 (leAt b (o + 10) 2), ipv4 := BitVec.ofNat 32 (beNat (slice b (o + 12) 4))
    ipv6 := BitVec.ofNat 128 (beNat (slice b (o + 16) 16)), ptpDomain := BitVec.ofNat 8 (leAt b (o + 32) 1) }

/-- Whether a host port's fields are in range (R329). -/
def cfgPortGood (b : List Byte) (n : Nat) : Bool :=
  let o := 0x100 + 64 * n
  let f := leAt b (o + 6) 2
  let vid := leAt b (o + 8) 2
  !(bitOf (leAt b o 6) 40) && decide (f < 32) && (bitOf f 1 || bitOf f 2)
    && (if bitOf f 3 then decide (1 ≤ vid) && decide (vid ≤ 4094) else vid == 0)
    && decide (1 ≤ leAt b (o + 10) 2) && (bitOf f 1 || zerosAt b (o + 12) 4) && (bitOf f 2 || zerosAt b (o + 16) 16)
    && decide (leAt b (o + 32) 1 ≤ 127) && zerosAt b (o + 33) 31

/-- Whether a class's fields are in range. -/
def cfgClassGood (b : List Byte) (k : Nat) : Bool :=
  let o := 0x180 + 4 * k
  decide (leAt b o 1 ≤ 7) && decide (leAt b (o + 1) 1 ≤ 63) && zerosAt b (o + 2) 2

/-- Whether a field lies between two bounds. -/
def between (lo hi v : Nat) : Bool := decide (lo ≤ v) && decide (v ≤ hi)

/-- Step 7 of R329: every field in its range, every reserved byte 0. -/
def cfgFieldsGood (b : List Byte) : Bool :=
  zerosAt b 6 2 && decide (1 ≤ leAt b 0xC 4) && zerosAt b 0xE4 28 && cfgPortGood b 0 && cfgPortGood b 1
    && (List.range 4).all (cfgClassGood b)
    && between 0 1023 (leAt b 0x190 2) && between 5 40 (leAt b 0x192 1) && between 1 32 (leAt b 0x193 1) && between 0 1 (leAt b 0x194 1)
    && between 1 4 (leAt b 0x195 1) && zerosAt b 0x196 26
    && between 0 1023 (leAt b 0x1B0 2) && between 1 7 (leAt b 0x1B2 1) && between 0 1 (leAt b 0x1B3 1) && between 650 1750 (leAt b 0x1B4 2)
    && between 5 100 (leAt b 0x1B6 1) && between 0 7 (leAt b 0x1B7 1) && zerosAt b 0x1B8 8 && between 0 1 (leAt b 0x1C0 1)
    && zerosAt b 0x1C1 15 && (leAt b 0x1C0 1 == 1 || zerosAt b 0x1E0 64) && zerosAt b 0x220 3552
    && (slice b 0x1000 32768).all (fun x => x.toNat < 16)

/-- The first failure of a copy in the order of R329, 0 for a valid one. -/
def verifyConfig (v : Vault) (readFailed : Bool) (b : List Byte) : Nat :=
  let blanked := b.take 0x20 ++ List.replicate 64 0 ++ List.replicate 132 0 ++ b.drop 0xE4
  let serial := leAt b 0x10 16
  if readFailed then 7
  else if leAt b 0 4 ≠ 0x46435658 then 1
  else if leAt b 4 2 ≠ 1 || leAt b 8 4 ≠ cfgLength then 2
  else if slice b 0x20 64 ≠ sha512 blanked then 3
  else if !(match v.ownerKey with | some k => signedBy k (b.take 0x60) (slice b 0x60 132) | none => false) then 4
  else if serial ≠ 0 && serial ≠ v.serial.toNat then 5
  else if !(cfgFieldsGood b) then 6
  else 0

/-- The configuration that a copy gives; the write registers stay. -/
def Cfg.load (f : Cfg) (copy : Bool) (b : List Byte) : Cfg :=
  { f with
    loaded := true, inUse := if copy then 1 else 0, sequence := BitVec.ofNat 32 (leAt b 0xC 4), port0 := readCfgPort b 0, port1 := readCfgPort b 1
    pcp := (List.range 4).map (fun k => BitVec.ofNat 8 (leAt b (0x180 + 4 * k) 1))
    dscp := (List.range 4).map (fun k => BitVec.ofNat 8 (leAt b (0x181 + 4 * k) 1))
    fleetId := BitVec.ofNat 10 (leAt b 0x190 2), hopBudget := BitVec.ofNat 16 (100 * leAt b 0x192 1), reach := BitVec.ofNat 8 (leAt b 0x193 1)
    class0 := leAt b 0x194 1 == 1, expressCores := BitVec.ofNat 8 (leAt b 0x195 1), member := BitVec.ofNat 10 (leAt b 0x1B0 2)
    modes := BitVec.ofNat 8 (leAt b 0x1B2 1), mains := BitVec.ofNat 8 (leAt b 0x1B3 1), powerLimit := BitVec.ofNat 16 (leAt b 0x1B4 2)
    surveyThreshold := BitVec.ofNat 16 (leAt b 0x1B6 1), features := BitVec.ofNat 32 (leAt b 0x1B7 1), access := BitVec.ofNat 8 (leAt b 0x1C0 1)
    salt := slice b 0x1D0 16, verifier := BitVec.ofNat 512 (leAt b 0x1E0 64), classMap := slice b 0x1000 32768
    digest := BitVec.ofNat 512 (leAt b 0x20 64), fleetDigest := sha512Field (slice b 0x190 32) }

/-- The test port instructions that close admission and the flash (R393). -/
def Chip.tapHolds (c : Chip) : Bool := c.acc.tap == .extest || c.acc.tap == .clamp || c.acc.tap == .highz

/-- The sequences of the valid copies in flash (R331). -/
def Chip.copySequences (c : Chip) : List Nat :=
  [false, true].filterMap (fun k => let b := c.flashCopy k; if verifyConfig c.vault false b = 0 then some (leAt b 0xC 4) else none)

/-- CONFIG_WRITE (R331, R333): an image in HBM is verified and goes to the copy not in use, in the recovery state without a copy in use to
copy 1. -/
def Chip.cmdConfigWrite (c : Chip) : Chip :=
  let answer (r v : Nat) : Chip := { c with cfg := { c.cfg with result := BitVec.ofNat 8 r, verify := BitVec.ofNat 4 v } }
  let src := c.cfg.src.toNat
  if c.cfg.writing.isSome || !(c.start.ready || c.start.recovery) || c.tapHolds then answer 3 0
  else if src % 16 ≠ 0 || dataSpace < src + cfgLength then answer 8 0
  else
    let b := readWindow c.mem.hbm 0 src cfgLength
    let why := verifyConfig c.vault false b
    if why ≠ 0 then answer 4 why
    else if c.start.recovery && c.start.reason = 1 then answer 4 4
    else if c.copySequences.any (fun n => decide (leAt b 0xC 4 ≤ n)) then answer 5 0
    else
      let dest := !(c.cfg.loaded && c.cfg.inUse == 1)
      { c with
        cfg := { c.cfg with result := 1, verify := 0, writing := some dest }
        mem := { c.mem with flash := writeBytes c.mem.flash (copyBase dest) b } }
def execConfigWrite (s : State) : Host.Outcome State Fault Refusal := act Chip.cmdConfigWrite s

/-- CONFIG_WRITE_DONE (R331): the copy has been read back and compared; one that differs is left erased (log entry 46). -/
def execConfigWriteDone (readBackOk : Bool) (s : State) : Host.Outcome State Fault Refusal :=
  act (fun c =>
    match c.cfg.writing with
    | some copy =>
      if readBackOk then { c with cfg := { c.cfg with writing := none, result := 2 } }
      else { c with
        cfg := { c.cfg with writing := none, result := 7 }
        mem := { c.mem with flash := zeroBytes c.mem.flash (copyBase copy) cfgLength } }
    | none => c) s

/-! ## Access levels (R390 to R392) -/

/-- Always-on cycles in a number of seconds. -/
def secCycles (n : Nat) : Nat := n * 25000000

/-- The level falls to 0: the test port returns to Test-Logic-Reset (R390, R393, R395). -/
def Access.toLevel0 (a : Access) : Access := { a with level := 0, expiry := 0, tap := .idle }

/-- The result of an access command. -/
def Chip.accessResult (c : Chip) (r : Nat) : Chip := { c with acc := { c.acc with result := BitVec.ofNat 8 r } }

/-- Whether password attempts are locked out now. -/
def Chip.lockedOut (c : Chip) : Bool := match c.acc.lockoutUntil with | some t => decide (c.clk.aon < t) | none => false

/-- A failed attempt (R391): the third in a row locks out for 60 s, each further one for twice as long, up to 3,600 s. -/
def Access.fail (a : Access) (now : Nat) : Access :=
  let n := satAdd a.failures 1
  let len := if a.lockoutLen = 0 then 60 else min 3600 (2 * a.lockoutLen)
  if n.toNat < 3 then { a with failures := n, result := 8 }
  else { a with failures := n, result := 8, lockoutLen := len, lockoutUntil := some (now + secCycles len) }

/-- A password that matches (R390, R391). -/
def Access.pass (a : Access) (now : Nat) : Access :=
  let a := { a with failures := 0, lockoutLen := 0, lockoutUntil := none, result := 2 }
  if a.level = 2 then a else { a with level := 1, expiry := now + secCycles 900 }

/-- ACCESS_PASSWORD (R391): IDN_ACCESS_CMD action 1; the password registers are cleared after every attempt. -/
def Chip.cmdPassword (c : Chip) (length : Nat) : Chip :=
  let bytes := c.acc.pw.take length ++ List.replicate (length - c.acc.pw.length) 0
  let now := c.clk.aon
  let locked := c.lockedOut
  let c := { c with acc := { c.acc with pw := [] } }
  if !(c.cfg.access.getLsbD 0) then c.accessResult 5
  else if locked then c.accessResult 6
  else if length < 8 || 64 < length then c.accessResult 3
  else if sha512Field (c.cfg.salt ++ bytes) = c.cfg.verifier then { c with acc := c.acc.pass now }
  else { c with acc := c.acc.fail now }
def execAccessPassword (length : BitVec 7) (s : State) : Host.Outcome State Fault Refusal := act (fun c => c.cmdPassword length.toNat) s

/-- ACCESS_CHALLENGE (R392): a fresh challenge, void after 300 s; an earlier one is void. -/
def Chip.cmdChallenge (c : Chip) : Chip :=
  { c.draw.2 with acc := { c.acc with challenge := some (Config.challenge c.draw.1, c.clk.aon + secCycles 300), result := 2 } }
def execAccessChallenge (s : State) : Host.Outcome State Fault Refusal := act Chip.cmdChallenge s

/-- Whether a request of R392 is in order: its duration when it is. -/
def Chip.requestGood (c : Chip) (b : List Byte) : Option Nat :=
  match c.vault.ownerKey, c.acc.challenge with
  | some k, some (ch, until_) =>
    let d := leAt b 56 4
    if c.clk.aon < until_ && leAt b 0 4 = 0x52415658 && leAt b 4 2 = 1 && leAt b 6 1 = 2 && leAt b 7 1 = 0 && leAt b 8 16 = c.vault.serial.toNat
        && leAt b 24 32 = ch.toNat && between 1 3600 d && zerosAt b 60 4 && signedBy k (b.take 64) (slice b 64 132) then some d
    else none
  | _, _ => none

/-- ACCESS_SIGNED_REQUEST (R392): IDN_ACCESS_CMD action 3; accepted or refused, the challenge is used up. -/
def Chip.cmdRequest (c : Chip) : Chip :=
  let src := c.acc.src.toNat
  if dataSpace < src + 196 then { c with acc := { c.acc with challenge := none, result := 3 } }
  else
    match c.requestGood (readWindow c.mem.hbm 0 src 196) with
    | some d => { c with acc := { c.acc with challenge := none, result := 2, level := 2, expiry := c.clk.aon + secCycles d } }
    | none => { c with acc := { c.acc with challenge := none, result := 4 } }
def execAccessSignedRequest (s : State) : Host.Outcome State Fault Refusal := act Chip.cmdRequest s

/-- ACCESS_RETURN_LEVEL0 (R390): IDN_ACCESS_CMD action 4. -/
def Chip.cmdLevel0 (c : Chip) : Chip := { c with acc := { c.acc.toLevel0 with result := 2 } }
def execAccessReturnLevel0 (s : State) : Host.Outcome State Fault Refusal := act Chip.cmdLevel0 s

/-- ACCESS_EXPIRY (R390, R395), LOCKOUT_END (R391), CHALLENGE_EXPIRY (R392): each at its time. -/
def execAccessExpiry (s : State) : Host.Outcome State Fault Refusal :=
  act (fun c => if c.acc.level ≠ 0 && c.acc.expiry ≤ c.clk.aon then { c with acc := c.acc.toLevel0 } else c) s
def execLockoutEnd (s : State) : Host.Outcome State Fault Refusal :=
  act (fun c => match c.acc.lockoutUntil with
    | some t => if t ≤ c.clk.aon then { c with acc := { c.acc with lockoutUntil := none } } else c
    | none => c) s
def execChallengeExpiry (s : State) : Host.Outcome State Fault Refusal :=
  act (fun c => match c.acc.challenge with
    | some (_, t) => if t ≤ c.clk.aon then { c with acc := { c.acc with challenge := none } } else c
    | none => c) s

/-! ## Attestation and the owner key (R387 to R389) -/

/-- The result of a key command. -/
def Chip.keyAnswer (c : Chip) (r : Nat) : Chip := { c with acc := { c.acc with keyResult := BitVec.ofNat 8 r } }

/-- Whether a range may be read or written as BULK op 1 would (R313, R387). -/
def Chip.dataFree (c : Chip) (off n : Nat) : Bool := decide (off + n ≤ dataSpace) && !(c.bulkBusy (off, n))

/-- ATTEST (R387): IDN_KEY_CMD action 1. -/
def Chip.cmdAttest (c : Chip) : Chip :=
  let src := c.acc.src.toNat
  let dst := c.acc.dst.toNat
  if c.acc.attesting.isSome then c.keyAnswer 5
  else if src % 16 ≠ 0 || dst % 16 ≠ 0 || !(c.dataFree src 64) || !(c.dataFree dst 2516) then c.keyAnswer 3
  else { c with acc := { c.acc with attesting := some (src, dst), keyResult := 1 } }
def execAttest (s : State) : Host.Outcome State Fault Refusal := act Chip.cmdAttest s

/-- The bytes of an owner key (R389). -/
def keyBytes (k : Nat × Nat) : List Byte := [4] ++ beBytes 66 k.1 ++ beBytes 66 k.2

/-- An attestation report but for its signature (R388). -/
def Chip.reportBody (c : Chip) (nonce : List Byte) : List Byte :=
  let ids := c.sch.images.flatMap (fun i => leBytes 32 i.id.toNat)
  let newest := if c.log.retainAny then (c.log.retainNext - 1).toNat else 0xFFFFFFFF
  let owner := match c.vault.ownerKey with | some k => sha512 (keyBytes k) | none => List.replicate 64 0
  leBytes 4 0x54415658 ++ leBytes 2 1 ++ leBytes 2 2516 ++ leBytes 16 c.vault.serial.toNat ++ leBytes 4 c.vault.apid.toNat
    ++ leBytes 1 (flag c.vault.gradeH) ++ leBytes 1 c.vault.stepping.toNat ++ leBytes 1 c.acc.level.toNat ++ leBytes 1 c.sch.images.length
    ++ nonce ++ leBytes 64 c.cfg.digest.toNat ++ leBytes 4 c.cfg.sequence.toNat ++ leBytes 2 c.cfg.member.toNat ++ leBytes 2 c.cfg.fleetId.toNat
    ++ leBytes 64 c.cfg.fleetDigest.toNat ++ leBytes 8 c.clk.chipStroke.toNat ++ leBytes 8 c.logTime.toNat ++ leBytes 4 c.capacity
    ++ leBytes 2 c.lostMask ++ leBytes 2 0 ++ leBytes 4 newest ++ leBytes 4 (if c.vault.ownerKey.isSome then c.vault.ownerSeq.toNat else 0)
    ++ leBytes 8 0 ++ owner ++ ids ++ List.replicate (2048 - ids.length) 0

/-- ATTESTATION_REPORT_WRITTEN (R385, R387, R388): the report is signed and written; the signature is open (log entry 4). -/
def Chip.attestDone (c : Chip) : Chip :=
  match c.acc.attesting with
  | some (src, dst) =>
    let body := c.reportBody (readWindow c.mem.hbm 0 src 64)
    let sig := Config.signature (beNat (sha512 body)) c.freeCtr
    let c := c.draw.2.writeData dst (body ++ signatureBytes sig)
    { c with acc := { c.acc with attesting := none, keyResult := 2 } }
  | none => c
def execAttestationReportWritten (s : State) : Host.Outcome State Fault Refusal := act Chip.attestDone s

/-- The key of an owner record that is in order (R389). -/
def Chip.recordKey (c : Chip) (b : List Byte) : Option (Nat × Nat) :=
  let key := (beNat (slice b 33 66), beNat (slice b 99 66))
  let under := c.vault.ownerKey.getD key
  if leAt b 0 4 = 0x544F5658 && leAt b 4 2 = 1 && zerosAt b 6 2 && leAt b 8 16 = c.vault.serial.toNat && c.vault.ownerSeq.toNat < leAt b 24 4
      && zerosAt b 28 4 && leAt b 32 1 = 4 && ecOnCurve key && zerosAt b 165 11 && signedBy under (b.take 176) (slice b 176 132) then some key
  else none

/-- OWNER_RECORD (R389): IDN_KEY_CMD action 2; an accepted record replaces the key and the sequence, and the level falls to 0. -/
def Chip.cmdOwner (c : Chip) : Chip :=
  let src := c.acc.src.toNat
  if c.acc.attesting.isSome then c.keyAnswer 5
  else if dataSpace < src + 308 then c.keyAnswer 3
  else if c.start.recovery && c.start.reason = 1 then c.keyAnswer 4
  else
    let b := readWindow c.mem.hbm 0 src 308
    match c.recordKey b with
    | some k => { c with
        vault := { c.vault with ownerKey := some k, ownerSeq := BitVec.ofNat 32 (leAt b 24 4) }
        acc := { c.acc.toLevel0 with keyResult := 2 } }
    | none => c.keyAnswer 4
def execOwnerRecord (s : State) : Host.Outcome State Fault Refusal := act Chip.cmdOwner s

/-! ## The diagnostic window (R394) -/

/-- The bytes of a survey store bank that R340 gives: its header; what it does not give is open (log entry 4). -/
def bankByte (which : Nat) (b : StoreBank) (a : Nat) : Byte :=
  let fixed := leBytes 4 0x56535658 ++ leBytes 2 1 ++ leBytes 2 0 ++ leBytes 8 b.sequence
  let commit := leBytes 8 b.sequence ++ leBytes 8 (2 ^ 64 - 1 - b.sequence % 2 ^ 64)
  let free : Byte := BitVec.ofNat 8 (Config.figure (2 ^ 96 + (b.sequence * 2 + which) * 2 ^ 24 + a))
  if b.payload.isNone then free
  else if a < 16 then (fixed[a]?).getD 0
  else if 24 ≤ a && a < 48 then 0
  else if 48 ≤ a && a < 64 && b.committed then (commit[a - 48]?).getD 0
  else free

/-- The 16 bytes of a diagnostic read, none outside its space (R394). -/
def Chip.diagBytes (c : Chip) (space a : Nat) : Option (List Byte) :=
  let at16 (f : Nat → Byte) : List Byte := (List.range 16).map (fun k => f (a + k))
  if a % 16 ≠ 0 then none
  else if space = 0 && a + 16 ≤ 2 ^ 23 then some (at16 (bankByte 0 c.mon.bank0))
  else if space = 1 && a + 16 ≤ 2 ^ 23 then some (at16 (bankByte 1 c.mon.bank1))
  else if space = 2 && a + 16 ≤ 8 * stackBytes && partData ≤ a % partBytes then some (readBytes c.mem.hbm a 16)
  else none

/-- DIAG_READ (R394, R396): the read that a write of IDN_DIAG_ADDR_LO starts, at level 1 and above. -/
def Chip.diagRead (c : Chip) : Chip :=
  if c.acc.level = 0 then c
  else
    let d := c.diagBytes c.acc.diagSpace.toNat c.acc.diagAddr.toNat
    { c with acc := { c.acc with diagData := d.getD (List.replicate 16 0), diagOut := d.isNone } }
def execDiagRead (s : State) : Host.Outcome State Fault Refusal := act Chip.diagRead s

/-! ## The test port (R393) -/

/-- An instruction of the test port, taken at level 2 only, with what its data register then holds. -/
def Chip.tapSelect (c : Chip) (t : Tap) (scan : List Bool) : Chip :=
  if c.acc.level = 2 then { c with acc := { c.acc with tap := t, scan := scan } } else c

/-- TAP_BYPASS, TAP_CLAMP and TAP_HIGHZ leave the one-bit bypass register in the path; TAP_IDCODE captures the identification code;
TAP_SAMPLE_PRELOAD and TAP_EXTEST select the boundary chain, which keeps what was preloaded. -/
def execTapBypass (s : State) : Host.Outcome State Fault Refusal := act (fun c => c.tapSelect .bypass [false]) s
def execTapIdcode (s : State) : Host.Outcome State Fault Refusal :=
  act (fun c => c.tapSelect .idcode ((List.range 32).map (fun k => bitOf 0x05A1623D k))) s
def execTapSamplePreload (chain : List Bool) (s : State) : Host.Outcome State Fault Refusal :=
  act (fun c => (c.tapSelect .samplePreload chain).when (c.acc.level == 2) (fun c => { c with acc := { c.acc with chain := chain } })) s
def execTapExtest (s : State) : Host.Outcome State Fault Refusal := act (fun c => c.tapSelect .extest c.acc.chain) s
def execTapClamp (s : State) : Host.Outcome State Fault Refusal := act (fun c => c.tapSelect .clamp [false]) s
def execTapHighz (s : State) : Host.Outcome State Fault Refusal := act (fun c => c.tapSelect .highz [false]) s

end Sys2Proof.Machine
end

