-- ==== Sys2Proof/Machine/Power.lean ====
section
/-! DEFINITION. Clock losses (R351, R361), rails (R373), power-good, main power loss and power-off (R413, R414). -/

namespace Sys2Proof.Machine

/-! ## The halt of the derived clocks -/

/-- A survey that runs ends without result where it stands (R113, R153). -/
def Chip.stopSurvey (c : Chip) (u : SurveyUnit) : Chip :=
  let c := match u with
    | .periphery .. => c.endRotation (unitKey u)
    | .plot .. => c.upPlot (unitKey u) (fun p => { p with state := if p.state = 2 then 1 else p.state, away := false })
    | .lane .. => c
  (c.abandonSurvey u).upSurvey u (fun s => { s with active := false })

/-- What stops in an array with the clocks: programming, copies, the work in its mirror. -/
def Arr.halt (a : Arr) : Arr :=
  { a with
    prog := none, copying := false, copyAt := none, copied := false, moveTo := none, mirror := [], lastTile := none, senseLeft := 0
    subs := adjust {} (fun _ => true) (fun s => { s with copying := false, since := none, copied := false, group := if s.active then s.group else 0 }) a.subs }

/-- A port whose clocks stop: down, unless it is out of service. -/
def Port.halt (q : Port) : Port :=
  { q with
    state := if q.state = 5 then 5 else 0, buffer := [], pendRx := [], pendTx := [], rotOut := none, rotTx := none, weighCount := 0
    retryAt := 0, weighing := false, remeasure := false, echo := none, catches := [], delays := [], distance := 0xFF }

/-- Every clock derived from the master PLL stops (R351, R414): every job is aborted, HBM contents are void and with them the images and
both copies of the ledger; regions sleep, ports go down, surveys and programming end where they stand. -/
def Chip.halt (c : Chip) : Chip :=
  let c := overAll (c.jobs.map (·.id)) (fun c id => c.abortJob id statusDegraded 0) c
  let c := overAll c.mon.running Chip.stopSurvey c
  let c := overAll (List.range 16) (fun c g => (c.sleepRegion g).feedForward g) c
  { c with
    sch := { c.sch with images := [], replacing := [], loads := c.sch.loads.filter (·.complete) }
    tiles := [], accs := []
    cores := adjust {} (fun _ => true) (fun k => { k with
      coming := [], items := [], heldChecks := [], posted := [], lost := [], seed := none }) c.cores
    arrays := adjust {} (fun _ => true) Arr.halt c.arrays
    ports := adjust {} (fun _ => true) Port.halt c.ports
    mem := { c.mem with hbm := [] }
    start := { c.start with ready := false, memory := false }
    clk := { c.clk with masterLock := false } }

/-! ## Clocks -/

/-- REFCLK_LOST (R351): the always-on domain runs on the backup oscillator, everything else stops. -/
def Chip.refclkLost (c : Chip) : Chip :=
  if !c.clk.refclkOk then c
  else
    let c := { c with clk := { c.clk with refclkOk := false, onBackup := true, masterLock := false, refLosses := satAdd c.clk.refLosses 1 } }
    (c.event 0 4 0x1 false (locusWord none none none) 0).halt
def execRefclkLost (s : State) : Host.Outcome State Fault Refusal := act Chip.refclkLost s

/-- REFCLK_RESTORED (R351): present again for 1 ms, phases 3 to 8 repeat. -/
def execRefclkRestored (s : State) : Host.Outcome State Fault Refusal :=
  act (fun c =>
    if c.clk.refclkOk || !c.clk.onBackup then c
    else { c with
      clk := { c.clk with refclkOk := true, onBackup := false, masterLock := c.start.powerGood && decide (1 ≤ c.start.phase.toNat) }
      start := { c.start with phase := if c.start.phase.toNat < 3 then c.start.phase else 3 } }) s

/-- SYMBOL_PLL_UNLOCK (R361): an unlock of a region's symbol PLL is counted. -/
def execSymbolPllUnlock (g : Fin 16) (s : State) : Host.Outcome State Fault Refusal :=
  act (fun c =>
    if (c.region g.val).power = 0 then c else { c with clk := { c.clk with symbolUnlock := satAdd c.clk.symbolUnlock 1 } }) s

/-! ## Rails (R373) -/

/-- The level channel of a rail (R343); which of channels 4 to 11 an internal regulator has is open (log entry 4). -/
def railChannel (r : Rail) (free : Nat) : Nat :=
  match r with
  | .main => 0
  | .alwaysOn => 2
  | _ => 4 + free % 8

/-- A stack out of service (R373): its capacity is lost, and the jobs that hold it. -/
def Chip.stackOut (c : Chip) (s : Nat) : Chip :=
  if (c.stack s).state = 2 then c
  else
    let c := c.upStack s (fun k => { k with state := 2 })
    let c := c.event (srcStack s) 3 0x403 false (locusWord none (some s) none) 5
    c.loseWhere (fun j => (c.windowOf j).contains s)

/-- A regulator fault confirmed permanent: its consumers are lost (R373). -/
def Chip.regulatorLost (c : Chip) (r : Rail) : Chip :=
  match r with
  | .regionReg g => c.addRemedy (.region g.val)
  | .stackReg s => c.stackOut s.val
  | .portReg p => if (c.portLive p.val).isEmpty then c.portOut p.val else c.addRemedy (.portOut p.val)
  | _ => c

/-- Whether a rail is an internal regulator. -/
def isRegulator : Rail → Bool
  | .main | .alwaysOn => false
  | _ => true

/-- RAIL_OUT_OF_WINDOW (R373): a breach begins. It is logged, and the stroke of every affected job is a re-row event. -/
def Chip.railOut (c : Chip) (r : Rail) : Chip :=
  if c.saf.breaches.any (fun b => b.rail == r && b.active) then c
  else
    let free := Config.figure c.draw.1
    let c := c.draw.2
    let b : Breach := { rail := r, active := true, since := c.clk.aon, returned := 0, aborted := false }
    let c : Chip := { c with saf := { c.saf with
      railsOk := false, dangRail := satAdd c.saf.dangRail 1, breaches := c.saf.breaches.filter (fun (x : Breach) => decide (x.rail ≠ r)) ++ [b] } }
    let c := c.event 0 4 0x2 true (locusWord none none none) (railChannel r free + field (free / 8 % 65536) 16)
    let hit := if isRegulator r then c.hit (.regulator r) 3 else (c, false)
    let c := hit.1.callWhere (fun j => hit.1.railAffects r j)
    c.when hit.2 (fun c => c.regulatorLost r)
def execRailOutOfWindow (rail : Rail) (s : State) : Host.Outcome State Fault Refusal := act (fun c => c.railOut rail) s

/-- RAIL_BREACH_ABORT (R373): a breach of 10 ms aborts every affected job. -/
def Chip.railAbort (c : Chip) (r : Rail) : Chip :=
  if c.saf.breaches.any (fun b => b.rail == r && b.active && !b.aborted && decide (b.since + msCycles 10 ≤ c.clk.aon)) then
    let c : Chip := { c with saf := { c.saf with breaches := c.saf.breaches.map (fun (b : Breach) => if b.rail = r then { b with aborted := true } else b) } }
    c.loseWhere (fun j => c.railAffects r j)
  else c
def execRailBreachAbort (rail : Rail) (s : State) : Host.Outcome State Fault Refusal := act (fun c => c.railAbort rail) s

/-- RAIL_RETURN (R373): the rail is back in its window; after a breach that aborted, admission waits 100 ms from now. -/
def Chip.railReturn (c : Chip) (r : Rail) : Chip :=
  if c.saf.breaches.any (fun b => b.rail == r && b.active) then
    let bs := (c.saf.breaches.map (fun b => if b.rail = r then { b with active := false, returned := c.clk.aon } else b)).filter
      (fun b => b.active || b.aborted)
    { c with saf := { c.saf with breaches := bs, railsOk := c.start.powerGood && !(bs.any (·.active)) } }
  else c
def execRailReturn (rail : Rail) (s : State) : Host.Outcome State Fault Refusal := act (fun c => c.railReturn rail) s

/-! ## Power -/

/-- The flash as a loss of power leaves it: a copy under write is no valid copy (R331; log entry 46). -/
def Chip.flashAfterLoss (c : Chip) : Mem :=
  match c.cfg.writing with
  | some copy => zeroBytes c.mem.flash (if copy then 0x1000000 else 0) 36864
  | none => c.mem.flash

/-- A survey store bank whose commit was cut off stays uncommitted (R341). -/
def Mon.cut (m : Mon) : Mon := { m with writing := false }

/-- MAIN_POWER_LOSS (R414): every job is aborted, every domain but the always-on one stops; the log, the level and the log time go on. -/
def Chip.mainLoss (c : Chip) : Chip :=
  if !c.start.powerGood then c
  else
    let c := c.halt
    { c with
      start := { c.start with powerGood := false, restored := false }
      clk := { c.clk with fleetRunning := false, fsyncOk := false, strayCount := 0 }
      cfg := { c.cfg with loaded := false, writing := none }
      vault := { c.vault with read := false }
      host := { c.host with port0 := { c.host.port0 with speed := 0 }, port1 := { c.host.port1 with speed := 0 } }
      mon := c.mon.cut
      saf := { c.saf with railsOk := false }
      acc := { c.acc with attesting := none }
      mem := { c.mem with rstg := [], cstg := [], flash := c.flashAfterLoss } }
def execMainPowerLoss (s : State) : Host.Outcome State Fault Refusal := act Chip.mainLoss s

/-- POWER_OFF (R414): what is not volatile stays: the vault, the survey store, the cells and their intended images, the ledger store, the
flash. What went out on the wires stays said. -/
def Chip.powerOff (c : Chip) : Chip :=
  { freeCtr := c.freeCtr
    vault := { c.vault with read := false }
    mon := { bank0 := c.mon.bank0, bank1 := c.mon.bank1 }
    dev := c.dev
    host := { sent := c.host.sent, replies := c.host.replies }
    fleetOut := c.fleetOut
    mem := { tiers := c.mem.tiers, ledger := c.mem.ledger, flash := c.flashAfterLoss } }
def execPowerOff (s : State) : Host.Outcome State Fault Refusal := act Chip.powerOff s

/-- POWER_GOOD (R325, R413, R414): both rails are good for 10 ms and REFCLK is present: start-up begins with phase 0, or with phase 1
after a main power loss. -/
def Chip.powerIsGood (c : Chip) : Chip :=
  if c.start.powerGood then c
  else { c with
    start := { c.start with
      powerGood := true, phase := if c.start.powered then 1 else 0, ready := false, startMs := 0, since := c.clk.aon }
    clk := { c.clk with refclkOk := true, onBackup := false, masterLock := c.start.powered }
    saf := { c.saf with railsOk := !(c.saf.breaches.any (·.active)) } }
def execPowerGood (s : State) : Host.Outcome State Fault Refusal := act Chip.powerIsGood s

end Sys2Proof.Machine
end

