-- ==== Sys2Proof/Machine/Startup.lean ====
section
/-! DEFINITION. The start-up phases (R325 to R327, R404): reset release, identity, configuration, memory, self-test, level calibration, light, survey, links. -/

namespace Sys2Proof.Machine

/-- Whether a phase is the one to run now. -/
def Chip.inPhase (c : Chip) (n : Nat) : Bool :=
  c.start.powerGood && c.start.phase.toNat == n && !c.start.ready && (decide (n < 4) || !c.start.recovery)

/-- A phase has ended: the next one is under way; in the recovery state only phase 3 follows (R327). -/
def Chip.nextPhase (c : Chip) (n : Nat) : Chip := { c with start := { c.start with phase := BitVec.ofNat 4 n } }

/-- The recovery state (R327), for a reason; phase 3 has been run or is next. -/
def Chip.recover (c : Chip) (reason : Nat) : Chip :=
  { c with start := { c.start with recovery := true, reason := BitVec.ofNat 4 reason } }

/-! ## Phases 0 to 2 -/

/-- RESET_RELEASE (R325 phase 0): the always-on domain runs, the master PLL locks. -/
def execResetRelease (s : State) : Host.Outcome State Fault Refusal :=
  act (fun c =>
    if c.inPhase 0 && !c.start.powered then
      { c with start := { c.start with powered := true, phase := 1 }, clk := { c.clk with masterLock := c.clk.refclkOk } }
    else c) s

/-- IDENTITY_PHASE (R325 phase 1): the vault is read and the device key checked; a failure is recovery reason 1, and phase 3 is next. -/
def execIdentityPhase (keyOk : Bool) (s : State) : Host.Outcome State Fault Refusal :=
  act (fun c =>
    if !(c.inPhase 1) then c
    else if keyOk then ({ c with vault := { c.vault with read := true } }).nextPhase 2
    else (c.recover 1).nextPhase 3) s

/-- The copy that R329 uses: the valid one with the higher sequence, copy 0 of two equal ones. -/
def chooseCopy (r0 r1 s0 s1 : Nat) : Option Bool :=
  if r0 = 0 && r1 = 0 then some (decide (s0 < s1)) else if r0 = 0 then some false else if r1 = 0 then some true else none

/-- CONFIGURATION_PHASE (R325 phase 2, R329): both copies are verified; one is used, or the recovery state follows with reason 2. -/
def Chip.configPhase (c : Chip) (bad0 bad1 : Bool) : Chip :=
  let b0 := c.flashCopy false
  let b1 := c.flashCopy true
  let r0 := verifyConfig c.vault bad0 b0
  let r1 := verifyConfig c.vault bad1 b1
  let c := { c with cfg := { c.cfg with reason0 := BitVec.ofNat 4 r0, reason1 := BitVec.ofNat 4 r1 } }
  match chooseCopy r0 r1 (leAt b0 0xC 4) (leAt b1 0xC 4) with
  | some copy =>
    ({ c with
      cfg := c.cfg.load copy (if copy then b1 else b0)
      start := { c.start with recovery := false, reason := 0 } }).nextPhase 3
  | none => (({ c with cfg := { c.cfg with loaded := false } }).recover 2).nextPhase 3
def execConfigurationPhase (readFailed0 readFailed1 : Bool) (s : State) : Host.Outcome State Fault Refusal :=
  act (fun c => if c.inPhase 2 then c.configPhase readFailed0 readFailed1 else c) s

/-! ## Phase 3: memory -/

/-- A table renewed from what the survey store kept of it: what is not kept stays, and an entry that the store does not list is as
shipped. -/
def renew {V W : Type} [DecidableEq V] (d : Nat → V) (d' : W) (f : V → W → V) (old : SMap V) (kept : SMap W) : SMap V :=
  let base := old.foldl (fun m e => put (d e.1) m e.1 (f e.2 d')) ([] : SMap V)
  kept.foldl (fun m e => put (d e.1) m e.1 (f (look (d e.1) old e.1) e.2)) base

/-- A survey record as a restart leaves it: its unit's last temperature restored. -/
def SurveySt.renew (s : SurveySt) (k : SurveySt) : SurveySt := { s with temp := k.temp, active := false }

/-- Arrays, plots, lasers, banks, lanes, ports and stacks with their kept fields restored (R340, R404). -/
def Arr.renew (a k : Arr) : Arr :=
  { a with
    retiredPeri := k.retiredPeri, retiredCells := k.retiredCells, candidate := k.candidate, map := k.map, stuck := k.stuck, taps := k.taps
    survey := SurveySt.renew a.survey k.survey, subs := k.subs, quality := k.quality, waiting := k.waiting, away := none }
def Plot.renew (p k : Plot) : Plot :=
  { k with
    checkFails := p.checkFails, oor := p.oor, wrongLocks := p.wrongLocks, resweeps := p.resweeps, drift := p.drift
    margin := p.margin, cls := p.cls, senses := p.senses, flags := p.flags, exerciseFail := p.exerciseFail, survey := SurveySt.renew p.survey k.survey }
def Laser.renew (l k : Laser) : Laser := { l with state := k.state, group := k.group, reason := k.reason, commission := k.commission }
def Bank.renew (b k : Bank) : Bank := { b with amplitude := k.amplitude, ff := k.ff, fault := k.fault }
def Lane.renew (l k : Lane) : Lane :=
  { l with commission := k.commission, reason := k.reason, taps := k.taps, survey := SurveySt.renew l.survey k.survey }
def Port.renew (q : Port) (k : KeptPort) : Port :=
  { q with mapRx := k.mapRx, mapTx := k.mapTx, retiredRx := k.retiredRx, retiredTx := k.retiredTx }
def Stack.renew (s k : Stack) : Stack := { s with state := k.state, failed := k.failed }

/-- A tier as start-up restores it (R96): PROGRAMMING as BLANK, HELD as READY; DEDUCED, as WORN when its 10,000 programmings are used up
(R103; log entry 128). -/
def Tier.restored (t : Tier) : Tier :=
  match t.st with
  | .programming => { t with st := .blank }
  | .held => t.settled
  | _ => t

/-- The block with what a survey store bank kept restored (R341, R404). The retain ring goes on where the store left it (R381). -/
def Chip.restoreKept (c : Chip) (k : Kept) : Chip :=
  let plots := c.plots.filter (fun e => !(k.plots.any (fun x => x.1 == e.1)))
  { c with
    arrays := renew (fun _ => {}) {} Arr.renew c.arrays k.arrays, tiers := mapTable {} Tier.restored k.tiers, peri := k.peri, cells := k.cells
    seats := k.seats
    cores := renew (fun _ => {}) false (fun x r => { x with retired := r }) c.cores (k.retiredCores.map (fun n => (n, true)))
    regions := renew (fun _ => {}) false (fun x r => { x with lost := r }) c.regions (k.lostRegions.map (fun n => (n, true)))
    plots := k.plots.foldl (fun m e => put (shippedPlot e.1) m e.1 ((look (shippedPlot e.1) c.plots e.1).renew e.2))
      (plots.foldl (fun m e => put (shippedPlot e.1) m e.1 (e.2.renew (shippedPlot e.1))) ([] : SMap Plot))
    lasers := k.lasers.foldl (fun m e => put (shippedLaser e.1) m e.1 ((look (shippedLaser e.1) c.lasers e.1).renew e.2)) ([] : SMap Laser)
    linkLasers := k.linkLasers.foldl (fun m e => put (shippedLinkLaser e.1) m e.1 ((look (shippedLinkLaser e.1) c.linkLasers e.1).renew e.2))
      ([] : SMap Laser)
    banks := renew (fun _ => {}) {} Bank.renew c.banks k.banks, trims := k.trims
    lanes := renew (fun _ => {}) {} Lane.renew c.lanes k.lanes, ports := renew (fun _ => {}) {} Port.renew c.ports k.ports
    hbmStacks := renew (fun _ => {}) {} Stack.renew c.hbmStacks k.hbmStacks
    log := if c.start.cold then { c.log with
        retain := k.retain ++ c.log.retain.map (fun r => (k.retainNext + r.1, r.2)), retainNext := k.retainNext + c.log.retainNext
        retainAny := k.retainAny || c.log.retainAny }
      else c.log }

/-- A tier's entry of the ledger store goes to both HBM copies (R249). -/
def Chip.restoreCopies (c : Chip) (T : Nat) : Chip :=
  let image := readBytes c.mem.ledger (storeAddr T) 16384
  let header := readBytes c.mem.ledger (storeAddr T + 16384) 64
  (c.putCopy T 0 image header).putCopy T 1 image header

/-- A tier in service whose entry fails its digest is FAILED (R248). -/
def Chip.failBadEntry (c : Chip) (T : Nat) : Chip :=
  if c.storeGood T || !([TierSt.ready, .held, .worn].contains (c.tier T).st) then c
  else (c.upTier T (fun t => { t with st := .failed })).entryLost T

/-- The check table of a tier in service rebuilt from the ledger (R121, R248). -/
def Chip.rebuildTable (bad : List LedgerMiss) (c : Chip) (T : Nat) : Chip :=
  if !(c.tier T).st.live then c
  else
    let r := c.readLedger bad T
    match r.2 with
    | some image => { r.1 with mem := { r.1.mem with tiers := writeBytes r.1.mem.tiers (tierBase T) image } }
    | none => r.1.upTier T (fun t => { t with st := .failed })

/-- A tier rebuilt from its entry when no survey store bank is valid (R342). -/
def Chip.rebuiltTier (c : Chip) (T : Nat) : Tier :=
  if c.storeGood T then
    { st := .ready, int4 := (getByte c.mem.ledger (storeAddr T + 16384 + 8)).getLsbD 0
      count := BitVec.ofNat 14 (readLE c.mem.ledger (storeAddr T + 16384 + 12) 4) }
  else { st := .failed }

/-- The start from the factory record (R342): tier states from the ledger store, maps the identity, every unit due, a degradation event. -/
def Chip.factoryStart (c : Chip) (stored : List Nat) : Chip :=
  let c := c.restoreKept {}
  let c := { c with tiers := stored.foldl (fun m T => put {} m T (c.rebuiltTier T)) ([] : SMap Tier) }
  let c := overAll (List.range 16) (fun c g => c.upRegion g (fun r => { r with wakeNo := r.wakeNo + 1, wokeAt := c.clk.aon })) c
  let c := overAll (List.range 144) (fun c n => c.upLane n (fun x => { x with
    survey := { x.survey with due := true, cause := 2, dueAt := c.clk.aon } })) c
  ({ c with mon := { c.mon with factory := true } }).eventOpen 3 3 (locusWord none none none) 0

/-- What start-up finds in a survey store bank (R341). -/
def StoreBank.found (b : StoreBank) (read : BankState) : BankState :=
  if b.payload.isNone then 3 else if !b.committed then 1 else read

/-- The survey store read at power-up (R341, R342): the valid bank with the higher sequence, or the factory record. -/
def Chip.readStore (c : Chip) (bank0 bank1 : BankState) (stored : List Nat) : Chip :=
  let m := c.mon
  let f0 := m.bank0.found bank0
  let f1 := m.bank1.found bank1
  let use1 := f1 == 0 && (f0 != 0 || decide (m.bank0.sequence < m.bank1.sequence))
  let c := { c with mon := { m with found0 := f0, found1 := f1, inUse := use1, factory := false } }
  if f0 ≠ 0 && f1 ≠ 0 then c.factoryStart stored
  else match (if use1 then m.bank1 else m.bank0).payload with
    | some k => c.restoreKept k
    | none => c.factoryStart stored

/-- The arrays that hold weights and a FAILED tier (R114). -/
def Chip.failedArrays (c : Chip) : List Nat :=
  (((c.tiers.filter (fun e => e.2.st == .failed)).map (fun e => e.1 / 64)).eraseDups).filter (fun a => (c.logicalOf a).isSome)

/-- The copies that a loss of power cut off begin again, and those that a tier found FAILED at start-up calls for (R114, R248, R369). -/
def Chip.restartMoves (c : Chip) : Chip :=
  let c := overAll ((c.arrays.filter (fun e => !e.2.waiting.isEmpty)).map (·.1)) Chip.failWaiting c
  let c := overAll ((c.arrays.filter (·.2.candidate)).map (·.1)) (fun c a => (c.upArr a (fun x => { x with candidate := false })).startMove a) c
  overAll c.failedArrays Chip.startMove c

/-- MEMORY_PHASE (R325 phase 3): HBM training, the survey store, the ledger, tier states and maps. On the repeat after a REFCLK loss the
registers keep what they hold (R405). Both copies of every entry are restored, those of a degraded stack too (R249). -/
def Chip.memoryPhase (c : Chip) (failed : List (Fin 8 × Fin 32)) (bank0 bank1 : BankState) (bad : List LedgerMiss) : Chip :=
  let stored := ledgerTiers c.mem.ledger
  let c := if c.start.restored then { c with tiers := mapTable {} Tier.restored c.tiers } else c.readStore bank0 bank1 stored
  let c := overAll failed (fun c f => c.upStack f.1.val (fun k => { k with failing := k.failing ||| BitVec.ofNat 32 (2 ^ f.2.val) })) c
  let c := overAll (List.range 8) Chip.dropChannels c
  let c := overAll stored Chip.restoreCopies c
  let c := overAll stored (Chip.rebuildTable bad) (overAll stored Chip.failBadEntry c)
  let c := { c with start := { c.start with restored := true, memory := true, cold := false } }
  if c.start.recovery then c else c.restartMoves.nextPhase 4
def execMemoryPhase (trainingFailed : List (Fin 8 × Fin 32)) (bank0 bank1 : BankState) (ledgerBad : List LedgerMiss) (s : State) :
    Host.Outcome State Fault Refusal :=
  act (fun c => if c.inPhase 3 && !c.start.memory then c.memoryPhase trainingFailed bank0 bank1 ledgerBad else c) s

/-! ## Phases 4 and 5 -/

/-- The remedy of a unit that failed its self-test (R325 phase 4). -/
def failedRemedy : FailedUnit → Remedy
  | .periphery g k a => .periphery ((g.val * 34 + k.val) * 17 + a.val)
  | .core g k => .core (g.val * 34 + k.val)
  | .plot g o => .plot (g.val * 136 + o.val) 4
  | .region g => .region g.val

/-- BENCHMARK_SELF_TEST (R325 phase 4): every failed unit is replaced by its spare. -/
def execBenchmarkSelfTest (failed : List FailedUnit) (s : State) : Host.Outcome State Fault Refusal :=
  act (fun c => if c.inPhase 4 then (overAll failed (fun c u => c.remedy (failedRemedy u)) c).nextPhase 5 else c) s

/-- LEVEL_CALIBRATION_PHASE (R325 phase 5, R344, R346): the factors are set and channels 0 to 90 enabled; a failure is recovery reason 5. -/
def execLevelCalibrationPhase (readings : List Int) (s : State) : Host.Outcome State Fault Refusal :=
  if readings.length ≠ 8 then .refused (.illFormed "a calibration has 8 readings, R346")
  else act (fun c =>
    if !(c.inPhase 5) then c
    else match calibration readings with
      | some x => ({ c with lvl := ({ c.lvl.take x with mask := BitVec.ofNat 96 (2 ^ 91 - 1) } : Level) }).nextPhase 6
      | none => c.recover 5) s

/-! ## Phase 6: light -/

/-- A laser as phase 6 lights it (R160): one that has a group serves it, of a handover stroke the outgoing one; a retired one stays so; any other
is an unused spare. -/
def Laser.lightUp (l : Laser) : Laser :=
  let base : Laser := { l with ready := false, leaving := 0, power := [], below := [], crossed := [], fade := 0 }
  if l.state = 6 then base
  else if l.state = 4 || (l.state = 2 && l.group ≠ 0xF) || (l.state = 5 && l.leaving ≠ 0) then { base with state := 4 }
  else { base with state := 0, group := 0xF }

/-- The unused spares of a region or quad after phase 6 (R160, R163): the lowest-numbered stands by, the others are cold. -/
def Chip.standBy (c : Chip) (r : LaserRef) : Chip :=
  match (laserPool r).filter (fun x => (c.laserAt x).state.toNat ≤ 2 && (c.laserAt x).group == 0xF) with
  | [] => c
  | x :: rest => overAll rest (fun c y => c.upLaserAt y (fun l => { l with state := 0 })) (c.upLaserAt x (fun l => { l with state := 2 }))

/-- The equaliser and gain trims of a region's group as its laser lights it up (R164): as the commissioning values say. -/
def Chip.levelGroup (c : Chip) (n : Nat) : Chip :=
  if c.lit (n / 8) (n % 8) then c.upGroup n (fun x =>
    let x := x.setLines (c.commissionLines (c.servingRef (n / 8) (n % 8)))
    { x with gain := gainFor x.level })
  else c

/-- The table of every key below `n` of a table, each entry changed. -/
def fillTable {V : Type} (d : V) (f : Nat → V → V) : Nat → Nat → SMap V → SMap V
  | 0, _, _ => []
  | n + 1, k, m =>
    match m with
    | [] => (k, f k d) :: fillTable d f n (k + 1) []
    | (i, v) :: rest => if i = k then (k, f k v) :: fillTable d f n (k + 1) rest else (k, f k d) :: fillTable d f n (k + 1) ((i, v) :: rest)

/-- A bank swept and locked (R176): where its bias stands is open (log entry 4). -/
def Bank.locked (b : Bank) (h : Nat) : Bank :=
  { b with
    lock := 3, bias := h % 65536, heater := BitVec.ofNat 16 (h % 65536), ffDue := none, ffAgain := false, ffState := 0, last := h % 65536, residual := 0, squares := []
    tagOk := true, wrongFrames := 0, lostFrames := 0 }

/-- LIGHT_PHASE (R325 phase 6, R166, R168, R176): lasers warm to active or standby, every bank sweeps and locks; a failed laser is retired,
a bank that fails retires its plot. -/
def Chip.lightPhase (c : Chip) (failedLasers : List LaserRef) (failedBanks : List BankRef) : Chip :=
  let n := c.freeCtr
  let relit (d : Nat → Laser) (m : SMap Laser) : SMap Laser := m.foldl (fun x e => put (d e.1) x e.1 e.2.lightUp) ([] : SMap Laser)
  let c := { c with
    freeCtr := n + 39168
    lasers := relit shippedLaser c.lasers, linkLasers := relit shippedLinkLaser c.linkLasers
    banks := fillTable {} (fun k b => if (c.plot (k / 18)).state = 4 then { b with lock := 0 } else b.locked (Config.figure (n + k))) 39168 0 c.banks }
  let c := overAll ((List.range 16).map (fun g => .compute (Fin.ofNat 16 g) 0) ++ (List.range 4).map (fun q => .link (Fin.ofNat 20 (16 + q)))) Chip.standBy c
  let c := overAll (List.range 128) Chip.levelGroup c
  let c := overAll failedLasers (fun c r => c.laserFails r 0 3) c
  let c := c.applyRemedies (List.range 16)
  let c := overAll failedBanks (fun c b => (c.upBank (bankIndex b) (fun x => { x with lock := 0 })).leaveSeat (bankPlot b) 5 true true) c
  c.nextPhase 7
def execLightPhase (failedLasers : List LaserRef) (failedBanks : List BankRef) (s : State) : Host.Outcome State Fault Refusal :=
  act (fun c => if c.inPhase 6 then c.lightPhase failedLasers failedBanks else c) s

/-! ## Phase 7: survey -/

/-- A unit surveyed in its place at start-up (R325 phase 7, R335, R336): no rotation is needed while no job runs. -/
def Chip.startSurvey (c : Chip) (v : SurveyUnit × SurveyResult) : Chip :=
  let u := v.1
  let r := v.2
  let k := unitKey u
  let c := c.endSurvey u r.ok r.temp
  if !r.ok then c
  else match u with
    | .periphery .. =>
      let c := c.upArr k (fun x => { x with taps := setTaps x.taps r.taps })
      match c.sensesOf k with
      | some home => (c.upArr home (fun x => { x with oor := [] })).arrayPlots home r.plots
      | none => c
    | .plot .. =>
      let p := c.plot k
      let margin := match r.plots with | x :: _ => x.margin | [] => p.margin
      let cls := plotClass margin (decide (2048 ≤ p.flagCount))
      let c := overAll r.banks (Chip.bankSurvey k) (c.upPlot k (fun x => { x with
        margin := margin, cls := cls, taps := setTaps x.taps r.taps, drift := false }))
      if cls = 2 && p.state.toNat ≤ 1 then c.leaveSeat k 2 false false else c
    | .lane .. => c.upLane k (fun x => { x with taps := setTaps x.taps r.taps, warned := false })

/-- Absent logical plots seated on the free plots of their groups, the lowest first (R157). -/
def Chip.seatAbsent (c : Chip) (g : Nat) : Chip :=
  overAll ((List.range 128).filter (fun lp => (c.plotSeat g lp).isNone)) (fun c lp =>
    match c.freePlot g (lp / 16) with
    | some q => (c.takeSeat q lp).event (srcRgn g) 0 0x405 false (plotLocus q) lp
    | none => c) c

/-- SURVEY_PHASE (R325 phase 7, R135, R157). -/
def execSurveyPhase (results : List (SurveyUnit × SurveyResult)) (s : State) : Host.Outcome State Fault Refusal :=
  act (fun c => if c.inPhase 7 then (overAll (List.range 16) Chip.seatAbsent (overAll results Chip.startSurvey c)).nextPhase 8 else c) s

/-! ## Phase 8: links -/

/-- LINKS_PHASE (R325 phase 8, R326, R332): ports whose link laser is active come up to weigh-in or stay down; one that is
out of service stays so until a host command (R273); the device is ready. Where
class-0 service is enabled the regions run idle in Light. -/
def Chip.linksPhase (c : Chip) (results : List (Fin 16 × BringUp)) : Chip :=
  let c := overAll results (fun c r => c.when (c.portLit r.1.val && (c.port r.1.val).state != 5) (fun c => c.bringUpDone r.1.val r.2)) c
  let ms := (c.clk.aon - c.start.since) / 25000
  let c := { c with start := { c.start with ready := true, startMs := if c.start.startMs = 0 then satOf 16 ms else c.start.startMs } }
  if !c.cfg.class0 then c
  else overAll ((List.range 16).filter (fun g => !(c.region g).lost)) (fun c g =>
    (c.setMode g .light).upRegion g (fun r => { r with power := 3, wakes := satAdd r.wakes 1 })) c
def execLinksPhase (results : List (Fin 16 × BringUp)) (s : State) : Host.Outcome State Fault Refusal :=
  act (fun c => if c.inPhase 8 then c.linksPhase results else c) s

end Sys2Proof.Machine
end

