-- ==== Sys2Proof/Machine/RegWrite.lean ====
section
/-! DEFINITION. Register writes (R9, R10, R312, R398 to R402): the plain fields, the command registers, the REG write packet. -/

namespace Sys2Proof.Machine

/-! ## Plain registers -/

/-- A 64-bit register pair with one half written. -/
def halfSet (x : BitVec 64) (high : Bool) (v : Word) : BitVec 64 :=
  if high then BitVec.ofNat 64 (x.toNat % 2 ^ 32 + v.toNat * 2 ^ 32) else BitVec.ofNat 64 (x.toNat / 2 ^ 32 * 2 ^ 32 + v.toNat)

/-- The password bytes with the four of IDN_PWn written (R391). -/
def pwSet (pw : List Byte) (n : Nat) (v : Word) : List Byte :=
  let full := pw ++ List.replicate (64 - pw.length) 0
  full.take (4 * n) ++ leBytes 4 v.toNat ++ full.drop (4 * n + 4)

/-- A mask with one of its 32-bit words written. -/
def maskSet (m : BitVec 96) (n : Nat) (v : Word) : BitVec 96 :=
  BitVec.ofNat 96 (m.toNat - m.toNat / 2 ^ (32 * n) % 2 ^ 32 * 2 ^ (32 * n) + v.toNat * 2 ^ (32 * n))

/-- Chip-level registers with plain RW or W1C fields (R344, R349, R361, R383, R391, R396, R407). -/
def Chip.writeChip (c : Chip) (a : Nat) (v : Word) : Chip :=
  let n := v.toNat
  if a = 0x40 then { c with log := { c.log with newChip := c.log.newChip &&& ~~~v } }
  else if a = 0x44 then { c with log := { c.log with newRgn := c.log.newRgn &&& ~~~v } }
  else if a = 0x10100 then { c with host := { c.host with queueSel := BitVec.ofNat 15 n } }
  else if a = 0x20010 ∨ a = 0x20014 ∨ a = 0x20018 then { c with lvl := { c.lvl with mask := maskSet c.lvl.mask ((a - 0x20010) / 4) v } }
  else if a = 0x20030 then { c with lvl := { c.lvl with chSel := BitVec.ofNat 7 n } }
  else if a = 0x30010 then
    { c with clk := { c.clk with crossClass := BitVec.ofNat 5 (bitsOf n 12 8), crossInst := BitVec.ofNat 8 (bitsOf n 7 0) } }
  else if a = 0x40010 then { c with saf := { c.saf with spareSel := BitVec.ofNat 4 n } }
  else if a = 0x40100 then { c with saf := { c.saf with logSel := BitVec.ofNat 16 n } }
  else if a = 0x40104 then { c with saf := { c.saf with logIndex := v } }
  else if 0x50010 ≤ a ∧ a < 0x50050 then { c with acc := { c.acc with pw := pwSet c.acc.pw ((a - 0x50010) / 4) v } }
  else if a = 0x50070 ∨ a = 0x50074 then { c with acc := { c.acc with src := halfSet c.acc.src (a == 0x50074) v } }
  else if a = 0x50078 ∨ a = 0x5007C then { c with acc := { c.acc with dst := halfSet c.acc.dst (a == 0x5007C) v } }
  else if a = 0x50100 then { c with acc := { c.acc with certSel := BitVec.ofNat 1 (bitsOf n 31 31), certWord := BitVec.ofNat 11 n } }
  else if a = 0x50200 then { c with acc := { c.acc with diagSpace := BitVec.ofNat 2 (bitsOf n 31 30) } }
  else if a = 0x50208 then { c with acc := { c.acc with diagAddr := halfSet c.acc.diagAddr true v } }
  else if a = 0x50808 ∨ a = 0x5080C then { c with cfg := { c.cfg with src := halfSet c.cfg.src (a == 0x5080C) v } }
  else c

/-- A Lamni port's (R183, R275). -/
def Chip.writePort (c : Chip) (p o : Nat) (v : Word) : Chip :=
  if o = 0x10 then c.upPort p (fun q => { q with laneSel := BitVec.ofNat 4 v.toNat })
  else if o = 0xF00 then { c with linkSel := put 0 c.linkSel p (BitVec.ofNat 5 (bitsOf v.toNat 8 8 * 16 + v.toNat % 16)) }
  else c

/-- An array's (R116, R349). -/
def Chip.writeArr (c : Chip) (a o : Nat) (v : Word) : Chip :=
  let n := v.toNat
  if o = 0x84 then c.upArr a (fun x => { x with progSrc := BitVec.ofNat 25 n })
  else if o = 0x90 then c.upArr a (fun x => { x with wearSel := BitVec.ofNat 6 (bitsOf n 29 24) })
  else if o = 0xB0 then c.upArr a (fun x => { x with qselCol := BitVec.ofNat 5 (bitsOf n 12 8), qselRow := BitVec.ofNat 4 n })
  else c

/-- Where an offset of a region's block lies: an array with its register, or a core with its register; none outside the core areas. -/
inductive CorePlace where
  | array (a o : Nat)
  | core (k o : Nat)
  | none

/-- The place of a region offset (R397). -/
def corePlace (g o : Nat) : CorePlace :=
  let k := (o - 0x40000) / 0x2000
  let p := (o - 0x40000) % 0x2000
  if o < 0x40000 || 34 ≤ k || p < 0x400 then .none
  else if p < 0x400 + 17 * 0x100 then .array ((g * 34 + k) * 17 + (p - 0x400) / 0x100) ((p - 0x400) % 0x100)
  else .core (g * 34 + k) p

/-- A region's, its cores' and arrays' (R108, R116, R137, R157, R183). -/
def Chip.writeRegion (c : Chip) (g o : Nat) (v : Word) : Chip :=
  let n := v.toNat
  if o = 0x100 then c.upRegion g (fun r => { r with swapAt := BitVec.ofNat 48 (r.swapAt.toNat / 2 ^ 32 * 2 ^ 32 + n) })
  else if o = 0x104 then c.upRegion g (fun r => { r with swapAt := BitVec.ofNat 48 (r.swapAt.toNat % 2 ^ 32 + n % 2 ^ 16 * 2 ^ 32) })
  else if o = 0x10200 then c.upRegion g (fun r => { r with plotSel := BitVec.ofNat 8 n })
  else if o = 0x20004 then c.upRegion g (fun r => { r with lasLine := BitVec.ofNat 4 (bitsOf n 11 8), lasLaser := BitVec.ofNat 4 n })
  else if o = 0x30004 then
    c.upRegion g (fun r => { r with
      htrPlot := BitVec.ofNat 8 (bitsOf n 23 16), htrBank := BitVec.ofNat 5 (bitsOf n 12 8), htrRing := BitVec.ofNat 4 n })
  else match corePlace g o with
    | .array a p => c.writeArr a p v
    | .core k p =>
      if p = 0x1814 then c.upCore k (fun x => { x with stuckArray := BitVec.ofNat 5 (bitsOf n 12 8), stuckEntry := BitVec.ofNat 6 n })
      else if p = 0x181C then c.upCore k (fun x => { x with tableSel := BitVec.ofNat 4 n })
      else c
    | .none => c

/-- A write to a register with no behaviour of its own (R9, R398): RW fields take the value, W1C bits written 1 clear; every other field,
and an address that holds no register, is left as it is. -/
def Chip.writePlain (c : Chip) (a : Nat) (v : Word) : Chip :=
  if a % 4 ≠ 0 then c
  else if a < 0x100000 then c.writeChip a v
  else if a < 0x200000 then c.writePort (a / 0x10000 % 16) (a % 0x10000) v
  else if 0x1000000 ≤ a ∧ a < 0x2000000 then c.writeRegion (a / 0x100000 % 16) (a % 0x100000) v
  else c

/-! ## Command registers -/

/-- Chip-level command registers (R324, R344, R347, R331, R390 to R394); none for another address. -/
def Chip.commandChip (c : Chip) (a : Nat) (v : Word) : Option Chip :=
  let n := v.toNat
  let action := bitsOf n 31 30
  if a = 0x10110 then some (if bitOf n 31 then c.queueReset else c)
  else if a = 0x20004 then some (if action = 1 then c.cmdCalibrate else if action = 0 then c else { c with lvl := { c.lvl with calResult := 4 } })
  else if a = 0x2000C then some (c.cmdInject (n % 128))
  else if a = 0x50004 then
    let k := bitsOf n 31 29
    some (if k = 0 then c else if k = 1 then c.cmdPassword (n % 128) else if k = 2 then c.cmdChallenge else if k = 3 then c.cmdRequest
      else if k = 4 then c.cmdLevel0 else c.accessResult 7)
  else if a = 0x50080 then some (if action = 0 then c else if action = 1 then c.cmdAttest else if action = 2 then c.cmdOwner else c.keyAnswer 6)
  else if a = 0x50204 then some ({ c with acc := { c.acc with diagAddr := halfSet c.acc.diagAddr false v } }).diagRead
  else if a = 0x50810 then
    some (if action = 0 then c else if action = 1 then c.cmdConfigWrite else { c with cfg := { c.cfg with result := 6, verify := 0 } })
  else none

/-- A Lamni port's command registers (R275, R296). -/
def Chip.commandPort (c : Chip) (p o : Nat) (v : Word) : Option Chip :=
  let action := bitsOf v.toNat 31 30
  if o = 0x24 then
    some (if action = 0 then c else if action = 1 then c.cmdRetireLane p else if action = 2 then c.cmdBringUp p
      else c.upPort p (fun q => { q with cmdResult := 6 }))
  else if o = 0x3C then some (if bitOf v.toNat 31 then c.linkExclude p else c)
  else none

/-- A region's and its arrays' command registers (R105, R106, R108, R116, R183). -/
def Chip.commandRegion (c : Chip) (g o : Nat) (v : Word) : Option Chip :=
  let n := v.toNat
  let action := bitsOf n 31 30
  if o = 0x108 then some (if bitOf n 31 then c.cmdArm g else c.cmdWithdraw g)
  else if o = 0x20010 then some (if action = 0 then c else c.orderHandover g action)
  else match corePlace g o with
    | .array a p =>
      if p = 0x80 then
        some (if action = 0 then c else if action = 1 then c.cmdProgram a (Fin.ofNat 64 n) (bitOf n 29) false
          else if action = 2 then c.cmdErase a (Fin.ofNat 64 n) else c.progAnswer a (Fin.ofNat 64 n) 12)
      else if p = 0x8C then
        let tA := Fin.ofNat 64 (bitsOf n 5 0)
        let tB := Fin.ofNat 64 (bitsOf n 13 8)
        some (if bitOf n 31 then c.cmdStage a tA tB else (c.cmdCancel a).writeSwapTiers a tA tB)
      else none
    | _ => none

/-- A write to any register: the action of a command register, else the plain write. -/
def Chip.writeReg (c : Chip) (a : Nat) (v : Word) : Chip :=
  let cmd :=
    if a % 4 ≠ 0 then none
    else if a < 0x100000 then c.commandChip a v
    else if a < 0x200000 then c.commandPort (a / 0x10000 % 16) (a % 0x10000) v
    else if 0x1000000 ≤ a ∧ a < 0x2000000 then c.commandRegion (a / 0x100000 % 16) (a % 0x100000) v
    else none
  cmd.getD (c.writePlain a v)

/-- REGISTER_WRITE (R9, R398): RW fields take the value, W1C bits written 1 clear, a WO field or a register that starts a command performs its
action; everything else ignores the write. -/
def execRegisterWrite (addr : BitVec 32) (value : Word) (fabric : Fabric) (s : State) : Host.Outcome State Fault Refusal :=
  act (fun c => c.access fabric (fun c => c.writeReg addr.toNat value)) s

/-! ## The packet -/

/-- The registers of one packet written in ascending order, each before the next (R399). -/
def Chip.writeRegs (c : Chip) (a : Nat) : List Word → Chip
  | [] => c
  | v :: vs => (c.writeReg a v).writeRegs (a + 4) vs

/-- The configuration write registers, open in the recovery state (R327, R389, R400). -/
def recoveryRegister (a : Nat) : Bool := [0x50808, 0x5080C, 0x50810, 0x50070, 0x50074, 0x50080].contains a

/-- REG_WRITE (R312, R326, R327, R399, R400). -/
def execRegWrite (h : Hdr) (res : Byte) (addr : BitVec 32) (values : List Word) (fabric : Fabric) (s : State) :
    Host.Outcome State Fault Refusal :=
  act (fun c =>
    let a := addr.toNat
    let n := values.length
    let open_ := c.serves || (c.start.recovery && h.queue == 0 && (List.range n).all (fun k => recoveryRegister (a + 4 * k)))
    c.treat h (regLengths h a n (4 * n)) open_ (fun c =>
      if res ≠ 0 || a % 4 ≠ 0 then c.receipt h statusBadField
      else if c.closedRun a n then c.receipt h statusAccess
      else
        let f := c.fabric n fabric
        (f.1.writeRegs a (values.take f.2)).answer h (.regData 0 h.seq (BitVec.ofNat 16 f.2) addr []))) s

end Sys2Proof.Machine
end

