-- ==== Sys2Proof/Machine/Dispatch.lean ====
section
/-! DEFINITION. Each command and its meaning, one arm per constructor. -/

namespace Sys2Proof.Machine

/-- The effect of a command on the block. -/
def exec (i : Instr) (s : State) : Host.Outcome State Fault Refusal :=
  match i with
  | .synNop site fetch => Sys2Proof.Machine.execSynNop site fetch s
  | .synPiece site bodyPiece fetch => Sys2Proof.Machine.execSynPiece site bodyPiece fetch s
  | .synCatch site fetch => Sys2Proof.Machine.execSynCatch site fetch s
  | .synChange site phase fetch => Sys2Proof.Machine.execSynChange site phase fetch s
  | .synWake site target fetch => Sys2Proof.Machine.execSynWake site target fetch s
  | .synSleep site target fetch => Sys2Proof.Machine.execSynSleep site target fetch s
  | .arrTile site op readings bench path => Sys2Proof.Machine.execArrTile site op readings bench path s
  | .tileReady job region core array tile => Sys2Proof.Machine.execTileReady job region core array tile s
  | .arrDrain site op path => Sys2Proof.Machine.execArrDrain site op path s
  | .coxSlot job region core start path => Sys2Proof.Machine.execCoxSlot job region core start path s
  | .checkPathExercise g c a compareFailed => Sys2Proof.Machine.execCheckPathExercise g c a compareFailed s
  | .opticalCheckPathExercise g o compareFailed => Sys2Proof.Machine.execOpticalCheckPathExercise g o compareFailed s
  | .optTile site op readings path => Sys2Proof.Machine.execOptTile site op readings path s
  | .optDummy site first count span even fetch => Sys2Proof.Machine.execOptDummy site first count span even fetch s
  | .stgH2r site op path => Sys2Proof.Machine.execStgH2r site op path s
  | .stgR2h site op path => Sys2Proof.Machine.execStgR2h site op path s
  | .stgR2c site op path => Sys2Proof.Machine.execStgR2c site op path s
  | .stgC2r site op path => Sys2Proof.Machine.execStgC2r site op path s
  | .stgC2c site op path => Sys2Proof.Machine.execStgC2c site op path s
  | .stgR2r site op path => Sys2Proof.Machine.execStgR2r site op path s
  | .stgStride site repStride repMod fetch => Sys2Proof.Machine.execStgStride site repStride repMod fetch s
  | .vecAdd site op path => Sys2Proof.Machine.execVecAdd site op path s
  | .vecMul site op path => Sys2Proof.Machine.execVecMul site op path s
  | .vecFma site op path => Sys2Proof.Machine.execVecFma site op path s
  | .vecMax site op path => Sys2Proof.Machine.execVecMax site op path s
  | .vecMin site op path => Sys2Proof.Machine.execVecMin site op path s
  | .vecCvt site op path => Sys2Proof.Machine.execVecCvt site op path s
  | .vecQuant site op path => Sys2Proof.Machine.execVecQuant site op path s
  | .vecDeq site op path => Sys2Proof.Machine.execVecDeq site op path s
  | .vecReq site op path => Sys2Proof.Machine.execVecReq site op path s
  | .vecDatum site op path => Sys2Proof.Machine.execVecDatum site op path s
  | .vecUndatum site op path => Sys2Proof.Machine.execVecUndatum site op path s
  | .vecRadd site op path => Sys2Proof.Machine.execVecRadd site op path s
  | .vecRrow site op path => Sys2Proof.Machine.execVecRrow site op path s
  | .vecExp2 site op path => Sys2Proof.Machine.execVecExp2 site op path s
  | .vecLog2 site op path => Sys2Proof.Machine.execVecLog2 site op path s
  | .vecRcp site op path => Sys2Proof.Machine.execVecRcp site op path s
  | .vecRsqrt site op path => Sys2Proof.Machine.execVecRsqrt site op path s
  | .vecAct site op path => Sys2Proof.Machine.execVecAct site op path s
  | .vecSoftmax site op path => Sys2Proof.Machine.execVecSoftmax site op path s
  | .vecNorm site op path => Sys2Proof.Machine.execVecNorm site op path s
  | .vecRmax site op path => Sys2Proof.Machine.execVecRmax site op path s
  | .vecSeed site base tensor fetch => Sys2Proof.Machine.execVecSeed site base tensor fetch s
  | .xchCore site op path => Sys2Proof.Machine.execXchCore site op path s
  | .xchRegion site op path => Sys2Proof.Machine.execXchRegion site op path s
  | .xchLsend site op path => Sys2Proof.Machine.execXchLsend site op path s
  | .xchLrecv site op path => Sys2Proof.Machine.execXchLrecv site op path s
  | .strokeBoundary g fillMisses ledgerBad => Sys2Proof.Machine.execStrokeBoundary g fillMisses ledgerBad s
  | .chipStroke => Sys2Proof.Machine.execChipStroke s
  | .pieceCommit job => Sys2Proof.Machine.execPieceCommit job s
  | .rerow job => Sys2Proof.Machine.execRerow job s
  | .coreCopyHoldEnd job => Sys2Proof.Machine.execCoreCopyHoldEnd job s
  | .jobSubmit h body => Sys2Proof.Machine.execJobSubmit h body s
  | .jobPause h body => Sys2Proof.Machine.execJobPause h body s
  | .jobResume h body => Sys2Proof.Machine.execJobResume h body s
  | .jobAbort h body => Sys2Proof.Machine.execJobAbort h body s
  | .pressureChangeRequest h body => Sys2Proof.Machine.execPressureChangeRequest h body s
  | .pressureChangeApply job => Sys2Proof.Machine.execPressureChangeApply job s
  | .jobAdmit job => Sys2Proof.Machine.execJobAdmit job s
  | .class0Admit job => Sys2Proof.Machine.execClass0Admit job s
  | .jobStart job => Sys2Proof.Machine.execJobStart job s
  | .pauseDrainEnd job => Sys2Proof.Machine.execPauseDrainEnd job s
  | .deadlineCheck job => Sys2Proof.Machine.execDeadlineCheck job s
  | .regionZeroDone g => Sys2Proof.Machine.execRegionZeroDone g s
  | .loadSegment h res segLen imageOffset offset data => Sys2Proof.Machine.execLoadSegment h res segLen imageOffset offset data s
  | .loadUnload h res segLen offset imageId => Sys2Proof.Machine.execLoadUnload h res segLen offset imageId s
  | .checkComplete queue readBad => Sys2Proof.Machine.execCheckComplete queue readBad s
  | .imageReplace imageId => Sys2Proof.Machine.execImageReplace imageId s
  | .regRead h res addr count fabric => Sys2Proof.Machine.execRegRead h res addr count fabric s
  | .regWrite h res addr values fabric => Sys2Proof.Machine.execRegWrite h res addr values fabric s
  | .registerWrite addr value fabric => Sys2Proof.Machine.execRegisterWrite addr value fabric s
  | .rcFieldRead addr fabric => Sys2Proof.Machine.execRcFieldRead addr fabric s
  | .latchedLowRead addr fabric => Sys2Proof.Machine.execLatchedLowRead addr fabric s
  | .monQueuePop => Sys2Proof.Machine.execMonQueuePop s
  | .bulkWriteData h res len addr data code => Sys2Proof.Machine.execBulkWriteData h res len addr data code s
  | .bulkReadData h res len addr code => Sys2Proof.Machine.execBulkReadData h res len addr code s
  | .bulkWriteInputStream h res len offset data code => Sys2Proof.Machine.execBulkWriteInputStream h res len offset data code s
  | .hostAck h => Sys2Proof.Machine.execHostAck h s
  | .hostAckResend h => Sys2Proof.Machine.execHostAckResend h s
  | .malformedDatagram port => Sys2Proof.Machine.execMalformedDatagram port s
  | .discardedFrame port failedCheck fec => Sys2Proof.Machine.execDiscardedFrame port failedCheck fec s
  | .arpRequest port target sender => Sys2Proof.Machine.execArpRequest port target sender s
  | .neighborSolicitation port target sender => Sys2Proof.Machine.execNeighborSolicitation port target sender s
  | .icmpEcho port v6 target data => Sys2Proof.Machine.execIcmpEcho port v6 target data s
  | .ptpMessage port offsetNs => Sys2Proof.Machine.execPtpMessage port offsetNs s
  | .moduleInserted port => Sys2Proof.Machine.execModuleInserted port s
  | .hostLinkFallback port => Sys2Proof.Machine.execHostLinkFallback port s
  | .hostLinkDown port => Sys2Proof.Machine.execHostLinkDown port s
  | .queueReset => Sys2Proof.Machine.execQueueReset s
  | .tierProgram g c a tier int4 sourceBad => Sys2Proof.Machine.execTierProgram g c a tier int4 sourceBad s
  | .tierErase g c a tier => Sys2Proof.Machine.execTierErase g c a tier s
  | .tierProgramDone g c a failed => Sys2Proof.Machine.execTierProgramDone g c a failed s
  | .tierEraseDone g c a => Sys2Proof.Machine.execTierEraseDone g c a s
  | .swapStage g c a tierA tierB => Sys2Proof.Machine.execSwapStage g c a tierA tierB s
  | .swapCancel g c a => Sys2Proof.Machine.execSwapCancel g c a s
  | .swapArm g => Sys2Proof.Machine.execSwapArm g s
  | .swapWithdraw g => Sys2Proof.Machine.execSwapWithdraw g s
  | .swapApply g => Sys2Proof.Machine.execSwapApply g s
  | .plotCopyDone g c a rowGroup ledgerBad => Sys2Proof.Machine.execPlotCopyDone g c a rowGroup ledgerBad s
  | .plotSubstitution g c a rowGroup => Sys2Proof.Machine.execPlotSubstitution g c a rowGroup s
  | .cellBlockCopyDone g c a ledgerBad => Sys2Proof.Machine.execCellBlockCopyDone g c a ledgerBad s
  | .cellBlockSubstitution g c a => Sys2Proof.Machine.execCellBlockSubstitution g c a s
  | .spareCoreArrayMove g core array => Sys2Proof.Machine.execSpareCoreArrayMove g core array s
  | .tableEntryFilled g c entry => Sys2Proof.Machine.execTableEntryFilled g c entry s
  | .plotHoldTimeout g o => Sys2Proof.Machine.execPlotHoldTimeout g o s
  | .plotHoldReturn g o => Sys2Proof.Machine.execPlotHoldReturn g o s
  | .surveyTest unit meanTemp drift => Sys2Proof.Machine.execSurveyTest unit meanTemp drift s
  | .surveyStart unit => Sys2Proof.Machine.execSurveyStart unit s
  | .surveyEnd unit result => Sys2Proof.Machine.execSurveyEnd unit result s
  | .storeCommit => Sys2Proof.Machine.execStoreCommit s
  | .temperatureWatchSample reading => Sys2Proof.Machine.execTemperatureWatchSample reading s
  | .easyEntry g => Sys2Proof.Machine.execEasyEntry g s
  | .easyExit g => Sys2Proof.Machine.execEasyExit g s
  | .thermalStop => Sys2Proof.Machine.execThermalStop s
  | .levelPeriodEnd raw => Sys2Proof.Machine.execLevelPeriodEnd raw s
  | .monInjectRequest channel => Sys2Proof.Machine.execMonInjectRequest channel s
  | .monSelfCalibrate => Sys2Proof.Machine.execMonSelfCalibrate s
  | .levelCalibrationDone readings => Sys2Proof.Machine.execLevelCalibrationDone readings s
  | .lineMonitorMeasure laser powers readbackBad => Sys2Proof.Machine.execLineMonitorMeasure laser powers readbackBad s
  | .fadeThresholdCrossed laser => Sys2Proof.Machine.execFadeThresholdCrossed laser s
  | .lasHandoverOrder g => Sys2Proof.Machine.execLasHandoverOrder g s
  | .spareLaserReady laser => Sys2Proof.Machine.execSpareLaserReady laser s
  | .handoverStart laser => Sys2Proof.Machine.execHandoverStart laser s
  | .handoverComplete laser => Sys2Proof.Machine.execHandoverComplete laser s
  | .laserStandbyReached laser => Sys2Proof.Machine.execLaserStandbyReached laser s
  | .spareLaserActive laser => Sys2Proof.Machine.execSpareLaserActive laser s
  | .lockLoopUpdate bank err => Sys2Proof.Machine.execLockLoopUpdate bank err s
  | .heaterLoadStrobe g => Sys2Proof.Machine.execHeaterLoadStrobe g s
  | .heaterChannelCheck bank measured => Sys2Proof.Machine.execHeaterChannelCheck bank measured s
  | .pilotFrame bank chips => Sys2Proof.Machine.execPilotFrame bank chips s
  | .resweepDone bank peaks => Sys2Proof.Machine.execResweepDone bank peaks s
  | .scrub stack line outcome ondie parity progress => Sys2Proof.Machine.execScrub stack line outcome ondie parity progress s
  | .stackDegrade stack => Sys2Proof.Machine.execStackDegrade stack s
  | .dataFrame p l frame code => Sys2Proof.Machine.execDataFrame p l frame code s
  | .catchFrame p l hdr msg offset code => Sys2Proof.Machine.execCatchFrame p l hdr msg offset code s
  | .weighFrame p l hdr msg behind nearBoundary code => Sys2Proof.Machine.execWeighFrame p l hdr msg behind nearBoundary code s
  | .measureFrame p l hdr msg arrival code => Sys2Proof.Machine.execMeasureFrame p l hdr msg arrival code s
  | .laneCtrlFrame p l hdr msg code => Sys2Proof.Machine.execLaneCtrlFrame p l hdr msg code s
  | .faultFrame p l hdr msg code => Sys2Proof.Machine.execFaultFrame p l hdr msg code s
  | .hopMeasure p => Sys2Proof.Machine.execHopMeasure p s
  | .eyeMonitorSample p l width height corrected => Sys2Proof.Machine.execEyeMonitorSample p l width height corrected s
  | .laneRetireApply p => Sys2Proof.Machine.execLaneRetireApply p s
  | .laneRotationOut p l => Sys2Proof.Machine.execLaneRotationOut p l s
  | .laneRotationReturn p l => Sys2Proof.Machine.execLaneRotationReturn p l s
  | .lnkRetireLane p => Sys2Proof.Machine.execLnkRetireLane p s
  | .lnkBringUp p => Sys2Proof.Machine.execLnkBringUp p s
  | .portBringUpDone p result => Sys2Proof.Machine.execPortBringUpDone p result s
  | .weighInRetry p => Sys2Proof.Machine.execWeighInRetry p s
  | .linkExclude p => Sys2Proof.Machine.execLinkExclude p s
  | .linkLanesLost p => Sys2Proof.Machine.execLinkLanesLost p s
  | .fleetStroke => Sys2Proof.Machine.execFleetStroke s
  | .fsyncEdge position => Sys2Proof.Machine.execFsyncEdge position s
  | .fsyncLost => Sys2Proof.Machine.execFsyncLost s
  | .fleetJobStart job => Sys2Proof.Machine.execFleetJobStart job s
  | .fleetRerow job => Sys2Proof.Machine.execFleetRerow job s
  | .fleetEasy job => Sys2Proof.Machine.execFleetEasy job s
  | .fleetPause job => Sys2Proof.Machine.execFleetPause job s
  | .fleetAbort job => Sys2Proof.Machine.execFleetAbort job s
  | .salvage job => Sys2Proof.Machine.execSalvage job s
  | .refclkLost => Sys2Proof.Machine.execRefclkLost s
  | .refclkRestored => Sys2Proof.Machine.execRefclkRestored s
  | .railOutOfWindow rail => Sys2Proof.Machine.execRailOutOfWindow rail s
  | .railBreachAbort rail => Sys2Proof.Machine.execRailBreachAbort rail s
  | .railReturn rail => Sys2Proof.Machine.execRailReturn rail s
  | .mainPowerLoss => Sys2Proof.Machine.execMainPowerLoss s
  | .powerOff => Sys2Proof.Machine.execPowerOff s
  | .powerGood => Sys2Proof.Machine.execPowerGood s
  | .resetRelease => Sys2Proof.Machine.execResetRelease s
  | .identityPhase keyOk => Sys2Proof.Machine.execIdentityPhase keyOk s
  | .configurationPhase readFailed0 readFailed1 => Sys2Proof.Machine.execConfigurationPhase readFailed0 readFailed1 s
  | .memoryPhase trainingFailed bank0 bank1 ledgerBad => Sys2Proof.Machine.execMemoryPhase trainingFailed bank0 bank1 ledgerBad s
  | .benchmarkSelfTest failed => Sys2Proof.Machine.execBenchmarkSelfTest failed s
  | .levelCalibrationPhase readings => Sys2Proof.Machine.execLevelCalibrationPhase readings s
  | .lightPhase failedLasers failedBanks => Sys2Proof.Machine.execLightPhase failedLasers failedBanks s
  | .surveyPhase results => Sys2Proof.Machine.execSurveyPhase results s
  | .linksPhase results => Sys2Proof.Machine.execLinksPhase results s
  | .configWrite => Sys2Proof.Machine.execConfigWrite s
  | .configWriteDone readBackOk => Sys2Proof.Machine.execConfigWriteDone readBackOk s
  | .accessPassword length => Sys2Proof.Machine.execAccessPassword length s
  | .accessChallenge => Sys2Proof.Machine.execAccessChallenge s
  | .accessSignedRequest => Sys2Proof.Machine.execAccessSignedRequest s
  | .accessReturnLevel0 => Sys2Proof.Machine.execAccessReturnLevel0 s
  | .accessExpiry => Sys2Proof.Machine.execAccessExpiry s
  | .lockoutEnd => Sys2Proof.Machine.execLockoutEnd s
  | .challengeExpiry => Sys2Proof.Machine.execChallengeExpiry s
  | .attest => Sys2Proof.Machine.execAttest s
  | .attestationReportWritten => Sys2Proof.Machine.execAttestationReportWritten s
  | .ownerRecord => Sys2Proof.Machine.execOwnerRecord s
  | .diagRead => Sys2Proof.Machine.execDiagRead s
  | .tapBypass => Sys2Proof.Machine.execTapBypass s
  | .tapIdcode => Sys2Proof.Machine.execTapIdcode s
  | .tapSamplePreload chain => Sys2Proof.Machine.execTapSamplePreload chain s
  | .tapExtest => Sys2Proof.Machine.execTapExtest s
  | .tapClamp => Sys2Proof.Machine.execTapClamp s
  | .tapHighz => Sys2Proof.Machine.execTapHighz s
  | .hostLinkUp port speed400 => Sys2Proof.Machine.execHostLinkUp port speed400 s
  | .pfcFrame port enabled paused => Sys2Proof.Machine.execPfcFrame port enabled paused s
  | .ptpMasterLost => Sys2Proof.Machine.execPtpMasterLost s
  | .idleFrame p l hdr code => Sys2Proof.Machine.execIdleFrame p l hdr code s
  | .markerError p l error => Sys2Proof.Machine.execMarkerError p l error s
  | .stackTemperatureRead stack celsius => Sys2Proof.Machine.execStackTemperatureRead stack celsius s
  | .symbolPllUnlock g => Sys2Proof.Machine.execSymbolPllUnlock g s
  | .storeCommitDone crcOk => Sys2Proof.Machine.execStoreCommitDone crcOk s

end Sys2Proof.Machine
end

