-- ==== Sys2Proof/Safety.lean ====
section
/-! DEFINITION. What counts as safe, in the terms the statements use: memories in canonical form, a command that completes, and what each command may change. -/

namespace Sys2Proof.Machine

/-- Every byte memory of the block is in canonical form. -/
def Mems.wf (m : Mems) : Bool := m.hbm.wf && m.rstg.wf && m.cstg.wf && m.tiers.wf && m.ledger.wf && m.flash.wf

/-- The invariant of the block's memories: equal contents are equal data. -/
def State.memOk (s : State) : Prop := s.mem.wf = true

/-- A command runs to a next state of which `P` holds: neither a fault nor a refusal. -/
def Completes (i : Instr) (s : State) (P : State → Prop) : Prop := ∃ t, exec i s = .next t ∧ P t

/-- `n` bytes from address `a` hold a list of bytes. -/
def holdsAt (m : Mem) (a : Nat) (l : List Byte) : Prop := ∀ k b, l[k]? = some b → getByte m (a + k) = b

/-- Two memories agree at every address outside the `n` bytes from `a`. -/
def sameOutside (m m' : Mem) (a n : Nat) : Prop := ∀ x, (x < a ∨ a + n ≤ x) → getByte m' x = getByte m x

/-- The bytes of a memory that a block of `n` addresses from `a` holds stay as they are. -/
def sameInside (m m' : Mem) (a n : Nat) : Prop := ∀ x, a ≤ x → x < a + n → getByte m' x = getByte m x

/-! ## Stream operations -/

/-- The VEC commands by their op codes (R75). -/
def vecInstr : Nat → Option (Site → VecOp → Path → Instr)
  | 0x00 => some .vecAdd | 0x01 => some .vecMul | 0x02 => some .vecFma | 0x03 => some .vecMax | 0x04 => some .vecMin
  | 0x05 => some .vecCvt | 0x06 => some .vecQuant | 0x07 => some .vecDeq | 0x08 => some .vecReq | 0x09 => some .vecDatum
  | 0x0A => some .vecUndatum | 0x0B => some .vecRadd | 0x0C => some .vecRrow | 0x0D => some .vecExp2
  | 0x0E => some .vecLog2 | 0x0F => some .vecRcp | 0x10 => some .vecRsqrt | 0x11 => some .vecAct
  | 0x12 => some .vecSoftmax | 0x13 => some .vecNorm | 0x14 => some .vecRmax
  | _ => none

/-- The meaning of one element of the operations whose result at an index depends on the sources at that index alone (R193, R224 to
R230). -/
def elemOf (x : VecCtx) : Nat → Option (Mem → Nat → Nat × Cnt)
  | 0x00 => some (addElem x) | 0x01 => some (mulElem x) | 0x02 => some (fmaElem x) | 0x03 => some (chooseElem x true)
  | 0x04 => some (chooseElem x false) | 0x05 => some (cvtElem x) | 0x0B => some (raddElem x) | 0x0D => some (exp2Elem x)
  | 0x0E => some (log2Elem x) | 0x0F => some (rcpElem x) | 0x10 => some (rsqrtElem x) | 0x11 => some (actElem x)
  | _ => none

/-- What a VEC word at a core's seat works on (R74, R78). -/
def Chip.vecCtx (c : Chip) (j : Job) (g lc : Nat) (op : VecOp) : VecCtx :=
  { core := c.seat g lc, peri := c.accPeri g lc op.srcA, accs := c.accs, op := op, seed := j.body.jobSeed, gen := j.body.genBase
    stream := (c.core (c.seat g lc)).seed }

/-- The first byte and the bytes of element `i` of a format stored from `base` (R199). -/
def elemStart (base : Nat) (f : Fmt) (i : Nat) : Nat := if f = .int4 then base + i / 2 else base + i * (fmtBits f / 8)
def elemLen (f : Fmt) : Nat := if f = .int4 then 1 else fmtBits f / 8

/-- No destination element lies over a byte of a later source element: the word reads its sources as they stood when it issued. -/
def VecCtx.noHazard (x : VecCtx) (len : Nat) : Prop :=
  ∀ src, (src = x.op.srcA ∨ src = x.op.srcB) → src.isStaging = true → ∀ i' i, i' < i → i < len →
    let d := elemStart (coreByte x.core x.op.dst.toNat) x.op.fmtOut i'
    let e := elemStart (x.addr src) x.op.fmtIn i
    d + elemLen x.op.fmtOut ≤ e ∨ e + elemLen x.op.fmtIn ≤ d

/-! ## Registers -/

/-- Chip-level registers whose RW fields are plain, each with the mask of those fields: HST_QUEUE_SELECT, the MON_MASK words,
MON_CH_SELECT, CLK_CROSS_SELECT, SAF_SPARES_SELECT, SAF_LOG_SELECT, SAF_LOG_INDEX, IDN_SRC, IDN_DST, CFG_SRC (R324,
R349, R361, R383, R389, R391, R331). -/
def plainRegisters : List (BitVec 32 × Word) :=
  [(0x10100, 0x7FFF), (0x20010, 0xFFFFFFFF), (0x20014, 0xFFFFFFFF), (0x20018, 0xFFFFFFFF), (0x20030, 0x7F), (0x30010, 0x1FFF),
   (0x40010, 0xF), (0x40100, 0xFFFF), (0x40104, 0xFFFFFFFF), (0x50070, 0xFFFFFFFF), (0x50074, 0xFFFFFFFF), (0x50078, 0xFFFFFFFF),
   (0x5007C, 0xFFFFFFFF), (0x50808, 0xFFFFFFFF), (0x5080C, 0xFFFFFFFF)]

/-! ## Host packets -/

/-- The block once a host packet's ack and sequence are taken (R301 to R303). -/
def Chip.accept (c : Chip) (h : Hdr) : Chip :=
  (c.ackQueue h.queue.toNat h.ack).upQueue h.queue.toNat (fun k => { k with expected := k.expected + 1, port := h.port })

/-- A JOB, LOAD, REG or BULK packet that is accepted: the next of its queue, the queue open, the lengths those of its datagram (R301). -/
def Chip.takes (c : Chip) (h : Hdr) : Prop :=
  h.seq = (c.queue h.queue.toNat).expected ∧ (c.accept h).queueClosed h.queue.toNat = false ∧ 32 + h.length ≤ h.payload

/-- A RESULT of a queue with a body is on the wire, waits at a port whose priority the far end has paused (R297), or waits for space in the
retained packets (R303). -/
def Chip.reports (c : Chip) (q : BitVec 15) (tag : BitVec 32) (b : ResultBody) : Prop :=
  (∃ p ∈ c.host.sent ++ c.host.port0.waiting ++ c.host.port1.waiting, p.queue = q ∧ p.tag = tag ∧ p.body = some b)
  ∨ (∃ w ∈ (c.queue q.toNat).withheld, w.tag = tag ∧ w.body = b)

/-- A packet is answered by a receipt of a status (R301, R319). -/
def Chip.receipted (c : Chip) (h : Hdr) (status : Nat) : Prop :=
  c.reports h.queue h.tag (.receipt (BitVec.ofNat 8 status) 0 h.seq)

/-! ## What each command may change -/

/-- The parts of the block: its fields, and its memories one by one. -/
inductive Part where
  | freeCtr | clk | start | cfg | vault | acc | host | sch | jobs | nextOrder | regions | cores | seats | arrays | tiers | peri | cells |
    tiles | accs | dev | plots | lasers | linkLasers | linkSel | groups | banks | trims | hbmStacks | ports | lanes | fleetOut | mon | lvl
    | saf | log | hbm | rstg | cstg | tierImages | ledger | flash
deriving DecidableEq, Repr

/-- Two blocks agree in a part. -/
def Part.same (c d : Chip) : Part → Prop
  | .freeCtr => c.freeCtr = d.freeCtr
  | .clk => c.clk = d.clk
  | .start => c.start = d.start
  | .cfg => c.cfg = d.cfg
  | .vault => c.vault = d.vault
  | .acc => c.acc = d.acc
  | .host => c.host = d.host
  | .sch => c.sch = d.sch
  | .jobs => c.jobs = d.jobs
  | .nextOrder => c.nextOrder = d.nextOrder
  | .regions => c.regions = d.regions
  | .cores => c.cores = d.cores
  | .seats => c.seats = d.seats
  | .arrays => c.arrays = d.arrays
  | .tiers => c.tiers = d.tiers
  | .peri => c.peri = d.peri
  | .cells => c.cells = d.cells
  | .tiles => c.tiles = d.tiles
  | .accs => c.accs = d.accs
  | .dev => c.dev = d.dev
  | .plots => c.plots = d.plots
  | .lasers => c.lasers = d.lasers
  | .linkLasers => c.linkLasers = d.linkLasers
  | .linkSel => c.linkSel = d.linkSel
  | .groups => c.groups = d.groups
  | .banks => c.banks = d.banks
  | .trims => c.trims = d.trims
  | .hbmStacks => c.hbmStacks = d.hbmStacks
  | .ports => c.ports = d.ports
  | .lanes => c.lanes = d.lanes
  | .fleetOut => c.fleetOut = d.fleetOut
  | .mon => c.mon = d.mon
  | .lvl => c.lvl = d.lvl
  | .saf => c.saf = d.saf
  | .log => c.log = d.log
  | .hbm => c.mem.hbm = d.mem.hbm
  | .rstg => c.mem.rstg = d.mem.rstg
  | .cstg => c.mem.cstg = d.mem.cstg
  | .tierImages => c.mem.tiers = d.mem.tiers
  | .ledger => c.mem.ledger = d.mem.ledger
  | .flash => c.mem.flash = d.mem.flash

/-- The parts that a logged event and the re-row that it calls may change. -/
def faultParts : List Part := [.jobs, .fleetOut, .saf, .log, .regions, .sch]

/-- The parts that the end of a job may change. -/
def endParts : List Part := [.freeCtr, .host, .jobs, .regions, .cores, .arrays, .tiers, .tiles, .ports]

/-- The parts that a command may change: those that the rules of its effect name, the events and re-rows that its checks can raise (R363, R82),
and the jobs that it can end. -/
def mayChange : Instr → List Part
  | .synNop .. | .synPiece .. | .synChange .. | .synSleep .. | .optDummy .. | .stgStride .. | .xchLsend .. => faultParts
  | .synCatch .. => faultParts ++ [.ports]
  | .synWake .. => faultParts ++ [.lasers]
  | .arrTile .. => faultParts ++ [.cores, .arrays, .tiles, .accs]
  | .tileReady .. => [.tiles]
  | .arrDrain .. | .vecAdd .. | .vecMul .. | .vecFma .. | .vecMax .. | .vecMin .. | .vecCvt .. | .vecQuant .. | .vecDeq .. | .vecReq .. |
    .vecDatum .. | .vecUndatum .. | .vecRadd .. | .vecRrow .. | .vecExp2 .. | .vecLog2 .. | .vecRcp .. | .vecRsqrt .. | .vecAct .. |
    .vecSoftmax .. | .vecNorm .. | .vecRmax .. => faultParts ++ [.cores, .tiles, .cstg]
  | .coxSlot .. => faultParts ++ [.cores, .arrays, .accs]
  | .checkPathExercise .. => faultParts ++ [.cores, .arrays]
  | .opticalCheckPathExercise .. => faultParts ++ [.plots]
  | .optTile .. | .stgR2r .. => faultParts ++ [.rstg]
  | .stgH2r .. => faultParts ++ [.hbmStacks, .rstg]
  | .stgR2h .. => faultParts ++ [.hbmStacks, .hbm]
  | .stgR2c .. => faultParts ++ [.cstg]
  | .stgC2r .. => faultParts ++ [.cores, .rstg]
  | .stgC2c .. | .xchCore .. | .xchRegion .. => faultParts ++ [.cores, .cstg]
  | .vecSeed .. => faultParts ++ [.cores]
  | .xchLrecv .. => faultParts ++ [.freeCtr, .ports, .lanes, .rstg]
  | .strokeBoundary .. => endParts ++ [.sch, .seats, .peri, .plots, .groups, .banks, .hbmStacks, .fleetOut, .mon, .saf, .log, .hbm, .cstg]
  | .chipStroke .. => [.clk, .regions]
  | .pieceCommit .. | .fleetAbort .. => endParts
  | .rerow .. | .fleetRerow .. => endParts ++ [.sch, .seats, .peri, .plots, .lasers, .lanes, .fleetOut, .mon, .saf, .log, .cstg]
  | .coreCopyHoldEnd .. => [.jobs]
  | .jobSubmit .. | .jobResume .. => [.host, .jobs, .nextOrder]
  | .jobPause .. => [.host, .sch, .jobs, .fleetOut]
  | .jobAbort .. => endParts ++ [.sch, .fleetOut]
  | .pressureChangeRequest .. | .hostAck .. | .hostAckResend .. => [.host, .jobs]
  | .pressureChangeApply .. => [.freeCtr, .host, .jobs, .regions, .plots, .lasers, .banks, .saf, .log]
  | .jobAdmit .. | .class0Admit .. => endParts ++ [.accs, .plots, .lasers, .saf, .log, .rstg, .cstg]
  | .jobStart .. => [.freeCtr, .host, .jobs, .regions, .cores, .arrays, .tiles, .plots, .banks, .saf, .log]
  | .pauseDrainEnd .. => [.freeCtr, .host, .jobs, .regions, .cores, .arrays, .tiles, .ports, .saf, .log, .hbm]
  | .deadlineCheck .. => [.freeCtr, .host, .sch, .jobs, .fleetOut]
  | .regionZeroDone .. => [.regions, .plots, .banks, .rstg, .cstg]
  | .loadSegment .. => [.host, .sch, .jobs, .hbm]
  | .loadUnload .. => [.host, .sch, .jobs]
  | .checkComplete .. => [.freeCtr, .host, .sch, .regions, .hbmStacks, .saf, .log]
  | .imageReplace .. => [.sch, .jobs]
  | .regRead .. => [.freeCtr, .clk, .host, .jobs, .regions, .cores, .banks, .hbmStacks, .ports, .lvl, .saf, .log]
  | .regWrite .. | .registerWrite .. => endParts ++ [.clk, .cfg, .vault, .acc, .sch, .dev, .lasers, .linkLasers, .linkSel, .hbmStacks,
    .lanes, .fleetOut, .mon, .lvl, .saf, .log, .hbm, .tierImages, .ledger, .flash]
  | .rcFieldRead .. => [.freeCtr, .regions, .cores, .banks, .hbmStacks, .ports, .lvl, .saf, .log]
  | .latchedLowRead .. => [.freeCtr, .clk, .regions, .hbmStacks, .lvl, .saf, .log]
  | .monQueuePop .. | .levelPeriodEnd .. | .monInjectRequest .. | .monSelfCalibrate .. => [.lvl]
  | .bulkWriteData .. | .bulkWriteInputStream .. => [.host, .jobs, .regions, .hbmStacks, .saf, .log, .hbm]
  | .bulkReadData .. => [.freeCtr, .host, .jobs, .regions, .hbmStacks, .saf, .log]
  | .malformedDatagram .. | .discardedFrame .. | .arpRequest .. | .neighborSolicitation .. | .icmpEcho .. | .moduleInserted .. |
    .hostLinkFallback .. | .hostLinkDown .. | .queueReset .. | .hostLinkUp .. | .pfcFrame .. => [.host]
  | .ptpMessage .. => [.clk, .host]
  | .tierProgram .. => [.freeCtr, .arrays, .tiers, .dev, .hbm, .tierImages, .ledger]
  | .tierErase .. => [.freeCtr, .arrays, .tiers]
  | .tierProgramDone .. => endParts ++ [.sch, .dev, .fleetOut, .saf, .log, .hbm, .ledger]
  | .tierEraseDone .. => [.arrays, .tiers, .dev]
  | .swapStage .. | .swapCancel .. => [.arrays]
  | .swapArm .. => [.regions, .arrays, .tiers]
  | .swapWithdraw .. => [.regions]
  | .swapApply .. => [.jobs, .regions, .arrays, .tiers]
  | .plotCopyDone .. => [.freeCtr, .regions, .arrays, .tiers, .dev, .hbmStacks, .saf, .log, .hbm]
  | .plotSubstitution .. => [.regions, .cores, .arrays, .saf, .log]
  | .cellBlockCopyDone .. => [.freeCtr, .regions, .arrays, .tiers, .dev, .hbmStacks, .saf, .log, .hbm, .tierImages]
  | .cellBlockSubstitution .. | .spareCoreArrayMove .. => [.regions, .cores, .arrays, .tiers, .peri, .cells, .mon, .saf, .log]
  | .tableEntryFilled .. => [.cores]
  | .plotHoldTimeout .. => endParts ++ [.sch, .plots, .fleetOut, .saf, .log]
  | .plotHoldReturn .. => [.jobs, .regions, .plots]
  | .surveyTest .. => [.regions, .arrays, .plots, .lanes, .saf, .log]
  | .surveyStart .. => [.regions, .arrays, .peri, .plots, .ports, .lanes, .fleetOut, .mon, .saf, .log]
  | .surveyEnd .. => endParts ++ [.sch, .peri, .plots, .banks, .trims, .lanes, .fleetOut, .mon, .saf, .log]
  | .storeCommit .. | .storeCommitDone .. => [.mon]
  | .temperatureWatchSample .. => faultParts ++ [.clk]
  | .easyEntry .. | .easyExit .. => [.regions, .banks]
  | .thermalStop .. => endParts ++ [.lasers, .banks, .saf, .log]
  | .levelCalibrationDone .. => [.freeCtr, .regions, .lvl, .saf, .log]
  | .lineMonitorMeasure .. => endParts ++ [.sch, .lasers, .linkLasers, .groups, .lanes, .fleetOut, .mon, .saf, .log]
  | .fadeThresholdCrossed .. => [.regions, .lasers, .linkLasers, .saf, .log]
  | .lasHandoverOrder .. | .laserStandbyReached .. => [.regions, .lasers, .linkLasers]
  | .spareLaserReady .. => [.lasers, .linkLasers]
  | .handoverStart .. => endParts ++ [.sch, .plots, .lasers, .linkLasers, .lanes, .fleetOut, .mon, .saf, .log]
  | .handoverComplete .. => [.regions, .lasers, .linkLasers, .groups, .saf, .log]
  | .spareLaserActive .. => [.jobs, .regions, .plots, .lasers, .linkLasers, .groups, .saf, .log]
  | .lockLoopUpdate .. | .heaterChannelCheck .. | .resweepDone .. => endParts ++ [.sch, .plots, .banks, .fleetOut, .mon, .saf, .log]
  | .heaterLoadStrobe .. => [.regions, .plots, .banks]
  | .pilotFrame .. => endParts ++ [.sch, .plots, .lasers, .linkLasers, .groups, .banks, .lanes, .fleetOut, .mon, .saf, .log]
  | .scrub .. => [.regions, .hbmStacks, .saf, .log]
  | .stackDegrade .. => endParts ++ [.hbmStacks, .saf, .log, .hbm]
  | .dataFrame .. | .catchFrame .. | .measureFrame .. | .laneCtrlFrame .. | .faultFrame .. | .idleFrame .. | .markerError .. => faultParts
    ++ [.ports, .lanes]
  | .weighFrame .. => faultParts ++ [.clk, .ports, .lanes]
  | .hopMeasure .. => faultParts ++ [.freeCtr, .ports]
  | .eyeMonitorSample .. => [.regions, .ports, .lanes, .fleetOut, .saf, .log]
  | .laneRetireApply .. | .portBringUpDone .. | .linkExclude .. => endParts ++ [.sch, .lanes, .fleetOut, .mon, .saf, .log]
  | .laneRotationOut .. => [.ports, .lanes, .fleetOut, .mon]
  | .laneRotationReturn .. => [.ports, .fleetOut]
  | .lnkRetireLane .. => [.ports, .lanes, .fleetOut]
  | .lnkBringUp .. => [.ports, .lanes, .mon]
  | .weighInRetry .. => [.ports]
  | .linkLanesLost .. => faultParts ++ [.ports, .lanes, .mon]
  | .fleetStroke .. => [.clk, .jobs, .fleetOut]
  | .fsyncEdge .. => [.clk, .ports]
  | .fsyncLost .. => [.freeCtr, .clk, .regions, .saf, .log]
  | .fleetJobStart .. => endParts ++ [.sch, .plots, .banks, .fleetOut, .saf, .log]
  | .fleetEasy .. => [.jobs, .regions, .banks]
  | .fleetPause .. => [.jobs, .regions, .arrays]
  | .salvage .. => endParts ++ [.sch, .seats, .peri, .plots, .lasers, .lanes, .fleetOut, .mon, .saf, .log, .hbm, .cstg]
  | .refclkLost .. => endParts ++ [.clk, .start, .sch, .peri, .accs, .plots, .banks, .lanes, .mon, .saf, .log, .hbm]
  | .refclkRestored .. | .resetRelease .. => [.clk, .start]
  | .railOutOfWindow .. => endParts ++ [.sch, .hbmStacks, .lanes, .fleetOut, .mon, .saf, .log]
  | .railBreachAbort .. => endParts ++ [.sch, .fleetOut, .saf]
  | .railReturn .. => [.saf]
  | .mainPowerLoss .. => endParts ++ [.clk, .start, .cfg, .vault, .acc, .sch, .peri, .accs, .plots, .banks, .lanes, .mon, .saf, .hbm,
    .rstg, .cstg, .flash]
  | .powerOff .. => [.clk, .start, .cfg, .vault, .acc, .host, .sch, .jobs, .nextOrder, .regions, .cores, .seats, .arrays, .tiers, .peri,
    .cells, .tiles, .accs, .plots, .lasers, .linkLasers, .linkSel, .groups, .banks, .trims, .hbmStacks, .ports, .lanes, .mon, .lvl, .saf,
    .log, .hbm, .rstg, .cstg, .flash]
  | .powerGood .. => [.clk, .start, .saf]
  | .identityPhase .. => [.start, .vault]
  | .configurationPhase .. => [.start, .cfg]
  | .memoryPhase .. => endParts ++ [.start, .seats, .peri, .cells, .plots, .lasers, .linkLasers, .banks, .trims, .hbmStacks, .lanes, .mon,
    .saf, .log, .hbm, .tierImages]
  | .benchmarkSelfTest .. => endParts ++ [.start, .sch, .seats, .peri, .plots, .fleetOut, .mon, .saf, .log, .cstg]
  | .levelCalibrationPhase .. => [.start, .lvl]
  | .lightPhase .. => endParts ++ [.start, .sch, .seats, .peri, .plots, .lasers, .linkLasers, .groups, .banks, .lanes, .fleetOut, .mon,
    .saf, .log, .cstg]
  | .surveyPhase .. => endParts ++ [.start, .sch, .plots, .banks, .trims, .lanes, .fleetOut, .mon, .saf, .log]
  | .linksPhase .. => endParts ++ [.start, .sch, .plots, .lanes, .fleetOut, .mon, .saf, .log]
  | .configWrite .. | .configWriteDone .. => [.cfg, .flash]
  | .accessPassword .. | .accessSignedRequest .. | .accessReturnLevel0 .. | .accessExpiry .. | .lockoutEnd .. | .challengeExpiry .. |
    .attest .. | .diagRead .. | .tapBypass .. | .tapIdcode .. | .tapSamplePreload .. | .tapExtest .. | .tapClamp .. | .tapHighz .. => [.acc]
  | .accessChallenge .. => [.freeCtr, .acc]
  | .attestationReportWritten .. => [.freeCtr, .acc, .hbm]
  | .ownerRecord .. => [.vault, .acc]
  | .ptpMasterLost .. | .symbolPllUnlock .. => [.clk]
  | .stackTemperatureRead .. => [.hbmStacks]

/-- A command that goes on leaves every part alone that it may not change. -/
def framed (i : Instr) (s : State) : Prop := ∀ t, exec i s = .next t → ∀ p, p ∉ mayChange i → p.same s.toChip t.toChip

/-- The four families of the frame statements: stream instructions; strokes, jobs and host packets; units, light and the level; links, the
fleet, power, start-up and identity. -/
inductive Family where
  | stream | host | unit | link
deriving DecidableEq, Repr

/-- A command's family. -/
def commandFamily : Instr → Family
  | .synNop .. | .synPiece .. | .synCatch .. | .synChange .. | .synWake .. | .synSleep .. | .arrTile .. | .tileReady .. | .arrDrain .. |
    .coxSlot .. | .checkPathExercise .. | .opticalCheckPathExercise .. | .optTile .. | .optDummy .. | .stgH2r .. | .stgR2h .. | .stgR2c ..
    | .stgC2r .. | .stgC2c .. | .stgR2r .. | .stgStride .. | .vecAdd .. | .vecMul .. | .vecFma .. | .vecMax .. | .vecMin .. | .vecCvt .. |
    .vecQuant .. | .vecDeq .. | .vecReq .. | .vecDatum .. | .vecUndatum .. | .vecRadd .. | .vecRrow .. | .vecExp2 .. | .vecLog2 .. |
    .vecRcp .. | .vecRsqrt .. | .vecAct .. | .vecSoftmax .. | .vecNorm .. | .vecRmax .. | .vecSeed .. | .xchCore .. | .xchRegion .. |
    .xchLsend .. | .xchLrecv .. => .stream
  | .strokeBoundary .. | .chipStroke .. | .pieceCommit .. | .rerow .. | .coreCopyHoldEnd .. | .jobSubmit .. | .jobPause .. | .jobResume ..
    | .jobAbort .. | .pressureChangeRequest .. | .pressureChangeApply .. | .jobAdmit .. | .class0Admit .. | .jobStart .. | .pauseDrainEnd
    .. | .deadlineCheck .. | .regionZeroDone .. | .loadSegment .. | .loadUnload .. | .checkComplete .. | .imageReplace .. | .regRead .. |
    .regWrite .. | .registerWrite .. | .rcFieldRead .. | .latchedLowRead .. | .monQueuePop .. | .bulkWriteData .. | .bulkReadData .. |
    .bulkWriteInputStream .. | .hostAck .. | .hostAckResend .. | .malformedDatagram .. | .discardedFrame .. | .arpRequest .. |
    .neighborSolicitation .. | .icmpEcho .. | .ptpMessage .. | .moduleInserted .. | .hostLinkFallback .. | .hostLinkDown .. | .queueReset
    .. | .hostLinkUp .. | .pfcFrame .. | .ptpMasterLost .. => .host
  | .tierProgram .. | .tierErase .. | .tierProgramDone .. | .tierEraseDone .. | .swapStage .. | .swapCancel .. | .swapArm .. |
    .swapWithdraw .. | .swapApply .. | .plotCopyDone .. | .plotSubstitution .. | .cellBlockCopyDone .. | .cellBlockSubstitution .. |
    .spareCoreArrayMove .. | .tableEntryFilled .. | .plotHoldTimeout .. | .plotHoldReturn .. | .surveyTest .. | .surveyStart .. |
    .surveyEnd .. | .storeCommit .. | .temperatureWatchSample .. | .easyEntry .. | .easyExit .. | .thermalStop .. | .levelPeriodEnd .. |
    .monInjectRequest .. | .monSelfCalibrate .. | .levelCalibrationDone .. | .lineMonitorMeasure .. | .fadeThresholdCrossed .. |
    .lasHandoverOrder .. | .spareLaserReady .. | .handoverStart .. | .handoverComplete .. | .laserStandbyReached .. | .spareLaserActive ..
    | .lockLoopUpdate .. | .heaterLoadStrobe .. | .heaterChannelCheck .. | .pilotFrame .. | .resweepDone .. | .scrub .. | .stackDegrade ..
    | .stackTemperatureRead .. | .storeCommitDone .. => .unit
  | .dataFrame .. | .catchFrame .. | .weighFrame .. | .measureFrame .. | .laneCtrlFrame .. | .faultFrame .. | .hopMeasure .. |
    .eyeMonitorSample .. | .laneRetireApply .. | .laneRotationOut .. | .laneRotationReturn .. | .lnkRetireLane .. | .lnkBringUp .. |
    .portBringUpDone .. | .weighInRetry .. | .linkExclude .. | .linkLanesLost .. | .fleetStroke .. | .fsyncEdge .. | .fsyncLost .. |
    .fleetJobStart .. | .fleetRerow .. | .fleetEasy .. | .fleetPause .. | .fleetAbort .. | .salvage .. | .refclkLost .. | .refclkRestored
    .. | .railOutOfWindow .. | .railBreachAbort .. | .railReturn .. | .mainPowerLoss .. | .powerOff .. | .powerGood .. | .resetRelease .. |
    .identityPhase .. | .configurationPhase .. | .memoryPhase .. | .benchmarkSelfTest .. | .levelCalibrationPhase .. | .lightPhase .. |
    .surveyPhase .. | .linksPhase .. | .configWrite .. | .configWriteDone .. | .accessPassword .. | .accessChallenge .. |
    .accessSignedRequest .. | .accessReturnLevel0 .. | .accessExpiry .. | .lockoutEnd .. | .challengeExpiry .. | .attest .. |
    .attestationReportWritten .. | .ownerRecord .. | .diagRead .. | .tapBypass .. | .tapIdcode .. | .tapSamplePreload .. | .tapExtest .. |
    .tapClamp .. | .tapHighz .. | .idleFrame .. | .markerError .. | .symbolPllUnlock .. => .link

end Sys2Proof.Machine
end

