-- ==== Sys2Proof/Certificates/Slice0/Obligations.lean ====
section
/-! DEFINITION. The statements about the block, one def per obligation. -/

open Sys2Proof Sys2Proof.Machine

/-! ## The queue and reset -/

/-- A step with a command at the front of the queue is that command's effect on the state with the rest of the queue. -/
def Obligations.StepRunsTheFrontCommand : Prop :=
  ∀ (c : Instr) (rest : List Instr) (s : State), s.pending = c :: rest → step s = exec c { s with pending := rest }

/-- Every command that goes on leaves the queue as exec was given it: a step takes exactly the front command, first in, first out, and
with none waiting the block idles; that each command is carried out whole is the model's choice too (log entries 1 and 21). -/
def Obligations.StepTakesOneCommand : Prop :=
  ∀ s t : State, step s = .next t → t.pending = s.pending.drop 1 ∧ (s.pending = [] → t = s)

/-! ## SYN -/

/-- NOP has no effect (R57). The SYN markers at a site whose job runs (R53, R57 to R60): PIECE of the device's own count and CHANGE of the device's own phase
change nothing; CATCH sends a CATCH frame on every port of the job that is up, and its peer's is awaited there; WAKE starts the target's tick, issuing from
2,048 ticks on; SLEEP marks the target for the end of the stroke. A word of them that came corrupt, or whose lock-step pair disagrees, is one
dangerous event of the compute path and changes no memory (R82, R365, R371); a corrupt one is not performed: no CATCH is awaited for it. -/
def Obligations.SynMarkersComplete : Prop :=
  (∀ (st : Site) (s : State), exec (.synNop st .good) s = .next s)
  ∧ ∀ (st : Site) (s : State) (j : Job) (g : Nat), s.toChip.atSite st = some (j, g) →
    (∀ b : BitVec 32, (s.toChip.pos j).map (·.piece) = some b.toNat → exec (.synPiece st b .good) s = .next s)
    ∧ (∀ p : BitVec 6, (s.toChip.pos j).map (·.phase) = some p.toNat → exec (.synChange st p .good) s = .next s)
    ∧ (st.onSeq = true →
        Completes (.synCatch st .good) s (fun t =>
          t.fleetOut = s.fleetOut
            ++ (s.toChip.upPorts (s.toChip.jobPorts j)).map (fun p => s.toChip.frameOn p (.catch (s.toChip.catchMsg j false)))
          ∧ (∀ p, p ∈ s.toChip.upPorts (s.toChip.jobPorts j) → (t.toChip.port p).catches.getLast? = some (j.stroke, j.epoch))
          ∧ (∀ p, p ∉ s.toChip.upPorts (s.toChip.jobPorts j) → t.toChip.port p = s.toChip.port p)
          ∧ t.toChip = { s.toChip with ports := t.ports, fleetOut := t.fleetOut }))
    ∧ (∀ (target : Fin 16) (r : Nat), st.onSeq = true → j.phys target.val = some r → (s.toChip.region r).power = 0 →
        Completes (.synWake st target .good) s (fun t =>
          (t.toChip.region r).power = 1 ∧ (t.toChip.region r).wakeAt = some (st.tick % 4096 + 2048)
          ∧ (t.toChip.region r).wakes = satAdd (s.toChip.region r).wakes 1
          ∧ t.toChip = { s.toChip with regions := t.regions, lasers := t.lasers }))
    ∧ (∀ (target : Fin 16) (r : Nat), st.onSeq = true → j.phys target.val = some r → (s.toChip.region r).power ≠ 0 →
        Completes (.synSleep st target .good) s (fun t =>
          (t.toChip.region r).sleepAtEnd = true ∧ (t.toChip.region r).power = (s.toChip.region r).power
          ∧ t.toChip = { s.toChip with regions := t.regions }))
    ∧ (∀ (w : Fetch) (b : BitVec 32) (p : BitVec 6) (i : Instr), w ≠ .good → st.onSeq = true →
        (s.toChip.pos j).map (·.phase) = some p.toNat → i ∈ [Instr.synNop st w, .synPiece st b w, .synCatch st w, .synChange st p w] →
        Completes i s (fun t =>
          t.saf.dangCompute = satAdd s.saf.dangCompute 1 ∧ t.mem = s.mem
          ∧ (w = .bad → t.ports = s.ports)))

/-- A PIECE that names another body piece than the device's count is refused at run time (R82): one permanent event is logged from the
sequencer or core concerned, and a job outside a fleet is to re-row and to be held for its image from the next stroke boundary; no memory
changes. -/
def Obligations.PieceMismatchHoldsTheJob : Prop :=
  ∀ (st : Site) (s : State) (j : Job) (g : Nat) (b : BitVec 32),
    s.toChip.atSite st = some (j, g) → (s.toChip.pos j).map (·.piece) ≠ some b.toNat → j.fleet = false →
    Completes (.synPiece st b .good) s (fun t =>
      t.toChip.job? st.job = some { j with rerow := true, holdNext := some .image }
      ∧ (look ({} : Ring) t.log.rings (s.toChip.siteSource st g).1).next
          = (look ({} : Ring) s.log.rings (s.toChip.siteSource st g).1).next + 1
      ∧ t.saf.permanent = satAdd s.saf.permanent 1 ∧ t.mem = s.mem)

/-! ## Arrays -/

/-- The array commands complete where a job runs at the site (R61 to R65): a TILE of at least one row whose tier is not being programmed,
which overwrites a free tile or adds to a filling or ready one, leaves the tile filling for the job; TILE_READY makes it ready; a DRAIN of
a ready tile copies its 2,048 entries to core staging, sign-extended to 8 bytes each, and leaves it draining for 256 ticks, after which it
is free. That all a TILE does comes about with its own command is the model's choice (log entry 38). -/
def Obligations.ArrayCommandsComplete : Prop :=
  ∀ (st : Site) (s : State) (j : Job) (g : Nat) (lc : Fin 32), s.toChip.atSite st = some (j, g) → st.core = some lc →
    (∀ (op : TileOp) (rds : List Reading) (bench : List BenchMiss) (p : Path),
      let cells := s.toChip.cellsOf g lc.val op.array.val
      let peri := s.toChip.periOf cells
      let tile := (s.toChip.tile (tileKey peri op.tile)).at st.tick
      op.legal = true → inCore op.src.toNat (op.rows * rowBytes op.inFmt) = true → 0 < op.rows → p.fetchBad = false →
      (s.toChip.tier (tierKey cells (look op.tier (s.toChip.arr cells).map op.tier.val).val)).st ≠ .programming →
      (if op.accumulate then tile = .filling ∨ tile = .ready else tile = .free) →
      Completes (.arrTile st op rds bench p) s (fun t =>
        (t.toChip.tile (tileKey peri op.tile)).st = .filling ∧ (t.toChip.tile (tileKey peri op.tile)).job = some j.id
        ∧ t.mem = s.mem))
    ∧ (∀ (array : Fin 16) (tile : Bool),
      let key := tileKey (s.toChip.periOf (s.toChip.cellsOf g lc.val array.val)) tile
      st.tick = 0 → (s.toChip.tile key).st = .filling →
      Completes (.tileReady st.job st.region lc array tile) s (fun t =>
        (t.toChip.tile key).st = .ready ∧ t.toChip = { s.toChip with tiles := t.tiles }))
    ∧ (∀ (op : DrainOp) (p : Path),
      let peri := s.toChip.periOf (s.toChip.cellsOf g lc.val op.array.val)
      let dst := coreByte (s.toChip.seat g lc.val) op.dst.toNat
      inCore op.dst.toNat 16384 = true → p.fetchBad = false → (s.toChip.tile (tileKey peri op.tile)).st = .ready →
      Completes (.arrDrain st op p) s (fun t =>
        (t.toChip.tile (tileKey peri op.tile)).st = .draining
        ∧ (∀ tick, (t.toChip.tile (tileKey peri op.tile)).at tick = if st.tick + 256 ≤ tick then .free else .draining)
        ∧ (∀ e, e < 2048 → readLE t.mem.cstg (dst + 8 * e) 8 = trunc 64 (s.toChip.accOf peri op.tile e))
        ∧ sameOutside s.mem.cstg t.mem.cstg dst 16384 ∧ t.mem = { s.mem with cstg := t.mem.cstg } ∧ t.accs = s.accs))

/-- A TILE whose conversions all read exactly, of a tier whose cells hold their intended digits, adds to each of its accumulator entries
the exact product of the applied tile row and the weight column, held at the 48-bit bounds (R62, R93, R185, R186). That the sums arrive
with the TILE's own command is the model's choice (log entry 38). -/
def Obligations.TileAddsTheProduct : Prop :=
  ∀ (st : Site) (op : TileOp) (p : Path) (s t : State) (j : Job) (g : Nat) (lc : Fin 32),
    let cells := s.toChip.cellsOf g lc.val op.array.val
    let peri := s.toChip.periOf cells
    let tier := (look op.tier (s.toChip.arr cells).map op.tier.val).val
    let T := tierKey cells tier
    let tile := (s.toChip.tile (tileKey peri op.tile)).at st.tick
    s.toChip.atSite st = some (j, g) → st.core = some lc → op.legal = true →
    inCore op.src.toNat (op.rows * rowBytes op.inFmt) = true → 0 < op.rows → p.fetchBad = false →
    (s.toChip.tier T).st ≠ .programming → (if op.accumulate then tile = .filling ∨ tile = .ready else tile = .free) →
    storedAdj s.toChip cells T op.wInt4 = [] → stuckAdj (s.toChip.arr cells) tier = [] →
    exec (.arrTile st op [] [] p) s = .next t →
    ∀ r q, r < op.rows → q < columnsOf op.wInt4 →
      let row := appliedRow s.mem.cstg (coreByte (s.toChip.seat g lc.val) op.src.toNat) op r
      let sum := (List.range 256).foldl (fun a k => a + rowAt row k * tierWeight s.mem.tiers T op.wInt4 k q) 0
      let e := r * columnsOf op.wInt4 + q
      t.toChip.accOf peri op.tile e
        = clampInt (-(2 ^ 47)) (2 ^ 47 - 1) ((if op.accumulate then s.toChip.accOf peri op.tile e else 0) + sum)

/-- The check-path exercises (R123, R155, R363): in its stroke an exercise whose compare fails, as it must, clears the note of a missed
one; one that does not fail is a dangerous event: it is counted in SAF_DANGEROUS, one record is logged from the
core or the region sequencer, every job of the region outside a fleet is to re-row (R124), and the note is set unless it was set. -/
def Obligations.CheckPathExercises : Prop :=
  (∀ (g : Fin 16) (k : Fin 34) (a : Fin 17) (s : State),
    let array := (g.val * 34 + k.val) * 17 + a.val
    (s.toChip.region g.val).stroke.toNat % 256 = 15 * a.val →
    Completes (.checkPathExercise g k a true) s (fun t =>
      (t.toChip.arr array).exerciseFail = false ∧ t.toChip = { s.toChip with arrays := t.arrays })
    ∧ Completes (.checkPathExercise g k a false) s (fun t =>
      (t.toChip.arr array).exerciseFail = !(s.toChip.arr array).exerciseFail
      ∧ t.saf.dangCompute = satAdd s.saf.dangCompute 1
      ∧ (look ({} : Ring) t.log.rings (srcCore (g.val * 34 + k.val))).next = (look ({} : Ring) s.log.rings (srcCore (g.val * 34 + k.val))).next + 1
      ∧ (∀ j ∈ s.jobs, j.inRegion g.val = true → j.live = true → j.fleet = false →
          (t.toChip.job? j.id).map (·.rerow) = some true)
      ∧ t.mem = s.mem))
  ∧ (∀ (g : Fin 16) (o : Fin 136) (s : State),
    let k := g.val * 136 + o.val
    (s.toChip.region g.val).stroke.toNat % 256 = o.val →
    Completes (.opticalCheckPathExercise g o true) s (fun t =>
      (t.toChip.plot k).exerciseFail = false ∧ t.toChip = { s.toChip with plots := t.plots })
    ∧ Completes (.opticalCheckPathExercise g o false) s (fun t =>
      (t.toChip.plot k).exerciseFail = !(s.toChip.plot k).exerciseFail
      ∧ t.saf.dangCompute = satAdd s.saf.dangCompute 1
      ∧ (look ({} : Ring) t.log.rings (srcRgn g.val)).next = (look ({} : Ring) s.log.rings (srcRgn g.val)).next + 1
      ∧ (∀ j ∈ s.jobs, j.inRegion g.val = true → j.live = true → j.fleet = false →
          (t.toChip.job? j.id).map (·.rerow) = some true)
      ∧ t.mem = s.mem))

/-- A cox slot with no booked escape serves the eligible item of the earliest deadline (R125 to R128): where no other item loses its last
slot and none arrives, that item alone leaves the list on a clean path, CORE_COX_SERVED counts it, and no memory changes. A table entry
that has filled through 16 strokes becomes valid (R129). When its data reach the shadow it fills from, and their layout there, are the
model's choices (log entries 118 and 140). -/
def Obligations.CoxSlotServesTheItem : Prop :=
  (∀ (job : JobId) (region : Fin 16) (lc : Fin 32) (start : Nat) (s : State) (j : Job) (g : Nat) (i : Image) (q : Pos) (x : CoxItem),
    let core := s.toChip.seat g lc.val
    s.toChip.atSite { job := job, region := region, core := some lc, tick := start } = some (j, g) →
    s.toChip.imageOf j = some i → s.toChip.pos j = some q → bookedEscapes i q.phase region.val lc.val (start % 4096) = 0 →
    start % 128 = 0 → chooseItem (s.toChip.core core).items start = some x →
    (∀ y ∈ (s.toChip.core core).items, y ≠ x → start + 256 ≤ y.deadline) → (∀ y ∈ (s.toChip.core core).coming, start < y.posted) →
    Completes (.coxSlot job region lc start Path.clean) s (fun t =>
      (t.toChip.core core).items = (s.toChip.core core).items.filter (fun y => decide (y ≠ x))
      ∧ (t.toChip.core core).served = satAdd (s.toChip.core core).served 1
      ∧ (t.toChip.core core).itemsNow = (s.toChip.core core).itemsNow + 1
      ∧ t.mem = s.mem))
  ∧ (∀ (g : Fin 16) (k : Fin 34) (entry : Fin 16) (s : State),
    let core := g.val * 34 + k.val
    let e : TableEntry := look {} (s.toChip.core core).table entry.val
    keysRise 0 (s.toChip.core core).table = true → e.state = 2 → 16 ≤ e.strokes →
    Completes (.tableEntryFilled g k entry) s (fun t =>
      (look ({} : TableEntry) (t.toChip.core core).table entry.val).state = 3
      ∧ t.toChip = { s.toChip with cores := t.cores }))

/-! ## Optics -/

/-- The optical commands complete where a job runs at a sequencer's site (R66 to R69): an OPT.TILE that names work writes, for each row,
run position and column, its 64-bit result at the destination; a DUMMY enters its plots in the duty from its own stroke. -/
def Obligations.OpticalCommandsComplete : Prop :=
  ∀ (st : Site) (s : State) (j : Job) (g : Nat), s.toChip.atSite st = some (j, g) → st.onSeq = true →
    (∀ (op : OptOp) (p : Path), op.legal = true → 0 < op.count → 0 < op.rows → 0 < op.kblk →
      s.toChip.fitsRegion st op.aAddr.toNat (optABytes op) = true → s.toChip.fitsRegion st op.bAddr.toNat (optBBytes op) = true →
      s.toChip.fitsRegion st op.dst.toNat (optResBytes op) = true → p.fetchBad = false →
      let a := s.toChip.regionAt j g op.aAddr.toNat
      let b := s.toChip.regionAt j g op.bAddr.toNat
      let dst := s.toChip.regionAt j g op.dst.toNat
      Completes (.optTile st op [] p) s (fun t =>
        (∀ r q col, r < op.rows → q < op.count → col < 16 →
          readLE t.mem.rstg (dst + 8 * ((r * op.count + q) * 16 + col)) 8 = trunc 64 (optDot s.mem.rstg a b op r q col))
        ∧ sameOutside s.mem.rstg t.mem.rstg dst (optResBytes op) ∧ t.mem = { s.mem with rstg := t.mem.rstg }))
    ∧ (∀ (first : Fin 128) (count : Nat) (span : BitVec 16) (even : Bool), dummyLegal first count even = true → span ≠ 0 →
      Completes (.optDummy st first count span even .good) s (fun t =>
        (t.toChip.region g).dutyNow = (s.toChip.region g).dutyNow ++ (runPlots first.val count even).map (fun p =>
          ({ plot := p, start := 0, last := (st.tick + span.toNat - 1) / 4096 - st.tick / 4096 } : Duty))
        ∧ t.toChip = { s.toChip with regions := t.regions }))

/-! ## Stream moves and exchanges -/

/-- The moves between HBM and region staging complete through the word's own slot entry (R70, R71), and STRIDE sets the stream's values
(R72): H2R brings the window's bytes to region staging, R2H takes region staging's bytes to the window, and no other byte of any memory
changes. The bytes moved are those that stand there when the word is carried out, the model's choice (log entry 21). -/
def Obligations.HbmMovesComplete : Prop :=
  ∀ (st : Site) (s : State) (j : Job) (g : Nat), s.toChip.atSite st = some (j, g) → st.onSeq = true →
    (∀ (op : HbmMove) (p : Path) (i : Image) (e : Slot), op.legal false = true → p.fetchBad = false → 0 < op.length.toNat →
      s.toChip.fitsRegion st op.addr.toNat (hbmBytes op) = true → s.toChip.moves j = true → s.toChip.imageOf j = some i →
      s.toChip.slotOf j i.memSlots op.slotRef.toNat st.region.val false = some e → 0 < e.bytes →
      let dst := s.toChip.regionAt j g op.addr.toNat
      Completes (.stgH2r st op p) s (fun t =>
        holdsAt t.mem.rstg dst (readWindow s.mem.hbm j.body.windowBase.toNat (s.toChip.moveOffset j st.region.val op.hbm) (hbmBytes op))
        ∧ sameOutside s.mem.rstg t.mem.rstg dst (hbmBytes op) ∧ t.mem = { s.mem with rstg := t.mem.rstg }))
    ∧ (∀ (op : HbmMove) (p : Path) (i : Image) (e : Slot), op.legal true = true → p.fetchBad = false → 0 < op.length.toNat →
      s.toChip.fitsRegion st op.addr.toNat (hbmBytes op) = true → s.toChip.moves j = true → s.toChip.imageOf j = some i →
      s.toChip.slotOf j i.memSlots op.slotRef.toNat st.region.val true = some e → 0 < e.bytes →
      let src := s.toChip.regionAt j g op.addr.toNat
      let o := s.toChip.moveOffset j st.region.val op.hbm
      Completes (.stgR2h st op p) s (fun t =>
        (∀ k, k < hbmBytes op →
          getByte t.mem.hbm (windowAddr j.body.windowBase.toNat (o + k)) = getByte s.mem.rstg (src + k))
        ∧ (∀ a, (∀ k, k < hbmBytes op → a ≠ windowAddr j.body.windowBase.toNat (o + k)) → getByte t.mem.hbm a = getByte s.mem.hbm a)
        ∧ t.mem = { s.mem with hbm := t.mem.hbm }))
    ∧ (∀ (a : BitVec 32) (b : BitVec 16),
      Completes (.stgStride st a b .good) s (fun t =>
        (t.toChip.job? st.job).map (fun k => look ({} : Stride) k.strides st.region.val) = some { repStride := a, repMod := b }
        ∧ t.toChip = { s.toChip with jobs := t.jobs }))

/-- The copies complete where they are issued (R59, R70, R73): the bytes arrive as they stood in the source, where source and destination
do not overlap, and no byte outside the destination changes in any memory. The bytes moved are those that stand there when the word is
carried out, the model's choice (log entry 21). -/
def Obligations.StagingCopiesComplete : Prop :=
  ∀ (st : Site) (s : State) (j : Job) (g : Nat) (op : CopyMove) (p : Path), s.toChip.atSite st = some (j, g) →
    p.fetchBad = false → 0 < op.length.toNat → s.toChip.moves j = true →
    (∀ lc : Fin 32, st.core = some lc →
      let core := s.toChip.seat g lc.val
      let n := copyBytes op
      (op.legal 2 = true → s.toChip.fitsRegion st op.addrA.toNat n = true → inCore op.addrB.toNat n = true →
        Completes (.stgR2c st op p) s (fun t =>
          (∀ k, k < n → getByte t.mem.cstg (coreByte core op.addrB.toNat + k) = getByte s.mem.rstg (s.toChip.regionAt j g op.addrA.toNat + k))
          ∧ sameOutside s.mem.cstg t.mem.cstg (coreByte core op.addrB.toNat) n ∧ t.mem = { s.mem with cstg := t.mem.cstg }))
      ∧ (op.legal 3 = true → s.toChip.fitsRegion st op.addrA.toNat n = true → inCore op.addrB.toNat n = true →
        Completes (.stgC2r st op p) s (fun t =>
          (∀ k, k < n → getByte t.mem.rstg (s.toChip.regionAt j g op.addrA.toNat + k) = getByte s.mem.cstg (coreByte core op.addrB.toNat + k))
          ∧ sameOutside s.mem.rstg t.mem.rstg (s.toChip.regionAt j g op.addrA.toNat) n ∧ t.mem = { s.mem with rstg := t.mem.rstg }))
      ∧ (op.legal 4 = true → inCore op.addrA.toNat n = true → inCore op.addrB.toNat n = true →
        Completes (.stgC2c st op p) s (fun t =>
          ((op.addrA.toNat + op.length.toNat ≤ op.addrB.toNat ∨ op.addrB.toNat + op.length.toNat ≤ op.addrA.toNat) →
            ∀ k, k < n → getByte t.mem.cstg (coreByte core op.addrA.toNat + k) = getByte s.mem.cstg (coreByte core op.addrB.toNat + k))
          ∧ sameOutside s.mem.cstg t.mem.cstg (coreByte core op.addrA.toNat) n ∧ t.mem = { s.mem with cstg := t.mem.cstg })))
    ∧ (st.onSeq = true → op.legal 5 = true →
      let n := copyBytes op
      s.toChip.fitsRegion st op.addrA.toNat n = true → s.toChip.fitsRegion st op.addrB.toNat n = true →
        Completes (.stgR2r st op p) s (fun t =>
          ((op.addrA.toNat + op.length.toNat ≤ op.addrB.toNat ∨ op.addrB.toNat + op.length.toNat ≤ op.addrA.toNat) →
            ∀ k, k < n → getByte t.mem.rstg (s.toChip.regionAt j g op.addrA.toNat + k)
              = getByte s.mem.rstg (s.toChip.regionAt j g op.addrB.toNat + k))
          ∧ sameOutside s.mem.rstg t.mem.rstg (s.toChip.regionAt j g op.addrA.toNat) n ∧ t.mem = { s.mem with rstg := t.mem.rstg }))

/-- The exchanges complete (R79, R80, R188, R193): without add the bytes of the source core's staging arrive at the destination core's,
where the ranges do not overlap; with add, one record becomes the clamped sum of itself and the record that arrives. No other byte of any
memory changes. The bytes moved are those that stand there when the word is carried out, the model's choice (log entry 21). -/
def Obligations.ExchangesComplete : Prop :=
  ∀ (st : Site) (s : State) (j : Job) (g h : Nat) (lc : Fin 32) (op : XchOp) (p : Path), s.toChip.atSite st = some (j, g) →
    st.core = some lc → p.fetchBad = false → 0 < op.length.toNat → s.toChip.moves j = true → xchFits op = true →
    let src := coreByte (s.toChip.seat g lc.val) op.src.toNat
    let dst := coreByte (s.toChip.seat h op.dstCore.val) op.dst.toNat
    let n := xchBytes op
    let after (t : State) : Prop :=
      (op.add = false → (src + n ≤ dst ∨ dst + n ≤ src) → ∀ k, k < n → getByte t.mem.cstg (dst + k) = getByte s.mem.cstg (src + k))
      ∧ (op.add = true → op.length = 1 →
          readLE t.mem.cstg dst 16 = (clampRecord (sext 128 (readLE s.mem.cstg src 16) + sext 128 (readLE s.mem.cstg dst 16))).1)
      ∧ sameOutside s.mem.cstg t.mem.cstg dst n ∧ t.mem = { s.mem with cstg := t.mem.cstg }
    (op.dstRegion = st.region → h = g → Completes (.xchCore st op p) s after)
    ∧ (op.dstRegion ≠ st.region → j.phys op.dstRegion.val = some h → Completes (.xchRegion st op p) s after)

/-! ## The vector engine -/

/-- Every VEC operation of R75 (ADD, MUL, FMA, MAX, MIN, CVT, QUANT, DEQ, REQ, DATUM, UNDATUM, RADD, RROW, EXP2, LOG2, RCP, RSQRT, ACT,
SOFTMAX, NORM, RMAX) completes in a legal form whose ranges lie in core staging, at a site whose job runs, its accumulator source ready
and its draws seeded where it has them: core staging becomes what the operation makes of it, its counts go to the core's counters, and no
other memory changes. SEED gives the stream of a core its base and tensor for the draws that follow (R78). -/
def Obligations.VecOperationsComplete : Prop :=
  (∀ (st : Site) (base : BitVec 48) (tensor : BitVec 16) (s : State) (j : Job) (g : Nat) (lc : Fin 32),
    s.toChip.atSite st = some (j, g) → st.core = some lc →
    Completes (.vecSeed st base tensor .good) s (fun t =>
      (t.toChip.core (s.toChip.seat g lc.val)).seed = some (base, tensor) ∧ t.toChip = { s.toChip with cores := t.cores }))
  ∧ ∀ (o : Nat) (i : Site → VecOp → Path → Instr) (st : Site) (op : VecOp) (p : Path) (s : State) (j : Job) (g : Nat) (lc : Fin 32),
    let core := s.toChip.seat g lc.val
    vecInstr o = some i → s.toChip.atSite st = some (j, g) → st.core = some lc → op.legal o = true → vecInRange o op = true →
    p.fetchBad = false → (usesTables o op && p.tableBad) = false → (op.sr = true → (s.toChip.core core).seed.isSome = true) →
    s.toChip.accReady (s.toChip.accPeri g lc.val op.srcA) op.srcA = true →
    Completes (i st op p) s (fun t =>
      let r := vecEffect (s.toChip.vecCtx j g lc.val op) o (usedLength o op p) s.mem.cstg
      t.mem = { s.mem with cstg := r.1 } ∧ t.accs = s.accs
      ∧ (t.toChip.core core).vecInvalid = satAdd (s.toChip.core core).vecInvalid r.2.cnt.inv
      ∧ (t.toChip.core core).vecOverflow = satAdd (s.toChip.core core).vecOverflow r.2.cnt.ovf)

/-- What an element operation leaves in core staging (R76, R193, R223 to R230): each destination element is the operation's value of the
source elements at its index as they stood at the issue, wherever no destination element lies over a later source element. Whatever the
operation, no byte of core staging changes outside the bytes it writes (R200). What SOFTMAX and NORM keep of their first pass, and what an
odd INT4 length leaves of its last byte, are the model's choices (log entries 20 and 39). -/
def Obligations.VecElementResults : Prop :=
  (∀ (o : Nat) (x : VecCtx) (f : Mem → Nat → Nat × Cnt) (len : Nat) (m : Mem), elemOf x o = some f → x.op.legal o = true →
      x.noHazard len → ∀ i, i < len →
        readElem (vecEffect x o len m).1 (coreByte x.core x.op.dst.toNat) x.op.fmtOut i = (f m i).1 % 2 ^ fmtBits x.op.fmtOut)
  ∧ (∀ (o : Nat) (x : VecCtx) (m : Mem), x.op.legal o = true →
      sameOutside m (vecEffect x o x.op.length.toNat m).1 (coreByte x.core x.op.dst.toNat) (vecDstBytes o x.op))

/-! ## Strokes, commits, re-rows -/

/-- The stroke boundary of a region whose tick runs and that no job holds, with no fill miss and no remedy waiting (R19, R134, R148): its
stroke count advances by one, the optical items of the stroke are taken over and those of later strokes come nearer, a sleep that no WAKE
followed takes effect. The chip stroke count advances by one
and every region's event FIFO gives up 16 records (R358). Without the master clock the chip stroke count stands still. -/
def Obligations.StrokesAdvance : Prop :=
  (∀ (g : Fin 16) (s : State),
    let r := s.toChip.region g.val
    s.clk.masterLock = true → r.power ≠ 0 → (∀ j ∈ s.jobs, j.inRegion g.val = false) → s.saf.remedies = [] →
    Completes (.strokeBoundary g [] []) s (fun t =>
      (t.toChip.region g.val).stroke = r.stroke + 1 ∧ (t.toChip.region g.val).optLast = BitVec.ofNat 8 (min 33 r.optCount)
      ∧ (t.toChip.region g.val).optDue
          = (r.optDue.filter (fun d => decide (4096 ≤ d.tick))).map (fun d => { d with tick := d.tick - 4096 })
      ∧ (r.sleepAtEnd = true → r.rewake = none → (t.toChip.region g.val).power = 0) ∧ t.mem = s.mem
      ∧ (∀ h : Fin 16, h ≠ g → (t.toChip.region h.val).stroke = (s.toChip.region h.val).stroke)))
  ∧ (∀ s : State, s.clk.masterLock = true →
    Completes .chipStroke s (fun t =>
      t.clk.chipStroke = s.clk.chipStroke + 1
      ∧ (keysRise 0 s.regions = true → ∀ g, (t.toChip.region g).fifo = (s.toChip.region g).fifo - 16)
      ∧ t.toChip = { s.toChip with clk := t.clk, regions := t.regions }))
  ∧ (∀ s : State, s.clk.masterLock = false → exec .chipStroke s = .next s)

/-- A due piece commits (R28, R107, R318): where pieces remain the job goes on with one more piece committed and its re-row count at zero;
after the last the job is gone. -/
def Obligations.PieceCommits : Prop :=
  ∀ (id : JobId) (s : State) (j : Job) (i : Image), s.toChip.job? id = some j → s.toChip.imageOf j = some i →
    s.toChip.commitDue j i = true →
    Completes (.pieceCommit id) s (fun t =>
      (j.committed + 1 < i.pieces → (t.toChip.job? id).map (fun k => (k.committed, k.rerowCount, k.st)) = some (j.committed + 1, 0, j.st))
      ∧ (i.pieces ≤ j.committed + 1 → t.toChip.job? id = none)
      ∧ t.mem = s.mem)

/-- A re-row (R32, R33): a called job that is no fleet job, with no lost data and fewer than eight re-rows from its oldest uncommitted
piece, restarts from that piece's first stroke, the piece's re-rows and the job's counted, where no remedy waits; with eight it is gone.
CORE_COPY_HOLD_END lets a job whose three strokes are over issue again (R367). -/
def Obligations.RerowRestartsThePiece : Prop :=
  (∀ (id : JobId) (s : State) (j : Job), s.toChip.job? id = some j → j.fleet = false → j.rerow = true → j.abortReq = none →
    j.st = .running → j.lostWord = false → j.rerowCount < 8 → s.saf.remedies = [] →
    Completes (.rerow id) s (fun t =>
      (t.toChip.job? id).map (fun k => (k.stroke, k.rerow, k.rerowCount, k.committed))
        = some (j.committed * (s.toChip.lengths j).1, false, j.rerowCount + 1, j.committed)
      ∧ t.sch.rerowTotal = satAdd s.sch.rerowTotal 1))
  ∧ (∀ (id : JobId) (s : State) (j : Job), s.toChip.job? id = some j → j.fleet = false → j.rerow = true → j.abortReq = none →
    j.st = .running → 8 ≤ j.rerowCount → s.saf.remedies = [] →
    Completes (.rerow id) s (fun t => t.toChip.job? id = none))
  ∧ (∀ (id : JobId) (s : State) (j : Job), s.toChip.job? id = some j → j.st = .held .coreCopy → j.coreHold = 0 →
    Completes (.coreCopyHoldEnd id) s (fun t =>
      t.toChip.job? id = some { j with st := .running } ∧ t.toChip = { s.toChip with jobs := t.jobs }))

/-! ## Jobs -/

/-- JOB_SUBMIT and JOB_RESUME (R43, R308, R309): a packet that is accepted and passes the checks of R308 leaves a new pending job with the
next order of acceptance, answered OK; a resumed job stands at the stroke and the first uncommitted piece of its record. That the record
is checked at the packet and again at admission is the model's choice (log entry 78). -/
def Obligations.SubmitQueuesTheJob : Prop :=
  ∀ (h : Hdr) (b : JobBody) (s : State) (i : Image), s.toChip.takes h → jobLengths h = true → s.toChip.serves = true →
    h.tag ≠ 0 → bodyClean b = true → (s.toChip.accept h).submitChecks h.queue.toNat b i = statusOk →
    (s.toChip.job? (Hdr.jobId h) = none → (s.toChip.accept h).tagUsed (Hdr.jobId h) = false → (s.toChip.accept h).image? b.imageId = some i →
      Completes (.jobSubmit h b) s (fun t =>
        (t.toChip.job? (Hdr.jobId h)).map (fun k => (k.st, k.body, k.order, k.image)) = some (.pending, b, s.nextOrder, i.id)
        ∧ t.nextOrder = s.nextOrder + 1 ∧ t.toChip.receipted h statusOk ∧ t.mem = s.mem))
    ∧ (∀ r, s.toChip.job? (Hdr.jobId h) = none → (s.toChip.accept h).tagUsed (Hdr.jobId h) = false →
      (s.toChip.accept h).recordImage ((s.toChip.accept h).readRecord b.saveArea.toNat) = (statusOk, some (i, r)) →
      Completes (.jobResume h b) s (fun t =>
        (t.toChip.job? (Hdr.jobId h)).map (fun k => (k.st, k.isResume, k.stroke, k.committed))
          = some (.pending, true, leAt r 0x40 8 % 2 ^ 48, leAt r 0x40 8 % 2 ^ 48 / max 1 i.L)
        ∧ t.toChip.receipted h statusOk ∧ t.mem = s.mem))

/-- The packets about a live job that is no fleet job (R41, R309): PAUSE sets the pause at the next piece boundary, where that is before
the job's end; ABORT asks for the end at the next stroke boundary; PRESSURE_CHANGE keeps the request for a piece boundary at least 2
strokes on. Each is answered OK. An ABORT of a job that has not started, or is paused, ends it at once, answered OK. That the two strokes
of a pressure change are whole strokes of the lowest region is the model's choice (log entry 77). -/
def Obligations.JobPacketsComplete : Prop :=
  (∀ (h : Hdr) (b : JobBody) (s : State) (j : Job) (i : Image),
      let c := s.toChip.accept h
      s.toChip.takes h → jobLengths h = true → s.toChip.serves = true → bodyClean b = true → c.job? (Hdr.jobId h) = some j →
      c.imageOf j = some i → j.live = true → j.fleet = false →
      (j.pause = none → j.st ≠ .draining → c.nextPiece j < i.strokes → b.saveArea.toNat + recordSize i ≤ dataSpace →
        ((c.imageRanges ++ c.jobRanges (fun k => decide (k.id ≠ j.id)) ++ [windowRange j.body i]).any
          (meets (b.saveArea.toNat, recordSize i))) = false →
        Completes (.jobPause h b) s (fun t =>
          t.toChip.job? (Hdr.jobId h) = some { j with pause := some { boundary := c.nextPiece j, reason := 0, area := b.saveArea } }
          ∧ t.toChip.receipted h statusOk))
      ∧ (j.abortReq = none →
        Completes (.jobAbort h b) s (fun t =>
          t.toChip.job? (Hdr.jobId h) = some { j with abortReq := some (statusOk, 2) } ∧ t.toChip.receipted h statusOk))
      ∧ ((b.pressure.toNat = 255 ∨ (b.pressure.toNat ≤ 2 ∧ c.allows i b.pressure.toNat = true)) →
        Completes (.pressureChangeRequest h b) s (fun t =>
          t.toChip.job? (Hdr.jobId h)
            = some { j with modeReq := some (codeMode b.pressure.toNat, (s.toChip.region j.lowRegion).stroke.toNat + 3) }
          ∧ t.toChip.receipted h statusOk)))
  ∧ (∀ (h : Hdr) (b : JobBody) (s : State) (j : Job), s.toChip.takes h → jobLengths h = true → s.toChip.serves = true →
      bodyClean b = true → (s.toChip.accept h).job? (Hdr.jobId h) = some j → j.live = false →
      Completes (.jobAbort h b) s (fun t => t.toChip.job? (Hdr.jobId h) = none ∧ t.toChip.receipted h statusOk))

/-- Admission and start (R36, R38, R305, R306, R332): a pending head that can start on free units, that nothing refuses, is admitted to
the regions of its placement that its phases name (R40) in the granted mode; an admitted job that is no fleet job starts, its regions awake. That only the first pending job of its
order is considered is the model's choice (log entry 75). -/
def Obligations.AdmitAndStart : Prop :=
  (∀ (id : JobId) (s : State) (j : Job) (i : Image) (mode : Mode),
    let c := s.toChip
    c.job? id = some j → c.imageOf j = some i → c.admits = true → j.st = .pending → c.tooLate j = false → c.canStart j = true →
    c.admitStatus j i (c.placement j i) = (statusOk, 0) → c.grantMode j i (c.placement j i) = some mode → j.isResume = false →
    let after (t : State) : Prop :=
      (t.toChip.job? id).map (fun k => (k.st, k.map, k.mode)) = some (.admitted, i.holding (c.placement j i), mode) ∧ t.mem = s.mem
    (0 < j.cls → (c.jobs.any (fun k => decide (0 < k.cls) && decide (k.cls < j.cls ∨ (k.cls = j.cls ∧ k.order < j.order)) && c.canStart k)) = false →
      Completes (.jobAdmit id) s after)
    ∧ (j.cls = 0 → Completes (.class0Admit id) s after))
  ∧ (∀ (id : JobId) (s : State) (j : Job) (i : Image), s.toChip.job? id = some j → s.toChip.imageOf j = some i → j.st = .admitted →
    j.fleet = false →
    Completes (.jobStart id) s (fun t =>
      (t.toChip.job? id).map (fun k => (k.st, k.stroke, k.map)) = some (.running, j.stroke, j.map)
      ∧ (∀ p ∈ j.map, (t.toChip.region p.2).power = 2) ∧ t.mem = s.mem))

/-- The end of a drain saves the job (R41, R42): its record is in the data space at the save area, the job is paused with no region. A
deadline that the input alone misses pauses the job at the end of the piece before it (R317). That the record holds every tile of the
image's cores is the model's choice (log entry 82). -/
def Obligations.PausesComplete : Prop :=
  (∀ (id : JobId) (s : State) (j : Job) (i : Image) (p : PauseReq), s.toChip.job? id = some j → s.toChip.imageOf j = some i →
    j.pause = some p → j.st = .draining → j.rerow = false → j.abortReq = none → p.boundary ≤ j.committed * max 1 i.L →
    Completes (.pauseDrainEnd id) s (fun t =>
      (t.toChip.job? id).map (fun k => (k.st, k.map, k.stroke, k.pause)) = some (.paused, [], p.boundary, none)
      ∧ (∀ n b, (s.toChip.saveRecord j i p.boundary)[n]? = some b → getByte t.mem.hbm (windowAddr 0 (p.area.toNat + n)) = b)))
  ∧ (∀ (id : JobId) (s : State) (j : Job) (i : Image),
    let at_ := j.stroke + s.toChip.jobDeltaF j + 1
    let m := at_ / max 1 i.L
    s.toChip.job? id = some j → s.toChip.imageOf j = some i → j.st = .running → j.rerow = false → j.pause = none → j.fleetPause = none →
    j.fleet = false → at_ % max 1 i.L = 0 → m < i.pieces → at_ < i.strokes → j.pIn < i.streamAt false (m + 1) →
    i.streamAt true (m + 1) ≤ j.aOut + j.body.outBytes.toNat →
    Completes (.deadlineCheck id) s (fun t =>
      t.toChip.job? id = some { j with pause := some { boundary := at_, reason := 1, area := j.body.saveArea } }
      ∧ t.host.pausesIn = satAdd s.host.pausesIn 1 ∧ t.host.pausesOut = s.host.pausesOut ∧ t.mem = s.mem))

/-- A granted pressure change (R16, R17, R24, R26): at a piece boundary from which the request applies, a mode that can be granted becomes
the job's and every one of its regions', and the request is used up. From when a request applies is counted in strokes of the lowest
region, the model's choice (log entry 77). -/
def Obligations.PressureChangeApplies : Prop :=
  ∀ (id : JobId) (s : State) (j : Job) (i : Image) (m : Mode) (from_ : Nat), s.toChip.job? id = some j → s.toChip.imageOf j = some i →
    j.modeReq = some (some m, from_) → s.toChip.atPiece j = true → j.lastRerow ≠ some j.stroke →
    from_ ≤ (s.toChip.region j.lowRegion).stroke.toNat → j.st = .running → m ≠ j.mode → s.toChip.grants j i (modeCode m) = true →
    Completes (.pressureChangeApply id) s (fun t =>
      (t.toChip.job? id).map (fun k => (k.mode, k.modeReq)) = some (m, none)
      ∧ (∀ p ∈ j.map, (t.toChip.region p.2).mode = BitVec.ofNat 2 (modeCode m)) ∧ t.mem = s.mem)

/-- The zeroing of a region's staging that is under way is over (R246, R332): with both parts under way every byte of its region staging and
of its cores' staging reads 0, and no byte of another region changes. -/
def Obligations.ZeroingClearsTheStaging : Prop :=
  ∀ (g : Fin 16) (s : State), (s.toChip.region g.val).zeroing = 3 →
    Completes (.regionZeroDone g) s (fun t =>
      (t.toChip.region g.val).zeroing = 0
      ∧ (∀ a, a < 2 ^ 24 → getByte t.mem.rstg (g.val * 2 ^ 24 + a) = 0)
      ∧ (∀ k, k < 34 → ∀ a, a < 2 ^ 20 → getByte t.mem.cstg ((g.val * 34 + k) * 2 ^ 20 + a) = 0)
      ∧ sameOutside s.mem.rstg t.mem.rstg (g.val * 2 ^ 24) (2 ^ 24)
      ∧ sameOutside s.mem.cstg t.mem.cstg (g.val * 34 * 2 ^ 20) (34 * 2 ^ 20)
      ∧ t.mem = { s.mem with rstg := t.mem.rstg, cstg := t.mem.cstg })

/-! ## Loading -/

/-- The load packets (R46, R47, R310, R311): a first segment that may open a load stores its bytes at the image offset of the data space
and begins the load, answered OK while the image is not complete; LOAD_UNLOAD drops an image that no held or paused job uses;
IMAGE_REPLACE puts the new copy in the place of the old. What a first segment does to an open load and which jobs use an image are the
model's choices (log entries 13 and 15). -/
def Obligations.LoadPacketsComplete : Prop :=
  (∀ (h : Hdr) (segLen : Nat) (base : BitVec 64) (data : List Byte) (s : State),
    let c := s.toChip.accept h
    let len := leAt (data.take segLen) 8 8
    s.toChip.takes h → s.toChip.serves = true → 24 + segLen ≤ h.length → 16 ≤ segLen → segLen ≤ 8192 → segLen % 16 = 0 →
    data.length = segLen → c.mayOpen h.queue base.toNat len = true → segLen < len →
    Completes (.loadSegment h 0 segLen base 0 data) s (fun t =>
      (∀ n b, data[n]? = some b → getByte t.mem.hbm (windowAddr 0 (base.toNat + n)) = b)
      ∧ (∃ l ∈ t.sch.loads, l.queue = h.queue ∧ l.base = base.toNat ∧ l.length = len ∧ l.got = segLen ∧ l.complete = false)
      ∧ t.toChip.receipted h statusOk ∧ t.mem = { s.mem with hbm := t.mem.hbm }))
  ∧ (∀ (h : Hdr) (id : BitVec 256) (s : State) (i : Image), s.toChip.takes h → s.toChip.serves = true → 56 ≤ h.length →
    s.toChip.image? id = some i → (∀ j ∈ (s.toChip.accept h).jobs, j.image = id → j.holds = false ∧ j.st ≠ .paused) →
    Completes (.loadUnload h 0 32 0 id) s (fun t =>
      t.toChip.image? id = none ∧ t.toChip.receipted h statusOk ∧ t.mem = s.mem ∧ t.jobs = (s.toChip.accept h).jobs))
  ∧ (∀ (id : BitVec 256) (s : State) (i k : Image), s.sch.replacing.find? (fun i => i.id == id) = some i → s.toChip.image? id = some k →
    Completes (.imageReplace id) s (fun t =>
      t.toChip.image? id = some i ∧ (∀ n ∈ t.sch.replacing, n.id ≠ id)
      ∧ (∀ j ∈ t.jobs, j.image = id → j.st ≠ .held .image)
      ∧ t.toChip = { s.toChip with sch := t.sch, jobs := t.jobs }))

/-- The check of a complete load (R46, R49, R311): an image that the checker passes and the device does not hold yet joins the images, and
LOAD_DONE is OK; one that fails is held nowhere, and LOAD_DONE and the SCH_LOAD registers carry the first failure. An image that cannot be
read without an uncorrectable codeword fails with IMAGE_DIGEST (R252), which counts at its stack; without a complete load of its queue the
command changes nothing. Which identifier LOAD_DONE carries, and the entry that some failures name, are the model's choices (log entries 14
and 16). -/
def Obligations.CheckDecidesTheLoad : Prop :=
  (∀ (q : BitVec 15) (readBad : Bool) (s : State), s.sch.loads.find? (fun l => l.queue == q && l.complete) = none →
    exec (.checkComplete q readBad) s = .next s)
  ∧ (∀ (q : BitVec 15) (s : State) (l : Load),
    let bytes := readWindow s.mem.hbm 0 l.base l.length
    s.sch.loads.find? (fun l => l.queue == q && l.complete) = some l →
    Completes (.checkComplete q true) s (fun t =>
      t.mem = s.mem ∧ t.sch.images = s.sch.images ∧ t.sch.replacing = s.sch.replacing
      ∧ t.sch.lastStatus = BitVec.ofNat 8 statusDigest ∧ t.sch.lastEntry = 0x10
      ∧ t.toChip.reports l.queue l.tag (.loadDone (BitVec.ofNat 8 statusDigest) 0 l.ref (BitVec.ofNat 256 (leAt bytes 0x10 32)) 0x10 0)
      ∧ (∃ k, k < 8 ∧ (t.toChip.stack k).uncorr = satAdd (s.toChip.stack k).uncorr 1)))
  ∧ ∀ (q : BitVec 15) (s : State) (l : Load),
    let bytes := readWindow s.mem.hbm 0 l.base l.length
    let verdict := (s.toChip.dropLoad l).verify bytes
    s.sch.loads.find? (fun l => l.queue == q && l.complete) = some l →
    Completes (.checkComplete q false) s (fun t =>
      t.mem = s.mem
      ∧ (verdict = none → (s.toChip.image? (readImage bytes l.base).id) = none → l.replaceOnly = false → s.sch.images.length < 64 →
          t.sch.images = s.sch.images ++ [readImage bytes l.base] ∧ t.sch.lastStatus = BitVec.ofNat 8 statusOk
          ∧ t.toChip.reports l.queue l.tag
              (.loadDone (BitVec.ofNat 8 statusOk) 0 l.ref (BitVec.ofNat 256 (leAt bytes 0x10 32)) 0 0))
      ∧ (∀ f, verdict = some f →
          t.sch.images = s.sch.images ∧ t.sch.replacing = s.sch.replacing ∧ t.sch.lastStatus = BitVec.ofNat 8 f.status
          ∧ t.sch.lastSub = BitVec.ofNat 8 f.sub ∧ t.sch.lastEntry = BitVec.ofNat 32 f.entry))

/-! ## Registers -/

/-- A written RW field reads back as written, and a register's other fields as 0 (R9, R398): for every chip-level register whose fields
are plain. A W1C bit written 1 clears and one written 0 stays (R407). An access whose word the register fabric finds uncorrectable is not
performed (R252): no register takes the value, and an event is logged. The code of that event is the model's choice (log entry 142). -/
def Obligations.RegisterWritesComplete : Prop :=
  (∀ (v : Word) (f : Fabric) (s : State), f.bad = none →
    Completes (.registerWrite 0x40 v f) s (fun t =>
      t.log.newChip = s.log.newChip &&& ~~~v ∧ t.toChip = { s.toChip with log := t.log, hbmStacks := t.hbmStacks })
    ∧ Completes (.registerWrite 0x44 v f) s (fun t =>
      t.log.newRgn = s.log.newRgn &&& ~~~v ∧ t.toChip = { s.toChip with log := t.log, hbmStacks := t.hbmStacks }))
  ∧ (∀ (r : BitVec 32 × Word) (v : Word) (f : Fabric) (s : State), r ∈ plainRegisters → f.bad = none →
    Completes (.registerWrite r.1 v f) s (fun t =>
      t.toChip.regValue r.1.toNat = v &&& r.2 ∧ (t.toChip.stack 0).corrected = satAdd (s.toChip.stack 0).corrected f.corrected
      ∧ t.mem = s.mem ∧ t.jobs = s.jobs ∧ t.log = s.log))
  ∧ ∀ (a : BitVec 32) (v : Word) (f : Fabric) (s : State), f.bad = some 0 →
    Completes (.registerWrite a v f) s (fun t =>
      (look ({} : Ring) t.log.rings (srcStack 0)).next = (look ({} : Ring) s.log.rings (srcStack 0)).next + 1
      ∧ t.toChip = { s.toChip with freeCtr := t.freeCtr, log := t.log, saf := t.saf, hbmStacks := t.hbmStacks })

/-- Reads that change state (R9, R401, R403, R345): a read of a region's RC peak clears it, one of LNK_BUFFER begins a new peak and a new
smallest lead; a read of a low half latches the high half; a read of MON_QUEUE_HI removes the head entry. A read whose word the register
fabric finds uncorrectable is not performed (R252). That the smallest lead returns to 0xFFFF, and the code of that event, are the model's
choices (log entries 101 and 142). -/
def Obligations.ReadsWithEffects : Prop :=
  (∀ (f : Fabric), f.bad = none →
    (∀ (g : Fin 16) (s : State),
      Completes (.rcFieldRead (BitVec.ofNat 32 (0x1000000 + g.val * 0x100000 + 0x200)) f) s (fun t =>
        (t.toChip.region g.val).optPeak = 0 ∧ t.toChip = { s.toChip with regions := t.regions, hbmStacks := t.hbmStacks }))
    ∧ (∀ (p : Fin 16) (s : State),
      Completes (.rcFieldRead (BitVec.ofNat 32 (0x100000 + p.val * 0x10000 + 0x20)) f) s (fun t =>
        (t.toChip.port p.val).peak = 0 ∧ (t.toChip.port p.val).minLead = 0xFFFF
        ∧ t.toChip = { s.toChip with ports := t.ports, hbmStacks := t.hbmStacks }))
    ∧ (∀ s : State,
      Completes (.latchedLowRead 0x10300 f) s (fun t =>
        t.clk.logLatch = (s.toChip.logTime >>> 32).setWidth 32 ∧ t.toChip = { s.toChip with clk := t.clk, hbmStacks := t.hbmStacks })
      ∧ Completes (.latchedLowRead 0x30104 f) s (fun t =>
        t.clk.fleetLatch = (s.clk.fleetStroke >>> 32).setWidth 16 ∧ t.toChip = { s.toChip with clk := t.clk, hbmStacks := t.hbmStacks })))
  ∧ (∀ (f : Fabric) (a : BitVec 32) (s : State), f.bad = some 0 →
    let lost (t : State) : Prop :=
      (look ({} : Ring) t.log.rings (srcStack 0)).next = (look ({} : Ring) s.log.rings (srcStack 0)).next + 1
      ∧ t.toChip = { s.toChip with freeCtr := t.freeCtr, log := t.log, saf := t.saf, hbmStacks := t.hbmStacks }
    Completes (.rcFieldRead a f) s lost ∧ Completes (.latchedLowRead a f) s lost)
  ∧ (∀ s : State, Completes .monQueuePop s (fun t => t.lvl.queue = s.lvl.queue.drop 1 ∧ t.toChip = { s.toChip with lvl := t.lvl }))

/-- REG packets (R312, R399): a READ that is accepted, of an aligned address that the access level leaves open, is answered with the values
read, for one register its value; a WRITE of a plain register is performed and is answered with no value. A run ends before the first access
whose word the register fabric finds uncorrectable (R252): REG_DATA counts the accesses performed, the model's choice (log entry 142). -/
def Obligations.RegisterPacketsComplete : Prop :=
  (∀ (h : Hdr) (a : BitVec 32) (n : Nat) (f : Fabric) (s : State),
    let c := ((s.toChip.accept h).fabric n f).1
    let m := match f.bad with | some k => min k n | none => n
    s.toChip.takes h → regLengths h a.toNat n 0 = true → (s.start.recovery = false ∨ h.queue = 0) → a.toNat % 4 = 0 →
    (s.toChip.accept h).closedRun a.toNat n = false →
    Completes (.regRead h 0 a n f) s (fun t =>
      t.toChip.reports h.queue h.tag (.regData 0 h.seq (BitVec.ofNat 16 m) a (c.readRegs a.toNat m).1)
      ∧ (m = 1 → (c.readRegs a.toNat m).1 = [c.regValue a.toNat]) ∧ t.mem = s.mem))
  ∧ (∀ (h : Hdr) (r : BitVec 32 × Word) (v : Word) (f : Fabric) (s : State), r ∈ plainRegisters →
    s.toChip.takes h → regLengths h r.1.toNat 1 4 = true → s.toChip.serves = true → (s.toChip.accept h).closedRun r.1.toNat 1 = false →
    (f.bad = none → Completes (.regWrite h 0 r.1 [v] f) s (fun t =>
      t.toChip.regValue r.1.toNat = v &&& r.2 ∧ t.toChip.reports h.queue h.tag (.regData 0 h.seq 1 r.1 []) ∧ t.mem = s.mem))
    ∧ (f.bad = some 0 → Completes (.regWrite h 0 r.1 [v] f) s (fun t =>
      t.toChip.regValue r.1.toNat = (s.toChip.accept h).regValue r.1.toNat
      ∧ t.toChip.reports h.queue h.tag (.regData 0 h.seq 0 r.1 []) ∧ t.mem = s.mem)))

/-! ## Bulk data, acks, frames of the host ports -/

/-- BULK packets (R252, R313, R316): an accepted write of a free range stores its bytes in the data space, a read answers with the bytes there;
an input stream write that fits the ring is taken into the stream's written ranges, and no memory but HBM changes. A read that meets an
uncorrectable codeword is answered with the bytes there outside it; the codeword's own bytes are open (log entry 142). -/
def Obligations.BulkPacketsComplete : Prop :=
  (∀ (h : Hdr) (len : Nat) (addr : BitVec 64) (data : List Byte) (code : HbmCode) (s : State),
    s.toChip.takes h → 16 + len ≤ h.length → (s.toChip.takesBulk h) = true → (s.toChip.accept h).bulkStatus addr.toNat len = statusOk →
    data.length = len →
    Completes (.bulkWriteData h 0 len addr data code) s (fun t =>
      (∀ n b, data[n]? = some b → getByte t.mem.hbm (windowAddr 0 (addr.toNat + n)) = b)
      ∧ (∀ x, (∀ n, n < len → x ≠ windowAddr 0 (addr.toNat + n)) → getByte t.mem.hbm x = getByte s.mem.hbm x)
      ∧ t.toChip.receipted h statusOk ∧ t.mem = { s.mem with hbm := t.mem.hbm }))
  ∧ (∀ (h : Hdr) (len : Nat) (addr : BitVec 64) (code : HbmCode) (s : State),
    s.toChip.takes h → 16 ≤ h.length → s.toChip.serves = true → (s.toChip.accept h).bulkStatus addr.toNat len = statusOk →
    (code.bad = none → Completes (.bulkReadData h 0 len addr code) s (fun t =>
      t.toChip.reports h.queue h.tag (.bulkData 0 h.seq addr (readWindow s.mem.hbm 0 addr.toNat len)) ∧ t.mem = s.mem))
    ∧ (∀ L, code.bad = some L → Completes (.bulkReadData h 0 len addr code) s (fun t =>
      (∃ bytes : List Byte, t.toChip.reports h.queue h.tag (.bulkData 0 h.seq addr bytes) ∧ bytes.length = len
        ∧ ∀ n, n < len → windowAddr 0 (addr.toNat + n) / 16 ≠ L / 16 → bytes[n]? = some (getByte s.mem.hbm (windowAddr 0 (addr.toNat + n))))
      ∧ t.mem = s.mem)))
  ∧ (∀ (h : Hdr) (len : Nat) (off : BitVec 64) (data : List Byte) (code : HbmCode) (s : State) (j : Job) (i : Image),
    let c := s.toChip.accept h
    s.toChip.takes h → 16 + len ≤ h.length → s.toChip.serves = true → bulkLength len = true → data.length = len →
    c.job? (Hdr.jobId h) = some j → c.imageOf j = some i → i.hostSlots.any (fun e => !e.out) = true →
    off.toNat + len ≤ i.streamAt false j.committed + j.body.inBytes.toNat →
    code.bad = none →
    Completes (.bulkWriteInputStream h 0 len off data code) s (fun t =>
      t.toChip.job? (Hdr.jobId h) = some (j.written off.toNat (off.toNat + len))
      ∧ t.toChip.receipted h statusOk ∧ t.mem = { s.mem with hbm := t.mem.hbm }))

/-- Acks and queue resets (R302, R303, R314, R323, R324): an ack of a retained packet moves the acknowledged point and releases the packets
before it; asked to, the device sends the rest again, unchanged and in order, output of a stream on the port it had and any other packet
to the port of the queue's latest accepted packet, with the VLAN tag and DSCP of its class (R297); while every priority of the ports is
paused nothing goes out. A reset of a queue with no job returns both its sequences to 0 and retains nothing;
with a job the queue stays and HST_QUEUE_CTRL says so. That a reset keeps withheld answers and open loads, and the port of a packet sent
again, are the model's choices (log entries 73 and 122). -/
def Obligations.AcksAndQueueResets : Prop :=
  (∀ (h : Hdr) (s : State),
    let k := s.toChip.queue h.queue.toNat
    precedes k.next h.ack = false → precedes h.ack k.acked = false → s.host.queues.all (fun q => q.2.withheld.isEmpty) = true →
    Completes (.hostAck h) s (fun t =>
      (t.toChip.queue h.queue.toNat).acked = h.ack
      ∧ (t.toChip.queue h.queue.toNat).retained = k.retained.filter (fun p => !(precedes p.seq h.ack))
      ∧ t.host.sent = s.host.sent ∧ t.mem = s.mem)
    ∧ Completes (.hostAckResend h) s (fun t =>
      (t.toChip.queue h.queue.toNat).acked = h.ack
      ∧ (s.host.port0.paused = 0 → s.host.port1.paused = 0 →
          t.host.sent = s.host.sent
            ++ (k.retained.filter (fun p => !(precedes p.seq h.ack))).map (fun p => s.toChip.dress (p.again k.port)))
      ∧ (s.host.port0.paused = 0xFF → s.host.port1.paused = 0xFF → t.host.sent = s.host.sent) ∧ t.mem = s.mem))
  ∧ (∀ s : State,
    let q := s.host.queueSel.toNat
    (s.toChip.queueBusy q = false → s.host.queues.all (fun k => k.2.withheld.isEmpty) = true →
      Completes .queueReset s (fun t =>
        (t.toChip.queue q).expected = 0 ∧ (t.toChip.queue q).next = 0 ∧ (t.toChip.queue q).retained = []
        ∧ t.host.queueCtrl = 1 ∧ t.toChip = { s.toChip with host := t.host }))
    ∧ (s.toChip.queueBusy q = true →
      Completes .queueReset s (fun t => t.host.queueCtrl = 2 ∧ t.host.queues = s.host.queues ∧ t.toChip = { s.toChip with host := t.host })))

/-- What the host ports do below the transport (R297, R298, R299, R301): malformed datagrams and discarded frames are counted on their own
port; ARP, Neighbor Discovery and echo are answered for the port's own address, and ARP for another is counted as foreign. The links of
the host ports and the log time (R297, R299, R323, R324): a link comes up at 800 Gbit/s where the configuration permits it, the port has
not fallen back and the far end runs it, else at 400; a module inserted clears a fall-back; a down port has no speed; a priority frame
pauses and releases the priorities it enables; a PTP message sets the log time's discipline, and the loss of the master ends it. That the
log time is 40 ns for each always-on cycle, plus the offset, is the model's choice (log entry 9). -/
def Obligations.HostPortsComplete : Prop :=
  (∀ (p : Fin 2) (s : State),
      let cfg := s.toChip.portCfg p.val
      Completes (.malformedDatagram p) s (fun t =>
        (t.toChip.hport p).malformed = satAdd (s.toChip.hport p).malformed 1 ∧ t.host.sent = s.host.sent
        ∧ t.toChip = { s.toChip with host := t.host })
      ∧ (∀ fec : Nat,
        Completes (.discardedFrame p false fec) s (fun t =>
          (t.toChip.hport p).foreign = satAdd (s.toChip.hport p).foreign 1 ∧ (t.toChip.hport p).fec = satAdd (s.toChip.hport p).fec fec
          ∧ t.toChip = { s.toChip with host := t.host })
        ∧ Completes (.discardedFrame p true fec) s (fun t =>
          (t.toChip.hport p).malformed = satAdd (s.toChip.hport p).malformed 1 ∧ (t.toChip.hport p).fec = satAdd (s.toChip.hport p).fec fec
          ∧ t.toChip = { s.toChip with host := t.host }))
      ∧ (∀ sender : BitVec 48,
        (cfg.flags.getLsbD 1 = true → Completes (.arpRequest p cfg.ipv4 sender) s (fun t =>
          t.host.replies = s.host.replies ++ [.arp p cfg.ipv4 cfg.mac sender] ∧ t.toChip = { s.toChip with host := t.host }))
        ∧ (cfg.flags.getLsbD 2 = true → Completes (.neighborSolicitation p cfg.ipv6 sender) s (fun t =>
          t.host.replies = s.host.replies ++ [.advert p cfg.ipv6 cfg.mac sender] ∧ t.toChip = { s.toChip with host := t.host }))
        ∧ (∀ target, target ≠ cfg.ipv4 → Completes (.arpRequest p target sender) s (fun t =>
          t.host.replies = s.host.replies ∧ (t.toChip.hport p).foreign = satAdd (s.toChip.hport p).foreign 1)))
      ∧ (∀ data : List Byte, cfg.flags.getLsbD 2 = true → Completes (.icmpEcho p true cfg.ipv6 data) s (fun t =>
          t.host.replies = s.host.replies ++ [.echo p true data] ∧ t.toChip = { s.toChip with host := t.host })))
  ∧ (∀ (p : Fin 2) (s : State),
      Completes (.moduleInserted p) s (fun t =>
        (t.toChip.hport p).present = true ∧ (t.toChip.hport p).fallback = false ∧ t.toChip = { s.toChip with host := t.host })
      ∧ ((s.toChip.hport p).present = true → (s.toChip.hport p).speed = 0 →
        Completes (.hostLinkFallback p) s (fun t => (t.toChip.hport p).fallback = true ∧ t.toChip = { s.toChip with host := t.host }))
      ∧ (∀ slow : Bool, Completes (.hostLinkUp p slow) s (fun t =>
        (t.toChip.hport p).speed = (if (s.toChip.portCfg p.val).flags.getLsbD 0 = true ∧ (s.toChip.hport p).fallback = false ∧ slow = false
          then 1 else 2) ∧ t.toChip = { s.toChip with host := t.host }))
      ∧ Completes (.hostLinkDown p) s (fun t =>
        (t.toChip.hport p).speed = 0 ∧ t.host.queues = s.host.queues ∧ t.toChip = { s.toChip with host := t.host })
      ∧ (∀ en ps : BitVec 8, (s.toChip.portCfg p.val).flags.getLsbD 4 = true → Completes (.pfcFrame p en ps) s (fun t =>
        (∀ n, (t.toChip.hport p).paused.getLsbD n
          = if en.getLsbD n then ps.getLsbD n else (s.toChip.hport p).paused.getLsbD n)
        ∧ t.toChip = { s.toChip with host := t.host }))
      ∧ (∀ ns : Int, s.cfg.features.getLsbD 2 = true → Completes (.ptpMessage p ns) s (fun t =>
        t.clk.ptpFollowing = true ∧ t.clk.ptpOffset = ns ∧ t.toChip.logTime = BitVec.ofNat 64 (trunc 63 ((s.clk.aon : Int) * 40 + ns))
        ∧ t.toChip = { s.toChip with clk := t.clk }))
      ∧ Completes .ptpMasterLost s (fun t =>
        t.clk.ptpFollowing = false ∧ t.toChip.logTime.getLsbD 63 = true ∧ t.toChip = { s.toChip with clk := t.clk }))

/-! ## Tiers, swaps, copies -/

/-- Tier commands that are not refused (R97, R99 to R103): TIER_PROGRAM takes the 16,384 bytes of its source as the tier's intended image
and begins to program it; its end with no failed cell makes the tier READY, or WORN at 10,000 cycles, with the cycle counted; TIER_ERASE
begins and ends as BLANK, its count as it was. A tier that a job names is neither programmed nor erased (R98, R101): result 4, and nothing
else. When the count and the ledger header move, and that a tier under erase shows PROGRAMMING, are the model's choices (log entries 51
and 52). -/
def Obligations.TierCommandsComplete : Prop :=
  ∀ (g : Fin 16) (k : Fin 34) (a : Fin 17) (tier : Fin 64) (s : State),
    let x := (g.val * 34 + k.val) * 17 + a.val
    let T := tierKey x tier.val
    (∀ int4 bad : Bool, s.toChip.progRefusal x tier false bad = none →
      Completes (.tierProgram g k a tier int4 bad) s (fun t =>
        (t.toChip.tier T).st = .programming ∧ (t.toChip.tier T).int4 = int4 ∧ (t.toChip.tier T).count = (s.toChip.tier T).count
        ∧ (t.toChip.arr x).prog = some { tier := tier, erase := false, int4 := int4 } ∧ (t.toChip.arr x).progResult = 1
        ∧ holdsAt t.mem.tiers (tierBase T) (readBytes s.mem.hbm (16384 * (s.toChip.arr x).progSrc.toNat) 16384)
        ∧ sameOutside s.mem.tiers t.mem.tiers (tierBase T) 16384
        ∧ t.mem = { s.mem with hbm := t.mem.hbm, tiers := t.mem.tiers, ledger := t.mem.ledger }))
    ∧ (∀ int4 : Bool, (s.toChip.arr x).prog = some { tier := tier, erase := false, int4 := int4 } →
      Completes (.tierProgramDone g k a []) s (fun t =>
        (t.toChip.tier T).st = (if 10000 ≤ (s.toChip.tier T).count.toNat + 1 then .worn else .ready)
        ∧ (t.toChip.tier T).count = (s.toChip.tier T).count + 1
        ∧ (t.toChip.arr x).prog = none ∧ (t.toChip.arr x).progResult = 0 ∧ (t.toChip.arr x).stuckAdded = 0
        ∧ t.mem = { s.mem with hbm := t.mem.hbm, ledger := t.mem.ledger }))
    ∧ (s.toChip.progRefusal x tier true false = none →
      Completes (.tierErase g k a tier) s (fun t =>
        (t.toChip.tier T).st = .programming ∧ (t.toChip.arr x).prog = some { tier := tier, erase := true, int4 := false }
        ∧ (t.toChip.arr x).progResult = 1 ∧ t.toChip = { s.toChip with tiers := t.tiers, arrays := t.arrays }))
    ∧ (∀ int4 : Bool, (s.toChip.arr x).prog = some { tier := tier, erase := true, int4 := int4 } →
      Completes (.tierEraseDone g k a) s (fun t =>
        (t.toChip.tier T).st = .blank ∧ (t.toChip.tier T).count = (s.toChip.tier T).count ∧ (t.toChip.arr x).prog = none
        ∧ (t.toChip.arr x).progResult = 0 ∧ t.toChip = { s.toChip with tiers := t.tiers, arrays := t.arrays, dev := t.dev }))
    ∧ ((s.toChip.arr x).prog = none → (s.toChip.arr x).copying = false → (s.toChip.arr x).plotCopy = false →
      s.toChip.coreProgramming (x / 17) < 4 → s.toChip.tierNamed T = true →
      let refused := { s with toChip := s.toChip.progAnswer x tier 4 }
      (∀ int4 bad : Bool, exec (.tierProgram g k a tier int4 bad) s = .next refused) ∧ exec (.tierErase g k a tier) s = .next refused)

/-- The swap commands (R105, R106): two live tiers of one format are staged with result 1, a staged swap is cancelled with result 6, a
region arms its staged swaps for a target on a piece boundary at least two strokes ahead, and a withdrawn arming is gone. A swap applies
at its target (R107): when the job's counter reaches it, the two tiers of every staged array of the region change places in the array's
map, the swap's result is 2, and no tier's cells or image change. The result after a withdrawal, and the job whose counter decides in a
shared region, are the model's choices (log entries 32 and 56). -/
def Obligations.SwapsComplete : Prop :=
  ((∀ (g : Fin 16) (k : Fin 34) (a : Fin 17) (tA tB : Fin 64) (s : State),
      let x := (g.val * 34 + k.val) * 17 + a.val
      let A := s.toChip.tier (tierKey x tA.val)
      let B := s.toChip.tier (tierKey x tB.val)
      (A.st.live = true → B.st.live = true → A.int4 = B.int4 → (s.toChip.arr x).staged = false → (s.toChip.arr x).copying = false →
        Completes (.swapStage g k a tA tB) s (fun t =>
          t.toChip.arr x = { s.toChip.arr x with
            staged := true, swapA := BitVec.ofNat 6 tA.val, swapB := BitVec.ofNat 6 tB.val, swapResult := 1 }
          ∧ t.toChip = { s.toChip with arrays := t.arrays }))
      ∧ ((s.toChip.arr x).staged = true →
        Completes (.swapCancel g k a) s (fun t =>
          t.toChip.arr x = { s.toChip.arr x with staged := false, swapResult := 6 } ∧ t.toChip = { s.toChip with arrays := t.arrays })))
    ∧ (∀ (g : Fin 16) (s : State),
      (∀ j, (∀ a ∈ s.toChip.stagedArrays g.val, (s.toChip.arr a).copying = false) → s.toChip.swapJob g.val = some j →
        (s.toChip.region g.val).swapAt.toNat % (s.toChip.lengths j).1 = 0 → j.stroke + 2 ≤ (s.toChip.region g.val).swapAt.toNat →
        Completes (.swapArm g) s (fun t =>
          t.toChip.region g.val = { s.toChip.region g.val with
            armed := true, swapResult := 1, swapTarget := (s.toChip.region g.val).swapAt.toNat }
          ∧ t.toChip = { s.toChip with regions := t.regions }))
      ∧ ((s.toChip.region g.val).armed = true →
        Completes (.swapWithdraw g) s (fun t =>
          (t.toChip.region g.val).armed = false ∧ t.toChip = { s.toChip with regions := t.regions }))))
  ∧ (∀ (g : Fin 16) (s : State) (j : Job),
      s.toChip.swapJob g.val = some j → j.live = true → (∀ w ∈ j.redo, w.boundary ≠ j.stroke) → keysRise 0 s.arrays = true →
      (s.toChip.region g.val).armed = true → (s.toChip.region g.val).swapTarget = j.stroke →
      Completes (.swapApply g) s (fun t =>
        (t.toChip.region g.val).armed = false ∧ (t.toChip.region g.val).swapResult = 2 ∧ t.mem = s.mem ∧ t.dev = s.dev
        ∧ (∀ a, a / 578 = g.val → (s.toChip.arr a).staged = true →
            (t.toChip.arr a).staged = false ∧ (t.toChip.arr a).swapResult = 2
            ∧ ∀ l : Fin 64,
                look l (t.toChip.arr a).map l.val
                  = (let now := look l (s.toChip.arr a).map l.val
                     if now = (s.toChip.arr a).swapA.toFin then (s.toChip.arr a).swapB.toFin
                     else if now = (s.toChip.arr a).swapB.toFin then (s.toChip.arr a).swapA.toFin else now))
        ∧ (∀ a, ¬ (a / 578 = g.val ∧ (s.toChip.arr a).staged = true) → t.toChip.arr a = s.toChip.arr a)))

/-- Copies and switches (R109, R110, R114, R369): a plot's copy whose ledger entries are good waits for its switch, which puts the spare
plot in its place and releases its stuck cells, whose entries failed cells of other plots that wait for them take (R102); a cell block's copy brings the image, state, format and count of every live tier and the
map, and its switch, in the core or to a spare core, puts the logical array on the new cell block, sensed by its own periphery. What a
copy does with ledger entries that moved is the model's choice (log entry 54). -/
def Obligations.CopiesAndSwitchesComplete : Prop :=
  (∀ (g : Fin 16) (k : Fin 34) (a : Fin 17) (s : State),
    let x := (g.val * 34 + k.val) * 17 + a.val
    let good := ∀ t ∈ s.toChip.liveTiers x, s.toChip.copyUp (tierKey x t.val) 0 = true ∧ s.toChip.copyGood (tierKey x t.val) 0 = true
    (∀ i : Fin 16, ((s.toChip.arr x).sub i.val).copying = true → ((s.toChip.arr x).sub i.val).copied = false →
      ((s.toChip.arr x).sub i.val).since.isSome = true → good →
      Completes (.plotCopyDone g k a i []) s (fun t =>
        (t.toChip.arr x).sub i.val = { (s.toChip.arr x).sub i.val with copied := true }
        ∧ t.toChip = { s.toChip with arrays := t.arrays, dev := t.dev }))
    ∧ (∀ i : Fin 16, ((s.toChip.arr x).sub i.val).copying = true → ((s.toChip.arr x).sub i.val).copied = true →
      s.toChip.atSeatBoundary g.val = true →
      Completes (.plotSubstitution g k a i) s (fun t =>
        let other (e : Stuck) : Bool := !(e.row.val / 16 == i.val && e.column / 16 == ((s.toChip.arr x).sub i.val).group.toNat)
        let kept := (s.toChip.arr x).stuck.filter other
        (t.toChip.arr x).sub i.val
          = { (s.toChip.arr x).sub i.val with active := true, copying := false, since := none, copied := false }
        ∧ (t.toChip.arr x).stuck = kept ++ ((s.toChip.arr x).waiting.filter other).take (64 - kept.length)
        ∧ t.mem = s.mem ∧ t.dev = s.dev ∧ t.jobs = s.jobs))
    ∧ (∀ q, (s.toChip.arr x).moveTo = some q → q ≠ x → (s.toChip.arr x).copying = true → (s.toChip.arr x).copied = false →
      (s.toChip.arr x).copyAt.isSome = true → good →
      Completes (.cellBlockCopyDone g k a []) s (fun t =>
        (t.toChip.arr x).copied = true ∧ (t.toChip.arr q).map = (s.toChip.arr x).map
        ∧ (∀ n ∈ s.toChip.liveTiers x,
            t.toChip.tier (tierKey q n.val) = s.toChip.tier (tierKey x n.val)
            ∧ holdsAt t.mem.tiers (tierBase (tierKey q n.val)) (readBytes s.mem.hbm (ledgerAddr (tierKey x n.val) 0) 16384))
        ∧ t.mem = { s.mem with tiers := t.mem.tiers } ∧ t.jobs = s.jobs))
    ∧ (∀ q lc la, (s.toChip.arr x).moveTo = some q → q ≠ x → q / 17 = x / 17 → (s.toChip.arr x).copied = true →
      s.toChip.atSeatBoundary g.val = true → s.toChip.logicalOf x = some (lc, la) →
      Completes (.cellBlockSubstitution g k a) s (fun t =>
        t.toChip.cellsOf g.val lc la = q ∧ t.toChip.periOf q = q ∧ (t.toChip.arr x).moveTo = none ∧ (t.toChip.arr x).retiredCells = true
        ∧ t.mem = s.mem ∧ t.jobs = s.jobs)))
  ∧ (∀ (g : Fin 16) (core : Fin 32) (array : Fin 16) (s : State) (q : Nat),
    let x := s.toChip.cellsOf g.val core.val array.val
    x / 578 = g.val → (s.toChip.arr x).moveTo = some q → q / 17 ≠ x / 17 → (s.toChip.arr x).copied = true →
    s.toChip.atSeatBoundary g.val = true → s.toChip.logicalOf x = some (core.val, array.val) →
    Completes (.spareCoreArrayMove g core array) s (fun t =>
      t.toChip.cellsOf g.val core.val array.val = q ∧ t.toChip.periOf q = q ∧ (t.toChip.arr x).moveTo = none
      ∧ t.mem = s.mem ∧ t.jobs = s.jobs))

/-- Plots waited for (R154): one that has not returned within 10 ms leaves its seat empty; one that returns is in service again on its
seat, and the jobs that waited for it, and wait for no other, run. Which jobs of a shared region wait is the model's choice (log entry
48). -/
def Obligations.PlotHoldsEnd : Prop :=
  ∀ (g : Fin 16) (o : Fin 136) (s : State) (since : Nat),
    let k := g.val * 136 + o.val
    (s.toChip.plot k).state = 3 → (s.toChip.plot k).seat ≠ 0xFF → (s.toChip.plot k).absentSince = some since →
    (since + msCycles 10 ≤ s.clk.aon →
      Completes (.plotHoldTimeout g o) s (fun t =>
        (t.toChip.plot k).seat = 0xFF ∧ (t.toChip.plot k).state = 3 ∧ (t.toChip.plot k).absentSince = none
        ∧ ∀ n, n ≠ k → t.toChip.plot n = s.toChip.plot n))
    ∧ Completes (.plotHoldReturn g o) s (fun t =>
        (t.toChip.plot k).state = 0 ∧ (t.toChip.plot k).seat = (s.toChip.plot k).seat ∧ (t.toChip.plot k).absentSince = none
        ∧ (∀ n, n ≠ k → t.toChip.plot n = s.toChip.plot n)
        ∧ (∀ j ∈ s.jobs, j.st = .held .absentPlots →
            (∀ p ∈ j.map, ∀ n, n < 136 →
              ¬ ((t.toChip.plot (p.2 * 136 + n)).state = 3 ∧ (t.toChip.plot (p.2 * 136 + n)).seat ≠ 0xFF)) →
            { j with st := .running } ∈ t.jobs)
        ∧ t.mem = s.mem)

/-! ## Surveys, the survey store, temperature -/

/-- When a unit falls due (R337, R339): the 1 ms test of a unit that is not due makes it due for drift, else for a temperature moved beyond the
threshold of the configuration, else for an age of 10 minutes, and leaves it alone otherwise. -/
def Obligations.SurveyTestsFallDue : Prop :=
  ∀ (u : SurveyUnit) (temp : BitVec 12) (drift : Bool) (s : State),
    let r := s.toChip.surveyNow u
    let drifts := drift || s.toChip.drifts u
    let moved := 10 * ((temp.toNat : Int) - r.temp.toNat).natAbs
    let due (cause : BitVec 2) := Completes (.surveyTest u temp drift) s (fun t =>
      t.toChip.surveyOf u = { r with due := true, cause := cause, dueAt := s.clk.aon }
      ∧ t.toChip = { s.toChip with arrays := t.arrays, plots := t.plots, lanes := t.lanes })
    s.toChip.surveyTested u = true → r.due = false → (s.toChip.unitSeated u && s.toChip.standInGone u) = false →
      (drifts = true → due 3)
      ∧ (drifts = false → 16 * s.cfg.surveyThreshold.toNat < moved → due 1)
      ∧ (drifts = false → moved ≤ 16 * s.cfg.surveyThreshold.toNat → r.time + tenMinutes ≤ s.clk.aon → due 2)
      ∧ (drifts = false → moved ≤ 16 * s.cfg.surveyThreshold.toNat → s.clk.aon < r.time + tenMinutes →
          exec (.surveyTest u temp drift) s = .next s)

/-- Surveys begin and end (R112, R153, R336): a unit with no seat whose turn it is is surveyed where it is; a seated periphery leaves its
seat to its core's spare periphery and, over, comes back to it; a plot surveyed well and healthy is free, its margin noted, no longer due.
That a unit with no seat is surveyed where it is, and the order of turns, are the model's choices (log entry 115). -/
def Obligations.SurveysComplete : Prop :=
  (∀ (u : SurveyUnit) (s : State), s.toChip.surveyTurn u = true → s.toChip.unitSeated u = false →
    Completes (.surveyStart u) s (fun t =>
      t.mon.running = s.mon.running ++ [u] ∧ (t.toChip.surveyOf u).active = true
      ∧ t.toChip = { s.toChip with arrays := t.arrays, plots := t.plots, lanes := t.lanes, mon := t.mon }))
  ∧ (∀ (g : Fin 16) (k : Fin 34) (a : Fin 17) (s : State) (home : Nat),
    let u := SurveyUnit.periphery g k a
    let x := (g.val * 34 + k.val) * 17 + a.val
    (∀ q, s.toChip.surveyTurn u = true → s.toChip.sensesOf x = some home → s.toChip.sparePeri x = some q →
      s.toChip.atSeatBoundary g.val = true →
      Completes (.surveyStart u) s (fun t =>
        t.toChip.periOf home = q ∧ (t.toChip.arr x).away = some home ∧ t.mon.running = s.mon.running ++ [u] ∧ t.mem = s.mem))
    ∧ (∀ r : SurveyResult, u ∈ s.mon.running → (s.toChip.arr x).away = some home → s.toChip.atSeatBoundary g.val = true →
      Completes (.surveyEnd u r) s (fun t =>
        t.toChip.periOf home = x ∧ (t.toChip.arr x).away = none ∧ u ∉ t.mon.running ∧ t.mem = s.mem)))
  ∧ (∀ (g : Fin 16) (o : Fin 136) (r : SurveyResult) (v : PlotSurvey) (s : State),
    let u := SurveyUnit.plot g o
    let k := g.val * 136 + o.val
    u ∈ s.mon.running → (s.toChip.plot k).state = 2 → r.ok = true → r.plots.head? = some v → 115 < v.margin.toNat →
    (s.toChip.plot k).flagCount < 2048 →
    Completes (.surveyEnd u r) s (fun t =>
      (t.toChip.plot k).state = 1 ∧ (t.toChip.plot k).margin = v.margin ∧ (t.toChip.plot k).cls = 0
      ∧ (t.toChip.plot k).survey.due = false ∧ (t.toChip.plot k).survey.time = s.clk.aon
      ∧ u ∉ t.mon.running ∧ t.mon.done = satAdd s.mon.done 1 ∧ t.mem = s.mem ∧ t.jobs = s.jobs))

/-- The survey store (R340, R341): a commit of changes that are not committed yet, a second after the last one, clears the older bank's
commit word and writes it with the next sequence; its end with a good read-back commits it and makes it the newer bank, and a bad one
leaves the newer bank as it was. That the content is compared when the command comes is the model's choice (log entry 120). -/
def Obligations.StoreCommitsComplete : Prop :=
  ∀ s : State,
    let older (m : Mon) := if m.inUse then m.bank0 else m.bank1
    (s.mon.writing = false → s.mon.newer.payload ≠ some s.toChip.keptNow → s.start.powerGood = true →
      (s.mon.commitAt = 0 ∨ s.mon.commitAt + msCycles 1000 ≤ s.clk.aon) →
      Completes .storeCommit s (fun t =>
        t.mon.writing = true ∧ t.mon.newer = s.mon.newer
        ∧ older t.mon = { sequence := s.mon.newer.sequence + 1, payload := some s.toChip.keptNow, committed := false }
        ∧ t.toChip = { s.toChip with mon := t.mon }))
    ∧ (s.mon.writing = true →
      Completes (.storeCommitDone true) s (fun t =>
        t.mon.writing = false ∧ t.mon.newer = { older s.mon with committed := true } ∧ older t.mon = s.mon.newer
        ∧ t.toChip = { s.toChip with mon := t.mon })
      ∧ Completes (.storeCommitDone false) s (fun t =>
        t.mon.writing = false ∧ t.mon.newer = s.mon.newer ∧ t.toChip = { s.toChip with mon := t.mon }))

/-- Temperature (R374, R375): a reading above 90.0 °C sets the easy request and one below 85.0 °C clears it and ends a thermal stop; ten
readings in a row above 98.0 °C call for a thermal stop, which ends every job, puts every region to sleep and leaves no compute laser
giving light; a region takes the easy request over, and off, at a boundary that allows it. The boundaries that allow the easy state in a
shared region are the model's choice (log entry 68). -/
def Obligations.TemperatureCommandsComplete : Prop :=
  (∀ (reading : BitVec 13) (s : State),
    Completes (.temperatureWatchSample reading) s (fun t =>
      t.saf.dieTemp = reading
      ∧ t.saf.easy = (if 1440 < reading.toInt then true else if reading.toInt < 1360 then false else s.saf.easy)
      ∧ t.saf.thermalStop = (s.saf.thermalStop && decide (1360 ≤ reading.toInt))
      ∧ t.saf.hot = (if 1568 < reading.toInt then s.saf.hot + 1 else 0)
      ∧ (9 ≤ s.saf.hot → 1568 < reading.toInt → s.saf.thermalStop = false → t.saf.thermalDue = true)
      ∧ t.mem = s.mem ∧ t.jobs.length = s.jobs.length))
  ∧ (∀ s : State, s.saf.thermalDue = true →
    Completes .thermalStop s (fun t =>
      t.saf.thermalStop = true ∧ t.saf.thermalDue = false ∧ t.jobs = [] ∧ (∀ g, g < 16 → (t.toChip.region g).power = 0)
      ∧ (∀ n, n < 160 → (t.toChip.laser n).serves = false) ∧ t.mem = s.mem))
  ∧ (∀ (g : Fin 16) (s : State), s.toChip.easyNow g.val = true →
    (s.saf.easy = true → (s.toChip.region g.val).halved = false →
      Completes (.easyEntry g) s (fun t =>
        (t.toChip.region g.val).halved = true ∧ t.toChip = { s.toChip with regions := t.regions, banks := t.banks }))
    ∧ (s.saf.easy = false → (s.toChip.region g.val).halved = true →
      Completes (.easyExit g) s (fun t =>
        (t.toChip.region g.val).halved = false ∧ t.toChip = { s.toChip with regions := t.regions, banks := t.banks })))

/-! ## The level -/

/-- The level (R344 to R347): the end of a period puts the corrected result of the channel under way into the queue of 256 entries, as the
entry of R345, or drops and counts it when the queue is full; MON_CH_VALUE shows the latest result, and the head of an empty queue shows
channel 127; the oldest injected channel is next; at most four injected channels wait; a self-calibration waits for them; its eight
readings set the factors, or leave them. -/
def Obligations.LevelCommandsComplete : Prop :=
  ∀ s : State,
    let l := s.lvl
    (l.queue = [] → (s.toChip.regValue 0x20024).toNat / 2 ^ 25 = 127)
    ∧ (∀ (raw : Int) (k : Nat) (i : Bool), s.start.powerGood = true → l.cal = 0 → l.now = some (k, i) →
      Completes (.levelPeriodEnd raw) s (fun t =>
        let v := l.corrected raw
        (-4194303 ≤ v ∧ v ≤ 4194303)
        ∧ (l.queue.length < 256 → t.lvl.dropped = l.dropped ∧ ∃ e : LevelEntry, t.lvl.queue = l.queue ++ [e]
            ∧ e.toNat / 2 ^ 57 = k % 128 ∧ e.getLsbD 56 = i ∧ e.getLsbD 55 = decide (2 ^ 19 < v ∨ v < -(2 ^ 19))
            ∧ ((e >>> 32).setWidth 23).toInt = v ∧ e.toNat % 2 ^ 32 = s.clk.aon / 16 % 2 ^ 32)
        ∧ (256 ≤ l.queue.length → t.lvl.queue = l.queue ∧ t.lvl.dropped = satAdd l.dropped 1)
        ∧ (k < 91 → l.chSel.toNat = k → t.toChip.regValue 0x20034 = channelWord v)
        ∧ (∀ n rest, l.inject = n :: rest → t.lvl.now = some (n, true) ∧ t.lvl.inject = rest)
        ∧ (l.inject = [] → t.lvl.now = (l.nextRegular).map (fun n => (n, false)))
        ∧ t.toChip = { s.toChip with lvl := t.lvl }))
    ∧ (∀ ch : BitVec 7,
      (ch.toNat < 91 → l.inject.length < 4 → Completes (.monInjectRequest ch) s (fun t =>
        t.toChip = { s.toChip with lvl := { l with inject := l.inject ++ [ch.toNat] } }))
      ∧ (91 ≤ ch.toNat ∨ 4 ≤ l.inject.length → Completes (.monInjectRequest ch) s (fun t =>
        t.toChip = { s.toChip with lvl := { l with injectRefused := satAdd l.injectRefused 1 } })))
    ∧ (l.cal = 0 → Completes .monSelfCalibrate s (fun t =>
        t.toChip = { s.toChip with lvl := { l with cal := 1, calWait := l.inject.length, calResult := 1 } }))
    ∧ (∀ rs : List Int, l.cal = 2 → rs.length = 8 →
      (∀ o gr, calibration rs = some (o, gr) → Completes (.levelCalibrationDone rs) s (fun t =>
        t.lvl.offset = BitVec.ofInt 32 o ∧ t.lvl.gain = BitVec.ofNat 32 gr ∧ t.lvl.cal = 0 ∧ t.lvl.calResult = 3
        ∧ t.lvl.queue = l.queue ∧ t.toChip = { s.toChip with lvl := t.lvl }))
      ∧ (calibration rs = none → Completes (.levelCalibrationDone rs) s (fun t =>
        t.lvl.offset = l.offset ∧ t.lvl.gain = l.gain ∧ t.lvl.cal = 0 ∧ t.lvl.calResult = 6 ∧ t.mem = s.mem)))

/-! ## Light control -/

/-- Line measurement and fade (R164 to R166): new powers of a group's laser, none below its commissioning value, give a fade of 0, bring
every line of the group to the weakest one before the equaliser, and retire nothing; the warning point, 100 measurements in a row beyond
it, is logged once and no handover begins; past the next point a standby spare prepares for the group. That the weakest line is the
weakest before the equaliser is the model's choice (log entry 60). -/
def Obligations.LineMeasureAndFade : Prop :=
  (∀ (g : Fin 16) (n : Fin 10) (powers : List Nat) (s : State),
    let r := LaserRef.compute g n
    let l := s.toChip.laser (g.val * 10 + n.val)
    let key := g.val * 8 + l.group.toNat % 8
    let before (i : Nat) := rawOf (powers.getD i 0) (look 0 (s.toChip.group key).att i)
    l.serves = true → l.power = [] → powers.length = 16 →
    (∀ i, i < 16 → commissioned r l (s.toChip.biasMode r) i ≤ powers.getD i 0 ∧ 0 < powers.getD i 0) →
    Completes (.lineMonitorMeasure r powers false) s (fun t =>
      (t.toChip.laser (g.val * 10 + n.val)).fade = 0 ∧ (t.toChip.laser (g.val * 10 + n.val)).state = l.state
      ∧ (∀ i, i < 16 → look 0 (t.toChip.laser (g.val * 10 + n.val)).power i = powers.getD i 0)
      ∧ (∀ i, i < 16 → (t.toChip.group key).level ≤ before i
          ∧ look 0 (t.toChip.group key).att i = attOf (before i) (t.toChip.group key).level)
      ∧ (∃ i, i < 16 ∧ before i = (t.toChip.group key).level)
      ∧ t.toChip = { s.toChip with freeCtr := t.freeCtr, lasers := t.lasers, groups := t.groups }))
  ∧ (∀ (r : LaserRef) (s : State),
    let l := s.toChip.laserAt r
    l.serves = true → l.leaving = 0 → look false l.crossed 2 = false → look 0 l.below 2 < 100 →
    (look false l.crossed 0 = false → 100 ≤ look 0 l.below 0 → look 0 l.below 1 < 100 →
      Completes (.fadeThresholdCrossed r) s (fun t =>
        t.toChip.laserAt r = { l with crossed := put false l.crossed 0 true }
        ∧ (look ({} : Ring) t.log.rings (s.toChip.laserSource r)).next = (look ({} : Ring) s.log.rings (s.toChip.laserSource r)).next + 1
        ∧ t.mem = s.mem ∧ t.jobs = s.jobs))
    ∧ (∀ x, look false l.crossed 1 = false → 100 ≤ look 0 l.below 1 → s.toChip.preparing r = none → s.toChip.spareLaser r = some x →
      (s.toChip.laserAt x).state = 2 →
      Completes (.fadeThresholdCrossed r) s (fun t =>
        (t.toChip.laserAt x).state = 3 ∧ (t.toChip.laserAt x).group = l.group ∧ (t.toChip.laserAt r).state = l.state
        ∧ (t.toChip.laserAt r).leaving = 1 ∧ t.mem = s.mem ∧ t.jobs = s.jobs)))

/-- Handovers (R160, R166, R167, R169): an order makes a standby spare prepare; locked and levelled it is ready; at a handover boundary
both lasers enter the handover stroke, at whose end the spare is active and the outgoing laser retired; a warming spare reaches standby;
after an abrupt failure a standby spare serves the dark group. The order of an order's refusals is the model's choice (log entry 62). -/
def Obligations.HandoversComplete : Prop :=
  (∀ (g : Fin 16) (n : Fin 10) (s : State) (x : LaserRef),
    let r := LaserRef.compute g n
    (s.toChip.region g.val).lasLaser.toNat = n.val → (s.toChip.laserAt r).state = 4 →
    (∀ y ∈ laserPool r, (s.toChip.laserAt y).state ≠ 3 ∧ (s.toChip.laserAt y).state ≠ 5 ∧ (s.toChip.laserAt y).leaving = 0) →
    s.toChip.spareLaser r = some x → (s.toChip.laserAt x).state = 2 →
    Completes (.lasHandoverOrder g) s (fun t =>
      (t.toChip.region g.val).lasResult = 1 ∧ (t.toChip.laserAt x).state = 3 ∧ (t.toChip.laserAt x).group = (s.toChip.laserAt r).group
      ∧ (t.toChip.laserAt r).state = 4 ∧ t.toChip = { s.toChip with regions := t.regions, lasers := t.lasers }))
  ∧ (∀ (r : LaserRef) (s : State),
    let l := s.toChip.laserAt r
    (l.state = 3 → Completes (.spareLaserReady r) s (fun t =>
      t.toChip.laserAt r = { l with ready := true }
      ∧ t.toChip = { s.toChip with lasers := t.lasers, linkLasers := t.linkLasers }))
    ∧ (∀ x, s.toChip.handoverBoundary r = true → l.state = 3 → l.ready = true →
      (laserPool r).find? (fun x => (s.toChip.laserAt x).state == 4 && (s.toChip.laserAt x).group == l.group) = some x →
      Completes (.handoverStart r) s (fun t =>
        (t.toChip.laserAt r).state = 5 ∧ (t.toChip.laserAt x).state = 5
        ∧ t.toChip = { s.toChip with lasers := t.lasers, linkLasers := t.linkLasers }))
    ∧ (∀ x, l.state = 5 → l.leaving = 0 → s.toChip.partner r = some x →
      Completes (.handoverComplete r) s (fun t =>
        (t.toChip.laserAt r).state = 4 ∧ (t.toChip.laserAt r).group = l.group ∧ (t.toChip.laserAt x).state = 6
        ∧ t.mem = s.mem ∧ t.jobs = s.jobs ∧ t.plots = s.plots))
    ∧ (l.state = 1 → (∀ y ∈ laserPool r, (s.toChip.laserAt y).leaving = 0) →
      Completes (.laserStandbyReached r) s (fun t =>
        t.toChip.laserAt r = { l with state := 2, group := 0xF }
        ∧ t.toChip = { s.toChip with lasers := t.lasers, linkLasers := t.linkLasers }))
    ∧ (∀ k, k < 16 → s.toChip.unlit r = some k → l.state = 2 →
      Completes (.spareLaserActive r) s (fun t =>
        (t.toChip.laserAt r).state = 4 ∧ (t.toChip.laserAt r).group = BitVec.ofNat 4 k ∧ t.mem = s.mem)))

/-- Ring banks (R172, R176, R178 to R180): a new lock error moves the bias by its quarter, rounded down, and an acquiring bank is locked
once the error is below 16 codes; a load strobe steps every listed bank of its region and no other; a current within 1 % of its code, and
within 64 codes, is no fault, and one beyond both is a channel fault of its bank. That the dither's phases start at 0 with the first
strobe is the model's choice (log entry 65). -/
def Obligations.LocksAndHeatersComplete : Prop :=
  (∀ (b : BankRef) (err : Int) (s : State),
    let x := s.toChip.bank (bankIndex b)
    x.lock = 2 ∨ (x.lock = 3 ∧ err.natAbs ≤ 16) →
    Completes (.lockLoopUpdate b err) s (fun t =>
      (t.toChip.bank (bankIndex b)).bias = x.bias - err.fdiv 4 ∧ (t.toChip.bank (bankIndex b)).residual = err
      ∧ (t.toChip.bank (bankIndex b)).lock = (if x.lock = 3 ∨ err.natAbs < 16 then 3 else 2)
      ∧ t.toChip = { s.toChip with banks := t.banks }))
  ∧ (∀ (g : Fin 16) (s : State), keysRise 0 s.banks = true →
    Completes (.heaterLoadStrobe g) s (fun t =>
      (∀ e ∈ s.banks, e.1 / 18 / 136 = g.val →
        t.toChip.bank e.1
          = (e.2.strobe ((s.toChip.region g.val).strobes * 10 * ditherFtw (e.1 / 18 % 136) (e.1 % 18) % 2 ^ 32)
              (s.toChip.windowStrobe g.val)).1)
      ∧ (∀ k, k / 18 / 136 ≠ g.val → t.toChip.bank k = s.toChip.bank k)
      ∧ (t.toChip.region g.val).strobes = (s.toChip.region g.val).strobes + 1 ∧ t.mem = s.mem ∧ t.jobs = s.jobs))
  ∧ (∀ (b : BankRef) (measured : Nat) (s : State),
    let x := s.toChip.bank (bankIndex b)
    let off := ((measured : Int) - x.heater.toNat).natAbs
    (off ≤ 64 ∨ off * 100 ≤ x.heater.toNat → exec (.heaterChannelCheck b measured) s = .next s)
    ∧ (64 < off → x.heater.toNat < off * 100 → x.fault = false → (s.toChip.plot (bankPlot b)).state ≠ 4 →
      Completes (.heaterChannelCheck b measured) s (fun t => (t.toChip.bank (bankIndex b)).fault = true ∧ t.mem = s.mem)))

/-- Pilot tags and re-sweeps (R174 to R176): a locked bank that reads a frame with its own line's tag is in order; a frame without its
sync counts toward a pilot loss; a re-sweep starts acquiring at the peak nearest the last locked bias that shows the bank's own tag in one of
its two frames, and with none leaves the bank failed.
Which line a bank's own tag is, and that a frame without sync ends a run of wrong ones, are the model's choices (log entry 64). -/
def Obligations.PilotsComplete : Prop :=
  ∀ (b : BankRef) (s : State),
    let x := s.toChip.bank (bankIndex b)
    (2 ≤ x.lock.toNat → (s.toChip.plot (bankPlot b)).state ≠ 4 →
      (∀ line : Fin 16, (b.b.val < 16 → line.val = b.b.val) →
        Completes (.pilotFrame b (tagChips (tagWord false line.val (b.o.val / 17)))) s (fun t =>
          (t.toChip.bank (bankIndex b)).tagOk = true ∧ (t.toChip.bank (bankIndex b)).tagLine = BitVec.ofNat 4 line.val
          ∧ (t.toChip.bank (bankIndex b)).wrongFrames = 0 ∧ (t.toChip.bank (bankIndex b)).lostFrames = 0
          ∧ t.toChip = { s.toChip with banks := t.banks }))
      ∧ (∀ chips : BitVec 32, chips.toNat / 2 ^ 24 ≠ 0xF2 → x.lostFrames < 7 →
        Completes (.pilotFrame b chips) s (fun t =>
          (t.toChip.bank (bankIndex b)).lostFrames = x.lostFrames + 1 ∧ (t.toChip.bank (bankIndex b)).tagOk = false
          ∧ t.toChip = { s.toChip with banks := t.banks })))
    ∧ (x.lock = 1 →
      let own (p : SweepPeak) : Prop := p.code.toNat % 16 = 0 ∧ (ownFrame b p.frame0 = true ∨ ownFrame b p.frame1 = true)
      (∀ (peaks : List SweepPeak) (p : SweepPeak), p ∈ peaks → own p →
        (∀ q ∈ peaks, own q → q ≠ p → ((p.code.toNat : Int) - x.last).natAbs < ((q.code.toNat : Int) - x.last).natAbs) →
        Completes (.resweepDone b peaks) s (fun t =>
          (t.toChip.bank (bankIndex b)).lock = 2 ∧ (t.toChip.bank (bankIndex b)).bias = p.code.toNat
          ∧ (t.toChip.bank (bankIndex b)).heater = p.code ∧ (t.toChip.plot (bankPlot b)).survey.due = true
          ∧ (t.toChip.plot (bankPlot b)).resweeps = satAdd (s.toChip.plot (bankPlot b)).resweeps 1
          ∧ t.toChip = { s.toChip with banks := t.banks, plots := t.plots }))
      ∧ (∀ peaks : List SweepPeak, (∀ p ∈ peaks, ¬ own p) →
        Completes (.resweepDone b peaks) s (fun t => (t.toChip.bank (bankIndex b)).lock = 0 ∧ t.mem = s.mem)))

/-! ## HBM stacks -/

/-- HBM (R239, R252 to R254): a scrub counts what it corrects, what the stack's own code corrected and a parity error; an uncorrectable line,
of data or of the ledger, is counted and left as it is; a failed pseudo-channel degrades its stack and ends the jobs that hold it; a temperature is read. That fleet jobs and paused jobs of a
degraded stack end at once too is the model's choice (log entry 69). -/
def Obligations.StackCommandsComplete : Prop :=
  ∀ (k : Fin 8) (s : State),
    let x := s.toChip.stack k.val
    (∀ (line n ondie : Nat) (parity : Bool) (progress : BitVec 8),
      let passes := satIf (decide (progress.toNat < x.progress.toNat)) x.passes
      Completes (.scrub k line .clean ondie parity progress) s (fun t =>
        t.toChip.stack k.val = { x with progress := progress, passes := passes, ondie := satAdd x.ondie ondie }
        ∧ t.toChip = { s.toChip with hbmStacks := t.hbmStacks })
      ∧ Completes (.scrub k line (.corrected n) ondie parity progress) s (fun t =>
        t.toChip.stack k.val = { x with
          progress := progress, passes := passes, corrected := satAdd x.corrected n, ondie := satAdd x.ondie ondie }
        ∧ t.toChip = { s.toChip with hbmStacks := t.hbmStacks })
      ∧ (line * 64 < stackBytes →
        Completes (.scrub k line .uncorrectable ondie parity progress) s (fun t =>
          let y := t.toChip.stack k.val
          y.uncorr = satAdd x.uncorr 1 ∧ y.ondie = satAdd x.ondie ondie ∧ y.parity = satIf parity x.parity ∧ y.progress = progress
          ∧ y.passes = passes ∧ t.mem = s.mem ∧ t.jobs = s.jobs)))
    ∧ (x.failing &&& ~~~x.failed ≠ 0 →
      Completes (.stackDegrade k) s (fun t =>
        t.toChip.stack k.val = { x with state := if x.state = 2 then 2 else 1, failed := x.failed ||| x.failing, failing := 0 }
        ∧ (∀ j ∈ s.jobs, j.holdsStacks = true → k.val ∈ s.toChip.windowOf j → t.toChip.job? j.id = none)
        ∧ t.mem = { s.mem with hbm := t.mem.hbm }))
    ∧ (∀ celsius : BitVec 8, Completes (.stackTemperatureRead k celsius) s (fun t =>
        t.toChip.stack k.val = { x with temp := celsius } ∧ t.toChip = { s.toChip with hbmStacks := t.hbmStacks }))

/-! ## Lamni links -/

/-- Frames of a Lamni port (R260, R265 to R272, R280 to R282, R288): a DATA frame that agrees is buffered, one that fails its code
counted; a running job's CATCH frame that answers the port's earliest open catch gives the offset; WEIGH frames in a row are counted, and the
16th that agrees brings the port up, on a hop delay that leaves 50 ns of the budget, one that disagrees quarantines it; a MEASURE frame is to
be echoed, and what it echoes is an exchange; lane requests are kept and acknowledged, acknowledgements 4 strokes before the boundary kept; a
new REROW signal is known and forwarded; a frame of the control window that fails its code is counted and has no other effect there. The numbers
of the link fault kinds, the order in which catches are answered, and which hop delay weigh-in turns away, are the model's choices (log
entries 28, 89 and 139). -/
def Obligations.LamniFramesComplete : Prop :=
  ∀ (p : Fin 16) (l : Fin 9) (hdr : FrameHdr) (code : CodeResult) (s : State),
    let q := s.toChip.port p.val
    let lane := laneKey p.val l.val
    (code ≠ .uncorrectable → hdrUnclean hdr = false →
      (∀ (f : Frame) (j : Job) (i : Image), q.state = 4 → s.toChip.portJob p.val = some j → s.toChip.imageOf j = some i →
        s.toChip.discarded j i f.hdr = false → s.toChip.strokeAgrees j i f.hdr = true → s.toChip.headerAgrees j i p.val f = true →
        f.hdr.digestFrag = digestFrag i.id f.hdr.stroke.toNat → q.held + f.payload.length ≤ 2 ^ 21 →
        Completes (.dataFrame p l f code) s (fun t =>
          (t.toChip.port p.val).buffer = q.buffer ++ [{ lane := l.val, frame := f }] ∧ t.toChip = { s.toChip with ports := t.ports }))
      ∧ (∀ (m : CatchMsg) (offset : Int) (j : Job), q.state = 4 → s.toChip.portJob p.val = some j → j.fleet = true → m.leadIn = false →
        j.live = true → offset.natAbs ≤ 200 → m.imageId = j.image → q.catches.head? = some (m.jobStroke.toNat, m.epoch) →
        Completes (.catchFrame p l hdr m offset code) s (fun t =>
          (t.toChip.port p.val).offset = BitVec.ofInt 16 offset ∧ (t.toChip.port p.val).catchMiss = 0
          ∧ (t.toChip.port p.val).catches = q.catches.drop 1
          ∧ (t.toChip.port p.val).state = 4 ∧ t.toChip = { s.toChip with ports := t.ports }))
      ∧ (∀ (m : WeighMsg) (behind : Nat), q.state = 2 →
        (q.weighCount < 15 → Completes (.weighFrame p l hdr m behind false code) s (fun t =>
          t.toChip.port p.val = { q with weighCount := q.weighCount + 1 } ∧ t.toChip = { s.toChip with ports := t.ports }))
        ∧ (15 ≤ q.weighCount → Completes (.weighFrame p l hdr m behind false code) s (fun t =>
          let why := s.toChip.weighDiffers p.val (s.clk.fleetStroke - BitVec.ofNat 48 behind) m
          (why = 0 → q.hop.toNat + 50 ≤ s.cfg.hopBudget.toNat →
            (t.toChip.port p.val).state = 4 ∧ (t.toChip.port p.val).weighReason = 0 ∧ (t.toChip.port p.val).peerMember = m.member)
          ∧ (why = 0 → s.cfg.hopBudget.toNat < q.hop.toNat + 50 →
            (t.toChip.port p.val).state = 1 ∧ (t.toChip.port p.val).remeasure = true)
          ∧ (why ≠ 0 → (t.toChip.port p.val).state = 3 ∧ (t.toChip.port p.val).weighReason = BitVec.ofNat 4 why)
          ∧ t.mem = s.mem)))
      ∧ (∀ (m : MeasureMsg) (arrival : Nat), Completes (.measureFrame p l hdr m arrival code) s (fun t =>
          t.toChip.port p.val = { q with
            echo := some (m.sent, arrival)
            delays := if m.echoed = 0 then q.delays else appendKeep 256 q.delays (arrival - m.echoed.toNat - m.turnaround.toNat) }
          ∧ t.toChip = { s.toChip with ports := t.ports }))
      ∧ (∀ m : LaneMsg, q.state ≠ 1 →
        (m.action ≠ 1 → Completes (.laneCtrlFrame p l hdr m code) s (fun t =>
          t.toChip.port p.val = { q with pendTx := q.pendTx.filter (fun x => !(x.action == m.action && x.lane == m.lane)) ++ [m] }
          ∧ t.fleetOut = s.fleetOut ++ [s.toChip.frameOn p.val (.lane { m with action := 1 })]
          ∧ t.toChip = { s.toChip with ports := t.ports, fleetOut := t.fleetOut }))
        ∧ (m.action = 1 → s.toChip.portStroke p.val + 4 ≤ m.target.toNat → Completes (.laneCtrlFrame p l hdr m code) s (fun t =>
          t.toChip.port p.val = { q with
            pendRx := q.pendRx.map (fun e => if e.1.lane = m.lane ∧ e.1.target = m.target then (e.1, true) else e) }
          ∧ t.toChip = { s.toChip with ports := t.ports }))
        ∧ (m.action = 1 → m.target.toNat < s.toChip.portStroke p.val + 4 → Completes (.laneCtrlFrame p l hdr m code) s (fun t =>
          t.toChip.port p.val = q ∧ t.toChip = { s.toChip with ports := t.ports })))
      ∧ (∀ (m : SignalMsg) (j : Job), q.state = 4 → s.toChip.portJob p.val = some j → j.fleet = true → j.image = m.imageId → m.kind = 1 →
        j.epoch.toNat ≤ m.epoch.toNat → (∀ x, j.knownX = some x → m.stroke.toNat < x) →
        Completes (.faultFrame p l hdr m code) s (fun t =>
          (t.toChip.job? j.id).map (·.knownX) = some (some m.stroke.toNat)
          ∧ t.fleetOut = s.fleetOut
              ++ (s.toChip.upPorts ((s.toChip.jobPorts j).filter (fun n => n ≠ p.val))).map (fun n =>
                s.toChip.frameOn n (.signal { m with hops := m.hops + 1 }))
          ∧ t.sch.forwarded = satAdd s.sch.forwarded 1 ∧ t.mem = s.mem))
      ∧ exec (.idleFrame p l hdr code) s = .next s)
    ∧ (q.state = 4 → ∀ f : Frame, Completes (.dataFrame p l f .uncorrectable) s (fun t =>
        (t.toChip.lane lane).uncorr = satAdd (s.toChip.lane lane).uncorr 1
        ∧ (t.toChip.port p.val).codewordFaults = satAdd q.codewordFaults 1 ∧ (t.toChip.port p.val).buffer = q.buffer ∧ t.mem = s.mem))
    ∧ (let lost (t : State) : Prop :=
        (t.toChip.lane lane).uncorr = satAdd (s.toChip.lane lane).uncorr 1 ∧ t.toChip = { s.toChip with lanes := t.lanes }
      Completes (.idleFrame p l hdr .uncorrectable) s lost
      ∧ (∀ (m : MeasureMsg) (arrival : Nat), Completes (.measureFrame p l hdr m arrival .uncorrectable) s lost)
      ∧ (∀ m : LaneMsg, Completes (.laneCtrlFrame p l hdr m .uncorrectable) s lost))
    ∧ Completes (.markerError p l false) s (fun t =>
        t.toChip.lane lane = { s.toChip.lane lane with markers := 0 } ∧ t.toChip = { s.toChip with lanes := t.lanes })
    ∧ ((s.toChip.lane lane).markers < 3 → Completes (.markerError p l true) s (fun t =>
        t.toChip.lane lane = { s.toChip.lane lane with markers := (s.toChip.lane lane).markers + 1 }
        ∧ t.toChip = { s.toChip with lanes := t.lanes }))
    ∧ Completes (.linkLanesLost p) s (fun t =>
        (look ({} : Ring) t.log.rings (srcPort p.val)).next = (look ({} : Ring) s.log.rings (srcPort p.val)).next + 1
        ∧ t.saf.permanent = satAdd s.saf.permanent 1
        ∧ (q.state = 2 ∨ q.state = 3 ∨ q.state = 4 → (t.toChip.port p.val).state = 1) ∧ t.mem = s.mem)

/-- Lanes and bring-up of a Lamni port (R257, R265, R267 to R271, R273 to R275, R281, R283): in every 256th stroke a MEASURE frame leaves and a
hop delay within the budget is noted; an eye within its limits is noted; a retirement is asked for, and applied on either side at its boundary, a
direction left with seven lanes taking the port out; a lane rotates out and back; a port comes up to weigh-in, weighs in again after 1,024
strokes, or is excluded by the host. The rounding of the hop delay, the boundary that an unused port aims at and the tick that a control frame
names are the model's choices (log entries 29, 112 and 137). -/
def Obligations.LamniPortsComplete : Prop :=
  ∀ (p : Fin 16) (s : State),
    let q := s.toChip.port p.val
    let now := s.toChip.portStroke p.val
    (now % 256 = 0 → (q.state = 2 ∨ q.state = 3 ∨ q.state = 4) → q.delays ≠ [] → meanDelay q.delays + 30 ≤ s.cfg.hopBudget.toNat →
      Completes (.hopMeasure p) s (fun t =>
        t.toChip.port p.val = { q with hop := satOf 16 (meanDelay q.delays) }
        ∧ (∃ m, t.fleetOut = s.fleetOut ++ [s.toChip.frameOn p.val (.measure m)])
        ∧ t.toChip = { s.toChip with ports := t.ports, fleetOut := t.fleetOut, freeCtr := t.freeCtr }))
    ∧ (∀ (l : Fin 9) (w h : BitVec 8) (n : Nat),
      let x := s.toChip.lane (laneKey p.val l.val)
      n < 400 → x.commission.toNat * 80 ≤ h.toNat * 100 → 77 ≤ w.toNat →
      Completes (.eyeMonitorSample p l w h n) s (fun t =>
        t.toChip.lane (laneKey p.val l.val) = { x with width := w, height := h, corrected := satOf 16 n }
        ∧ t.toChip = { s.toChip with lanes := t.lanes }))
    ∧ (q.pendRx = [] → q.laneSel.toNat ≤ 8 → (mapFind q.mapRx q.laneSel.toNat).isSome = true →
      (q.state = 2 ∨ q.state = 3 ∨ q.state = 4) → (spareLane q.mapRx q.retiredRx q.rotOut).isSome = true →
      Completes (.lnkRetireLane p) s (fun t =>
        let m : LaneMsg := { action := 0, lane := Fin.ofNat 9 q.laneSel.toNat, target := BitVec.ofNat 48 (s.toChip.portTarget p.val) }
        t.toChip.port p.val = { q with cmdResult := 1, pendRx := [(m, false)] }
        ∧ t.fleetOut = s.fleetOut ++ [s.toChip.frameOn p.val (.lane m)]
        ∧ (t.toChip.lane (laneKey p.val q.laneSel.toNat)).reason = 5
        ∧ t.toChip = { s.toChip with ports := t.ports, lanes := t.lanes, fleetOut := t.fleetOut }))
    ∧ (∀ m : LaneMsg, q.pendTx = [] → q.pendRx = [(m, true)] → m.action = 0 → m.target.toNat ≤ now →
      q.retiredRx.getLsbD m.lane.val = false →
      let after := q.retireRx m.lane.val
      (mapShort after.mapRx = false →
        Completes (.laneRetireApply p) s (fun t =>
          (t.toChip.port p.val).mapRx = after.mapRx ∧ (t.toChip.port p.val).retiredRx.getLsbD m.lane.val = true
          ∧ (t.toChip.port p.val).pendRx = [] ∧ (t.toChip.port p.val).state = q.state ∧ t.mem = s.mem ∧ t.jobs = s.jobs))
      ∧ (mapShort after.mapRx = true → q.state ≠ 3 →
        Completes (.laneRetireApply p) s (fun t => (t.toChip.port p.val).state = 5 ∧ t.mem = s.mem)))
    ∧ (∀ m : LaneMsg, q.pendTx = [m] → q.pendRx = [] → m.action = 0 → m.target.toNat ≤ now →
      let after := ({ q with pendTx := [] } : Port).retireTx m.lane.val
      (mapShort after.mapTx = false →
        Completes (.laneRetireApply p) s (fun t => t.toChip.port p.val = after ∧ t.toChip = { s.toChip with ports := t.ports }))
      ∧ (mapShort after.mapTx = true → q.state ≠ 3 →
        Completes (.laneRetireApply p) s (fun t => (t.toChip.port p.val).state = 5 ∧ t.mem = s.mem)))
    ∧ (∀ (l : Fin 9) (m : LaneMsg), m.lane = l → q.pendRx = [(m, true)] → q.pendTx = [] → m.target.toNat ≤ now →
      (m.action = 2 → spareFree q.mapRx q.retiredRx q.rotOut = true → (mapFind q.mapRx l.val).isSome = true →
        Completes (.laneRotationOut p l) s (fun t =>
          t.toChip.port p.val = { q with mapRx := rotateOut q.mapRx l.val, rotOut := some l.val, pendRx := [] }
          ∧ t.toChip = { s.toChip with ports := t.ports }))
      ∧ (m.action = 3 → q.rotOut = some l.val → Completes (.laneRotationReturn p l) s (fun t =>
        t.toChip.port p.val = { q with mapRx := rotateBack q.mapRx l.val, rotOut := none, pendRx := [] }
        ∧ t.toChip = { s.toChip with ports := t.ports })))
    ∧ (q.pendRx = [] → Completes (.lnkBringUp p) s (fun t =>
        (t.toChip.port p.val).state = 1 ∧ (t.toChip.port p.val).cmdResult = 1 ∧ (t.toChip.port p.val).buffer = []
        ∧ t.toChip = { s.toChip with ports := t.ports, lanes := t.lanes, mon := t.mon }))
    ∧ (∀ (r : BringUp) (rx tx : BitVec 32), q.state = 1 → q.remeasure = false → s.toChip.portLit p.val = true →
      freshMap (s.toChip.fitLanes p.val r) = some rx → freshMap r.txUsable = some tx →
      meanDelay (r.trips.drop (r.trips.length - 256)) + 50 ≤ s.cfg.hopBudget.toNat →
      Completes (.portBringUpDone p r) s (fun t =>
        (t.toChip.port p.val).state = 2 ∧ (t.toChip.port p.val).mapRx = rx ∧ (t.toChip.port p.val).mapTx = tx
        ∧ (t.toChip.port p.val).hop = satOf 16 (meanDelay (r.trips.drop (r.trips.length - 256)))
        ∧ (t.toChip.port p.val).attempts = satAdd q.attempts 1
        ∧ t.toChip = { s.toChip with ports := t.ports, lanes := t.lanes, fleetOut := t.fleetOut }))
    ∧ (q.state = 3 → q.retryAt ≠ 0 → q.retryAt ≤ s.clk.fleetStroke.toNat → Completes (.weighInRetry p) s (fun t =>
        t.toChip.port p.val
          = { q with retryAt := s.clk.fleetStroke.toNat + 1024, weighing := true, weighCount := 0, attempts := satAdd q.attempts 1 }
        ∧ t.toChip = { s.toChip with ports := t.ports }))
    ∧ (s.toChip.portJob p.val = none → Completes (.linkExclude p) s (fun t =>
        (t.toChip.port p.val).state = 5 ∧ (t.toChip.port p.val).weighReason = 8 ∧ (t.toChip.port p.val).ctrlResult = 1
        ∧ t.mem = s.mem ∧ t.jobs = s.jobs))
    ∧ ((s.toChip.portJob p.val).isSome = true → Completes (.linkExclude p) s (fun t =>
        t.toChip.port p.val = { q with ctrlResult := 2 } ∧ t.toChip = { s.toChip with ports := t.ports }))

/-- The exchanges over links (R79, R81, R264, R266, R283): LSEND's bytes leave a port that is up in the frames of its slot entry's occurrences; an LRECV whose
frames have all come with their block tags writes their payload to region staging, takes the frames out of the elastic buffer and changes
no other byte of memory. The bytes moved are those that stand there when the word is carried out, the model's choice (log entry 21). -/
def Obligations.LinkExchangesComplete : Prop :=
  ∀ (st : Site) (s : State) (j : Job) (g : Nat) (op : LinkOp) (i : Image) (port : Nat) (e : Slot),
    s.toChip.atSite st = some (j, g) → st.onSeq = true → linkFits s.toChip st op = true → 0 < op.length.toNat →
    s.toChip.moves j = true → s.toChip.imageOf j = some i → s.toChip.lport j op.lport.val = some port →
    let n := 16 * op.length.toNat
    let at_ := s.toChip.regionAt j g op.addr.toNat
    (op.legal true = true → s.toChip.slotOf j i.linkSlots op.slotRef.toNat st.region.val true = some e →
      Completes (.xchLsend st op Path.clean) s (fun t =>
        ((s.toChip.port port).state = 4 → t.fleetOut = s.fleetOut
          ++ (s.toChip.sendFrames j (occurrences e.start e.bytes n (st.tick + 64)) 0 (readBytes s.mem.rstg at_ n)).map
            (dataOut port (s.toChip.port port).mapTx))
        ∧ ((s.toChip.port port).state ≠ 4 → t.fleetOut = s.fleetOut)
        ∧ t.mem = s.mem))
    ∧ (∀ p : Path, op.legal false = true → p.fetchBad = false →
      s.toChip.slotOf j i.linkSlots op.slotRef.toNat st.region.val false = some e →
      let r := s.toChip.receive j (s.toChip.port port).buffer (s.toChip.hopPad i) (occurrences e.start e.bytes n st.tick) 0
        { data := [], used := [], late := none, tag := none }
      r.late = none → r.tag = none →
      Completes (.xchLrecv st op p) s (fun t =>
        holdsAt t.mem.rstg at_ (r.data.take n) ∧ sameOutside s.mem.rstg t.mem.rstg at_ n ∧ t.mem = { s.mem with rstg := t.mem.rstg }
        ∧ (t.toChip.port port).buffer = (s.toChip.port port).buffer.filter (fun b => !(r.used.contains b))))

/-! ## The fleet -/

/-- Fleet time (R279, R281): a fleet stroke advances the count, and WEIGH frames leave every port in weigh-in or quarantine; the first
FSYNC edge starts the count, one at its place aligns the grid, one elsewhere is ignored while a fleet job runs; 131,072 strokes without an
edge are a loss of FSYNC. That one entry stands for all a stroke's frames of a kind on a port, and how an edge gives its position, are the
model's choices (log entries 87 and 88). -/
def Obligations.FleetTimeComplete : Prop :=
  ∀ s : State,
    (s.clk.fleetRunning = true → s.clk.refclkOk = true →
      Completes .fleetStroke s (fun t =>
        t.clk.fleetStroke = s.clk.fleetStroke + 1 ∧ t.clk.sinceFsync = s.clk.sinceFsync + 1
        ∧ (∀ p, p < 16 → ((s.toChip.port p).state = 2 ∨ (s.toChip.port p).state = 3) →
            ∃ f ∈ t.fleetOut, f.port = p ∧ f.msg = .weigh (t.toChip.weighMsg p))
        ∧ t.toChip = { s.toChip with clk := t.clk, jobs := t.jobs, fleetOut := t.fleetOut }))
    ∧ (∀ position : Int,
      (s.clk.fleetRunning = false → Completes (.fsyncEdge position) s (fun t =>
        t.clk.fleetRunning = true ∧ t.clk.fleetStroke = 0 ∧ t.clk.fsyncOk = true ∧ t.toChip = { s.toChip with clk := t.clk }))
      ∧ (s.clk.fleetRunning = true → position.natAbs ≤ 20 → Completes (.fsyncEdge position) s (fun t =>
        t.clk.fleetStroke = s.clk.fleetStroke ∧ t.clk.fsyncOk = true ∧ t.clk.sinceFsync = 0 ∧ t.toChip = { s.toChip with clk := t.clk }))
      ∧ (s.clk.fleetRunning = true → 20 < position.natAbs → s.toChip.fleetJobs ≠ [] → exec (.fsyncEdge position) s = .next s))
    ∧ (s.clk.fsyncOk = true → 131072 ≤ s.clk.sinceFsync → Completes .fsyncLost s (fun t =>
        t.clk.fsyncOk = false ∧ t.mem = s.mem ∧ t.jobs = s.jobs))

/-- The effects of fleet signals (R286, R289, R291, R292, R294): at S0 a job whose lead-in agreed on every port starts; at x + Δf + 1 a
REROW restarts it from its oldest uncommitted piece in the next epoch; at a piece boundary its easy set takes the signals due and its
regions' ticks are halved while the set is not empty, and a PAUSE due stops issue; an ABORT due ends it with the signal's status, a
SALVAGE due ends it. What pending signals do at a restart, and the save area of a member whose host did not ask, are the model's choices
(log entries 91 and 92). -/
def Obligations.FleetSignalsTakeEffect : Prop :=
  ∀ (id : JobId) (s : State) (j : Job) (i : Image), s.toChip.job? id = some j → s.toChip.imageOf j = some i → j.fleet = true →
    (j.st = .admitted → startStroke j.body ≤ s.clk.fleetStroke.toNat →
      (∀ p ∈ s.toChip.jobPorts j, ∀ k, k < 16 → look 0 j.leadIns p / 3 ^ (k + 1) % 3 = 1) →
      2 * j.distance.toNat ≤ s.cfg.reach.toNat →
      Completes (.fleetJobStart id) s (fun t =>
        (t.toChip.job? id).map (fun k => (k.st, k.stroke, k.map)) = some (.running, j.stroke, j.map)
        ∧ (∀ p ∈ j.map, (t.toChip.region p.2).power = 2) ∧ t.mem = s.mem))
    ∧ (∀ x, j.knownX = some x → j.st = .running → j.abortReq = none → x + s.toChip.jobDeltaF j + 1 ≤ j.stroke →
      j.signalDue [5, 6] = none → j.lostWord = false → j.rerowCount < 8 → s.saf.remedies = [] →
      Completes (.fleetRerow id) s (fun t =>
        (t.toChip.job? id).map (fun k => (k.stroke, k.epoch, k.knownX, k.committed))
          = some (j.committed * (s.toChip.lengths j).1, j.epoch + 1, none, j.committed)))
    ∧ (s.toChip.atPiece j = true → (j.signalDue [2, 3]).isSome = true →
      let set := j.signals.foldl (easyAfter j.stroke) j.easySet
      Completes (.fleetEasy id) s (fun t =>
        (t.toChip.job? id).map (fun k => (k.easySet, k.easy)) = some (set, !set.isEmpty)
        ∧ (∀ p ∈ j.map, (t.toChip.region p.2).halved = !set.isEmpty)
        ∧ t.toChip = { s.toChip with jobs := t.jobs, regions := t.regions, banks := t.banks }))
    ∧ (j.st = .running → s.toChip.atPiece j = true → (j.signalDue [4]).isSome = true → j.stroke < i.strokes →
      Completes (.fleetPause id) s (fun t =>
        (t.toChip.job? id).map (fun k => (k.st, k.pause.map (·.boundary))) = some (.draining, some j.stroke) ∧ t.mem = s.mem))
    ∧ (∀ m, j.live = true → j.signalDue [5] = some m →
      Completes (.fleetAbort id) s (fun t =>
        t.toChip.job? id = none ∧ (∃ e, e.status = m.status ∧ t.toChip.reports id.queue id.tag (.jobEnd e)) ∧ t.mem = s.mem))
    ∧ (j.live = true → (j.signalDue [6]).isSome = true →
      Completes (.salvage id) s (fun t =>
        t.toChip.job? id = none
        ∧ (j.body.salvageArea = 0 →
            (∃ e, e.status = BitVec.ofNat 8 statusDegraded ∧ t.toChip.reports id.queue id.tag (.jobEnd e)) ∧ t.mem = s.mem)))

/-! ## Clocks, rails, power, start-up -/

/-- Clocks, rails and power (R351, R361, R373, R413, R414): the loss of REFCLK ends every job and voids HBM, its return repeats the
start-up from phase 3; a breached rail is a dangerous event, ends the affected jobs that are no fleet jobs when it lasts 10 ms, and is
over when the rail returns; a loss of main power keeps what is not volatile and the log; power-off keeps what is not volatile only;
power-good starts phase 0, or phase 1. What else stops with the clocks, and what a main power loss clears, are the model's choices (log
entries 93 and 95). -/
def Obligations.ClocksAndPowerComplete : Prop :=
  ∀ s : State,
    (s.clk.refclkOk = true → Completes .refclkLost s (fun t =>
      t.clk.refclkOk = false ∧ t.clk.onBackup = true ∧ t.clk.masterLock = false ∧ t.clk.refLosses = satAdd s.clk.refLosses 1
      ∧ t.jobs = [] ∧ t.sch.images = [] ∧ t.start.ready = false ∧ t.mem = { s.mem with hbm := [] }))
    ∧ (s.clk.refclkOk = false → s.clk.onBackup = true → 3 ≤ s.start.phase.toNat → Completes .refclkRestored s (fun t =>
      t.clk.refclkOk = true ∧ t.clk.onBackup = false ∧ t.start.phase = 3 ∧ t.toChip = { s.toChip with clk := t.clk, start := t.start }))
    ∧ (∀ g : Fin 16, (s.toChip.region g.val).power ≠ 0 → Completes (.symbolPllUnlock g) s (fun t =>
      t.toChip = { s.toChip with clk := { s.clk with symbolUnlock := satAdd s.clk.symbolUnlock 1 } }))
    ∧ (∀ r : Rail,
      (s.saf.breaches.any (fun b => b.rail == r && b.active) = false → Completes (.railOutOfWindow r) s (fun t =>
        t.saf.railsOk = false ∧ t.saf.dangRail = satAdd s.saf.dangRail 1
        ∧ t.saf.breaches.any (fun b => b.rail == r && b.active && b.since == s.clk.aon) = true ∧ t.mem = s.mem))
      ∧ (s.saf.breaches.any (fun b => b.rail == r && b.active && !b.aborted && decide (b.since + msCycles 10 ≤ s.clk.aon)) = true →
        Completes (.railBreachAbort r) s (fun t =>
          (∀ j ∈ s.jobs, j.holds = true → j.fleet = false → s.toChip.railAffects r j = true → t.toChip.job? j.id = none)
          ∧ (∀ b ∈ t.saf.breaches, b.rail = r → b.aborted = true) ∧ t.mem = s.mem))
      ∧ (s.saf.breaches.any (fun b => b.rail == r && b.active) = true → Completes (.railReturn r) s (fun t =>
        (∀ b ∈ t.saf.breaches, b.rail = r → b.active = false)
        ∧ (s.start.powerGood = true → (∀ b ∈ s.saf.breaches, b.active = true → b.rail = r) → t.saf.railsOk = true)
        ∧ t.toChip = { s.toChip with saf := t.saf })))
    ∧ (s.start.powerGood = true → s.cfg.writing = none → Completes .mainPowerLoss s (fun t =>
      t.start.powerGood = false ∧ t.jobs = [] ∧ t.sch.images = [] ∧ t.cfg.loaded = false ∧ t.dev = s.dev
      ∧ t.vault = { s.vault with read := false } ∧ t.log.retain = s.log.retain ∧ t.lvl = s.lvl
      ∧ t.mem = { hbm := [], rstg := [], cstg := [], tiers := s.mem.tiers, ledger := s.mem.ledger, flash := s.mem.flash }))
    ∧ (s.cfg.writing = none → Completes .powerOff s (fun t =>
      t.vault = { s.vault with read := false } ∧ t.dev = s.dev ∧ t.mon.bank0 = s.mon.bank0 ∧ t.mon.bank1 = s.mon.bank1
      ∧ t.mem = { hbm := [], rstg := [], cstg := [], tiers := s.mem.tiers, ledger := s.mem.ledger, flash := s.mem.flash }
      ∧ t.start = {} ∧ t.cfg = {} ∧ t.acc = {} ∧ t.sch = {} ∧ t.jobs = [] ∧ t.regions = [] ∧ t.arrays = [] ∧ t.tiers = [] ∧ t.log = {}))
    ∧ (s.start.powerGood = false → Completes .powerGood s (fun t =>
      t.start.powerGood = true ∧ t.start.phase = (if s.start.powered then 1 else 0) ∧ t.start.ready = false ∧ t.start.since = s.clk.aon
      ∧ t.clk.refclkOk = true ∧ t.toChip = { s.toChip with start := t.start, clk := t.clk, saf := t.saf }))

/-- The start-up phases (R325 to R327, R329, R342, R346, R404): each runs in its turn and passes on to the next; a vault or key that
fails, no valid configuration, a calibration that fails lead to the recovery state with their reasons; phase 8 makes the device ready.
What a repeat of phase 3 restores, and what idle free regions count, are the model's choices (log entries 94 and 103). -/
def Obligations.StartupPhasesComplete : Prop :=
  ∀ s : State,
    (s.toChip.inPhase 0 = true → s.start.powered = false → Completes .resetRelease s (fun t =>
      t.start.powered = true ∧ t.start.phase = 1 ∧ t.clk.masterLock = s.clk.refclkOk
      ∧ t.toChip = { s.toChip with start := t.start, clk := t.clk }))
    ∧ (s.toChip.inPhase 1 = true →
      Completes (.identityPhase true) s (fun t =>
        t.vault.read = true ∧ t.start.phase = 2 ∧ t.toChip = { s.toChip with vault := t.vault, start := t.start })
      ∧ Completes (.identityPhase false) s (fun t =>
        t.start = { s.start with recovery := true, reason := 1, phase := 3 } ∧ t.toChip = { s.toChip with start := t.start }))
    ∧ (∀ bad0 bad1 : Bool, s.toChip.inPhase 2 = true →
      let r0 := verifyConfig s.vault bad0 (s.toChip.flashCopy false)
      let r1 := verifyConfig s.vault bad1 (s.toChip.flashCopy true)
      Completes (.configurationPhase bad0 bad1) s (fun t =>
        t.start.phase = 3 ∧ t.cfg.reason0 = BitVec.ofNat 4 r0 ∧ t.cfg.reason1 = BitVec.ofNat 4 r1
        ∧ (r0 ≠ 0 → r1 ≠ 0 → t.cfg.loaded = false ∧ t.start.recovery = true ∧ t.start.reason = 2)
        ∧ (r0 = 0 → r1 ≠ 0 → t.cfg.loaded = true ∧ t.cfg.inUse = 0 ∧ t.start.recovery = false
            ∧ t.cfg.sequence = BitVec.ofNat 32 (leAt (s.toChip.flashCopy false) 0xC 4))
        ∧ (r0 ≠ 0 → r1 = 0 → t.cfg.loaded = true ∧ t.cfg.inUse = 1 ∧ t.start.recovery = false
            ∧ t.cfg.sequence = BitVec.ofNat 32 (leAt (s.toChip.flashCopy true) 0xC 4))
        ∧ t.toChip = { s.toChip with cfg := t.cfg, start := t.start }))
    ∧ (∀ (failed : List (Fin 8 × Fin 32)) (b0 b1 : BankState) (bad : List LedgerMiss), s.toChip.inPhase 3 = true → s.start.memory = false →
      Completes (.memoryPhase failed b0 b1 bad) s (fun t =>
        t.start = { s.start with restored := true, memory := true, cold := false, phase := if s.start.recovery then s.start.phase else 4 }
        ∧ t.mem = { s.mem with hbm := t.mem.hbm, tiers := t.mem.tiers }))
    ∧ (s.toChip.inPhase 4 = true →
      (Completes (.benchmarkSelfTest []) s (fun t =>
        t.start.phase = 5 ∧ t.toChip = { s.toChip with start := t.start }))
      ∧ (∀ (g : Fin 16) (k : Fin 34) (a : Fin 17), Completes (.benchmarkSelfTest [.periphery g k a]) s (fun t =>
        (t.toChip.arr ((g.val * 34 + k.val) * 17 + a.val)).retiredPeri = true ∧ t.start.phase = 5)))
    ∧ (∀ rs : List Int, s.toChip.inPhase 5 = true → rs.length = 8 →
      (∀ o gr, calibration rs = some (o, gr) → Completes (.levelCalibrationPhase rs) s (fun t =>
        t.start.phase = 6 ∧ t.lvl.offset = BitVec.ofInt 32 o ∧ t.lvl.gain = BitVec.ofNat 32 gr ∧ (∀ k, k < 91 → t.lvl.mask.getLsbD k = true)
        ∧ t.toChip = { s.toChip with start := t.start, lvl := t.lvl }))
      ∧ (calibration rs = none → Completes (.levelCalibrationPhase rs) s (fun t =>
        t.start = { s.start with recovery := true, reason := 5 } ∧ t.toChip = { s.toChip with start := t.start })))
    ∧ (s.toChip.inPhase 6 = true → s.saf.remedies = [] → Completes (.lightPhase [] []) s (fun t =>
      t.start.phase = 7 ∧ (∀ k, k < 39168 → (s.toChip.plot (k / 18)).state ≠ 4 → (t.toChip.bank k).lock = 3) ∧ t.mem = s.mem))
    ∧ (s.toChip.inPhase 7 = true → ∀ rs : List (SurveyUnit × SurveyResult), Completes (.surveyPhase rs) s (fun t =>
      t.start.phase = 8 ∧ t.mem = s.mem))
    ∧ (s.toChip.inPhase 8 = true → Completes (.linksPhase []) s (fun t =>
      t.start.ready = true
      ∧ (s.cfg.class0 = false → t.toChip = { s.toChip with start := t.start })
      ∧ (s.cfg.class0 = true → ∀ g, g < 16 → (s.toChip.region g).lost = false → (t.toChip.region g).power = 3)
      ∧ t.mem = s.mem))

/-! ## Configuration, access, identity, test port -/

/-- Configuration writes and access levels (R331, R390 to R392, R395): a valid image with a higher sequence goes to the copy not in use,
one that does not verify is answered with its reason; a copy is there once read back; a password that matches gives level 1 for 900 s, one
that does not is counted and the third locks out for 60 s; a challenge holds 300 s, a request in order gives level 2 for its seconds;
levels, lockouts and challenges end at their times. That a failed copy reads as zeros, copy 1 as destination in recovery, and the orders
of tests are the model's choices (log entries 46, 83, 84 and 85). -/
def Obligations.ConfigurationAndAccessComplete : Prop :=
  ∀ s : State,
    let a := s.acc
    let b := readWindow s.mem.hbm 0 s.cfg.src.toNat cfgLength
    let dest := !(s.cfg.loaded && s.cfg.inUse == 1)
    (s.cfg.writing = none → s.start.ready = true → s.start.recovery = false → s.toChip.tapHolds = false → s.cfg.src.toNat % 16 = 0 →
      s.cfg.src.toNat + cfgLength ≤ dataSpace →
      Completes .configWrite s (fun t =>
        (verifyConfig s.vault false b = 0 → (∀ n ∈ s.toChip.copySequences, n < leAt b 0xC 4) →
          t.cfg.result = 1 ∧ t.cfg.writing = some dest ∧ t.toChip.flashCopy dest = b
          ∧ sameOutside s.mem.flash t.mem.flash (copyBase dest) cfgLength
          ∧ t.toChip = { s.toChip with cfg := t.cfg, mem := { s.mem with flash := t.mem.flash } })
        ∧ (verifyConfig s.vault false b ≠ 0 →
          t.toChip = { s.toChip with
            cfg := { s.cfg with result := 4, verify := BitVec.ofNat 4 (verifyConfig s.vault false b) } })))
    ∧ (∀ copy, s.cfg.writing = some copy →
      Completes (.configWriteDone true) s (fun t => t.toChip = { s.toChip with cfg := { s.cfg with writing := none, result := 2 } })
      ∧ Completes (.configWriteDone false) s (fun t =>
        t.cfg = { s.cfg with writing := none, result := 7 } ∧ (∀ x ∈ t.toChip.flashCopy copy, x = 0)
        ∧ t.toChip = { s.toChip with cfg := t.cfg, mem := { s.mem with flash := t.mem.flash } }))
    ∧ (∀ n : BitVec 7, s.cfg.access.getLsbD 0 = true → s.toChip.lockedOut = false → 8 ≤ n.toNat → n.toNat ≤ 64 →
      let given := s.cfg.salt ++ a.pw.take n.toNat ++ List.replicate (n.toNat - a.pw.length) 0
      (sha512Field given = s.cfg.verifier → a.level ≠ 2 → Completes (.accessPassword n) s (fun t =>
        t.acc = { a with pw := [], failures := 0, lockoutLen := 0, lockoutUntil := none, result := 2, level := 1, expiry := s.clk.aon + secCycles 900 }
        ∧ t.toChip = { s.toChip with acc := t.acc }))
      ∧ (sha512Field given ≠ s.cfg.verifier → Completes (.accessPassword n) s (fun t =>
        t.acc.level = a.level ∧ t.acc.result = 8 ∧ t.acc.pw = [] ∧ t.acc.failures = satAdd a.failures 1
        ∧ (a.failures = 2 → a.lockoutLen = 0 → t.acc.lockoutUntil = some (s.clk.aon + secCycles 60))
        ∧ t.toChip = { s.toChip with acc := t.acc })))
    ∧ Completes .accessChallenge s (fun t =>
        t.acc.challenge.map (·.2) = some (s.clk.aon + secCycles 300) ∧ t.acc.result = 2 ∧ t.acc.level = a.level
        ∧ t.toChip = { s.toChip with acc := t.acc, freeCtr := t.freeCtr })
    ∧ (∀ d, a.src.toNat + 196 ≤ dataSpace → s.toChip.requestGood (readWindow s.mem.hbm 0 a.src.toNat 196) = some d →
      Completes .accessSignedRequest s (fun t =>
        t.toChip = { s.toChip with acc := { a with level := 2, expiry := s.clk.aon + secCycles d, challenge := none, result := 2 } }))
    ∧ Completes .accessReturnLevel0 s (fun t =>
        t.toChip = { s.toChip with acc := { a with level := 0, expiry := 0, tap := .idle, result := 2 } })
    ∧ (a.level ≠ 0 → a.expiry ≤ s.clk.aon → Completes .accessExpiry s (fun t =>
        t.toChip = { s.toChip with acc := { a with level := 0, expiry := 0, tap := .idle } }))
    ∧ (∀ until_, a.lockoutUntil = some until_ → until_ ≤ s.clk.aon → Completes .lockoutEnd s (fun t =>
        t.toChip = { s.toChip with acc := { a with lockoutUntil := none } }))
    ∧ (∀ ch until_, a.challenge = some (ch, until_) → until_ ≤ s.clk.aon → Completes .challengeExpiry s (fun t =>
        t.toChip = { s.toChip with acc := { a with challenge := none } }))

/-- Attestation, the owner key, the diagnostic window, the test port (R387 to R389, R393, R394): a free report area is attested, and the
report's body is written there; a record in order gives the owner key and level 0; a diagnostic read at level 1 or 2 gives its 16 bytes;
the test port takes its instructions at level 2 and none at another. The bytes of diagnostic spaces that the spec does not give, and which
commands recovery leaves open, are the model's choices (log entries 86 and 105). -/
def Obligations.IdentityCommandsComplete : Prop :=
  ∀ s : State,
    let a := s.acc
    (a.attesting = none → a.src.toNat % 16 = 0 → a.dst.toNat % 16 = 0 → s.toChip.dataFree a.src.toNat 64 = true →
      s.toChip.dataFree a.dst.toNat 2516 = true →
      Completes .attest s (fun t =>
        t.toChip = { s.toChip with acc := { a with attesting := some (a.src.toNat, a.dst.toNat), keyResult := 1 } }))
    ∧ (∀ src dst, a.attesting = some (src, dst) → dst + 2516 ≤ dataSpace → s.sch.images.length ≤ 64 →
      Completes .attestationReportWritten s (fun t =>
        (∀ n b, (s.toChip.reportBody (readWindow s.mem.hbm 0 src 64))[n]? = some b → getByte t.mem.hbm (windowAddr 0 (dst + n)) = b)
        ∧ t.acc = { a with attesting := none, keyResult := 2 } ∧ t.mem = { s.mem with hbm := t.mem.hbm }))
    ∧ (∀ k, a.attesting = none → a.src.toNat + 308 ≤ dataSpace → s.start.recovery = false →
      s.toChip.recordKey (readWindow s.mem.hbm 0 a.src.toNat 308) = some k →
      Completes .ownerRecord s (fun t =>
        t.vault.ownerKey = some k
        ∧ t.vault.ownerSeq = BitVec.ofNat 32 (leAt (readWindow s.mem.hbm 0 a.src.toNat 308) 24 4)
        ∧ t.acc = { a with level := 0, expiry := 0, tap := .idle, keyResult := 2 }
        ∧ t.toChip = { s.toChip with vault := t.vault, acc := t.acc }))
    ∧ (a.level ≠ 0 → Completes .diagRead s (fun t =>
        (∀ d, s.toChip.diagBytes a.diagSpace.toNat a.diagAddr.toNat = some d → t.acc.diagData = d ∧ t.acc.diagOut = false)
        ∧ (s.toChip.diagBytes a.diagSpace.toNat a.diagAddr.toNat = none → t.acc.diagData = List.replicate 16 0 ∧ t.acc.diagOut = true)
        ∧ t.toChip = { s.toChip with acc := t.acc }))
    ∧ (a.level = 2 → ∀ chain : List Bool,
      Completes .tapBypass s (fun t => t.toChip = { s.toChip with acc := { a with tap := .bypass, scan := [false] } })
      ∧ Completes .tapIdcode s (fun t =>
          t.toChip = { s.toChip with acc := { a with tap := .idcode, scan := (List.range 32).map (fun k => bitOf 0x05A1623D k) } })
      ∧ Completes (.tapSamplePreload chain) s (fun t =>
          t.toChip = { s.toChip with acc := { a with tap := .samplePreload, scan := chain, chain := chain } })
      ∧ Completes .tapExtest s (fun t => t.toChip = { s.toChip with acc := { a with tap := .extest, scan := a.chain } })
      ∧ Completes .tapClamp s (fun t => t.toChip = { s.toChip with acc := { a with tap := .clamp, scan := [false] } })
      ∧ Completes .tapHighz s (fun t => t.toChip = { s.toChip with acc := { a with tap := .highz, scan := [false] } }))
    ∧ (a.level ≠ 2 → ∀ chain : List Bool,
      exec .tapBypass s = .next s ∧ exec .tapIdcode s = .next s ∧ exec (.tapSamplePreload chain) s = .next s
      ∧ exec .tapExtest s = .next s ∧ exec .tapClamp s = .next s ∧ exec .tapHighz s = .next s)

/-! ## Frames -/

/-- What the stream instructions leave alone: SYN, arrays and the cox, optics, STG, VEC and XCH change nothing but the parts that their rules
name and those that a fault of theirs changes; every other register, table, queue and memory of the block is as it was. -/
def Obligations.StreamCommandFrames : Prop := ∀ (i : Instr) (s : State), commandFamily i = .stream → framed i s

/-- What strokes, jobs, loading, register packets, bulk data and the frames of the host ports leave alone. -/
def Obligations.HostCommandFrames : Prop := ∀ (i : Instr) (s : State), commandFamily i = .host → framed i s

/-- What the commands of tiers and swaps, surveys and their store, temperature, the level, light and HBM leave alone. -/
def Obligations.UnitCommandFrames : Prop := ∀ (i : Instr) (s : State), commandFamily i = .unit → framed i s

/-- What the commands of the Lamni links, the fleet, power and start-up, configuration, access, audit and the test port leave alone. -/
def Obligations.LinkAndPlantCommandFrames : Prop := ∀ (i : Instr) (s : State), commandFamily i = .link → framed i s

/-! ## Reset and invariants -/

/-- Reset (R404, R413): the queue and every list of jobs, images and events empty, start-up not begun, access level 0, every tier blank,
the registers at the values that the register tables give: lane maps 0x76543210, the smallest lead 0xFFFF, the gain of the level 2^22.
That state no register shows is empty, and what the part's own records hold, are the model's choices (log entries 8 and 12). -/
def Obligations.ResetIsAsTheTablesSay : Prop :=
  State.reset.pending = [] ∧ State.reset.jobs = [] ∧ State.reset.sch.images = [] ∧ State.reset.log.rings = []
  ∧ State.reset.start.powerGood = false ∧ State.reset.start.phase = 0 ∧ State.reset.start.ready = false ∧ State.reset.acc.level = 0
  ∧ (∀ T, (State.reset.toChip.tier T).st = .blank)
  ∧ (∀ p, p < 16 → (State.reset.toChip.port p).mapRx = 0x76543210 ∧ (State.reset.toChip.port p).mapTx = 0x76543210
      ∧ (State.reset.toChip.port p).minLead = 0xFFFF)
  ∧ State.reset.lvl.gain = 0x400000 ∧ State.reset.lvl.offset = 0 ∧ State.reset.memOk

/-- Whatever a step does, every memory of the block keeps its canonical form: addresses strictly rising, no byte listed that an unlisted
address reads as. Equal contents of HBM, staging, tier images, ledger and flash are equal data, in every state that a step reaches. What
an unwritten byte of HBM or flash reads as is the model's choice (log entries 2 and 11). -/
def Obligations.MemoriesStayCanonical : Prop := ∀ s t : State, s.memOk → step s = .next t → t.memOk
end

