-- ==== Sys2Proof/Laws/Tables.lean ====
section
/-! SUPPORT. Sparse tables and byte memories: a read after a write, and every operation keeps the canonical form. -/

namespace Sys2Proof.Machine

/-! ## Reads after writes -/

theorem look_drop_same {V : Type} (d : V) (m : SMap V) (i : Nat) : look d (drop m i) i = d := by
  induction m with
  | nil => rfl
  | cons p m ih =>
    obtain ⟨k, v⟩ := p
    by_cases h : i = k
    · subst h
      simpa [drop] using ih
    · simp [drop, look, h, ih]

theorem look_drop_ne {V : Type} (d : V) (m : SMap V) {i j : Nat} (h : j ≠ i) : look d (drop m i) j = look d m j := by
  induction m with
  | nil => rfl
  | cons p m ih =>
    obtain ⟨k, v⟩ := p
    by_cases hk : i = k
    · subst hk
      simp [drop, look, h, ih]
    · by_cases hj : j = k <;> simp [drop, look, hk, hj, ih]

theorem look_insertAt_same {V : Type} (d : V) (m : SMap V) (i : Nat) (v : V) : look d (insertAt m i v) i = v := by
  induction m with
  | nil => simp [insertAt, look]
  | cons p m ih =>
    obtain ⟨k, w⟩ := p
    unfold insertAt
    split
    · simp [look]
    · split
      · simp [look]
      · rename_i h
        simp [look, h, ih]

theorem look_insertAt_ne {V : Type} (d : V) (m : SMap V) {i j : Nat} (v : V) (h : j ≠ i) :
    look d (insertAt m i v) j = look d m j := by
  induction m with
  | nil => simp [insertAt, look, h]
  | cons p m ih =>
    obtain ⟨k, w⟩ := p
    unfold insertAt
    split
    · simp [look, h]
    · split
      · rename_i hk
        subst hk
        simp [look, h]
      · by_cases hj : j = k <;> simp [look, hj, ih]

/-- A read of the key written gives the value written. -/
theorem look_put_same {V : Type} [DecidableEq V] (d : V) (m : SMap V) (i : Nat) (v : V) : look d (put d m i v) i = v := by
  unfold put
  split
  · rename_i h
    rw [h, look_drop_same]
  · exact look_insertAt_same ..

/-- A write leaves every other key; the two defaults may differ. -/
theorem look_put_ne' {V : Type} [DecidableEq V] (d e : V) (m : SMap V) {i j : Nat} (v : V) (h : j ≠ i) :
    look e (put d m i v) j = look e m j := by
  unfold put
  split
  · exact look_drop_ne e m h
  · exact look_insertAt_ne e m v h

/-- A write leaves every other key. -/
theorem look_put_ne {V : Type} [DecidableEq V] (d : V) (m : SMap V) {i j : Nat} (v : V) (h : j ≠ i) :
    look d (put d m i v) j = look d m j := look_put_ne' d d m v h

/-! ## Bytes -/

@[simp] theorem getByte_setByte_same (m : Mem) (a : Nat) (b : Byte) : getByte (setByte m a b) a = b := look_put_same ..

theorem getByte_setByte_ne (m : Mem) (a x : Nat) (b : Byte) (h : x ≠ a) : getByte (setByte m a b) x = getByte m x :=
  look_put_ne _ _ _ h

/-- Bytes outside the range written stay. -/
theorem getByte_writeBytes_outside (m : Mem) (a : Nat) (l : List Byte) (x : Nat) (h : x < a ∨ a + l.length ≤ x) :
    getByte (writeBytes m a l) x = getByte m x := by
  induction l generalizing m a with
  | nil => rfl
  | cons b l ih =>
    simp only [List.length_cons] at h
    rw [writeBytes, ih _ _ (by omega), getByte_setByte_ne _ _ _ _ (by omega)]

/-- Bytes inside the range written are the ones written. -/
theorem getByte_writeBytes_inside (m : Mem) (a : Nat) (l : List Byte) (k : Nat) (b : Byte) (h : l[k]? = some b) :
    getByte (writeBytes m a l) (a + k) = b := by
  induction l generalizing m a k with
  | nil => simp at h
  | cons c l ih =>
    rw [writeBytes]
    cases k with
    | zero =>
      rw [getByte_writeBytes_outside _ _ _ _ (by omega)]
      simpa using h
    | succ k =>
      have := ih (setByte m a c) (a + 1) k (by simpa using h)
      rwa [show a + 1 + k = a + (k + 1) by omega] at this

@[simp] theorem length_readBytes (m : Mem) (a n : Nat) : (readBytes m a n).length = n := by
  induction n generalizing a with
  | zero => rfl
  | succ n ih => simp [readBytes, ih]

theorem getElem?_readBytes (m : Mem) (a n k : Nat) (h : k < n) : (readBytes m a n)[k]? = some (getByte m (a + k)) := by
  induction n generalizing a k with
  | zero => omega
  | succ n ih =>
    cases k with
    | zero => simp [readBytes]
    | succ k =>
      rw [readBytes, List.getElem?_cons_succ, ih _ _ (by omega)]
      congr 2
      omega

theorem look_filter {V : Type} (d : V) (m : SMap V) (p : Nat → Bool) (x : Nat) :
    look d (m.filter (fun e => p e.1)) x = if p x then look d m x else d := by
  induction m with
  | nil => simp [look]
  | cons e m ih =>
    obtain ⟨k, v⟩ := e
    by_cases hk : p k
    · by_cases hx : x = k
      · simp [look, hx, hk]
      · simp [look, hx, hk, ih]
    · by_cases hx : x = k
      · subst hx
        simp [hk, ih]
      · simp [look, hk, hx, ih]

/-- Zeroing a range: 0 inside, as before outside. -/
theorem getByte_zeroBytes (m : Mem) (a n x : Nat) :
    getByte (zeroBytes m a n) x = if a ≤ x ∧ x < a + n then 0 else getByte m x := by
  unfold getByte zeroBytes
  rw [look_filter 0 m (fun y => !(decide (a ≤ y) && decide (y < a + n)))]
  by_cases h : a ≤ x ∧ x < a + n
  · simp [h]
  · rw [if_neg h, if_pos (by simp only [Bool.not_eq_true', Bool.and_eq_false_iff, decide_eq_false_iff_not]; omega)]

/-! ## The canonical form -/

theorem keysRise_mono {V : Type} {lo lo' : Nat} (h : lo' ≤ lo) (m : SMap V) (hm : keysRise lo m = true) : keysRise lo' m = true := by
  cases m with
  | nil => rfl
  | cons e m =>
    obtain ⟨k, v⟩ := e
    simp only [keysRise, Bool.and_eq_true, decide_eq_true_eq] at hm ⊢
    exact ⟨by omega, hm.2⟩

theorem keysRise_filter {V : Type} (p : Nat × V → Bool) (lo : Nat) (m : SMap V) (h : keysRise lo m = true) :
    keysRise lo (m.filter p) = true := by
  induction m generalizing lo with
  | nil => rfl
  | cons e m ih =>
    obtain ⟨k, v⟩ := e
    simp only [keysRise, Bool.and_eq_true, decide_eq_true_eq] at h
    by_cases hp : p (k, v)
    · simp [hp, keysRise, h.1, ih _ h.2]
    · simp [hp, keysRise_mono (by omega : lo ≤ k + 1) _ (ih _ h.2)]

theorem drop_eq_filter {V : Type} (m : SMap V) (i : Nat) : drop m i = m.filter (fun e => decide (e.1 ≠ i)) := by
  induction m with
  | nil => rfl
  | cons e m ih =>
    obtain ⟨k, v⟩ := e
    by_cases h : i = k
    · subst h
      simpa [drop] using ih
    · have h' : k ≠ i := fun x => h x.symm
      simp [drop, h, h', ih]

theorem keysRise_insertAt {V : Type} (lo : Nat) (m : SMap V) (i : Nat) (v : V) (hi : lo ≤ i) (h : keysRise lo m = true) :
    keysRise lo (insertAt m i v) = true := by
  induction m generalizing lo with
  | nil => simp [insertAt, keysRise, hi]
  | cons e m ih =>
    obtain ⟨k, w⟩ := e
    simp only [keysRise, Bool.and_eq_true, decide_eq_true_eq] at h
    unfold insertAt
    split
    · simp only [keysRise, Bool.and_eq_true, decide_eq_true_eq]
      exact ⟨hi, by omega, h.2⟩
    · split
      · rename_i hk
        subst hk
        simp [keysRise, hi, h.2]
      · simp only [keysRise, Bool.and_eq_true, decide_eq_true_eq]
        exact ⟨h.1, ih _ (by omega) h.2⟩

theorem mem_insertAt {V : Type} (m : SMap V) (i : Nat) (v : V) (e : Nat × V) (h : e ∈ insertAt m i v) : e = (i, v) ∨ e ∈ m := by
  induction m with
  | nil => simpa [insertAt] using h
  | cons q m ih =>
    obtain ⟨k, w⟩ := q
    unfold insertAt at h
    split at h
    · simpa using h
    · split at h
      · rcases List.mem_cons.mp h with h | h
        · exact .inl h
        · exact .inr (List.mem_cons_of_mem _ h)
      · rcases List.mem_cons.mp h with h | h
        · exact .inr (by simp [h])
        · rcases ih h with h | h
          · exact .inl h
          · exact .inr (List.mem_cons_of_mem _ h)

theorem Mem.wf_iff (m : Mem) : m.wf = true ↔ keysRise 0 m = true ∧ ∀ e ∈ m, e.2 ≠ 0 := by
  simp [Mem.wf]

@[simp] theorem Mem.wf_nil : Mem.wf [] = true := rfl

@[simp] theorem Mem.wf_filter (m : Mem) (p : Nat × Byte → Bool) (h : m.wf = true) : Mem.wf (m.filter p) = true := by
  rw [Mem.wf_iff] at h ⊢
  exact ⟨keysRise_filter p 0 m h.1, fun e he => h.2 e (List.mem_filter.mp he).1⟩

@[simp] theorem Mem.wf_setByte (m : Mem) (a : Nat) (b : Byte) (h : m.wf = true) : (setByte m a b).wf = true := by
  unfold setByte put
  split
  · rw [drop_eq_filter]
    exact Mem.wf_filter m _ h
  · rename_i hb
    rw [Mem.wf_iff] at h ⊢
    refine ⟨keysRise_insertAt 0 m a b (Nat.zero_le a) h.1, fun e he => ?_⟩
    rcases mem_insertAt m a b e he with rfl | he
    · exact hb
    · exact h.2 e he

@[simp] theorem Mem.wf_writeBytes (m : Mem) (a : Nat) (l : List Byte) (h : m.wf = true) : (writeBytes m a l).wf = true := by
  induction l generalizing m a with
  | nil => exact h
  | cons b l ih => exact ih _ _ (Mem.wf_setByte m a b h)

@[simp] theorem Mem.wf_zeroBytes (m : Mem) (a n : Nat) (h : m.wf = true) : (zeroBytes m a n).wf = true := Mem.wf_filter m _ h

theorem Mem.wf_foldl {α : Type} (f : Mem → α → Mem) (hf : ∀ m x, m.wf = true → (f m x).wf = true) (l : List α) (m : Mem)
    (h : m.wf = true) : (l.foldl f m).wf = true := by
  induction l generalizing m with
  | nil => exact h
  | cons x l ih => exact ih _ (hf m x h)

end Sys2Proof.Machine
end

