-- ==== Sys2Proof/Laws/State.lean ====
section
/-! SUPPORT. The components of the block: what each change of one component leaves and gives, one lemma per field and change. -/

namespace Sys2Proof.Machine

/-! ## Outcomes -/

/-- What `act` answers. -/
theorem act_next (f : Chip → Chip) (s : State) : act f s = .next { s with toChip := f s.toChip } := rfl

/-- A meaning made of `act` always goes on, changes the block as given, and leaves the queue. -/
theorem act_eq_next {f : Chip → Chip} {s t : State} (h : act f s = .next t) : t.toChip = f s.toChip ∧ t.pending = s.pending := by
  cases h
  exact ⟨rfl, rfl⟩

/-! ## regions -/

@[simp] theorem Chip.upRegion_freeCtr (c : Chip) (k : Nat) (f : Region → Region) : (c.upRegion k f).freeCtr = c.freeCtr := rfl
@[simp] theorem Chip.upRegion_clk (c : Chip) (k : Nat) (f : Region → Region) : (c.upRegion k f).clk = c.clk := rfl
@[simp] theorem Chip.upRegion_start (c : Chip) (k : Nat) (f : Region → Region) : (c.upRegion k f).start = c.start := rfl
@[simp] theorem Chip.upRegion_cfg (c : Chip) (k : Nat) (f : Region → Region) : (c.upRegion k f).cfg = c.cfg := rfl
@[simp] theorem Chip.upRegion_vault (c : Chip) (k : Nat) (f : Region → Region) : (c.upRegion k f).vault = c.vault := rfl
@[simp] theorem Chip.upRegion_acc (c : Chip) (k : Nat) (f : Region → Region) : (c.upRegion k f).acc = c.acc := rfl
@[simp] theorem Chip.upRegion_host (c : Chip) (k : Nat) (f : Region → Region) : (c.upRegion k f).host = c.host := rfl
@[simp] theorem Chip.upRegion_sch (c : Chip) (k : Nat) (f : Region → Region) : (c.upRegion k f).sch = c.sch := rfl
@[simp] theorem Chip.upRegion_jobs (c : Chip) (k : Nat) (f : Region → Region) : (c.upRegion k f).jobs = c.jobs := rfl
@[simp] theorem Chip.upRegion_nextOrder (c : Chip) (k : Nat) (f : Region → Region) : (c.upRegion k f).nextOrder = c.nextOrder := rfl
@[simp] theorem Chip.upRegion_cores (c : Chip) (k : Nat) (f : Region → Region) : (c.upRegion k f).cores = c.cores := rfl
@[simp] theorem Chip.upRegion_seats (c : Chip) (k : Nat) (f : Region → Region) : (c.upRegion k f).seats = c.seats := rfl
@[simp] theorem Chip.upRegion_arrays (c : Chip) (k : Nat) (f : Region → Region) : (c.upRegion k f).arrays = c.arrays := rfl
@[simp] theorem Chip.upRegion_tiers (c : Chip) (k : Nat) (f : Region → Region) : (c.upRegion k f).tiers = c.tiers := rfl
@[simp] theorem Chip.upRegion_peri (c : Chip) (k : Nat) (f : Region → Region) : (c.upRegion k f).peri = c.peri := rfl
@[simp] theorem Chip.upRegion_cells (c : Chip) (k : Nat) (f : Region → Region) : (c.upRegion k f).cells = c.cells := rfl
@[simp] theorem Chip.upRegion_tiles (c : Chip) (k : Nat) (f : Region → Region) : (c.upRegion k f).tiles = c.tiles := rfl
@[simp] theorem Chip.upRegion_accs (c : Chip) (k : Nat) (f : Region → Region) : (c.upRegion k f).accs = c.accs := rfl
@[simp] theorem Chip.upRegion_dev (c : Chip) (k : Nat) (f : Region → Region) : (c.upRegion k f).dev = c.dev := rfl
@[simp] theorem Chip.upRegion_plots (c : Chip) (k : Nat) (f : Region → Region) : (c.upRegion k f).plots = c.plots := rfl
@[simp] theorem Chip.upRegion_lasers (c : Chip) (k : Nat) (f : Region → Region) : (c.upRegion k f).lasers = c.lasers := rfl
@[simp] theorem Chip.upRegion_linkLasers (c : Chip) (k : Nat) (f : Region → Region) : (c.upRegion k f).linkLasers = c.linkLasers := rfl
@[simp] theorem Chip.upRegion_linkSel (c : Chip) (k : Nat) (f : Region → Region) : (c.upRegion k f).linkSel = c.linkSel := rfl
@[simp] theorem Chip.upRegion_groups (c : Chip) (k : Nat) (f : Region → Region) : (c.upRegion k f).groups = c.groups := rfl
@[simp] theorem Chip.upRegion_banks (c : Chip) (k : Nat) (f : Region → Region) : (c.upRegion k f).banks = c.banks := rfl
@[simp] theorem Chip.upRegion_trims (c : Chip) (k : Nat) (f : Region → Region) : (c.upRegion k f).trims = c.trims := rfl
@[simp] theorem Chip.upRegion_hbmStacks (c : Chip) (k : Nat) (f : Region → Region) : (c.upRegion k f).hbmStacks = c.hbmStacks := rfl
@[simp] theorem Chip.upRegion_ports (c : Chip) (k : Nat) (f : Region → Region) : (c.upRegion k f).ports = c.ports := rfl
@[simp] theorem Chip.upRegion_lanes (c : Chip) (k : Nat) (f : Region → Region) : (c.upRegion k f).lanes = c.lanes := rfl
@[simp] theorem Chip.upRegion_fleetOut (c : Chip) (k : Nat) (f : Region → Region) : (c.upRegion k f).fleetOut = c.fleetOut := rfl
@[simp] theorem Chip.upRegion_mon (c : Chip) (k : Nat) (f : Region → Region) : (c.upRegion k f).mon = c.mon := rfl
@[simp] theorem Chip.upRegion_lvl (c : Chip) (k : Nat) (f : Region → Region) : (c.upRegion k f).lvl = c.lvl := rfl
@[simp] theorem Chip.upRegion_saf (c : Chip) (k : Nat) (f : Region → Region) : (c.upRegion k f).saf = c.saf := rfl
@[simp] theorem Chip.upRegion_log (c : Chip) (k : Nat) (f : Region → Region) : (c.upRegion k f).log = c.log := rfl
@[simp] theorem Chip.upRegion_mem (c : Chip) (k : Nat) (f : Region → Region) : (c.upRegion k f).mem = c.mem := rfl
@[simp] theorem Chip.region_upRegion (c : Chip) (k : Nat) (f : Region → Region) : (c.upRegion k f).region k = f (c.region k) := look_put_same ..
theorem Chip.region_upRegion_ne (c : Chip) (k n : Nat) (f : Region → Region) (h : n ≠ k) : (c.upRegion k f).region n = c.region n := look_put_ne _ _ _ h
@[simp] theorem Chip.upRegion_core (c : Chip) (k n : Nat) (f : Region → Region) : (c.upRegion k f).core n = c.core n := rfl
@[simp] theorem Chip.upRegion_arr (c : Chip) (k n : Nat) (f : Region → Region) : (c.upRegion k f).arr n = c.arr n := rfl
@[simp] theorem Chip.upRegion_tier (c : Chip) (k n : Nat) (f : Region → Region) : (c.upRegion k f).tier n = c.tier n := rfl
@[simp] theorem Chip.upRegion_tile (c : Chip) (k n : Nat) (f : Region → Region) : (c.upRegion k f).tile n = c.tile n := rfl
@[simp] theorem Chip.upRegion_plot (c : Chip) (k n : Nat) (f : Region → Region) : (c.upRegion k f).plot n = c.plot n := rfl
@[simp] theorem Chip.upRegion_laser (c : Chip) (k n : Nat) (f : Region → Region) : (c.upRegion k f).laser n = c.laser n := rfl
@[simp] theorem Chip.upRegion_linkLaser (c : Chip) (k n : Nat) (f : Region → Region) : (c.upRegion k f).linkLaser n = c.linkLaser n := rfl
@[simp] theorem Chip.upRegion_group (c : Chip) (k n : Nat) (f : Region → Region) : (c.upRegion k f).group n = c.group n := rfl
@[simp] theorem Chip.upRegion_bank (c : Chip) (k n : Nat) (f : Region → Region) : (c.upRegion k f).bank n = c.bank n := rfl
@[simp] theorem Chip.upRegion_stack (c : Chip) (k n : Nat) (f : Region → Region) : (c.upRegion k f).stack n = c.stack n := rfl
@[simp] theorem Chip.upRegion_port (c : Chip) (k n : Nat) (f : Region → Region) : (c.upRegion k f).port n = c.port n := rfl
@[simp] theorem Chip.upRegion_lane (c : Chip) (k n : Nat) (f : Region → Region) : (c.upRegion k f).lane n = c.lane n := rfl

/-! ## cores -/

@[simp] theorem Chip.upCore_freeCtr (c : Chip) (k : Nat) (f : CoreSt → CoreSt) : (c.upCore k f).freeCtr = c.freeCtr := rfl
@[simp] theorem Chip.upCore_clk (c : Chip) (k : Nat) (f : CoreSt → CoreSt) : (c.upCore k f).clk = c.clk := rfl
@[simp] theorem Chip.upCore_start (c : Chip) (k : Nat) (f : CoreSt → CoreSt) : (c.upCore k f).start = c.start := rfl
@[simp] theorem Chip.upCore_cfg (c : Chip) (k : Nat) (f : CoreSt → CoreSt) : (c.upCore k f).cfg = c.cfg := rfl
@[simp] theorem Chip.upCore_vault (c : Chip) (k : Nat) (f : CoreSt → CoreSt) : (c.upCore k f).vault = c.vault := rfl
@[simp] theorem Chip.upCore_acc (c : Chip) (k : Nat) (f : CoreSt → CoreSt) : (c.upCore k f).acc = c.acc := rfl
@[simp] theorem Chip.upCore_host (c : Chip) (k : Nat) (f : CoreSt → CoreSt) : (c.upCore k f).host = c.host := rfl
@[simp] theorem Chip.upCore_sch (c : Chip) (k : Nat) (f : CoreSt → CoreSt) : (c.upCore k f).sch = c.sch := rfl
@[simp] theorem Chip.upCore_jobs (c : Chip) (k : Nat) (f : CoreSt → CoreSt) : (c.upCore k f).jobs = c.jobs := rfl
@[simp] theorem Chip.upCore_nextOrder (c : Chip) (k : Nat) (f : CoreSt → CoreSt) : (c.upCore k f).nextOrder = c.nextOrder := rfl
@[simp] theorem Chip.upCore_regions (c : Chip) (k : Nat) (f : CoreSt → CoreSt) : (c.upCore k f).regions = c.regions := rfl
@[simp] theorem Chip.upCore_seats (c : Chip) (k : Nat) (f : CoreSt → CoreSt) : (c.upCore k f).seats = c.seats := rfl
@[simp] theorem Chip.upCore_arrays (c : Chip) (k : Nat) (f : CoreSt → CoreSt) : (c.upCore k f).arrays = c.arrays := rfl
@[simp] theorem Chip.upCore_tiers (c : Chip) (k : Nat) (f : CoreSt → CoreSt) : (c.upCore k f).tiers = c.tiers := rfl
@[simp] theorem Chip.upCore_peri (c : Chip) (k : Nat) (f : CoreSt → CoreSt) : (c.upCore k f).peri = c.peri := rfl
@[simp] theorem Chip.upCore_cells (c : Chip) (k : Nat) (f : CoreSt → CoreSt) : (c.upCore k f).cells = c.cells := rfl
@[simp] theorem Chip.upCore_tiles (c : Chip) (k : Nat) (f : CoreSt → CoreSt) : (c.upCore k f).tiles = c.tiles := rfl
@[simp] theorem Chip.upCore_accs (c : Chip) (k : Nat) (f : CoreSt → CoreSt) : (c.upCore k f).accs = c.accs := rfl
@[simp] theorem Chip.upCore_dev (c : Chip) (k : Nat) (f : CoreSt → CoreSt) : (c.upCore k f).dev = c.dev := rfl
@[simp] theorem Chip.upCore_plots (c : Chip) (k : Nat) (f : CoreSt → CoreSt) : (c.upCore k f).plots = c.plots := rfl
@[simp] theorem Chip.upCore_lasers (c : Chip) (k : Nat) (f : CoreSt → CoreSt) : (c.upCore k f).lasers = c.lasers := rfl
@[simp] theorem Chip.upCore_linkLasers (c : Chip) (k : Nat) (f : CoreSt → CoreSt) : (c.upCore k f).linkLasers = c.linkLasers := rfl
@[simp] theorem Chip.upCore_linkSel (c : Chip) (k : Nat) (f : CoreSt → CoreSt) : (c.upCore k f).linkSel = c.linkSel := rfl
@[simp] theorem Chip.upCore_groups (c : Chip) (k : Nat) (f : CoreSt → CoreSt) : (c.upCore k f).groups = c.groups := rfl
@[simp] theorem Chip.upCore_banks (c : Chip) (k : Nat) (f : CoreSt → CoreSt) : (c.upCore k f).banks = c.banks := rfl
@[simp] theorem Chip.upCore_trims (c : Chip) (k : Nat) (f : CoreSt → CoreSt) : (c.upCore k f).trims = c.trims := rfl
@[simp] theorem Chip.upCore_hbmStacks (c : Chip) (k : Nat) (f : CoreSt → CoreSt) : (c.upCore k f).hbmStacks = c.hbmStacks := rfl
@[simp] theorem Chip.upCore_ports (c : Chip) (k : Nat) (f : CoreSt → CoreSt) : (c.upCore k f).ports = c.ports := rfl
@[simp] theorem Chip.upCore_lanes (c : Chip) (k : Nat) (f : CoreSt → CoreSt) : (c.upCore k f).lanes = c.lanes := rfl
@[simp] theorem Chip.upCore_fleetOut (c : Chip) (k : Nat) (f : CoreSt → CoreSt) : (c.upCore k f).fleetOut = c.fleetOut := rfl
@[simp] theorem Chip.upCore_mon (c : Chip) (k : Nat) (f : CoreSt → CoreSt) : (c.upCore k f).mon = c.mon := rfl
@[simp] theorem Chip.upCore_lvl (c : Chip) (k : Nat) (f : CoreSt → CoreSt) : (c.upCore k f).lvl = c.lvl := rfl
@[simp] theorem Chip.upCore_saf (c : Chip) (k : Nat) (f : CoreSt → CoreSt) : (c.upCore k f).saf = c.saf := rfl
@[simp] theorem Chip.upCore_log (c : Chip) (k : Nat) (f : CoreSt → CoreSt) : (c.upCore k f).log = c.log := rfl
@[simp] theorem Chip.upCore_mem (c : Chip) (k : Nat) (f : CoreSt → CoreSt) : (c.upCore k f).mem = c.mem := rfl
@[simp] theorem Chip.core_upCore (c : Chip) (k : Nat) (f : CoreSt → CoreSt) : (c.upCore k f).core k = f (c.core k) := look_put_same ..
theorem Chip.core_upCore_ne (c : Chip) (k n : Nat) (f : CoreSt → CoreSt) (h : n ≠ k) : (c.upCore k f).core n = c.core n := look_put_ne _ _ _ h
@[simp] theorem Chip.upCore_region (c : Chip) (k n : Nat) (f : CoreSt → CoreSt) : (c.upCore k f).region n = c.region n := rfl
@[simp] theorem Chip.upCore_arr (c : Chip) (k n : Nat) (f : CoreSt → CoreSt) : (c.upCore k f).arr n = c.arr n := rfl
@[simp] theorem Chip.upCore_tier (c : Chip) (k n : Nat) (f : CoreSt → CoreSt) : (c.upCore k f).tier n = c.tier n := rfl
@[simp] theorem Chip.upCore_tile (c : Chip) (k n : Nat) (f : CoreSt → CoreSt) : (c.upCore k f).tile n = c.tile n := rfl
@[simp] theorem Chip.upCore_plot (c : Chip) (k n : Nat) (f : CoreSt → CoreSt) : (c.upCore k f).plot n = c.plot n := rfl
@[simp] theorem Chip.upCore_laser (c : Chip) (k n : Nat) (f : CoreSt → CoreSt) : (c.upCore k f).laser n = c.laser n := rfl
@[simp] theorem Chip.upCore_linkLaser (c : Chip) (k n : Nat) (f : CoreSt → CoreSt) : (c.upCore k f).linkLaser n = c.linkLaser n := rfl
@[simp] theorem Chip.upCore_group (c : Chip) (k n : Nat) (f : CoreSt → CoreSt) : (c.upCore k f).group n = c.group n := rfl
@[simp] theorem Chip.upCore_bank (c : Chip) (k n : Nat) (f : CoreSt → CoreSt) : (c.upCore k f).bank n = c.bank n := rfl
@[simp] theorem Chip.upCore_stack (c : Chip) (k n : Nat) (f : CoreSt → CoreSt) : (c.upCore k f).stack n = c.stack n := rfl
@[simp] theorem Chip.upCore_port (c : Chip) (k n : Nat) (f : CoreSt → CoreSt) : (c.upCore k f).port n = c.port n := rfl
@[simp] theorem Chip.upCore_lane (c : Chip) (k n : Nat) (f : CoreSt → CoreSt) : (c.upCore k f).lane n = c.lane n := rfl

/-! ## arrays -/

@[simp] theorem Chip.upArr_freeCtr (c : Chip) (k : Nat) (f : Arr → Arr) : (c.upArr k f).freeCtr = c.freeCtr := rfl
@[simp] theorem Chip.upArr_clk (c : Chip) (k : Nat) (f : Arr → Arr) : (c.upArr k f).clk = c.clk := rfl
@[simp] theorem Chip.upArr_start (c : Chip) (k : Nat) (f : Arr → Arr) : (c.upArr k f).start = c.start := rfl
@[simp] theorem Chip.upArr_cfg (c : Chip) (k : Nat) (f : Arr → Arr) : (c.upArr k f).cfg = c.cfg := rfl
@[simp] theorem Chip.upArr_vault (c : Chip) (k : Nat) (f : Arr → Arr) : (c.upArr k f).vault = c.vault := rfl
@[simp] theorem Chip.upArr_acc (c : Chip) (k : Nat) (f : Arr → Arr) : (c.upArr k f).acc = c.acc := rfl
@[simp] theorem Chip.upArr_host (c : Chip) (k : Nat) (f : Arr → Arr) : (c.upArr k f).host = c.host := rfl
@[simp] theorem Chip.upArr_sch (c : Chip) (k : Nat) (f : Arr → Arr) : (c.upArr k f).sch = c.sch := rfl
@[simp] theorem Chip.upArr_jobs (c : Chip) (k : Nat) (f : Arr → Arr) : (c.upArr k f).jobs = c.jobs := rfl
@[simp] theorem Chip.upArr_nextOrder (c : Chip) (k : Nat) (f : Arr → Arr) : (c.upArr k f).nextOrder = c.nextOrder := rfl
@[simp] theorem Chip.upArr_regions (c : Chip) (k : Nat) (f : Arr → Arr) : (c.upArr k f).regions = c.regions := rfl
@[simp] theorem Chip.upArr_cores (c : Chip) (k : Nat) (f : Arr → Arr) : (c.upArr k f).cores = c.cores := rfl
@[simp] theorem Chip.upArr_seats (c : Chip) (k : Nat) (f : Arr → Arr) : (c.upArr k f).seats = c.seats := rfl
@[simp] theorem Chip.upArr_tiers (c : Chip) (k : Nat) (f : Arr → Arr) : (c.upArr k f).tiers = c.tiers := rfl
@[simp] theorem Chip.upArr_peri (c : Chip) (k : Nat) (f : Arr → Arr) : (c.upArr k f).peri = c.peri := rfl
@[simp] theorem Chip.upArr_cells (c : Chip) (k : Nat) (f : Arr → Arr) : (c.upArr k f).cells = c.cells := rfl
@[simp] theorem Chip.upArr_tiles (c : Chip) (k : Nat) (f : Arr → Arr) : (c.upArr k f).tiles = c.tiles := rfl
@[simp] theorem Chip.upArr_accs (c : Chip) (k : Nat) (f : Arr → Arr) : (c.upArr k f).accs = c.accs := rfl
@[simp] theorem Chip.upArr_dev (c : Chip) (k : Nat) (f : Arr → Arr) : (c.upArr k f).dev = c.dev := rfl
@[simp] theorem Chip.upArr_plots (c : Chip) (k : Nat) (f : Arr → Arr) : (c.upArr k f).plots = c.plots := rfl
@[simp] theorem Chip.upArr_lasers (c : Chip) (k : Nat) (f : Arr → Arr) : (c.upArr k f).lasers = c.lasers := rfl
@[simp] theorem Chip.upArr_linkLasers (c : Chip) (k : Nat) (f : Arr → Arr) : (c.upArr k f).linkLasers = c.linkLasers := rfl
@[simp] theorem Chip.upArr_linkSel (c : Chip) (k : Nat) (f : Arr → Arr) : (c.upArr k f).linkSel = c.linkSel := rfl
@[simp] theorem Chip.upArr_groups (c : Chip) (k : Nat) (f : Arr → Arr) : (c.upArr k f).groups = c.groups := rfl
@[simp] theorem Chip.upArr_banks (c : Chip) (k : Nat) (f : Arr → Arr) : (c.upArr k f).banks = c.banks := rfl
@[simp] theorem Chip.upArr_trims (c : Chip) (k : Nat) (f : Arr → Arr) : (c.upArr k f).trims = c.trims := rfl
@[simp] theorem Chip.upArr_hbmStacks (c : Chip) (k : Nat) (f : Arr → Arr) : (c.upArr k f).hbmStacks = c.hbmStacks := rfl
@[simp] theorem Chip.upArr_ports (c : Chip) (k : Nat) (f : Arr → Arr) : (c.upArr k f).ports = c.ports := rfl
@[simp] theorem Chip.upArr_lanes (c : Chip) (k : Nat) (f : Arr → Arr) : (c.upArr k f).lanes = c.lanes := rfl
@[simp] theorem Chip.upArr_fleetOut (c : Chip) (k : Nat) (f : Arr → Arr) : (c.upArr k f).fleetOut = c.fleetOut := rfl
@[simp] theorem Chip.upArr_mon (c : Chip) (k : Nat) (f : Arr → Arr) : (c.upArr k f).mon = c.mon := rfl
@[simp] theorem Chip.upArr_lvl (c : Chip) (k : Nat) (f : Arr → Arr) : (c.upArr k f).lvl = c.lvl := rfl
@[simp] theorem Chip.upArr_saf (c : Chip) (k : Nat) (f : Arr → Arr) : (c.upArr k f).saf = c.saf := rfl
@[simp] theorem Chip.upArr_log (c : Chip) (k : Nat) (f : Arr → Arr) : (c.upArr k f).log = c.log := rfl
@[simp] theorem Chip.upArr_mem (c : Chip) (k : Nat) (f : Arr → Arr) : (c.upArr k f).mem = c.mem := rfl
@[simp] theorem Chip.arr_upArr (c : Chip) (k : Nat) (f : Arr → Arr) : (c.upArr k f).arr k = f (c.arr k) := look_put_same ..
theorem Chip.arr_upArr_ne (c : Chip) (k n : Nat) (f : Arr → Arr) (h : n ≠ k) : (c.upArr k f).arr n = c.arr n := look_put_ne _ _ _ h
@[simp] theorem Chip.upArr_region (c : Chip) (k n : Nat) (f : Arr → Arr) : (c.upArr k f).region n = c.region n := rfl
@[simp] theorem Chip.upArr_core (c : Chip) (k n : Nat) (f : Arr → Arr) : (c.upArr k f).core n = c.core n := rfl
@[simp] theorem Chip.upArr_tier (c : Chip) (k n : Nat) (f : Arr → Arr) : (c.upArr k f).tier n = c.tier n := rfl
@[simp] theorem Chip.upArr_tile (c : Chip) (k n : Nat) (f : Arr → Arr) : (c.upArr k f).tile n = c.tile n := rfl
@[simp] theorem Chip.upArr_plot (c : Chip) (k n : Nat) (f : Arr → Arr) : (c.upArr k f).plot n = c.plot n := rfl
@[simp] theorem Chip.upArr_laser (c : Chip) (k n : Nat) (f : Arr → Arr) : (c.upArr k f).laser n = c.laser n := rfl
@[simp] theorem Chip.upArr_linkLaser (c : Chip) (k n : Nat) (f : Arr → Arr) : (c.upArr k f).linkLaser n = c.linkLaser n := rfl
@[simp] theorem Chip.upArr_group (c : Chip) (k n : Nat) (f : Arr → Arr) : (c.upArr k f).group n = c.group n := rfl
@[simp] theorem Chip.upArr_bank (c : Chip) (k n : Nat) (f : Arr → Arr) : (c.upArr k f).bank n = c.bank n := rfl
@[simp] theorem Chip.upArr_stack (c : Chip) (k n : Nat) (f : Arr → Arr) : (c.upArr k f).stack n = c.stack n := rfl
@[simp] theorem Chip.upArr_port (c : Chip) (k n : Nat) (f : Arr → Arr) : (c.upArr k f).port n = c.port n := rfl
@[simp] theorem Chip.upArr_lane (c : Chip) (k n : Nat) (f : Arr → Arr) : (c.upArr k f).lane n = c.lane n := rfl

/-! ## tiers -/

@[simp] theorem Chip.upTier_freeCtr (c : Chip) (k : Nat) (f : Tier → Tier) : (c.upTier k f).freeCtr = c.freeCtr := rfl
@[simp] theorem Chip.upTier_clk (c : Chip) (k : Nat) (f : Tier → Tier) : (c.upTier k f).clk = c.clk := rfl
@[simp] theorem Chip.upTier_start (c : Chip) (k : Nat) (f : Tier → Tier) : (c.upTier k f).start = c.start := rfl
@[simp] theorem Chip.upTier_cfg (c : Chip) (k : Nat) (f : Tier → Tier) : (c.upTier k f).cfg = c.cfg := rfl
@[simp] theorem Chip.upTier_vault (c : Chip) (k : Nat) (f : Tier → Tier) : (c.upTier k f).vault = c.vault := rfl
@[simp] theorem Chip.upTier_acc (c : Chip) (k : Nat) (f : Tier → Tier) : (c.upTier k f).acc = c.acc := rfl
@[simp] theorem Chip.upTier_host (c : Chip) (k : Nat) (f : Tier → Tier) : (c.upTier k f).host = c.host := rfl
@[simp] theorem Chip.upTier_sch (c : Chip) (k : Nat) (f : Tier → Tier) : (c.upTier k f).sch = c.sch := rfl
@[simp] theorem Chip.upTier_jobs (c : Chip) (k : Nat) (f : Tier → Tier) : (c.upTier k f).jobs = c.jobs := rfl
@[simp] theorem Chip.upTier_nextOrder (c : Chip) (k : Nat) (f : Tier → Tier) : (c.upTier k f).nextOrder = c.nextOrder := rfl
@[simp] theorem Chip.upTier_regions (c : Chip) (k : Nat) (f : Tier → Tier) : (c.upTier k f).regions = c.regions := rfl
@[simp] theorem Chip.upTier_cores (c : Chip) (k : Nat) (f : Tier → Tier) : (c.upTier k f).cores = c.cores := rfl
@[simp] theorem Chip.upTier_seats (c : Chip) (k : Nat) (f : Tier → Tier) : (c.upTier k f).seats = c.seats := rfl
@[simp] theorem Chip.upTier_arrays (c : Chip) (k : Nat) (f : Tier → Tier) : (c.upTier k f).arrays = c.arrays := rfl
@[simp] theorem Chip.upTier_peri (c : Chip) (k : Nat) (f : Tier → Tier) : (c.upTier k f).peri = c.peri := rfl
@[simp] theorem Chip.upTier_cells (c : Chip) (k : Nat) (f : Tier → Tier) : (c.upTier k f).cells = c.cells := rfl
@[simp] theorem Chip.upTier_tiles (c : Chip) (k : Nat) (f : Tier → Tier) : (c.upTier k f).tiles = c.tiles := rfl
@[simp] theorem Chip.upTier_accs (c : Chip) (k : Nat) (f : Tier → Tier) : (c.upTier k f).accs = c.accs := rfl
@[simp] theorem Chip.upTier_dev (c : Chip) (k : Nat) (f : Tier → Tier) : (c.upTier k f).dev = c.dev := rfl
@[simp] theorem Chip.upTier_plots (c : Chip) (k : Nat) (f : Tier → Tier) : (c.upTier k f).plots = c.plots := rfl
@[simp] theorem Chip.upTier_lasers (c : Chip) (k : Nat) (f : Tier → Tier) : (c.upTier k f).lasers = c.lasers := rfl
@[simp] theorem Chip.upTier_linkLasers (c : Chip) (k : Nat) (f : Tier → Tier) : (c.upTier k f).linkLasers = c.linkLasers := rfl
@[simp] theorem Chip.upTier_linkSel (c : Chip) (k : Nat) (f : Tier → Tier) : (c.upTier k f).linkSel = c.linkSel := rfl
@[simp] theorem Chip.upTier_groups (c : Chip) (k : Nat) (f : Tier → Tier) : (c.upTier k f).groups = c.groups := rfl
@[simp] theorem Chip.upTier_banks (c : Chip) (k : Nat) (f : Tier → Tier) : (c.upTier k f).banks = c.banks := rfl
@[simp] theorem Chip.upTier_trims (c : Chip) (k : Nat) (f : Tier → Tier) : (c.upTier k f).trims = c.trims := rfl
@[simp] theorem Chip.upTier_hbmStacks (c : Chip) (k : Nat) (f : Tier → Tier) : (c.upTier k f).hbmStacks = c.hbmStacks := rfl
@[simp] theorem Chip.upTier_ports (c : Chip) (k : Nat) (f : Tier → Tier) : (c.upTier k f).ports = c.ports := rfl
@[simp] theorem Chip.upTier_lanes (c : Chip) (k : Nat) (f : Tier → Tier) : (c.upTier k f).lanes = c.lanes := rfl
@[simp] theorem Chip.upTier_fleetOut (c : Chip) (k : Nat) (f : Tier → Tier) : (c.upTier k f).fleetOut = c.fleetOut := rfl
@[simp] theorem Chip.upTier_mon (c : Chip) (k : Nat) (f : Tier → Tier) : (c.upTier k f).mon = c.mon := rfl
@[simp] theorem Chip.upTier_lvl (c : Chip) (k : Nat) (f : Tier → Tier) : (c.upTier k f).lvl = c.lvl := rfl
@[simp] theorem Chip.upTier_saf (c : Chip) (k : Nat) (f : Tier → Tier) : (c.upTier k f).saf = c.saf := rfl
@[simp] theorem Chip.upTier_log (c : Chip) (k : Nat) (f : Tier → Tier) : (c.upTier k f).log = c.log := rfl
@[simp] theorem Chip.upTier_mem (c : Chip) (k : Nat) (f : Tier → Tier) : (c.upTier k f).mem = c.mem := rfl
@[simp] theorem Chip.tier_upTier (c : Chip) (k : Nat) (f : Tier → Tier) : (c.upTier k f).tier k = f (c.tier k) := look_put_same ..
theorem Chip.tier_upTier_ne (c : Chip) (k n : Nat) (f : Tier → Tier) (h : n ≠ k) : (c.upTier k f).tier n = c.tier n := look_put_ne _ _ _ h
@[simp] theorem Chip.upTier_region (c : Chip) (k n : Nat) (f : Tier → Tier) : (c.upTier k f).region n = c.region n := rfl
@[simp] theorem Chip.upTier_core (c : Chip) (k n : Nat) (f : Tier → Tier) : (c.upTier k f).core n = c.core n := rfl
@[simp] theorem Chip.upTier_arr (c : Chip) (k n : Nat) (f : Tier → Tier) : (c.upTier k f).arr n = c.arr n := rfl
@[simp] theorem Chip.upTier_tile (c : Chip) (k n : Nat) (f : Tier → Tier) : (c.upTier k f).tile n = c.tile n := rfl
@[simp] theorem Chip.upTier_plot (c : Chip) (k n : Nat) (f : Tier → Tier) : (c.upTier k f).plot n = c.plot n := rfl
@[simp] theorem Chip.upTier_laser (c : Chip) (k n : Nat) (f : Tier → Tier) : (c.upTier k f).laser n = c.laser n := rfl
@[simp] theorem Chip.upTier_linkLaser (c : Chip) (k n : Nat) (f : Tier → Tier) : (c.upTier k f).linkLaser n = c.linkLaser n := rfl
@[simp] theorem Chip.upTier_group (c : Chip) (k n : Nat) (f : Tier → Tier) : (c.upTier k f).group n = c.group n := rfl
@[simp] theorem Chip.upTier_bank (c : Chip) (k n : Nat) (f : Tier → Tier) : (c.upTier k f).bank n = c.bank n := rfl
@[simp] theorem Chip.upTier_stack (c : Chip) (k n : Nat) (f : Tier → Tier) : (c.upTier k f).stack n = c.stack n := rfl
@[simp] theorem Chip.upTier_port (c : Chip) (k n : Nat) (f : Tier → Tier) : (c.upTier k f).port n = c.port n := rfl
@[simp] theorem Chip.upTier_lane (c : Chip) (k n : Nat) (f : Tier → Tier) : (c.upTier k f).lane n = c.lane n := rfl

/-! ## tiles -/

@[simp] theorem Chip.upTile_freeCtr (c : Chip) (k : Nat) (f : Tile → Tile) : (c.upTile k f).freeCtr = c.freeCtr := rfl
@[simp] theorem Chip.upTile_clk (c : Chip) (k : Nat) (f : Tile → Tile) : (c.upTile k f).clk = c.clk := rfl
@[simp] theorem Chip.upTile_start (c : Chip) (k : Nat) (f : Tile → Tile) : (c.upTile k f).start = c.start := rfl
@[simp] theorem Chip.upTile_cfg (c : Chip) (k : Nat) (f : Tile → Tile) : (c.upTile k f).cfg = c.cfg := rfl
@[simp] theorem Chip.upTile_vault (c : Chip) (k : Nat) (f : Tile → Tile) : (c.upTile k f).vault = c.vault := rfl
@[simp] theorem Chip.upTile_acc (c : Chip) (k : Nat) (f : Tile → Tile) : (c.upTile k f).acc = c.acc := rfl
@[simp] theorem Chip.upTile_host (c : Chip) (k : Nat) (f : Tile → Tile) : (c.upTile k f).host = c.host := rfl
@[simp] theorem Chip.upTile_sch (c : Chip) (k : Nat) (f : Tile → Tile) : (c.upTile k f).sch = c.sch := rfl
@[simp] theorem Chip.upTile_jobs (c : Chip) (k : Nat) (f : Tile → Tile) : (c.upTile k f).jobs = c.jobs := rfl
@[simp] theorem Chip.upTile_nextOrder (c : Chip) (k : Nat) (f : Tile → Tile) : (c.upTile k f).nextOrder = c.nextOrder := rfl
@[simp] theorem Chip.upTile_regions (c : Chip) (k : Nat) (f : Tile → Tile) : (c.upTile k f).regions = c.regions := rfl
@[simp] theorem Chip.upTile_cores (c : Chip) (k : Nat) (f : Tile → Tile) : (c.upTile k f).cores = c.cores := rfl
@[simp] theorem Chip.upTile_seats (c : Chip) (k : Nat) (f : Tile → Tile) : (c.upTile k f).seats = c.seats := rfl
@[simp] theorem Chip.upTile_arrays (c : Chip) (k : Nat) (f : Tile → Tile) : (c.upTile k f).arrays = c.arrays := rfl
@[simp] theorem Chip.upTile_tiers (c : Chip) (k : Nat) (f : Tile → Tile) : (c.upTile k f).tiers = c.tiers := rfl
@[simp] theorem Chip.upTile_peri (c : Chip) (k : Nat) (f : Tile → Tile) : (c.upTile k f).peri = c.peri := rfl
@[simp] theorem Chip.upTile_cells (c : Chip) (k : Nat) (f : Tile → Tile) : (c.upTile k f).cells = c.cells := rfl
@[simp] theorem Chip.upTile_accs (c : Chip) (k : Nat) (f : Tile → Tile) : (c.upTile k f).accs = c.accs := rfl
@[simp] theorem Chip.upTile_dev (c : Chip) (k : Nat) (f : Tile → Tile) : (c.upTile k f).dev = c.dev := rfl
@[simp] theorem Chip.upTile_plots (c : Chip) (k : Nat) (f : Tile → Tile) : (c.upTile k f).plots = c.plots := rfl
@[simp] theorem Chip.upTile_lasers (c : Chip) (k : Nat) (f : Tile → Tile) : (c.upTile k f).lasers = c.lasers := rfl
@[simp] theorem Chip.upTile_linkLasers (c : Chip) (k : Nat) (f : Tile → Tile) : (c.upTile k f).linkLasers = c.linkLasers := rfl
@[simp] theorem Chip.upTile_linkSel (c : Chip) (k : Nat) (f : Tile → Tile) : (c.upTile k f).linkSel = c.linkSel := rfl
@[simp] theorem Chip.upTile_groups (c : Chip) (k : Nat) (f : Tile → Tile) : (c.upTile k f).groups = c.groups := rfl
@[simp] theorem Chip.upTile_banks (c : Chip) (k : Nat) (f : Tile → Tile) : (c.upTile k f).banks = c.banks := rfl
@[simp] theorem Chip.upTile_trims (c : Chip) (k : Nat) (f : Tile → Tile) : (c.upTile k f).trims = c.trims := rfl
@[simp] theorem Chip.upTile_hbmStacks (c : Chip) (k : Nat) (f : Tile → Tile) : (c.upTile k f).hbmStacks = c.hbmStacks := rfl
@[simp] theorem Chip.upTile_ports (c : Chip) (k : Nat) (f : Tile → Tile) : (c.upTile k f).ports = c.ports := rfl
@[simp] theorem Chip.upTile_lanes (c : Chip) (k : Nat) (f : Tile → Tile) : (c.upTile k f).lanes = c.lanes := rfl
@[simp] theorem Chip.upTile_fleetOut (c : Chip) (k : Nat) (f : Tile → Tile) : (c.upTile k f).fleetOut = c.fleetOut := rfl
@[simp] theorem Chip.upTile_mon (c : Chip) (k : Nat) (f : Tile → Tile) : (c.upTile k f).mon = c.mon := rfl
@[simp] theorem Chip.upTile_lvl (c : Chip) (k : Nat) (f : Tile → Tile) : (c.upTile k f).lvl = c.lvl := rfl
@[simp] theorem Chip.upTile_saf (c : Chip) (k : Nat) (f : Tile → Tile) : (c.upTile k f).saf = c.saf := rfl
@[simp] theorem Chip.upTile_log (c : Chip) (k : Nat) (f : Tile → Tile) : (c.upTile k f).log = c.log := rfl
@[simp] theorem Chip.upTile_mem (c : Chip) (k : Nat) (f : Tile → Tile) : (c.upTile k f).mem = c.mem := rfl
@[simp] theorem Chip.tile_upTile (c : Chip) (k : Nat) (f : Tile → Tile) : (c.upTile k f).tile k = f (c.tile k) := look_put_same ..
theorem Chip.tile_upTile_ne (c : Chip) (k n : Nat) (f : Tile → Tile) (h : n ≠ k) : (c.upTile k f).tile n = c.tile n := look_put_ne _ _ _ h
@[simp] theorem Chip.upTile_region (c : Chip) (k n : Nat) (f : Tile → Tile) : (c.upTile k f).region n = c.region n := rfl
@[simp] theorem Chip.upTile_core (c : Chip) (k n : Nat) (f : Tile → Tile) : (c.upTile k f).core n = c.core n := rfl
@[simp] theorem Chip.upTile_arr (c : Chip) (k n : Nat) (f : Tile → Tile) : (c.upTile k f).arr n = c.arr n := rfl
@[simp] theorem Chip.upTile_tier (c : Chip) (k n : Nat) (f : Tile → Tile) : (c.upTile k f).tier n = c.tier n := rfl
@[simp] theorem Chip.upTile_plot (c : Chip) (k n : Nat) (f : Tile → Tile) : (c.upTile k f).plot n = c.plot n := rfl
@[simp] theorem Chip.upTile_laser (c : Chip) (k n : Nat) (f : Tile → Tile) : (c.upTile k f).laser n = c.laser n := rfl
@[simp] theorem Chip.upTile_linkLaser (c : Chip) (k n : Nat) (f : Tile → Tile) : (c.upTile k f).linkLaser n = c.linkLaser n := rfl
@[simp] theorem Chip.upTile_group (c : Chip) (k n : Nat) (f : Tile → Tile) : (c.upTile k f).group n = c.group n := rfl
@[simp] theorem Chip.upTile_bank (c : Chip) (k n : Nat) (f : Tile → Tile) : (c.upTile k f).bank n = c.bank n := rfl
@[simp] theorem Chip.upTile_stack (c : Chip) (k n : Nat) (f : Tile → Tile) : (c.upTile k f).stack n = c.stack n := rfl
@[simp] theorem Chip.upTile_port (c : Chip) (k n : Nat) (f : Tile → Tile) : (c.upTile k f).port n = c.port n := rfl
@[simp] theorem Chip.upTile_lane (c : Chip) (k n : Nat) (f : Tile → Tile) : (c.upTile k f).lane n = c.lane n := rfl

/-! ## plots -/

@[simp] theorem Chip.upPlot_freeCtr (c : Chip) (k : Nat) (f : Plot → Plot) : (c.upPlot k f).freeCtr = c.freeCtr := rfl
@[simp] theorem Chip.upPlot_clk (c : Chip) (k : Nat) (f : Plot → Plot) : (c.upPlot k f).clk = c.clk := rfl
@[simp] theorem Chip.upPlot_start (c : Chip) (k : Nat) (f : Plot → Plot) : (c.upPlot k f).start = c.start := rfl
@[simp] theorem Chip.upPlot_cfg (c : Chip) (k : Nat) (f : Plot → Plot) : (c.upPlot k f).cfg = c.cfg := rfl
@[simp] theorem Chip.upPlot_vault (c : Chip) (k : Nat) (f : Plot → Plot) : (c.upPlot k f).vault = c.vault := rfl
@[simp] theorem Chip.upPlot_acc (c : Chip) (k : Nat) (f : Plot → Plot) : (c.upPlot k f).acc = c.acc := rfl
@[simp] theorem Chip.upPlot_host (c : Chip) (k : Nat) (f : Plot → Plot) : (c.upPlot k f).host = c.host := rfl
@[simp] theorem Chip.upPlot_sch (c : Chip) (k : Nat) (f : Plot → Plot) : (c.upPlot k f).sch = c.sch := rfl
@[simp] theorem Chip.upPlot_jobs (c : Chip) (k : Nat) (f : Plot → Plot) : (c.upPlot k f).jobs = c.jobs := rfl
@[simp] theorem Chip.upPlot_nextOrder (c : Chip) (k : Nat) (f : Plot → Plot) : (c.upPlot k f).nextOrder = c.nextOrder := rfl
@[simp] theorem Chip.upPlot_regions (c : Chip) (k : Nat) (f : Plot → Plot) : (c.upPlot k f).regions = c.regions := rfl
@[simp] theorem Chip.upPlot_cores (c : Chip) (k : Nat) (f : Plot → Plot) : (c.upPlot k f).cores = c.cores := rfl
@[simp] theorem Chip.upPlot_seats (c : Chip) (k : Nat) (f : Plot → Plot) : (c.upPlot k f).seats = c.seats := rfl
@[simp] theorem Chip.upPlot_arrays (c : Chip) (k : Nat) (f : Plot → Plot) : (c.upPlot k f).arrays = c.arrays := rfl
@[simp] theorem Chip.upPlot_tiers (c : Chip) (k : Nat) (f : Plot → Plot) : (c.upPlot k f).tiers = c.tiers := rfl
@[simp] theorem Chip.upPlot_peri (c : Chip) (k : Nat) (f : Plot → Plot) : (c.upPlot k f).peri = c.peri := rfl
@[simp] theorem Chip.upPlot_cells (c : Chip) (k : Nat) (f : Plot → Plot) : (c.upPlot k f).cells = c.cells := rfl
@[simp] theorem Chip.upPlot_tiles (c : Chip) (k : Nat) (f : Plot → Plot) : (c.upPlot k f).tiles = c.tiles := rfl
@[simp] theorem Chip.upPlot_accs (c : Chip) (k : Nat) (f : Plot → Plot) : (c.upPlot k f).accs = c.accs := rfl
@[simp] theorem Chip.upPlot_dev (c : Chip) (k : Nat) (f : Plot → Plot) : (c.upPlot k f).dev = c.dev := rfl
@[simp] theorem Chip.upPlot_lasers (c : Chip) (k : Nat) (f : Plot → Plot) : (c.upPlot k f).lasers = c.lasers := rfl
@[simp] theorem Chip.upPlot_linkLasers (c : Chip) (k : Nat) (f : Plot → Plot) : (c.upPlot k f).linkLasers = c.linkLasers := rfl
@[simp] theorem Chip.upPlot_linkSel (c : Chip) (k : Nat) (f : Plot → Plot) : (c.upPlot k f).linkSel = c.linkSel := rfl
@[simp] theorem Chip.upPlot_groups (c : Chip) (k : Nat) (f : Plot → Plot) : (c.upPlot k f).groups = c.groups := rfl
@[simp] theorem Chip.upPlot_banks (c : Chip) (k : Nat) (f : Plot → Plot) : (c.upPlot k f).banks = c.banks := rfl
@[simp] theorem Chip.upPlot_trims (c : Chip) (k : Nat) (f : Plot → Plot) : (c.upPlot k f).trims = c.trims := rfl
@[simp] theorem Chip.upPlot_hbmStacks (c : Chip) (k : Nat) (f : Plot → Plot) : (c.upPlot k f).hbmStacks = c.hbmStacks := rfl
@[simp] theorem Chip.upPlot_ports (c : Chip) (k : Nat) (f : Plot → Plot) : (c.upPlot k f).ports = c.ports := rfl
@[simp] theorem Chip.upPlot_lanes (c : Chip) (k : Nat) (f : Plot → Plot) : (c.upPlot k f).lanes = c.lanes := rfl
@[simp] theorem Chip.upPlot_fleetOut (c : Chip) (k : Nat) (f : Plot → Plot) : (c.upPlot k f).fleetOut = c.fleetOut := rfl
@[simp] theorem Chip.upPlot_mon (c : Chip) (k : Nat) (f : Plot → Plot) : (c.upPlot k f).mon = c.mon := rfl
@[simp] theorem Chip.upPlot_lvl (c : Chip) (k : Nat) (f : Plot → Plot) : (c.upPlot k f).lvl = c.lvl := rfl
@[simp] theorem Chip.upPlot_saf (c : Chip) (k : Nat) (f : Plot → Plot) : (c.upPlot k f).saf = c.saf := rfl
@[simp] theorem Chip.upPlot_log (c : Chip) (k : Nat) (f : Plot → Plot) : (c.upPlot k f).log = c.log := rfl
@[simp] theorem Chip.upPlot_mem (c : Chip) (k : Nat) (f : Plot → Plot) : (c.upPlot k f).mem = c.mem := rfl
@[simp] theorem Chip.plot_upPlot (c : Chip) (k : Nat) (f : Plot → Plot) : (c.upPlot k f).plot k = f (c.plot k) := look_put_same ..
theorem Chip.plot_upPlot_ne (c : Chip) (k n : Nat) (f : Plot → Plot) (h : n ≠ k) : (c.upPlot k f).plot n = c.plot n := look_put_ne' _ _ _ _ h
@[simp] theorem Chip.upPlot_region (c : Chip) (k n : Nat) (f : Plot → Plot) : (c.upPlot k f).region n = c.region n := rfl
@[simp] theorem Chip.upPlot_core (c : Chip) (k n : Nat) (f : Plot → Plot) : (c.upPlot k f).core n = c.core n := rfl
@[simp] theorem Chip.upPlot_arr (c : Chip) (k n : Nat) (f : Plot → Plot) : (c.upPlot k f).arr n = c.arr n := rfl
@[simp] theorem Chip.upPlot_tier (c : Chip) (k n : Nat) (f : Plot → Plot) : (c.upPlot k f).tier n = c.tier n := rfl
@[simp] theorem Chip.upPlot_tile (c : Chip) (k n : Nat) (f : Plot → Plot) : (c.upPlot k f).tile n = c.tile n := rfl
@[simp] theorem Chip.upPlot_laser (c : Chip) (k n : Nat) (f : Plot → Plot) : (c.upPlot k f).laser n = c.laser n := rfl
@[simp] theorem Chip.upPlot_linkLaser (c : Chip) (k n : Nat) (f : Plot → Plot) : (c.upPlot k f).linkLaser n = c.linkLaser n := rfl
@[simp] theorem Chip.upPlot_group (c : Chip) (k n : Nat) (f : Plot → Plot) : (c.upPlot k f).group n = c.group n := rfl
@[simp] theorem Chip.upPlot_bank (c : Chip) (k n : Nat) (f : Plot → Plot) : (c.upPlot k f).bank n = c.bank n := rfl
@[simp] theorem Chip.upPlot_stack (c : Chip) (k n : Nat) (f : Plot → Plot) : (c.upPlot k f).stack n = c.stack n := rfl
@[simp] theorem Chip.upPlot_port (c : Chip) (k n : Nat) (f : Plot → Plot) : (c.upPlot k f).port n = c.port n := rfl
@[simp] theorem Chip.upPlot_lane (c : Chip) (k n : Nat) (f : Plot → Plot) : (c.upPlot k f).lane n = c.lane n := rfl

/-! ## lasers -/

@[simp] theorem Chip.upLaser_freeCtr (c : Chip) (k : Nat) (f : Laser → Laser) : (c.upLaser k f).freeCtr = c.freeCtr := rfl
@[simp] theorem Chip.upLaser_clk (c : Chip) (k : Nat) (f : Laser → Laser) : (c.upLaser k f).clk = c.clk := rfl
@[simp] theorem Chip.upLaser_start (c : Chip) (k : Nat) (f : Laser → Laser) : (c.upLaser k f).start = c.start := rfl
@[simp] theorem Chip.upLaser_cfg (c : Chip) (k : Nat) (f : Laser → Laser) : (c.upLaser k f).cfg = c.cfg := rfl
@[simp] theorem Chip.upLaser_vault (c : Chip) (k : Nat) (f : Laser → Laser) : (c.upLaser k f).vault = c.vault := rfl
@[simp] theorem Chip.upLaser_acc (c : Chip) (k : Nat) (f : Laser → Laser) : (c.upLaser k f).acc = c.acc := rfl
@[simp] theorem Chip.upLaser_host (c : Chip) (k : Nat) (f : Laser → Laser) : (c.upLaser k f).host = c.host := rfl
@[simp] theorem Chip.upLaser_sch (c : Chip) (k : Nat) (f : Laser → Laser) : (c.upLaser k f).sch = c.sch := rfl
@[simp] theorem Chip.upLaser_jobs (c : Chip) (k : Nat) (f : Laser → Laser) : (c.upLaser k f).jobs = c.jobs := rfl
@[simp] theorem Chip.upLaser_nextOrder (c : Chip) (k : Nat) (f : Laser → Laser) : (c.upLaser k f).nextOrder = c.nextOrder := rfl
@[simp] theorem Chip.upLaser_regions (c : Chip) (k : Nat) (f : Laser → Laser) : (c.upLaser k f).regions = c.regions := rfl
@[simp] theorem Chip.upLaser_cores (c : Chip) (k : Nat) (f : Laser → Laser) : (c.upLaser k f).cores = c.cores := rfl
@[simp] theorem Chip.upLaser_seats (c : Chip) (k : Nat) (f : Laser → Laser) : (c.upLaser k f).seats = c.seats := rfl
@[simp] theorem Chip.upLaser_arrays (c : Chip) (k : Nat) (f : Laser → Laser) : (c.upLaser k f).arrays = c.arrays := rfl
@[simp] theorem Chip.upLaser_tiers (c : Chip) (k : Nat) (f : Laser → Laser) : (c.upLaser k f).tiers = c.tiers := rfl
@[simp] theorem Chip.upLaser_peri (c : Chip) (k : Nat) (f : Laser → Laser) : (c.upLaser k f).peri = c.peri := rfl
@[simp] theorem Chip.upLaser_cells (c : Chip) (k : Nat) (f : Laser → Laser) : (c.upLaser k f).cells = c.cells := rfl
@[simp] theorem Chip.upLaser_tiles (c : Chip) (k : Nat) (f : Laser → Laser) : (c.upLaser k f).tiles = c.tiles := rfl
@[simp] theorem Chip.upLaser_accs (c : Chip) (k : Nat) (f : Laser → Laser) : (c.upLaser k f).accs = c.accs := rfl
@[simp] theorem Chip.upLaser_dev (c : Chip) (k : Nat) (f : Laser → Laser) : (c.upLaser k f).dev = c.dev := rfl
@[simp] theorem Chip.upLaser_plots (c : Chip) (k : Nat) (f : Laser → Laser) : (c.upLaser k f).plots = c.plots := rfl
@[simp] theorem Chip.upLaser_linkLasers (c : Chip) (k : Nat) (f : Laser → Laser) : (c.upLaser k f).linkLasers = c.linkLasers := rfl
@[simp] theorem Chip.upLaser_linkSel (c : Chip) (k : Nat) (f : Laser → Laser) : (c.upLaser k f).linkSel = c.linkSel := rfl
@[simp] theorem Chip.upLaser_groups (c : Chip) (k : Nat) (f : Laser → Laser) : (c.upLaser k f).groups = c.groups := rfl
@[simp] theorem Chip.upLaser_banks (c : Chip) (k : Nat) (f : Laser → Laser) : (c.upLaser k f).banks = c.banks := rfl
@[simp] theorem Chip.upLaser_trims (c : Chip) (k : Nat) (f : Laser → Laser) : (c.upLaser k f).trims = c.trims := rfl
@[simp] theorem Chip.upLaser_hbmStacks (c : Chip) (k : Nat) (f : Laser → Laser) : (c.upLaser k f).hbmStacks = c.hbmStacks := rfl
@[simp] theorem Chip.upLaser_ports (c : Chip) (k : Nat) (f : Laser → Laser) : (c.upLaser k f).ports = c.ports := rfl
@[simp] theorem Chip.upLaser_lanes (c : Chip) (k : Nat) (f : Laser → Laser) : (c.upLaser k f).lanes = c.lanes := rfl
@[simp] theorem Chip.upLaser_fleetOut (c : Chip) (k : Nat) (f : Laser → Laser) : (c.upLaser k f).fleetOut = c.fleetOut := rfl
@[simp] theorem Chip.upLaser_mon (c : Chip) (k : Nat) (f : Laser → Laser) : (c.upLaser k f).mon = c.mon := rfl
@[simp] theorem Chip.upLaser_lvl (c : Chip) (k : Nat) (f : Laser → Laser) : (c.upLaser k f).lvl = c.lvl := rfl
@[simp] theorem Chip.upLaser_saf (c : Chip) (k : Nat) (f : Laser → Laser) : (c.upLaser k f).saf = c.saf := rfl
@[simp] theorem Chip.upLaser_log (c : Chip) (k : Nat) (f : Laser → Laser) : (c.upLaser k f).log = c.log := rfl
@[simp] theorem Chip.upLaser_mem (c : Chip) (k : Nat) (f : Laser → Laser) : (c.upLaser k f).mem = c.mem := rfl
@[simp] theorem Chip.laser_upLaser (c : Chip) (k : Nat) (f : Laser → Laser) : (c.upLaser k f).laser k = f (c.laser k) := look_put_same ..
theorem Chip.laser_upLaser_ne (c : Chip) (k n : Nat) (f : Laser → Laser) (h : n ≠ k) : (c.upLaser k f).laser n = c.laser n := look_put_ne' _ _ _ _ h
@[simp] theorem Chip.upLaser_region (c : Chip) (k n : Nat) (f : Laser → Laser) : (c.upLaser k f).region n = c.region n := rfl
@[simp] theorem Chip.upLaser_core (c : Chip) (k n : Nat) (f : Laser → Laser) : (c.upLaser k f).core n = c.core n := rfl
@[simp] theorem Chip.upLaser_arr (c : Chip) (k n : Nat) (f : Laser → Laser) : (c.upLaser k f).arr n = c.arr n := rfl
@[simp] theorem Chip.upLaser_tier (c : Chip) (k n : Nat) (f : Laser → Laser) : (c.upLaser k f).tier n = c.tier n := rfl
@[simp] theorem Chip.upLaser_tile (c : Chip) (k n : Nat) (f : Laser → Laser) : (c.upLaser k f).tile n = c.tile n := rfl
@[simp] theorem Chip.upLaser_plot (c : Chip) (k n : Nat) (f : Laser → Laser) : (c.upLaser k f).plot n = c.plot n := rfl
@[simp] theorem Chip.upLaser_linkLaser (c : Chip) (k n : Nat) (f : Laser → Laser) : (c.upLaser k f).linkLaser n = c.linkLaser n := rfl
@[simp] theorem Chip.upLaser_group (c : Chip) (k n : Nat) (f : Laser → Laser) : (c.upLaser k f).group n = c.group n := rfl
@[simp] theorem Chip.upLaser_bank (c : Chip) (k n : Nat) (f : Laser → Laser) : (c.upLaser k f).bank n = c.bank n := rfl
@[simp] theorem Chip.upLaser_stack (c : Chip) (k n : Nat) (f : Laser → Laser) : (c.upLaser k f).stack n = c.stack n := rfl
@[simp] theorem Chip.upLaser_port (c : Chip) (k n : Nat) (f : Laser → Laser) : (c.upLaser k f).port n = c.port n := rfl
@[simp] theorem Chip.upLaser_lane (c : Chip) (k n : Nat) (f : Laser → Laser) : (c.upLaser k f).lane n = c.lane n := rfl

/-! ## linkLasers -/

@[simp] theorem Chip.upLinkLaser_freeCtr (c : Chip) (k : Nat) (f : Laser → Laser) : (c.upLinkLaser k f).freeCtr = c.freeCtr := rfl
@[simp] theorem Chip.upLinkLaser_clk (c : Chip) (k : Nat) (f : Laser → Laser) : (c.upLinkLaser k f).clk = c.clk := rfl
@[simp] theorem Chip.upLinkLaser_start (c : Chip) (k : Nat) (f : Laser → Laser) : (c.upLinkLaser k f).start = c.start := rfl
@[simp] theorem Chip.upLinkLaser_cfg (c : Chip) (k : Nat) (f : Laser → Laser) : (c.upLinkLaser k f).cfg = c.cfg := rfl
@[simp] theorem Chip.upLinkLaser_vault (c : Chip) (k : Nat) (f : Laser → Laser) : (c.upLinkLaser k f).vault = c.vault := rfl
@[simp] theorem Chip.upLinkLaser_acc (c : Chip) (k : Nat) (f : Laser → Laser) : (c.upLinkLaser k f).acc = c.acc := rfl
@[simp] theorem Chip.upLinkLaser_host (c : Chip) (k : Nat) (f : Laser → Laser) : (c.upLinkLaser k f).host = c.host := rfl
@[simp] theorem Chip.upLinkLaser_sch (c : Chip) (k : Nat) (f : Laser → Laser) : (c.upLinkLaser k f).sch = c.sch := rfl
@[simp] theorem Chip.upLinkLaser_jobs (c : Chip) (k : Nat) (f : Laser → Laser) : (c.upLinkLaser k f).jobs = c.jobs := rfl
@[simp] theorem Chip.upLinkLaser_nextOrder (c : Chip) (k : Nat) (f : Laser → Laser) : (c.upLinkLaser k f).nextOrder = c.nextOrder := rfl
@[simp] theorem Chip.upLinkLaser_regions (c : Chip) (k : Nat) (f : Laser → Laser) : (c.upLinkLaser k f).regions = c.regions := rfl
@[simp] theorem Chip.upLinkLaser_cores (c : Chip) (k : Nat) (f : Laser → Laser) : (c.upLinkLaser k f).cores = c.cores := rfl
@[simp] theorem Chip.upLinkLaser_seats (c : Chip) (k : Nat) (f : Laser → Laser) : (c.upLinkLaser k f).seats = c.seats := rfl
@[simp] theorem Chip.upLinkLaser_arrays (c : Chip) (k : Nat) (f : Laser → Laser) : (c.upLinkLaser k f).arrays = c.arrays := rfl
@[simp] theorem Chip.upLinkLaser_tiers (c : Chip) (k : Nat) (f : Laser → Laser) : (c.upLinkLaser k f).tiers = c.tiers := rfl
@[simp] theorem Chip.upLinkLaser_peri (c : Chip) (k : Nat) (f : Laser → Laser) : (c.upLinkLaser k f).peri = c.peri := rfl
@[simp] theorem Chip.upLinkLaser_cells (c : Chip) (k : Nat) (f : Laser → Laser) : (c.upLinkLaser k f).cells = c.cells := rfl
@[simp] theorem Chip.upLinkLaser_tiles (c : Chip) (k : Nat) (f : Laser → Laser) : (c.upLinkLaser k f).tiles = c.tiles := rfl
@[simp] theorem Chip.upLinkLaser_accs (c : Chip) (k : Nat) (f : Laser → Laser) : (c.upLinkLaser k f).accs = c.accs := rfl
@[simp] theorem Chip.upLinkLaser_dev (c : Chip) (k : Nat) (f : Laser → Laser) : (c.upLinkLaser k f).dev = c.dev := rfl
@[simp] theorem Chip.upLinkLaser_plots (c : Chip) (k : Nat) (f : Laser → Laser) : (c.upLinkLaser k f).plots = c.plots := rfl
@[simp] theorem Chip.upLinkLaser_lasers (c : Chip) (k : Nat) (f : Laser → Laser) : (c.upLinkLaser k f).lasers = c.lasers := rfl
@[simp] theorem Chip.upLinkLaser_linkSel (c : Chip) (k : Nat) (f : Laser → Laser) : (c.upLinkLaser k f).linkSel = c.linkSel := rfl
@[simp] theorem Chip.upLinkLaser_groups (c : Chip) (k : Nat) (f : Laser → Laser) : (c.upLinkLaser k f).groups = c.groups := rfl
@[simp] theorem Chip.upLinkLaser_banks (c : Chip) (k : Nat) (f : Laser → Laser) : (c.upLinkLaser k f).banks = c.banks := rfl
@[simp] theorem Chip.upLinkLaser_trims (c : Chip) (k : Nat) (f : Laser → Laser) : (c.upLinkLaser k f).trims = c.trims := rfl
@[simp] theorem Chip.upLinkLaser_hbmStacks (c : Chip) (k : Nat) (f : Laser → Laser) : (c.upLinkLaser k f).hbmStacks = c.hbmStacks := rfl
@[simp] theorem Chip.upLinkLaser_ports (c : Chip) (k : Nat) (f : Laser → Laser) : (c.upLinkLaser k f).ports = c.ports := rfl
@[simp] theorem Chip.upLinkLaser_lanes (c : Chip) (k : Nat) (f : Laser → Laser) : (c.upLinkLaser k f).lanes = c.lanes := rfl
@[simp] theorem Chip.upLinkLaser_fleetOut (c : Chip) (k : Nat) (f : Laser → Laser) : (c.upLinkLaser k f).fleetOut = c.fleetOut := rfl
@[simp] theorem Chip.upLinkLaser_mon (c : Chip) (k : Nat) (f : Laser → Laser) : (c.upLinkLaser k f).mon = c.mon := rfl
@[simp] theorem Chip.upLinkLaser_lvl (c : Chip) (k : Nat) (f : Laser → Laser) : (c.upLinkLaser k f).lvl = c.lvl := rfl
@[simp] theorem Chip.upLinkLaser_saf (c : Chip) (k : Nat) (f : Laser → Laser) : (c.upLinkLaser k f).saf = c.saf := rfl
@[simp] theorem Chip.upLinkLaser_log (c : Chip) (k : Nat) (f : Laser → Laser) : (c.upLinkLaser k f).log = c.log := rfl
@[simp] theorem Chip.upLinkLaser_mem (c : Chip) (k : Nat) (f : Laser → Laser) : (c.upLinkLaser k f).mem = c.mem := rfl
@[simp] theorem Chip.linkLaser_upLinkLaser (c : Chip) (k : Nat) (f : Laser → Laser) : (c.upLinkLaser k f).linkLaser k = f (c.linkLaser k) := look_put_same ..
theorem Chip.linkLaser_upLinkLaser_ne (c : Chip) (k n : Nat) (f : Laser → Laser) (h : n ≠ k) : (c.upLinkLaser k f).linkLaser n = c.linkLaser n := look_put_ne' _ _ _ _ h
@[simp] theorem Chip.upLinkLaser_region (c : Chip) (k n : Nat) (f : Laser → Laser) : (c.upLinkLaser k f).region n = c.region n := rfl
@[simp] theorem Chip.upLinkLaser_core (c : Chip) (k n : Nat) (f : Laser → Laser) : (c.upLinkLaser k f).core n = c.core n := rfl
@[simp] theorem Chip.upLinkLaser_arr (c : Chip) (k n : Nat) (f : Laser → Laser) : (c.upLinkLaser k f).arr n = c.arr n := rfl
@[simp] theorem Chip.upLinkLaser_tier (c : Chip) (k n : Nat) (f : Laser → Laser) : (c.upLinkLaser k f).tier n = c.tier n := rfl
@[simp] theorem Chip.upLinkLaser_tile (c : Chip) (k n : Nat) (f : Laser → Laser) : (c.upLinkLaser k f).tile n = c.tile n := rfl
@[simp] theorem Chip.upLinkLaser_plot (c : Chip) (k n : Nat) (f : Laser → Laser) : (c.upLinkLaser k f).plot n = c.plot n := rfl
@[simp] theorem Chip.upLinkLaser_laser (c : Chip) (k n : Nat) (f : Laser → Laser) : (c.upLinkLaser k f).laser n = c.laser n := rfl
@[simp] theorem Chip.upLinkLaser_group (c : Chip) (k n : Nat) (f : Laser → Laser) : (c.upLinkLaser k f).group n = c.group n := rfl
@[simp] theorem Chip.upLinkLaser_bank (c : Chip) (k n : Nat) (f : Laser → Laser) : (c.upLinkLaser k f).bank n = c.bank n := rfl
@[simp] theorem Chip.upLinkLaser_stack (c : Chip) (k n : Nat) (f : Laser → Laser) : (c.upLinkLaser k f).stack n = c.stack n := rfl
@[simp] theorem Chip.upLinkLaser_port (c : Chip) (k n : Nat) (f : Laser → Laser) : (c.upLinkLaser k f).port n = c.port n := rfl
@[simp] theorem Chip.upLinkLaser_lane (c : Chip) (k n : Nat) (f : Laser → Laser) : (c.upLinkLaser k f).lane n = c.lane n := rfl

/-! ## groups -/

@[simp] theorem Chip.upGroup_freeCtr (c : Chip) (k : Nat) (f : Group → Group) : (c.upGroup k f).freeCtr = c.freeCtr := rfl
@[simp] theorem Chip.upGroup_clk (c : Chip) (k : Nat) (f : Group → Group) : (c.upGroup k f).clk = c.clk := rfl
@[simp] theorem Chip.upGroup_start (c : Chip) (k : Nat) (f : Group → Group) : (c.upGroup k f).start = c.start := rfl
@[simp] theorem Chip.upGroup_cfg (c : Chip) (k : Nat) (f : Group → Group) : (c.upGroup k f).cfg = c.cfg := rfl
@[simp] theorem Chip.upGroup_vault (c : Chip) (k : Nat) (f : Group → Group) : (c.upGroup k f).vault = c.vault := rfl
@[simp] theorem Chip.upGroup_acc (c : Chip) (k : Nat) (f : Group → Group) : (c.upGroup k f).acc = c.acc := rfl
@[simp] theorem Chip.upGroup_host (c : Chip) (k : Nat) (f : Group → Group) : (c.upGroup k f).host = c.host := rfl
@[simp] theorem Chip.upGroup_sch (c : Chip) (k : Nat) (f : Group → Group) : (c.upGroup k f).sch = c.sch := rfl
@[simp] theorem Chip.upGroup_jobs (c : Chip) (k : Nat) (f : Group → Group) : (c.upGroup k f).jobs = c.jobs := rfl
@[simp] theorem Chip.upGroup_nextOrder (c : Chip) (k : Nat) (f : Group → Group) : (c.upGroup k f).nextOrder = c.nextOrder := rfl
@[simp] theorem Chip.upGroup_regions (c : Chip) (k : Nat) (f : Group → Group) : (c.upGroup k f).regions = c.regions := rfl
@[simp] theorem Chip.upGroup_cores (c : Chip) (k : Nat) (f : Group → Group) : (c.upGroup k f).cores = c.cores := rfl
@[simp] theorem Chip.upGroup_seats (c : Chip) (k : Nat) (f : Group → Group) : (c.upGroup k f).seats = c.seats := rfl
@[simp] theorem Chip.upGroup_arrays (c : Chip) (k : Nat) (f : Group → Group) : (c.upGroup k f).arrays = c.arrays := rfl
@[simp] theorem Chip.upGroup_tiers (c : Chip) (k : Nat) (f : Group → Group) : (c.upGroup k f).tiers = c.tiers := rfl
@[simp] theorem Chip.upGroup_peri (c : Chip) (k : Nat) (f : Group → Group) : (c.upGroup k f).peri = c.peri := rfl
@[simp] theorem Chip.upGroup_cells (c : Chip) (k : Nat) (f : Group → Group) : (c.upGroup k f).cells = c.cells := rfl
@[simp] theorem Chip.upGroup_tiles (c : Chip) (k : Nat) (f : Group → Group) : (c.upGroup k f).tiles = c.tiles := rfl
@[simp] theorem Chip.upGroup_accs (c : Chip) (k : Nat) (f : Group → Group) : (c.upGroup k f).accs = c.accs := rfl
@[simp] theorem Chip.upGroup_dev (c : Chip) (k : Nat) (f : Group → Group) : (c.upGroup k f).dev = c.dev := rfl
@[simp] theorem Chip.upGroup_plots (c : Chip) (k : Nat) (f : Group → Group) : (c.upGroup k f).plots = c.plots := rfl
@[simp] theorem Chip.upGroup_lasers (c : Chip) (k : Nat) (f : Group → Group) : (c.upGroup k f).lasers = c.lasers := rfl
@[simp] theorem Chip.upGroup_linkLasers (c : Chip) (k : Nat) (f : Group → Group) : (c.upGroup k f).linkLasers = c.linkLasers := rfl
@[simp] theorem Chip.upGroup_linkSel (c : Chip) (k : Nat) (f : Group → Group) : (c.upGroup k f).linkSel = c.linkSel := rfl
@[simp] theorem Chip.upGroup_banks (c : Chip) (k : Nat) (f : Group → Group) : (c.upGroup k f).banks = c.banks := rfl
@[simp] theorem Chip.upGroup_trims (c : Chip) (k : Nat) (f : Group → Group) : (c.upGroup k f).trims = c.trims := rfl
@[simp] theorem Chip.upGroup_hbmStacks (c : Chip) (k : Nat) (f : Group → Group) : (c.upGroup k f).hbmStacks = c.hbmStacks := rfl
@[simp] theorem Chip.upGroup_ports (c : Chip) (k : Nat) (f : Group → Group) : (c.upGroup k f).ports = c.ports := rfl
@[simp] theorem Chip.upGroup_lanes (c : Chip) (k : Nat) (f : Group → Group) : (c.upGroup k f).lanes = c.lanes := rfl
@[simp] theorem Chip.upGroup_fleetOut (c : Chip) (k : Nat) (f : Group → Group) : (c.upGroup k f).fleetOut = c.fleetOut := rfl
@[simp] theorem Chip.upGroup_mon (c : Chip) (k : Nat) (f : Group → Group) : (c.upGroup k f).mon = c.mon := rfl
@[simp] theorem Chip.upGroup_lvl (c : Chip) (k : Nat) (f : Group → Group) : (c.upGroup k f).lvl = c.lvl := rfl
@[simp] theorem Chip.upGroup_saf (c : Chip) (k : Nat) (f : Group → Group) : (c.upGroup k f).saf = c.saf := rfl
@[simp] theorem Chip.upGroup_log (c : Chip) (k : Nat) (f : Group → Group) : (c.upGroup k f).log = c.log := rfl
@[simp] theorem Chip.upGroup_mem (c : Chip) (k : Nat) (f : Group → Group) : (c.upGroup k f).mem = c.mem := rfl
@[simp] theorem Chip.group_upGroup (c : Chip) (k : Nat) (f : Group → Group) : (c.upGroup k f).group k = f (c.group k) := look_put_same ..
theorem Chip.group_upGroup_ne (c : Chip) (k n : Nat) (f : Group → Group) (h : n ≠ k) : (c.upGroup k f).group n = c.group n := look_put_ne _ _ _ h
@[simp] theorem Chip.upGroup_region (c : Chip) (k n : Nat) (f : Group → Group) : (c.upGroup k f).region n = c.region n := rfl
@[simp] theorem Chip.upGroup_core (c : Chip) (k n : Nat) (f : Group → Group) : (c.upGroup k f).core n = c.core n := rfl
@[simp] theorem Chip.upGroup_arr (c : Chip) (k n : Nat) (f : Group → Group) : (c.upGroup k f).arr n = c.arr n := rfl
@[simp] theorem Chip.upGroup_tier (c : Chip) (k n : Nat) (f : Group → Group) : (c.upGroup k f).tier n = c.tier n := rfl
@[simp] theorem Chip.upGroup_tile (c : Chip) (k n : Nat) (f : Group → Group) : (c.upGroup k f).tile n = c.tile n := rfl
@[simp] theorem Chip.upGroup_plot (c : Chip) (k n : Nat) (f : Group → Group) : (c.upGroup k f).plot n = c.plot n := rfl
@[simp] theorem Chip.upGroup_laser (c : Chip) (k n : Nat) (f : Group → Group) : (c.upGroup k f).laser n = c.laser n := rfl
@[simp] theorem Chip.upGroup_linkLaser (c : Chip) (k n : Nat) (f : Group → Group) : (c.upGroup k f).linkLaser n = c.linkLaser n := rfl
@[simp] theorem Chip.upGroup_bank (c : Chip) (k n : Nat) (f : Group → Group) : (c.upGroup k f).bank n = c.bank n := rfl
@[simp] theorem Chip.upGroup_stack (c : Chip) (k n : Nat) (f : Group → Group) : (c.upGroup k f).stack n = c.stack n := rfl
@[simp] theorem Chip.upGroup_port (c : Chip) (k n : Nat) (f : Group → Group) : (c.upGroup k f).port n = c.port n := rfl
@[simp] theorem Chip.upGroup_lane (c : Chip) (k n : Nat) (f : Group → Group) : (c.upGroup k f).lane n = c.lane n := rfl

/-! ## banks -/

@[simp] theorem Chip.upBank_freeCtr (c : Chip) (k : Nat) (f : Bank → Bank) : (c.upBank k f).freeCtr = c.freeCtr := rfl
@[simp] theorem Chip.upBank_clk (c : Chip) (k : Nat) (f : Bank → Bank) : (c.upBank k f).clk = c.clk := rfl
@[simp] theorem Chip.upBank_start (c : Chip) (k : Nat) (f : Bank → Bank) : (c.upBank k f).start = c.start := rfl
@[simp] theorem Chip.upBank_cfg (c : Chip) (k : Nat) (f : Bank → Bank) : (c.upBank k f).cfg = c.cfg := rfl
@[simp] theorem Chip.upBank_vault (c : Chip) (k : Nat) (f : Bank → Bank) : (c.upBank k f).vault = c.vault := rfl
@[simp] theorem Chip.upBank_acc (c : Chip) (k : Nat) (f : Bank → Bank) : (c.upBank k f).acc = c.acc := rfl
@[simp] theorem Chip.upBank_host (c : Chip) (k : Nat) (f : Bank → Bank) : (c.upBank k f).host = c.host := rfl
@[simp] theorem Chip.upBank_sch (c : Chip) (k : Nat) (f : Bank → Bank) : (c.upBank k f).sch = c.sch := rfl
@[simp] theorem Chip.upBank_jobs (c : Chip) (k : Nat) (f : Bank → Bank) : (c.upBank k f).jobs = c.jobs := rfl
@[simp] theorem Chip.upBank_nextOrder (c : Chip) (k : Nat) (f : Bank → Bank) : (c.upBank k f).nextOrder = c.nextOrder := rfl
@[simp] theorem Chip.upBank_regions (c : Chip) (k : Nat) (f : Bank → Bank) : (c.upBank k f).regions = c.regions := rfl
@[simp] theorem Chip.upBank_cores (c : Chip) (k : Nat) (f : Bank → Bank) : (c.upBank k f).cores = c.cores := rfl
@[simp] theorem Chip.upBank_seats (c : Chip) (k : Nat) (f : Bank → Bank) : (c.upBank k f).seats = c.seats := rfl
@[simp] theorem Chip.upBank_arrays (c : Chip) (k : Nat) (f : Bank → Bank) : (c.upBank k f).arrays = c.arrays := rfl
@[simp] theorem Chip.upBank_tiers (c : Chip) (k : Nat) (f : Bank → Bank) : (c.upBank k f).tiers = c.tiers := rfl
@[simp] theorem Chip.upBank_peri (c : Chip) (k : Nat) (f : Bank → Bank) : (c.upBank k f).peri = c.peri := rfl
@[simp] theorem Chip.upBank_cells (c : Chip) (k : Nat) (f : Bank → Bank) : (c.upBank k f).cells = c.cells := rfl
@[simp] theorem Chip.upBank_tiles (c : Chip) (k : Nat) (f : Bank → Bank) : (c.upBank k f).tiles = c.tiles := rfl
@[simp] theorem Chip.upBank_accs (c : Chip) (k : Nat) (f : Bank → Bank) : (c.upBank k f).accs = c.accs := rfl
@[simp] theorem Chip.upBank_dev (c : Chip) (k : Nat) (f : Bank → Bank) : (c.upBank k f).dev = c.dev := rfl
@[simp] theorem Chip.upBank_plots (c : Chip) (k : Nat) (f : Bank → Bank) : (c.upBank k f).plots = c.plots := rfl
@[simp] theorem Chip.upBank_lasers (c : Chip) (k : Nat) (f : Bank → Bank) : (c.upBank k f).lasers = c.lasers := rfl
@[simp] theorem Chip.upBank_linkLasers (c : Chip) (k : Nat) (f : Bank → Bank) : (c.upBank k f).linkLasers = c.linkLasers := rfl
@[simp] theorem Chip.upBank_linkSel (c : Chip) (k : Nat) (f : Bank → Bank) : (c.upBank k f).linkSel = c.linkSel := rfl
@[simp] theorem Chip.upBank_groups (c : Chip) (k : Nat) (f : Bank → Bank) : (c.upBank k f).groups = c.groups := rfl
@[simp] theorem Chip.upBank_trims (c : Chip) (k : Nat) (f : Bank → Bank) : (c.upBank k f).trims = c.trims := rfl
@[simp] theorem Chip.upBank_hbmStacks (c : Chip) (k : Nat) (f : Bank → Bank) : (c.upBank k f).hbmStacks = c.hbmStacks := rfl
@[simp] theorem Chip.upBank_ports (c : Chip) (k : Nat) (f : Bank → Bank) : (c.upBank k f).ports = c.ports := rfl
@[simp] theorem Chip.upBank_lanes (c : Chip) (k : Nat) (f : Bank → Bank) : (c.upBank k f).lanes = c.lanes := rfl
@[simp] theorem Chip.upBank_fleetOut (c : Chip) (k : Nat) (f : Bank → Bank) : (c.upBank k f).fleetOut = c.fleetOut := rfl
@[simp] theorem Chip.upBank_mon (c : Chip) (k : Nat) (f : Bank → Bank) : (c.upBank k f).mon = c.mon := rfl
@[simp] theorem Chip.upBank_lvl (c : Chip) (k : Nat) (f : Bank → Bank) : (c.upBank k f).lvl = c.lvl := rfl
@[simp] theorem Chip.upBank_saf (c : Chip) (k : Nat) (f : Bank → Bank) : (c.upBank k f).saf = c.saf := rfl
@[simp] theorem Chip.upBank_log (c : Chip) (k : Nat) (f : Bank → Bank) : (c.upBank k f).log = c.log := rfl
@[simp] theorem Chip.upBank_mem (c : Chip) (k : Nat) (f : Bank → Bank) : (c.upBank k f).mem = c.mem := rfl
@[simp] theorem Chip.bank_upBank (c : Chip) (k : Nat) (f : Bank → Bank) : (c.upBank k f).bank k = f (c.bank k) := look_put_same ..
theorem Chip.bank_upBank_ne (c : Chip) (k n : Nat) (f : Bank → Bank) (h : n ≠ k) : (c.upBank k f).bank n = c.bank n := look_put_ne _ _ _ h
@[simp] theorem Chip.upBank_region (c : Chip) (k n : Nat) (f : Bank → Bank) : (c.upBank k f).region n = c.region n := rfl
@[simp] theorem Chip.upBank_core (c : Chip) (k n : Nat) (f : Bank → Bank) : (c.upBank k f).core n = c.core n := rfl
@[simp] theorem Chip.upBank_arr (c : Chip) (k n : Nat) (f : Bank → Bank) : (c.upBank k f).arr n = c.arr n := rfl
@[simp] theorem Chip.upBank_tier (c : Chip) (k n : Nat) (f : Bank → Bank) : (c.upBank k f).tier n = c.tier n := rfl
@[simp] theorem Chip.upBank_tile (c : Chip) (k n : Nat) (f : Bank → Bank) : (c.upBank k f).tile n = c.tile n := rfl
@[simp] theorem Chip.upBank_plot (c : Chip) (k n : Nat) (f : Bank → Bank) : (c.upBank k f).plot n = c.plot n := rfl
@[simp] theorem Chip.upBank_laser (c : Chip) (k n : Nat) (f : Bank → Bank) : (c.upBank k f).laser n = c.laser n := rfl
@[simp] theorem Chip.upBank_linkLaser (c : Chip) (k n : Nat) (f : Bank → Bank) : (c.upBank k f).linkLaser n = c.linkLaser n := rfl
@[simp] theorem Chip.upBank_group (c : Chip) (k n : Nat) (f : Bank → Bank) : (c.upBank k f).group n = c.group n := rfl
@[simp] theorem Chip.upBank_stack (c : Chip) (k n : Nat) (f : Bank → Bank) : (c.upBank k f).stack n = c.stack n := rfl
@[simp] theorem Chip.upBank_port (c : Chip) (k n : Nat) (f : Bank → Bank) : (c.upBank k f).port n = c.port n := rfl
@[simp] theorem Chip.upBank_lane (c : Chip) (k n : Nat) (f : Bank → Bank) : (c.upBank k f).lane n = c.lane n := rfl

/-! ## hbmStacks -/

@[simp] theorem Chip.upStack_freeCtr (c : Chip) (k : Nat) (f : Stack → Stack) : (c.upStack k f).freeCtr = c.freeCtr := rfl
@[simp] theorem Chip.upStack_clk (c : Chip) (k : Nat) (f : Stack → Stack) : (c.upStack k f).clk = c.clk := rfl
@[simp] theorem Chip.upStack_start (c : Chip) (k : Nat) (f : Stack → Stack) : (c.upStack k f).start = c.start := rfl
@[simp] theorem Chip.upStack_cfg (c : Chip) (k : Nat) (f : Stack → Stack) : (c.upStack k f).cfg = c.cfg := rfl
@[simp] theorem Chip.upStack_vault (c : Chip) (k : Nat) (f : Stack → Stack) : (c.upStack k f).vault = c.vault := rfl
@[simp] theorem Chip.upStack_acc (c : Chip) (k : Nat) (f : Stack → Stack) : (c.upStack k f).acc = c.acc := rfl
@[simp] theorem Chip.upStack_host (c : Chip) (k : Nat) (f : Stack → Stack) : (c.upStack k f).host = c.host := rfl
@[simp] theorem Chip.upStack_sch (c : Chip) (k : Nat) (f : Stack → Stack) : (c.upStack k f).sch = c.sch := rfl
@[simp] theorem Chip.upStack_jobs (c : Chip) (k : Nat) (f : Stack → Stack) : (c.upStack k f).jobs = c.jobs := rfl
@[simp] theorem Chip.upStack_nextOrder (c : Chip) (k : Nat) (f : Stack → Stack) : (c.upStack k f).nextOrder = c.nextOrder := rfl
@[simp] theorem Chip.upStack_regions (c : Chip) (k : Nat) (f : Stack → Stack) : (c.upStack k f).regions = c.regions := rfl
@[simp] theorem Chip.upStack_cores (c : Chip) (k : Nat) (f : Stack → Stack) : (c.upStack k f).cores = c.cores := rfl
@[simp] theorem Chip.upStack_seats (c : Chip) (k : Nat) (f : Stack → Stack) : (c.upStack k f).seats = c.seats := rfl
@[simp] theorem Chip.upStack_arrays (c : Chip) (k : Nat) (f : Stack → Stack) : (c.upStack k f).arrays = c.arrays := rfl
@[simp] theorem Chip.upStack_tiers (c : Chip) (k : Nat) (f : Stack → Stack) : (c.upStack k f).tiers = c.tiers := rfl
@[simp] theorem Chip.upStack_peri (c : Chip) (k : Nat) (f : Stack → Stack) : (c.upStack k f).peri = c.peri := rfl
@[simp] theorem Chip.upStack_cells (c : Chip) (k : Nat) (f : Stack → Stack) : (c.upStack k f).cells = c.cells := rfl
@[simp] theorem Chip.upStack_tiles (c : Chip) (k : Nat) (f : Stack → Stack) : (c.upStack k f).tiles = c.tiles := rfl
@[simp] theorem Chip.upStack_accs (c : Chip) (k : Nat) (f : Stack → Stack) : (c.upStack k f).accs = c.accs := rfl
@[simp] theorem Chip.upStack_dev (c : Chip) (k : Nat) (f : Stack → Stack) : (c.upStack k f).dev = c.dev := rfl
@[simp] theorem Chip.upStack_plots (c : Chip) (k : Nat) (f : Stack → Stack) : (c.upStack k f).plots = c.plots := rfl
@[simp] theorem Chip.upStack_lasers (c : Chip) (k : Nat) (f : Stack → Stack) : (c.upStack k f).lasers = c.lasers := rfl
@[simp] theorem Chip.upStack_linkLasers (c : Chip) (k : Nat) (f : Stack → Stack) : (c.upStack k f).linkLasers = c.linkLasers := rfl
@[simp] theorem Chip.upStack_linkSel (c : Chip) (k : Nat) (f : Stack → Stack) : (c.upStack k f).linkSel = c.linkSel := rfl
@[simp] theorem Chip.upStack_groups (c : Chip) (k : Nat) (f : Stack → Stack) : (c.upStack k f).groups = c.groups := rfl
@[simp] theorem Chip.upStack_banks (c : Chip) (k : Nat) (f : Stack → Stack) : (c.upStack k f).banks = c.banks := rfl
@[simp] theorem Chip.upStack_trims (c : Chip) (k : Nat) (f : Stack → Stack) : (c.upStack k f).trims = c.trims := rfl
@[simp] theorem Chip.upStack_ports (c : Chip) (k : Nat) (f : Stack → Stack) : (c.upStack k f).ports = c.ports := rfl
@[simp] theorem Chip.upStack_lanes (c : Chip) (k : Nat) (f : Stack → Stack) : (c.upStack k f).lanes = c.lanes := rfl
@[simp] theorem Chip.upStack_fleetOut (c : Chip) (k : Nat) (f : Stack → Stack) : (c.upStack k f).fleetOut = c.fleetOut := rfl
@[simp] theorem Chip.upStack_mon (c : Chip) (k : Nat) (f : Stack → Stack) : (c.upStack k f).mon = c.mon := rfl
@[simp] theorem Chip.upStack_lvl (c : Chip) (k : Nat) (f : Stack → Stack) : (c.upStack k f).lvl = c.lvl := rfl
@[simp] theorem Chip.upStack_saf (c : Chip) (k : Nat) (f : Stack → Stack) : (c.upStack k f).saf = c.saf := rfl
@[simp] theorem Chip.upStack_log (c : Chip) (k : Nat) (f : Stack → Stack) : (c.upStack k f).log = c.log := rfl
@[simp] theorem Chip.upStack_mem (c : Chip) (k : Nat) (f : Stack → Stack) : (c.upStack k f).mem = c.mem := rfl
@[simp] theorem Chip.stack_upStack (c : Chip) (k : Nat) (f : Stack → Stack) : (c.upStack k f).stack k = f (c.stack k) := look_put_same ..
theorem Chip.stack_upStack_ne (c : Chip) (k n : Nat) (f : Stack → Stack) (h : n ≠ k) : (c.upStack k f).stack n = c.stack n := look_put_ne _ _ _ h
@[simp] theorem Chip.upStack_region (c : Chip) (k n : Nat) (f : Stack → Stack) : (c.upStack k f).region n = c.region n := rfl
@[simp] theorem Chip.upStack_core (c : Chip) (k n : Nat) (f : Stack → Stack) : (c.upStack k f).core n = c.core n := rfl
@[simp] theorem Chip.upStack_arr (c : Chip) (k n : Nat) (f : Stack → Stack) : (c.upStack k f).arr n = c.arr n := rfl
@[simp] theorem Chip.upStack_tier (c : Chip) (k n : Nat) (f : Stack → Stack) : (c.upStack k f).tier n = c.tier n := rfl
@[simp] theorem Chip.upStack_tile (c : Chip) (k n : Nat) (f : Stack → Stack) : (c.upStack k f).tile n = c.tile n := rfl
@[simp] theorem Chip.upStack_plot (c : Chip) (k n : Nat) (f : Stack → Stack) : (c.upStack k f).plot n = c.plot n := rfl
@[simp] theorem Chip.upStack_laser (c : Chip) (k n : Nat) (f : Stack → Stack) : (c.upStack k f).laser n = c.laser n := rfl
@[simp] theorem Chip.upStack_linkLaser (c : Chip) (k n : Nat) (f : Stack → Stack) : (c.upStack k f).linkLaser n = c.linkLaser n := rfl
@[simp] theorem Chip.upStack_group (c : Chip) (k n : Nat) (f : Stack → Stack) : (c.upStack k f).group n = c.group n := rfl
@[simp] theorem Chip.upStack_bank (c : Chip) (k n : Nat) (f : Stack → Stack) : (c.upStack k f).bank n = c.bank n := rfl
@[simp] theorem Chip.upStack_port (c : Chip) (k n : Nat) (f : Stack → Stack) : (c.upStack k f).port n = c.port n := rfl
@[simp] theorem Chip.upStack_lane (c : Chip) (k n : Nat) (f : Stack → Stack) : (c.upStack k f).lane n = c.lane n := rfl

/-! ## ports -/

@[simp] theorem Chip.upPort_freeCtr (c : Chip) (k : Nat) (f : Port → Port) : (c.upPort k f).freeCtr = c.freeCtr := rfl
@[simp] theorem Chip.upPort_clk (c : Chip) (k : Nat) (f : Port → Port) : (c.upPort k f).clk = c.clk := rfl
@[simp] theorem Chip.upPort_start (c : Chip) (k : Nat) (f : Port → Port) : (c.upPort k f).start = c.start := rfl
@[simp] theorem Chip.upPort_cfg (c : Chip) (k : Nat) (f : Port → Port) : (c.upPort k f).cfg = c.cfg := rfl
@[simp] theorem Chip.upPort_vault (c : Chip) (k : Nat) (f : Port → Port) : (c.upPort k f).vault = c.vault := rfl
@[simp] theorem Chip.upPort_acc (c : Chip) (k : Nat) (f : Port → Port) : (c.upPort k f).acc = c.acc := rfl
@[simp] theorem Chip.upPort_host (c : Chip) (k : Nat) (f : Port → Port) : (c.upPort k f).host = c.host := rfl
@[simp] theorem Chip.upPort_sch (c : Chip) (k : Nat) (f : Port → Port) : (c.upPort k f).sch = c.sch := rfl
@[simp] theorem Chip.upPort_jobs (c : Chip) (k : Nat) (f : Port → Port) : (c.upPort k f).jobs = c.jobs := rfl
@[simp] theorem Chip.upPort_nextOrder (c : Chip) (k : Nat) (f : Port → Port) : (c.upPort k f).nextOrder = c.nextOrder := rfl
@[simp] theorem Chip.upPort_regions (c : Chip) (k : Nat) (f : Port → Port) : (c.upPort k f).regions = c.regions := rfl
@[simp] theorem Chip.upPort_cores (c : Chip) (k : Nat) (f : Port → Port) : (c.upPort k f).cores = c.cores := rfl
@[simp] theorem Chip.upPort_seats (c : Chip) (k : Nat) (f : Port → Port) : (c.upPort k f).seats = c.seats := rfl
@[simp] theorem Chip.upPort_arrays (c : Chip) (k : Nat) (f : Port → Port) : (c.upPort k f).arrays = c.arrays := rfl
@[simp] theorem Chip.upPort_tiers (c : Chip) (k : Nat) (f : Port → Port) : (c.upPort k f).tiers = c.tiers := rfl
@[simp] theorem Chip.upPort_peri (c : Chip) (k : Nat) (f : Port → Port) : (c.upPort k f).peri = c.peri := rfl
@[simp] theorem Chip.upPort_cells (c : Chip) (k : Nat) (f : Port → Port) : (c.upPort k f).cells = c.cells := rfl
@[simp] theorem Chip.upPort_tiles (c : Chip) (k : Nat) (f : Port → Port) : (c.upPort k f).tiles = c.tiles := rfl
@[simp] theorem Chip.upPort_accs (c : Chip) (k : Nat) (f : Port → Port) : (c.upPort k f).accs = c.accs := rfl
@[simp] theorem Chip.upPort_dev (c : Chip) (k : Nat) (f : Port → Port) : (c.upPort k f).dev = c.dev := rfl
@[simp] theorem Chip.upPort_plots (c : Chip) (k : Nat) (f : Port → Port) : (c.upPort k f).plots = c.plots := rfl
@[simp] theorem Chip.upPort_lasers (c : Chip) (k : Nat) (f : Port → Port) : (c.upPort k f).lasers = c.lasers := rfl
@[simp] theorem Chip.upPort_linkLasers (c : Chip) (k : Nat) (f : Port → Port) : (c.upPort k f).linkLasers = c.linkLasers := rfl
@[simp] theorem Chip.upPort_linkSel (c : Chip) (k : Nat) (f : Port → Port) : (c.upPort k f).linkSel = c.linkSel := rfl
@[simp] theorem Chip.upPort_groups (c : Chip) (k : Nat) (f : Port → Port) : (c.upPort k f).groups = c.groups := rfl
@[simp] theorem Chip.upPort_banks (c : Chip) (k : Nat) (f : Port → Port) : (c.upPort k f).banks = c.banks := rfl
@[simp] theorem Chip.upPort_trims (c : Chip) (k : Nat) (f : Port → Port) : (c.upPort k f).trims = c.trims := rfl
@[simp] theorem Chip.upPort_hbmStacks (c : Chip) (k : Nat) (f : Port → Port) : (c.upPort k f).hbmStacks = c.hbmStacks := rfl
@[simp] theorem Chip.upPort_lanes (c : Chip) (k : Nat) (f : Port → Port) : (c.upPort k f).lanes = c.lanes := rfl
@[simp] theorem Chip.upPort_fleetOut (c : Chip) (k : Nat) (f : Port → Port) : (c.upPort k f).fleetOut = c.fleetOut := rfl
@[simp] theorem Chip.upPort_mon (c : Chip) (k : Nat) (f : Port → Port) : (c.upPort k f).mon = c.mon := rfl
@[simp] theorem Chip.upPort_lvl (c : Chip) (k : Nat) (f : Port → Port) : (c.upPort k f).lvl = c.lvl := rfl
@[simp] theorem Chip.upPort_saf (c : Chip) (k : Nat) (f : Port → Port) : (c.upPort k f).saf = c.saf := rfl
@[simp] theorem Chip.upPort_log (c : Chip) (k : Nat) (f : Port → Port) : (c.upPort k f).log = c.log := rfl
@[simp] theorem Chip.upPort_mem (c : Chip) (k : Nat) (f : Port → Port) : (c.upPort k f).mem = c.mem := rfl
@[simp] theorem Chip.port_upPort (c : Chip) (k : Nat) (f : Port → Port) : (c.upPort k f).port k = f (c.port k) := look_put_same ..
theorem Chip.port_upPort_ne (c : Chip) (k n : Nat) (f : Port → Port) (h : n ≠ k) : (c.upPort k f).port n = c.port n := look_put_ne _ _ _ h
@[simp] theorem Chip.upPort_region (c : Chip) (k n : Nat) (f : Port → Port) : (c.upPort k f).region n = c.region n := rfl
@[simp] theorem Chip.upPort_core (c : Chip) (k n : Nat) (f : Port → Port) : (c.upPort k f).core n = c.core n := rfl
@[simp] theorem Chip.upPort_arr (c : Chip) (k n : Nat) (f : Port → Port) : (c.upPort k f).arr n = c.arr n := rfl
@[simp] theorem Chip.upPort_tier (c : Chip) (k n : Nat) (f : Port → Port) : (c.upPort k f).tier n = c.tier n := rfl
@[simp] theorem Chip.upPort_tile (c : Chip) (k n : Nat) (f : Port → Port) : (c.upPort k f).tile n = c.tile n := rfl
@[simp] theorem Chip.upPort_plot (c : Chip) (k n : Nat) (f : Port → Port) : (c.upPort k f).plot n = c.plot n := rfl
@[simp] theorem Chip.upPort_laser (c : Chip) (k n : Nat) (f : Port → Port) : (c.upPort k f).laser n = c.laser n := rfl
@[simp] theorem Chip.upPort_linkLaser (c : Chip) (k n : Nat) (f : Port → Port) : (c.upPort k f).linkLaser n = c.linkLaser n := rfl
@[simp] theorem Chip.upPort_group (c : Chip) (k n : Nat) (f : Port → Port) : (c.upPort k f).group n = c.group n := rfl
@[simp] theorem Chip.upPort_bank (c : Chip) (k n : Nat) (f : Port → Port) : (c.upPort k f).bank n = c.bank n := rfl
@[simp] theorem Chip.upPort_stack (c : Chip) (k n : Nat) (f : Port → Port) : (c.upPort k f).stack n = c.stack n := rfl
@[simp] theorem Chip.upPort_lane (c : Chip) (k n : Nat) (f : Port → Port) : (c.upPort k f).lane n = c.lane n := rfl

/-! ## lanes -/

@[simp] theorem Chip.upLane_freeCtr (c : Chip) (k : Nat) (f : Lane → Lane) : (c.upLane k f).freeCtr = c.freeCtr := rfl
@[simp] theorem Chip.upLane_clk (c : Chip) (k : Nat) (f : Lane → Lane) : (c.upLane k f).clk = c.clk := rfl
@[simp] theorem Chip.upLane_start (c : Chip) (k : Nat) (f : Lane → Lane) : (c.upLane k f).start = c.start := rfl
@[simp] theorem Chip.upLane_cfg (c : Chip) (k : Nat) (f : Lane → Lane) : (c.upLane k f).cfg = c.cfg := rfl
@[simp] theorem Chip.upLane_vault (c : Chip) (k : Nat) (f : Lane → Lane) : (c.upLane k f).vault = c.vault := rfl
@[simp] theorem Chip.upLane_acc (c : Chip) (k : Nat) (f : Lane → Lane) : (c.upLane k f).acc = c.acc := rfl
@[simp] theorem Chip.upLane_host (c : Chip) (k : Nat) (f : Lane → Lane) : (c.upLane k f).host = c.host := rfl
@[simp] theorem Chip.upLane_sch (c : Chip) (k : Nat) (f : Lane → Lane) : (c.upLane k f).sch = c.sch := rfl
@[simp] theorem Chip.upLane_jobs (c : Chip) (k : Nat) (f : Lane → Lane) : (c.upLane k f).jobs = c.jobs := rfl
@[simp] theorem Chip.upLane_nextOrder (c : Chip) (k : Nat) (f : Lane → Lane) : (c.upLane k f).nextOrder = c.nextOrder := rfl
@[simp] theorem Chip.upLane_regions (c : Chip) (k : Nat) (f : Lane → Lane) : (c.upLane k f).regions = c.regions := rfl
@[simp] theorem Chip.upLane_cores (c : Chip) (k : Nat) (f : Lane → Lane) : (c.upLane k f).cores = c.cores := rfl
@[simp] theorem Chip.upLane_seats (c : Chip) (k : Nat) (f : Lane → Lane) : (c.upLane k f).seats = c.seats := rfl
@[simp] theorem Chip.upLane_arrays (c : Chip) (k : Nat) (f : Lane → Lane) : (c.upLane k f).arrays = c.arrays := rfl
@[simp] theorem Chip.upLane_tiers (c : Chip) (k : Nat) (f : Lane → Lane) : (c.upLane k f).tiers = c.tiers := rfl
@[simp] theorem Chip.upLane_peri (c : Chip) (k : Nat) (f : Lane → Lane) : (c.upLane k f).peri = c.peri := rfl
@[simp] theorem Chip.upLane_cells (c : Chip) (k : Nat) (f : Lane → Lane) : (c.upLane k f).cells = c.cells := rfl
@[simp] theorem Chip.upLane_tiles (c : Chip) (k : Nat) (f : Lane → Lane) : (c.upLane k f).tiles = c.tiles := rfl
@[simp] theorem Chip.upLane_accs (c : Chip) (k : Nat) (f : Lane → Lane) : (c.upLane k f).accs = c.accs := rfl
@[simp] theorem Chip.upLane_dev (c : Chip) (k : Nat) (f : Lane → Lane) : (c.upLane k f).dev = c.dev := rfl
@[simp] theorem Chip.upLane_plots (c : Chip) (k : Nat) (f : Lane → Lane) : (c.upLane k f).plots = c.plots := rfl
@[simp] theorem Chip.upLane_lasers (c : Chip) (k : Nat) (f : Lane → Lane) : (c.upLane k f).lasers = c.lasers := rfl
@[simp] theorem Chip.upLane_linkLasers (c : Chip) (k : Nat) (f : Lane → Lane) : (c.upLane k f).linkLasers = c.linkLasers := rfl
@[simp] theorem Chip.upLane_linkSel (c : Chip) (k : Nat) (f : Lane → Lane) : (c.upLane k f).linkSel = c.linkSel := rfl
@[simp] theorem Chip.upLane_groups (c : Chip) (k : Nat) (f : Lane → Lane) : (c.upLane k f).groups = c.groups := rfl
@[simp] theorem Chip.upLane_banks (c : Chip) (k : Nat) (f : Lane → Lane) : (c.upLane k f).banks = c.banks := rfl
@[simp] theorem Chip.upLane_trims (c : Chip) (k : Nat) (f : Lane → Lane) : (c.upLane k f).trims = c.trims := rfl
@[simp] theorem Chip.upLane_hbmStacks (c : Chip) (k : Nat) (f : Lane → Lane) : (c.upLane k f).hbmStacks = c.hbmStacks := rfl
@[simp] theorem Chip.upLane_ports (c : Chip) (k : Nat) (f : Lane → Lane) : (c.upLane k f).ports = c.ports := rfl
@[simp] theorem Chip.upLane_fleetOut (c : Chip) (k : Nat) (f : Lane → Lane) : (c.upLane k f).fleetOut = c.fleetOut := rfl
@[simp] theorem Chip.upLane_mon (c : Chip) (k : Nat) (f : Lane → Lane) : (c.upLane k f).mon = c.mon := rfl
@[simp] theorem Chip.upLane_lvl (c : Chip) (k : Nat) (f : Lane → Lane) : (c.upLane k f).lvl = c.lvl := rfl
@[simp] theorem Chip.upLane_saf (c : Chip) (k : Nat) (f : Lane → Lane) : (c.upLane k f).saf = c.saf := rfl
@[simp] theorem Chip.upLane_log (c : Chip) (k : Nat) (f : Lane → Lane) : (c.upLane k f).log = c.log := rfl
@[simp] theorem Chip.upLane_mem (c : Chip) (k : Nat) (f : Lane → Lane) : (c.upLane k f).mem = c.mem := rfl
@[simp] theorem Chip.lane_upLane (c : Chip) (k : Nat) (f : Lane → Lane) : (c.upLane k f).lane k = f (c.lane k) := look_put_same ..
theorem Chip.lane_upLane_ne (c : Chip) (k n : Nat) (f : Lane → Lane) (h : n ≠ k) : (c.upLane k f).lane n = c.lane n := look_put_ne _ _ _ h
@[simp] theorem Chip.upLane_region (c : Chip) (k n : Nat) (f : Lane → Lane) : (c.upLane k f).region n = c.region n := rfl
@[simp] theorem Chip.upLane_core (c : Chip) (k n : Nat) (f : Lane → Lane) : (c.upLane k f).core n = c.core n := rfl
@[simp] theorem Chip.upLane_arr (c : Chip) (k n : Nat) (f : Lane → Lane) : (c.upLane k f).arr n = c.arr n := rfl
@[simp] theorem Chip.upLane_tier (c : Chip) (k n : Nat) (f : Lane → Lane) : (c.upLane k f).tier n = c.tier n := rfl
@[simp] theorem Chip.upLane_tile (c : Chip) (k n : Nat) (f : Lane → Lane) : (c.upLane k f).tile n = c.tile n := rfl
@[simp] theorem Chip.upLane_plot (c : Chip) (k n : Nat) (f : Lane → Lane) : (c.upLane k f).plot n = c.plot n := rfl
@[simp] theorem Chip.upLane_laser (c : Chip) (k n : Nat) (f : Lane → Lane) : (c.upLane k f).laser n = c.laser n := rfl
@[simp] theorem Chip.upLane_linkLaser (c : Chip) (k n : Nat) (f : Lane → Lane) : (c.upLane k f).linkLaser n = c.linkLaser n := rfl
@[simp] theorem Chip.upLane_group (c : Chip) (k n : Nat) (f : Lane → Lane) : (c.upLane k f).group n = c.group n := rfl
@[simp] theorem Chip.upLane_bank (c : Chip) (k n : Nat) (f : Lane → Lane) : (c.upLane k f).bank n = c.bank n := rfl
@[simp] theorem Chip.upLane_stack (c : Chip) (k n : Nat) (f : Lane → Lane) : (c.upLane k f).stack n = c.stack n := rfl
@[simp] theorem Chip.upLane_port (c : Chip) (k n : Nat) (f : Lane → Lane) : (c.upLane k f).port n = c.port n := rfl

/-! ## jobs -/

@[simp] theorem Chip.upJob_freeCtr (c : Chip) (id : JobId) (f : Job → Job) : (c.upJob id f).freeCtr = c.freeCtr := rfl
@[simp] theorem Chip.dropJob_freeCtr (c : Chip) (id : JobId) : (c.dropJob id).freeCtr = c.freeCtr := rfl
@[simp] theorem Chip.upJob_clk (c : Chip) (id : JobId) (f : Job → Job) : (c.upJob id f).clk = c.clk := rfl
@[simp] theorem Chip.dropJob_clk (c : Chip) (id : JobId) : (c.dropJob id).clk = c.clk := rfl
@[simp] theorem Chip.upJob_start (c : Chip) (id : JobId) (f : Job → Job) : (c.upJob id f).start = c.start := rfl
@[simp] theorem Chip.dropJob_start (c : Chip) (id : JobId) : (c.dropJob id).start = c.start := rfl
@[simp] theorem Chip.upJob_cfg (c : Chip) (id : JobId) (f : Job → Job) : (c.upJob id f).cfg = c.cfg := rfl
@[simp] theorem Chip.dropJob_cfg (c : Chip) (id : JobId) : (c.dropJob id).cfg = c.cfg := rfl
@[simp] theorem Chip.upJob_vault (c : Chip) (id : JobId) (f : Job → Job) : (c.upJob id f).vault = c.vault := rfl
@[simp] theorem Chip.dropJob_vault (c : Chip) (id : JobId) : (c.dropJob id).vault = c.vault := rfl
@[simp] theorem Chip.upJob_acc (c : Chip) (id : JobId) (f : Job → Job) : (c.upJob id f).acc = c.acc := rfl
@[simp] theorem Chip.dropJob_acc (c : Chip) (id : JobId) : (c.dropJob id).acc = c.acc := rfl
@[simp] theorem Chip.upJob_host (c : Chip) (id : JobId) (f : Job → Job) : (c.upJob id f).host = c.host := rfl
@[simp] theorem Chip.dropJob_host (c : Chip) (id : JobId) : (c.dropJob id).host = c.host := rfl
@[simp] theorem Chip.upJob_sch (c : Chip) (id : JobId) (f : Job → Job) : (c.upJob id f).sch = c.sch := rfl
@[simp] theorem Chip.dropJob_sch (c : Chip) (id : JobId) : (c.dropJob id).sch = c.sch := rfl
@[simp] theorem Chip.upJob_nextOrder (c : Chip) (id : JobId) (f : Job → Job) : (c.upJob id f).nextOrder = c.nextOrder := rfl
@[simp] theorem Chip.dropJob_nextOrder (c : Chip) (id : JobId) : (c.dropJob id).nextOrder = c.nextOrder := rfl
@[simp] theorem Chip.upJob_regions (c : Chip) (id : JobId) (f : Job → Job) : (c.upJob id f).regions = c.regions := rfl
@[simp] theorem Chip.dropJob_regions (c : Chip) (id : JobId) : (c.dropJob id).regions = c.regions := rfl
@[simp] theorem Chip.upJob_cores (c : Chip) (id : JobId) (f : Job → Job) : (c.upJob id f).cores = c.cores := rfl
@[simp] theorem Chip.dropJob_cores (c : Chip) (id : JobId) : (c.dropJob id).cores = c.cores := rfl
@[simp] theorem Chip.upJob_seats (c : Chip) (id : JobId) (f : Job → Job) : (c.upJob id f).seats = c.seats := rfl
@[simp] theorem Chip.dropJob_seats (c : Chip) (id : JobId) : (c.dropJob id).seats = c.seats := rfl
@[simp] theorem Chip.upJob_arrays (c : Chip) (id : JobId) (f : Job → Job) : (c.upJob id f).arrays = c.arrays := rfl
@[simp] theorem Chip.dropJob_arrays (c : Chip) (id : JobId) : (c.dropJob id).arrays = c.arrays := rfl
@[simp] theorem Chip.upJob_tiers (c : Chip) (id : JobId) (f : Job → Job) : (c.upJob id f).tiers = c.tiers := rfl
@[simp] theorem Chip.dropJob_tiers (c : Chip) (id : JobId) : (c.dropJob id).tiers = c.tiers := rfl
@[simp] theorem Chip.upJob_peri (c : Chip) (id : JobId) (f : Job → Job) : (c.upJob id f).peri = c.peri := rfl
@[simp] theorem Chip.dropJob_peri (c : Chip) (id : JobId) : (c.dropJob id).peri = c.peri := rfl
@[simp] theorem Chip.upJob_cells (c : Chip) (id : JobId) (f : Job → Job) : (c.upJob id f).cells = c.cells := rfl
@[simp] theorem Chip.dropJob_cells (c : Chip) (id : JobId) : (c.dropJob id).cells = c.cells := rfl
@[simp] theorem Chip.upJob_tiles (c : Chip) (id : JobId) (f : Job → Job) : (c.upJob id f).tiles = c.tiles := rfl
@[simp] theorem Chip.dropJob_tiles (c : Chip) (id : JobId) : (c.dropJob id).tiles = c.tiles := rfl
@[simp] theorem Chip.upJob_accs (c : Chip) (id : JobId) (f : Job → Job) : (c.upJob id f).accs = c.accs := rfl
@[simp] theorem Chip.dropJob_accs (c : Chip) (id : JobId) : (c.dropJob id).accs = c.accs := rfl
@[simp] theorem Chip.upJob_dev (c : Chip) (id : JobId) (f : Job → Job) : (c.upJob id f).dev = c.dev := rfl
@[simp] theorem Chip.dropJob_dev (c : Chip) (id : JobId) : (c.dropJob id).dev = c.dev := rfl
@[simp] theorem Chip.upJob_plots (c : Chip) (id : JobId) (f : Job → Job) : (c.upJob id f).plots = c.plots := rfl
@[simp] theorem Chip.dropJob_plots (c : Chip) (id : JobId) : (c.dropJob id).plots = c.plots := rfl
@[simp] theorem Chip.upJob_lasers (c : Chip) (id : JobId) (f : Job → Job) : (c.upJob id f).lasers = c.lasers := rfl
@[simp] theorem Chip.dropJob_lasers (c : Chip) (id : JobId) : (c.dropJob id).lasers = c.lasers := rfl
@[simp] theorem Chip.upJob_linkLasers (c : Chip) (id : JobId) (f : Job → Job) : (c.upJob id f).linkLasers = c.linkLasers := rfl
@[simp] theorem Chip.dropJob_linkLasers (c : Chip) (id : JobId) : (c.dropJob id).linkLasers = c.linkLasers := rfl
@[simp] theorem Chip.upJob_linkSel (c : Chip) (id : JobId) (f : Job → Job) : (c.upJob id f).linkSel = c.linkSel := rfl
@[simp] theorem Chip.dropJob_linkSel (c : Chip) (id : JobId) : (c.dropJob id).linkSel = c.linkSel := rfl
@[simp] theorem Chip.upJob_groups (c : Chip) (id : JobId) (f : Job → Job) : (c.upJob id f).groups = c.groups := rfl
@[simp] theorem Chip.dropJob_groups (c : Chip) (id : JobId) : (c.dropJob id).groups = c.groups := rfl
@[simp] theorem Chip.upJob_banks (c : Chip) (id : JobId) (f : Job → Job) : (c.upJob id f).banks = c.banks := rfl
@[simp] theorem Chip.dropJob_banks (c : Chip) (id : JobId) : (c.dropJob id).banks = c.banks := rfl
@[simp] theorem Chip.upJob_trims (c : Chip) (id : JobId) (f : Job → Job) : (c.upJob id f).trims = c.trims := rfl
@[simp] theorem Chip.dropJob_trims (c : Chip) (id : JobId) : (c.dropJob id).trims = c.trims := rfl
@[simp] theorem Chip.upJob_hbmStacks (c : Chip) (id : JobId) (f : Job → Job) : (c.upJob id f).hbmStacks = c.hbmStacks := rfl
@[simp] theorem Chip.dropJob_hbmStacks (c : Chip) (id : JobId) : (c.dropJob id).hbmStacks = c.hbmStacks := rfl
@[simp] theorem Chip.upJob_ports (c : Chip) (id : JobId) (f : Job → Job) : (c.upJob id f).ports = c.ports := rfl
@[simp] theorem Chip.dropJob_ports (c : Chip) (id : JobId) : (c.dropJob id).ports = c.ports := rfl
@[simp] theorem Chip.upJob_lanes (c : Chip) (id : JobId) (f : Job → Job) : (c.upJob id f).lanes = c.lanes := rfl
@[simp] theorem Chip.dropJob_lanes (c : Chip) (id : JobId) : (c.dropJob id).lanes = c.lanes := rfl
@[simp] theorem Chip.upJob_fleetOut (c : Chip) (id : JobId) (f : Job → Job) : (c.upJob id f).fleetOut = c.fleetOut := rfl
@[simp] theorem Chip.dropJob_fleetOut (c : Chip) (id : JobId) : (c.dropJob id).fleetOut = c.fleetOut := rfl
@[simp] theorem Chip.upJob_mon (c : Chip) (id : JobId) (f : Job → Job) : (c.upJob id f).mon = c.mon := rfl
@[simp] theorem Chip.dropJob_mon (c : Chip) (id : JobId) : (c.dropJob id).mon = c.mon := rfl
@[simp] theorem Chip.upJob_lvl (c : Chip) (id : JobId) (f : Job → Job) : (c.upJob id f).lvl = c.lvl := rfl
@[simp] theorem Chip.dropJob_lvl (c : Chip) (id : JobId) : (c.dropJob id).lvl = c.lvl := rfl
@[simp] theorem Chip.upJob_saf (c : Chip) (id : JobId) (f : Job → Job) : (c.upJob id f).saf = c.saf := rfl
@[simp] theorem Chip.dropJob_saf (c : Chip) (id : JobId) : (c.dropJob id).saf = c.saf := rfl
@[simp] theorem Chip.upJob_log (c : Chip) (id : JobId) (f : Job → Job) : (c.upJob id f).log = c.log := rfl
@[simp] theorem Chip.dropJob_log (c : Chip) (id : JobId) : (c.dropJob id).log = c.log := rfl
@[simp] theorem Chip.upJob_mem (c : Chip) (id : JobId) (f : Job → Job) : (c.upJob id f).mem = c.mem := rfl
@[simp] theorem Chip.dropJob_mem (c : Chip) (id : JobId) : (c.dropJob id).mem = c.mem := rfl
@[simp] theorem Chip.upJob_region (c : Chip) (n : Nat) (id : JobId) (f : Job → Job) : (c.upJob id f).region n = c.region n := rfl
@[simp] theorem Chip.upJob_core (c : Chip) (n : Nat) (id : JobId) (f : Job → Job) : (c.upJob id f).core n = c.core n := rfl
@[simp] theorem Chip.upJob_arr (c : Chip) (n : Nat) (id : JobId) (f : Job → Job) : (c.upJob id f).arr n = c.arr n := rfl
@[simp] theorem Chip.upJob_tier (c : Chip) (n : Nat) (id : JobId) (f : Job → Job) : (c.upJob id f).tier n = c.tier n := rfl
@[simp] theorem Chip.upJob_tile (c : Chip) (n : Nat) (id : JobId) (f : Job → Job) : (c.upJob id f).tile n = c.tile n := rfl
@[simp] theorem Chip.upJob_plot (c : Chip) (n : Nat) (id : JobId) (f : Job → Job) : (c.upJob id f).plot n = c.plot n := rfl
@[simp] theorem Chip.upJob_laser (c : Chip) (n : Nat) (id : JobId) (f : Job → Job) : (c.upJob id f).laser n = c.laser n := rfl
@[simp] theorem Chip.upJob_linkLaser (c : Chip) (n : Nat) (id : JobId) (f : Job → Job) : (c.upJob id f).linkLaser n = c.linkLaser n := rfl
@[simp] theorem Chip.upJob_group (c : Chip) (n : Nat) (id : JobId) (f : Job → Job) : (c.upJob id f).group n = c.group n := rfl
@[simp] theorem Chip.upJob_bank (c : Chip) (n : Nat) (id : JobId) (f : Job → Job) : (c.upJob id f).bank n = c.bank n := rfl
@[simp] theorem Chip.upJob_stack (c : Chip) (n : Nat) (id : JobId) (f : Job → Job) : (c.upJob id f).stack n = c.stack n := rfl
@[simp] theorem Chip.upJob_port (c : Chip) (n : Nat) (id : JobId) (f : Job → Job) : (c.upJob id f).port n = c.port n := rfl
@[simp] theorem Chip.upJob_lane (c : Chip) (n : Nat) (id : JobId) (f : Job → Job) : (c.upJob id f).lane n = c.lane n := rfl
@[simp] theorem Chip.upRegion_job? (c : Chip) (k : Nat) (f : Region → Region) (id : JobId) : (c.upRegion k f).job? id = c.job? id := rfl
@[simp] theorem Chip.upCore_job? (c : Chip) (k : Nat) (f : CoreSt → CoreSt) (id : JobId) : (c.upCore k f).job? id = c.job? id := rfl
@[simp] theorem Chip.upArr_job? (c : Chip) (k : Nat) (f : Arr → Arr) (id : JobId) : (c.upArr k f).job? id = c.job? id := rfl
@[simp] theorem Chip.upTier_job? (c : Chip) (k : Nat) (f : Tier → Tier) (id : JobId) : (c.upTier k f).job? id = c.job? id := rfl
@[simp] theorem Chip.upTile_job? (c : Chip) (k : Nat) (f : Tile → Tile) (id : JobId) : (c.upTile k f).job? id = c.job? id := rfl
@[simp] theorem Chip.upPlot_job? (c : Chip) (k : Nat) (f : Plot → Plot) (id : JobId) : (c.upPlot k f).job? id = c.job? id := rfl
@[simp] theorem Chip.upLaser_job? (c : Chip) (k : Nat) (f : Laser → Laser) (id : JobId) : (c.upLaser k f).job? id = c.job? id := rfl
@[simp] theorem Chip.upLinkLaser_job? (c : Chip) (k : Nat) (f : Laser → Laser) (id : JobId) : (c.upLinkLaser k f).job? id = c.job? id := rfl
@[simp] theorem Chip.upGroup_job? (c : Chip) (k : Nat) (f : Group → Group) (id : JobId) : (c.upGroup k f).job? id = c.job? id := rfl
@[simp] theorem Chip.upBank_job? (c : Chip) (k : Nat) (f : Bank → Bank) (id : JobId) : (c.upBank k f).job? id = c.job? id := rfl
@[simp] theorem Chip.upStack_job? (c : Chip) (k : Nat) (f : Stack → Stack) (id : JobId) : (c.upStack k f).job? id = c.job? id := rfl
@[simp] theorem Chip.upPort_job? (c : Chip) (k : Nat) (f : Port → Port) (id : JobId) : (c.upPort k f).job? id = c.job? id := rfl
@[simp] theorem Chip.upLane_job? (c : Chip) (k : Nat) (f : Lane → Lane) (id : JobId) : (c.upLane k f).job? id = c.job? id := rfl

end Sys2Proof.Machine
end

