-- ==== Sys2Proof/Laws/Keep.lean ====
section
/-! SUPPORT. Every operation that stores nothing keeps the memories and the vault: one lemma each, so that no proof unfolds it. -/

namespace Sys2Proof.Machine

/-- A list of commands that each keep a part of the block keeps it. -/
theorem overAll_keep {α β : Type} (F : Chip → β) (l : List α) (f : Chip → α → Chip) (c : Chip) (h : ∀ c x, F (f c x) = F c) :
    F (overAll l f c) = F c := by
  induction l generalizing c with
  | nil => rfl
  | cons x l ih => exact (ih (f c x)).trans (h c x)

theorem foldl_keep {α β : Type} (F : Chip → β) (f : Chip → α → Chip) (l : List α) (c : Chip) (h : ∀ c x, F (f c x) = F c) :
    F (List.foldl f c l) = F c := overAll_keep F l f c h

theorem Chip.when_keep {β : Type} (F : Chip → β) (c : Chip) (b : Bool) (f : Chip → Chip) (h : ∀ c, F (f c) = F c) : F (c.when b f) = F c := by
  cases b
  · rfl
  · exact h c

theorem ite_keep {β : Type} (F : Chip → β) {p : Prop} [Decidable p] {x y c : Chip} (hx : F x = F c) (hy : F y = F c) :
    F (if p then x else y) = F c := by
  split
  · exact hx
  · exact hy

/-- The vault and the memories together: what most operations keep. -/
def Chip.vaultMem (c : Chip) : Vault × Mems := (c.vault, c.mem)

@[simp] theorem Chip.vaultMem_mk (freeCtr : Nat) (clk : Clk) (start : Start) (cfg : Cfg) (vault : Vault) (acc : Access) (host : HostSt)
    (sch : Sched) (jobs : List Job) (nextOrder : Nat) (regions : SMap Region) (cores : SMap CoreSt) (seats : SMap Nat) (arrays : SMap
    Arr) (tiers : SMap Tier) (peri : SMap Nat) (cells : SMap Nat) (tiles : SMap Tile) (accs : SMap (BitVec 48)) (dev : SMap (BitVec 2))
    (plots : SMap Plot) (lasers : SMap Laser) (linkLasers : SMap Laser) (linkSel : SMap (BitVec 5)) (groups : SMap Group) (banks : SMap
    Bank) (trims : SMap (BitVec 7)) (hbmStacks : SMap Stack) (ports : SMap Port) (lanes : SMap Lane) (fleetOut : List FleetOut) (mon :
    Mon) (lvl : Level) (saf : Saf) (log : Log) (mem : Mems) : (Chip.mk freeCtr clk start cfg vault acc host sch jobs nextOrder regions
    cores seats arrays tiers peri cells tiles accs dev plots lasers linkLasers linkSel groups banks trims hbmStacks ports lanes fleetOut
    mon lvl saf log mem).vaultMem = (vault, mem) := id rfl

@[simp] theorem Chip.vaultMem_eta (c : Chip) : (c.vault, c.mem) = c.vaultMem := id rfl

@[simp] theorem Chip.upRegion_vaultMem (c : Chip) (k : Nat) (f : Region → Region) : (Chip.upRegion c k f).vaultMem = c.vaultMem := rfl

@[simp] theorem Chip.upCore_vaultMem (c : Chip) (k : Nat) (f : CoreSt → CoreSt) : (Chip.upCore c k f).vaultMem = c.vaultMem := rfl

@[simp] theorem Chip.upArr_vaultMem (c : Chip) (k : Nat) (f : Arr → Arr) : (Chip.upArr c k f).vaultMem = c.vaultMem := rfl

@[simp] theorem Chip.upTier_vaultMem (c : Chip) (k : Nat) (f : Tier → Tier) : (Chip.upTier c k f).vaultMem = c.vaultMem := rfl

@[simp] theorem Chip.upTile_vaultMem (c : Chip) (k : Nat) (f : Tile → Tile) : (Chip.upTile c k f).vaultMem = c.vaultMem := rfl

@[simp] theorem Chip.upPlot_vaultMem (c : Chip) (k : Nat) (f : Plot → Plot) : (Chip.upPlot c k f).vaultMem = c.vaultMem := rfl

@[simp] theorem Chip.upLaser_vaultMem (c : Chip) (k : Nat) (f : Laser → Laser) : (Chip.upLaser c k f).vaultMem = c.vaultMem := rfl

@[simp] theorem Chip.upLinkLaser_vaultMem (c : Chip) (k : Nat) (f : Laser → Laser) : (Chip.upLinkLaser c k f).vaultMem = c.vaultMem := rfl

@[simp] theorem Chip.upGroup_vaultMem (c : Chip) (k : Nat) (f : Group → Group) : (Chip.upGroup c k f).vaultMem = c.vaultMem := rfl

@[simp] theorem Chip.upBank_vaultMem (c : Chip) (k : Nat) (f : Bank → Bank) : (Chip.upBank c k f).vaultMem = c.vaultMem := rfl

@[simp] theorem Chip.upStack_vaultMem (c : Chip) (k : Nat) (f : Stack → Stack) : (Chip.upStack c k f).vaultMem = c.vaultMem := rfl

@[simp] theorem Chip.upPort_vaultMem (c : Chip) (k : Nat) (f : Port → Port) : (Chip.upPort c k f).vaultMem = c.vaultMem := rfl

@[simp] theorem Chip.upLane_vaultMem (c : Chip) (k : Nat) (f : Lane → Lane) : (Chip.upLane c k f).vaultMem = c.vaultMem := rfl

@[simp] theorem Chip.event_vaultMem (c : Chip) (src cls code : Nat) (rerow : Bool) (locus : BitVec 32) (detail : Nat) : (Chip.event c
    src cls code rerow locus detail).vaultMem = c.vaultMem := by
  unfold Chip.event
  repeat'
    first
    | with_reducible rfl | assumption | (with_reducible refine (overAll_keep Chip.vaultMem _ _ _ fun _ _ => ?_).trans ?_)
    | (with_reducible refine (foldl_keep Chip.vaultMem _ _ _ fun _ _ => ?_).trans ?_)
    | (with_reducible refine (Chip.when_keep Chip.vaultMem _ _ _ fun _ => ?_).trans ?_) | split | simp

@[simp] theorem Chip.draw_vaultMem (c : Chip) : (Chip.draw c).2.vaultMem = c.vaultMem := rfl

@[simp] theorem Chip.eventOpen_vaultMem (c : Chip) (src cls : Nat) (locus : BitVec 32) (detail : Nat) : (Chip.eventOpen c src cls locus
    detail).vaultMem = c.vaultMem := by
  simp [Chip.eventOpen]

@[simp] theorem Chip.upJob_vaultMem (c : Chip) (id : JobId) (f : Job → Job) : (Chip.upJob c id f).vaultMem = c.vaultMem := rfl

@[simp] theorem Chip.dropJob_vaultMem (c : Chip) (id : JobId) : (Chip.dropJob c id).vaultMem = c.vaultMem := rfl

@[simp] theorem Chip.sendOn_vaultMem (c : Chip) (ps : List Nat) (m : LinkMsg) : (Chip.sendOn c ps m).vaultMem = c.vaultMem := rfl

@[simp] theorem Chip.raiseSignal_vaultMem (c : Chip) (j : Job) (kind : Nat) (x : Nat) (lane status : Nat) : (Chip.raiseSignal c j kind x
    lane status).vaultMem = c.vaultMem := rfl

@[simp] theorem Chip.callJob_vaultMem (c : Chip) (j : Job) (lane : Nat) : (Chip.callJob c j lane).vaultMem = c.vaultMem := by
  unfold Chip.callJob
  repeat' split
  all_goals simp

@[simp] theorem Chip.callRegion_vaultMem (c : Chip) (g : Nat) : (Chip.callRegion c g).vaultMem = c.vaultMem := by
  unfold Chip.callRegion
  repeat'
    first
    | with_reducible rfl | assumption | (with_reducible refine (overAll_keep Chip.vaultMem _ _ _ fun _ _ => ?_).trans ?_)
    | (with_reducible refine (foldl_keep Chip.vaultMem _ _ _ fun _ _ => ?_).trans ?_)
    | (with_reducible refine (Chip.when_keep Chip.vaultMem _ _ _ fun _ => ?_).trans ?_) | split | simp

@[simp] theorem Chip.callWhere_vaultMem (c : Chip) (p : Job → Bool) : (Chip.callWhere c p).vaultMem = c.vaultMem := by
  unfold Chip.callWhere
  repeat'
    first
    | with_reducible rfl | assumption | (with_reducible refine (overAll_keep Chip.vaultMem _ _ _ fun _ _ => ?_).trans ?_)
    | (with_reducible refine (foldl_keep Chip.vaultMem _ _ _ fun _ _ => ?_).trans ?_)
    | (with_reducible refine (Chip.when_keep Chip.vaultMem _ _ _ fun _ => ?_).trans ?_) | split | simp

@[simp] theorem Chip.hit_vaultMem (c : Chip) (l : Locus) (need : Nat) : (Chip.hit c l need).1.vaultMem = c.vaultMem := by
  unfold Chip.hit
  repeat'
    first
    | with_reducible rfl | assumption | (with_reducible refine (overAll_keep Chip.vaultMem _ _ _ fun _ _ => ?_).trans ?_)
    | (with_reducible refine (foldl_keep Chip.vaultMem _ _ _ fun _ _ => ?_).trans ?_)
    | (with_reducible refine (Chip.when_keep Chip.vaultMem _ _ _ fun _ => ?_).trans ?_) | split | simp

@[simp] theorem Chip.addRemedy_vaultMem (c : Chip) (r : Remedy) : (Chip.addRemedy c r).vaultMem = c.vaultMem := rfl

@[simp] theorem Chip.fault_vaultMem (c : Chip) (src code : Nat) (locus : BitVec 32) (detail : Nat) (l : Locus) (need : Nat) (remedy :
    Remedy) : (Chip.fault c src code locus detail l need remedy).vaultMem = c.vaultMem := by
  unfold Chip.fault
  repeat'
    first
    | with_reducible rfl | assumption | (with_reducible refine (overAll_keep Chip.vaultMem _ _ _ fun _ _ => ?_).trans ?_)
    | (with_reducible refine (foldl_keep Chip.vaultMem _ _ _ fun _ _ => ?_).trans ?_)
    | (with_reducible refine (Chip.when_keep Chip.vaultMem _ _ _ fun _ => ?_).trans ?_) | split | simp

@[simp] theorem Chip.danger_vaultMem (c : Chip) (g src code : Nat) (locus : BitVec 32) (detail : Nat) (l : Locus) (need : Nat) (remedy :
    Remedy) : (Chip.danger c g src code locus detail l need remedy).vaultMem = c.vaultMem := by
  simp [Chip.danger]

@[simp] theorem Chip.dangerLight_vaultMem (c : Chip) (g src code : Nat) (locus : BitVec 32) (detail : Nat) (cls : Nat) :
    (Chip.dangerLight c g src code locus detail cls).vaultMem = c.vaultMem := by
  simp [Chip.dangerLight]

@[simp] theorem Chip.residue_vaultMem (c : Chip) (unit g core array plot : Nat) : (Chip.residue c unit g core array plot).vaultMem =
    c.vaultMem := by
  unfold Chip.residue
  repeat' split
  all_goals simp

@[simp] theorem Chip.residues_vaultMem (c : Chip) (rs : List Residue) (g core array : Nat) (plot : Nat → Nat) :
    (Chip.residues c rs g core array plot).vaultMem = c.vaultMem := overAll_keep Chip.vaultMem _ _ _ fun _ _ => Chip.residue_vaultMem ..

@[simp] theorem Chip.badRead_vaultMem (c : Chip) (id : JobId) (loc : Nat) : (Chip.badRead c id loc).vaultMem = c.vaultMem := rfl

@[simp] theorem Chip.coreCode_vaultMem (c : Chip) (core kind : Nat) : (Chip.coreCode c core kind).vaultMem = c.vaultMem := by
  simp [Chip.coreCode]

@[simp] theorem Chip.regionCode_vaultMem (c : Chip) (g kind : Nat) : (Chip.regionCode c g kind).vaultMem = c.vaultMem := by
  simp [Chip.regionCode]

@[simp] theorem Chip.scheduleFault_vaultMem (c : Chip) (j : Job) (g src : Nat) (locus : BitVec 32) (index : Nat) : (Chip.scheduleFault c
    j g src locus index).vaultMem = c.vaultMem := by
  unfold Chip.scheduleFault
  repeat'
    first
    | with_reducible rfl | assumption | (with_reducible refine (overAll_keep Chip.vaultMem _ _ _ fun _ _ => ?_).trans ?_)
    | (with_reducible refine (foldl_keep Chip.vaultMem _ _ _ fun _ _ => ?_).trans ?_)
    | (with_reducible refine (Chip.when_keep Chip.vaultMem _ _ _ fun _ => ?_).trans ?_) | split | simp

@[simp] theorem Chip.badFetch_vaultMem (c : Chip) (st : Site) (g : Nat) : (Chip.badFetch c st g).vaultMem = c.vaultMem := by
  unfold Chip.badFetch
  repeat' split
  all_goals simp

@[simp] theorem Chip.lockstep_vaultMem (c : Chip) (st : Site) (g : Nat) : (Chip.lockstep c st g).vaultMem = c.vaultMem := by
  unfold Chip.lockstep
  split <;> simp

@[simp] theorem Chip.datumNote_vaultMem (c : Chip) (core opByte g : Nat) (cn : Cnt) : (Chip.datumNote c core opByte g cn).vaultMem =
    c.vaultMem := by
  unfold Chip.datumNote
  repeat'
    first
    | with_reducible rfl | assumption | (with_reducible refine (overAll_keep Chip.vaultMem _ _ _ fun _ _ => ?_).trans ?_)
    | (with_reducible refine (foldl_keep Chip.vaultMem _ _ _ fun _ _ => ?_).trans ?_)
    | (with_reducible refine (Chip.when_keep Chip.vaultMem _ _ _ fun _ => ?_).trans ?_) | split | simp

@[simp] theorem Chip.streamFaultCore_vaultMem (c : Chip) (core : Nat) (t : TagMiss) : (Chip.streamFaultCore c core t).vaultMem =
    c.vaultMem := by
  simp [Chip.streamFaultCore]

@[simp] theorem Chip.corePath_vaultMem (c : Chip) (id : JobId) (core array : Nat) (p : Path) : (Chip.corePath c id core array
    p).vaultMem = c.vaultMem := by
  unfold Chip.corePath
  repeat'
    first
    | with_reducible rfl | assumption | (with_reducible refine (overAll_keep Chip.vaultMem _ _ _ fun _ _ => ?_).trans ?_)
    | split | simp

@[simp] theorem Chip.accFault_vaultMem (c : Chip) (core peri : Nat) : (Chip.accFault c core peri).vaultMem = c.vaultMem := by
  simp [Chip.accFault]

@[simp] theorem Chip.accFaults_vaultMem (c : Chip) (core peri n : Nat) : (Chip.accFaults c core peri n).vaultMem = c.vaultMem := by
  induction n generalizing c with
  | zero => rfl
  | succ n ih => exact (ih _).trans (Chip.accFault_vaultMem c core peri)

@[simp] theorem Chip.accPath_vaultMem (c : Chip) (core peri : Nat) (p : Path) : (Chip.accPath c core peri p).vaultMem = c.vaultMem := by
  unfold Chip.accPath
  repeat'
    first
    | with_reducible rfl | assumption | (with_reducible refine (overAll_keep Chip.vaultMem _ _ _ fun _ _ => ?_).trans ?_)
    | (with_reducible refine (foldl_keep Chip.vaultMem _ _ _ fun _ _ => ?_).trans ?_)
    | (with_reducible refine (Chip.when_keep Chip.vaultMem _ _ _ fun _ => ?_).trans ?_) | split | simp

@[simp] theorem Chip.diagnose_vaultMem (c : Chip) (core cells tier : Nat) (int4 : Bool) (im : Nat × Nat) (k : Cand) : (Chip.diagnose c
    core cells tier int4 im k).vaultMem = c.vaultMem := by
  unfold Chip.diagnose
  repeat' split
  all_goals simp

@[simp] theorem Chip.senseFail_vaultMem (c : Chip) (core cells peri tier : Nat) (diagnosed : List (Nat × Nat)) (v : Mismatch) :
    (Chip.senseFail c core cells peri tier diagnosed v).vaultMem = c.vaultMem := by
  unfold Chip.senseFail
  repeat'
    first
    | with_reducible rfl | assumption | (with_reducible refine (overAll_keep Chip.vaultMem _ _ _ fun _ _ => ?_).trans ?_)
    | (with_reducible refine (foldl_keep Chip.vaultMem _ _ _ fun _ _ => ?_).trans ?_)
    | (with_reducible refine (Chip.when_keep Chip.vaultMem _ _ _ fun _ => ?_).trans ?_) | split | simp

@[simp] theorem Chip.heldFail_vaultMem (core : Nat) (c : Chip) (h : HeldCheck) : (Chip.heldFail core c h).vaultMem = c.vaultMem := by
  unfold Chip.heldFail
  repeat' split
  all_goals simp

@[simp] theorem Chip.benchFail_vaultMem (core cells peri tier : Nat) (c : Chip) (b : BenchMiss) : (Chip.benchFail core cells peri tier c
    b).vaultMem = c.vaultMem := by
  unfold Chip.benchFail
  repeat'
    first
    | with_reducible rfl | assumption | (with_reducible refine (overAll_keep Chip.vaultMem _ _ _ fun _ _ => ?_).trans ?_)
    | (with_reducible refine (foldl_keep Chip.vaultMem _ _ _ fun _ _ => ?_).trans ?_)
    | (with_reducible refine (Chip.when_keep Chip.vaultMem _ _ _ fun _ => ?_).trans ?_) | split | simp

@[simp] theorem Chip.coxOverflow_vaultMem (c : Chip) (core kind tick key : Nat) : (Chip.coxOverflow c core kind tick key).vaultMem =
    c.vaultMem := by
  simp [Chip.coxOverflow]

@[simp] theorem Chip.postItem_vaultMem (x : TileCtx) (core cells peri issue E v0 : Nat) (c : Chip) (v : Conv) : (Chip.postItem x core
    cells peri issue E v0 c v).vaultMem = c.vaultMem := rfl

@[simp] theorem Chip.tileIssue_vaultMem (c : Chip) (st : Site) (j : Job) (g lc core : Nat) (op : TileOp) (rds : List Reading) (bench :
    List BenchMiss) (p : Path) : (Chip.tileIssue c st j g lc core op rds bench p).vaultMem = c.vaultMem := by
  unfold Chip.tileIssue
  repeat'
    first
    | with_reducible rfl | assumption | (with_reducible refine (overAll_keep Chip.vaultMem _ _ _ fun _ _ => ?_).trans ?_)
    | (with_reducible refine (foldl_keep Chip.vaultMem _ _ _ fun _ _ => ?_).trans ?_)
    | (with_reducible refine (Chip.when_keep Chip.vaultMem _ _ _ fun _ => ?_).trans ?_) | split | simp

@[simp] theorem Chip.serveItem_vaultMem (c : Chip) (core : Nat) (x : CoxItem) : (Chip.serveItem c core x).vaultMem = c.vaultMem := by
  unfold Chip.serveItem
  repeat'
    first
    | with_reducible rfl | assumption | (with_reducible refine (overAll_keep Chip.vaultMem _ _ _ fun _ _ => ?_).trans ?_)
    | (with_reducible refine (foldl_keep Chip.vaultMem _ _ _ fun _ _ => ?_).trans ?_)
    | (with_reducible refine (Chip.when_keep Chip.vaultMem _ _ _ fun _ => ?_).trans ?_) | split | simp

@[simp] theorem Chip.dropItem_vaultMem (c : Chip) (core : Nat) (x : CoxItem) : (Chip.dropItem c core x).vaultMem = c.vaultMem := rfl

@[simp] theorem Chip.arriveItem_vaultMem (core : Nat) (c : Chip) (x : CoxItem) : (Chip.arriveItem core c x).vaultMem = c.vaultMem := by
  unfold Chip.arriveItem
  repeat'
    first
    | with_reducible rfl | assumption | (with_reducible refine (overAll_keep Chip.vaultMem _ _ _ fun _ _ => ?_).trans ?_)
    | (with_reducible refine (foldl_keep Chip.vaultMem _ _ _ fun _ _ => ?_).trans ?_)
    | (with_reducible refine (Chip.when_keep Chip.vaultMem _ _ _ fun _ => ?_).trans ?_) | split | simp

@[simp] theorem Chip.arrivals_vaultMem (c : Chip) (core tick : Nat) : (Chip.arrivals c core tick).vaultMem = c.vaultMem := by
  unfold Chip.arrivals
  repeat'
    first
    | with_reducible rfl | assumption | (with_reducible refine (overAll_keep Chip.vaultMem _ _ _ fun _ _ => ?_).trans ?_)
    | (with_reducible refine (foldl_keep Chip.vaultMem _ _ _ fun _ _ => ?_).trans ?_)
    | (with_reducible refine (Chip.when_keep Chip.vaultMem _ _ _ fun _ => ?_).trans ?_) | split | simp

@[simp] theorem Chip.escape_vaultMem (c : Chip) (j : Job) (g lc core s : Nat) : (Chip.escape c j g lc core s).vaultMem = c.vaultMem := by
  unfold Chip.escape
  repeat'
    first
    | with_reducible rfl | assumption | (with_reducible refine (overAll_keep Chip.vaultMem _ _ _ fun _ _ => ?_).trans ?_)
    | (with_reducible refine (foldl_keep Chip.vaultMem _ _ _ fun _ _ => ?_).trans ?_)
    | (with_reducible refine (Chip.when_keep Chip.vaultMem _ _ _ fun _ => ?_).trans ?_) | split | simp

@[simp] theorem Chip.escapes_vaultMem (c : Chip) (j : Job) (g lc core s n : Nat) : (Chip.escapes c j g lc core s n).vaultMem = c.vaultMem := by
  induction n generalizing c with
  | zero => rfl
  | succ n ih => exact (ih _).trans (Chip.escape_vaultMem c j g lc core s)

@[simp] theorem Chip.missed_vaultMem (c : Chip) (core start : Nat) : (Chip.missed c core start).vaultMem = c.vaultMem := by
  unfold Chip.missed
  repeat'
    first
    | with_reducible rfl | assumption | (with_reducible refine (overAll_keep Chip.vaultMem _ _ _ fun _ _ => ?_).trans ?_)
    | (with_reducible refine (foldl_keep Chip.vaultMem _ _ _ fun _ _ => ?_).trans ?_)
    | (with_reducible refine (Chip.when_keep Chip.vaultMem _ _ _ fun _ => ?_).trans ?_) | split | simp

@[simp] theorem Chip.coxOffend_vaultMem (core : Nat) (c : Chip) (o : Nat × Nat × Nat) : (Chip.coxOffend core c o).vaultMem = c.vaultMem
    := by
  simp [Chip.coxOffend]

@[simp] theorem Chip.coxStroke_vaultMem (c : Chip) (core tick : Nat) : (Chip.coxStroke c core tick).vaultMem = c.vaultMem := by
  unfold Chip.coxStroke
  repeat'
    first
    | with_reducible rfl | assumption | (with_reducible refine (overAll_keep Chip.vaultMem _ _ _ fun _ _ => ?_).trans ?_)
    | (with_reducible refine (foldl_keep Chip.vaultMem _ _ _ fun _ _ => ?_).trans ?_)
    | (with_reducible refine (Chip.when_keep Chip.vaultMem _ _ _ fun _ => ?_).trans ?_) | split | simp

@[simp] theorem Chip.groupMismatch_vaultMem (c : Chip) (g k group : Nat) : (Chip.groupMismatch c g k group).vaultMem = c.vaultMem := by
  simp [Chip.groupMismatch]

@[simp] theorem Chip.optGroupPosted_vaultMem (g : Nat) (c : Chip) (d : OptDue) (before : Nat) : (Chip.optGroupPosted g c d
    before).vaultMem = c.vaultMem := by
  unfold Chip.optGroupPosted
  repeat'
    first
    | with_reducible rfl | assumption | (with_reducible refine (overAll_keep Chip.vaultMem _ _ _ fun _ _ => ?_).trans ?_)
    | (with_reducible refine (foldl_keep Chip.vaultMem _ _ _ fun _ _ => ?_).trans ?_)
    | (with_reducible refine (Chip.when_keep Chip.vaultMem _ _ _ fun _ => ?_).trans ?_) | split | simp

@[simp] theorem Chip.optGroups_vaultMem (g : Nat) (l : List OptDue) (n : Nat) (c : Chip) :
    (Chip.optGroups g l n c).vaultMem = c.vaultMem := by
  induction l generalizing n c with
  | nil => rfl
  | cons d l ih => exact (ih _ _).trans (Chip.optGroupPosted_vaultMem g c d n)

@[simp] theorem Chip.optStroke_vaultMem (c : Chip) (g : Nat) : (Chip.optStroke c g).vaultMem = c.vaultMem := by
  unfold Chip.optStroke
  repeat'
    first
    | with_reducible rfl | assumption | (with_reducible refine (overAll_keep Chip.vaultMem _ _ _ fun _ _ => ?_).trans ?_)
    | (with_reducible refine (foldl_keep Chip.vaultMem _ _ _ fun _ _ => ?_).trans ?_)
    | (with_reducible refine (Chip.when_keep Chip.vaultMem _ _ _ fun _ => ?_).trans ?_) | split | simp

@[simp] theorem Chip.endSwitching_vaultMem (c : Chip) (g : Nat) (on : List Nat) : (Chip.endSwitching c g on).vaultMem = c.vaultMem := by
  unfold Chip.endSwitching
  repeat'
    first
    | with_reducible rfl | assumption | (with_reducible refine (overAll_keep Chip.vaultMem _ _ _ fun _ _ => ?_).trans ?_)
    | (with_reducible refine (foldl_keep Chip.vaultMem _ _ _ fun _ _ => ?_).trans ?_)
    | (with_reducible refine (Chip.when_keep Chip.vaultMem _ _ _ fun _ => ?_).trans ?_) | split | simp

@[simp] theorem Chip.addDuty_vaultMem (c : Chip) (g issue first last : Nat) (plots : List Nat) : (Chip.addDuty c g issue first last
    plots).vaultMem = c.vaultMem := rfl

@[simp] theorem Chip.regionPath_vaultMem (c : Chip) (id : JobId) (g : Nat) (plot : Nat → Nat) (p : Path) : (Chip.regionPath c id g plot
    p).vaultMem = c.vaultMem := by
  unfold Chip.regionPath
  repeat'
    first
    | with_reducible rfl | assumption | (with_reducible refine (overAll_keep Chip.vaultMem _ _ _ fun _ _ => ?_).trans ?_)
    | split | simp

@[simp] theorem Chip.channelFault_vaultMem (c : Chip) (L : Nat) (rerow : Bool) : (Chip.channelFault c L rerow).vaultMem = c.vaultMem := by
  unfold Chip.channelFault
  repeat'
    first
    | with_reducible rfl | assumption | (with_reducible refine (overAll_keep Chip.vaultMem _ _ _ fun _ _ => ?_).trans ?_)
    | (with_reducible refine (foldl_keep Chip.vaultMem _ _ _ fun _ _ => ?_).trans ?_)
    | (with_reducible refine (Chip.when_keep Chip.vaultMem _ _ _ fun _ => ?_).trans ?_) | split | simp

@[simp] theorem Chip.stackCounts_vaultMem (c : Chip) (s corrected ondie : Nat) (parity : Bool) : (Chip.stackCounts c s corrected ondie
    parity).vaultMem = c.vaultMem := rfl

@[simp] theorem Chip.slotFault_vaultMem (c : Chip) (id : JobId) (g L : Nat) : (Chip.slotFault c id g L).vaultMem = c.vaultMem := by
  simp [Chip.slotFault]

@[simp] theorem Chip.hbmPath_vaultMem (c : Chip) (id : JobId) (g stack : Nat) (p : Path) : (Chip.hbmPath c id g stack p).vaultMem =
    c.vaultMem := by
  unfold Chip.hbmPath
  repeat'
    first
    | with_reducible rfl | assumption | (with_reducible refine (overAll_keep Chip.vaultMem _ _ _ fun _ _ => ?_).trans ?_)
    | split | simp

@[simp] theorem Chip.hbmWritePath_vaultMem (c : Chip) (id : JobId) (g L : Nat) (p : Path) : (Chip.hbmWritePath c id g L p).vaultMem =
    c.vaultMem := by
  unfold Chip.hbmWritePath
  repeat'
    first
    | with_reducible rfl | assumption | (with_reducible refine (overAll_keep Chip.vaultMem _ _ _ fun _ _ => ?_).trans ?_)
    | (with_reducible refine (foldl_keep Chip.vaultMem _ _ _ fun _ _ => ?_).trans ?_)
    | (with_reducible refine (Chip.when_keep Chip.vaultMem _ _ _ fun _ => ?_).trans ?_) | split | simp

@[simp] theorem Chip.hbmCode_vaultMem (c : Chip) (s : Nat) (code : HbmCode) : (Chip.hbmCode c s code).vaultMem = c.vaultMem := by
  unfold Chip.hbmCode
  repeat' split
  all_goals simp

@[simp] theorem Chip.upHport_vaultMem (c : Chip) (p : Fin 2) (f : HPort → HPort) : (Chip.upHport c p f).vaultMem = c.vaultMem := rfl

@[simp] theorem Chip.wire_vaultMem (c : Chip) (p : Packet) : (Chip.wire c p).vaultMem = c.vaultMem := by
  unfold Chip.wire
  repeat' split
  all_goals simp

@[simp] theorem Chip.upQueue_vaultMem (c : Chip) (q : Nat) (f : QState → QState) : (Chip.upQueue c q f).vaultMem = c.vaultMem := rfl

@[simp] theorem Chip.emit_vaultMem (c : Chip) (q : Nat) (w : Waiting) : (Chip.emit c q w).vaultMem = c.vaultMem := by
  simp [Chip.emit]

@[simp] theorem Chip.post_vaultMem (c : Chip) (q : Nat) (w : Waiting) : (Chip.post c q w).vaultMem = c.vaultMem := by
  unfold Chip.post
  repeat' split
  all_goals simp

@[simp] theorem Chip.send_vaultMem (c : Chip) (q : Nat) (tag : BitVec 32) (answers : Option (BitVec 32)) (b : ResultBody) : (Chip.send c
    q tag answers b).vaultMem = c.vaultMem := by
  simp [Chip.send]

@[simp] theorem Chip.flush_vaultMem (q n : Nat) (c : Chip) : (Chip.flush q n c).vaultMem = c.vaultMem := by
  induction n generalizing c with
  | zero => rfl
  | succ n ih =>
    unfold Chip.flush
    repeat' split
    all_goals simp [ih]

@[simp] theorem Chip.sendAck_vaultMem (c : Chip) (q : Nat) : (Chip.sendAck c q).vaultMem = c.vaultMem := by
  simp [Chip.sendAck]

@[simp] theorem Chip.jobEnd_vaultMem (c : Chip) (j : Job) (status sub flags : Nat) : (Chip.jobEnd c j status sub flags).vaultMem =
    c.vaultMem := by
  unfold Chip.jobEnd
  repeat'
    first
    | with_reducible rfl | assumption | (with_reducible refine (overAll_keep Chip.vaultMem _ _ _ fun _ _ => ?_).trans ?_)
    | (with_reducible refine (foldl_keep Chip.vaultMem _ _ _ fun _ _ => ?_).trans ?_)
    | (with_reducible refine (Chip.when_keep Chip.vaultMem _ _ _ fun _ => ?_).trans ?_) | split | simp

@[simp] theorem Chip.jobState_vaultMem (c : Chip) (j : Job) (state reason stroke : Nat) : (Chip.jobState c j state reason
    stroke).vaultMem = c.vaultMem := by
  simp [Chip.jobState]

@[simp] theorem Chip.jobRecord_vaultMem (c : Chip) (j : Job) : (Chip.jobRecord c j).vaultMem = c.vaultMem := rfl

@[simp] theorem Chip.sendStream_vaultMem (j : Job) (port : Option (Fin 2)) (e n k : Nat) (c : Chip) :
    (Chip.sendStream j port e n k c).vaultMem = c.vaultMem := by
  induction n generalizing k c with
  | zero => rfl
  | succ n ih =>
    unfold Chip.sendStream
    split
    · rfl
    · simp [ih]

@[simp] theorem Chip.clearWork_vaultMem (c : Chip) (j : Job) : (Chip.clearWork c j).vaultMem = c.vaultMem := by
  unfold Chip.clearWork
  repeat'
    first
    | with_reducible rfl | assumption | (with_reducible refine (overAll_keep Chip.vaultMem _ _ _ fun _ _ => ?_).trans ?_)
    | (with_reducible refine (foldl_keep Chip.vaultMem _ _ _ fun _ _ => ?_).trans ?_)
    | (with_reducible refine (Chip.when_keep Chip.vaultMem _ _ _ fun _ => ?_).trans ?_) | split | simp

@[simp] theorem Chip.releaseRegion_vaultMem (c : Chip) (j : Job) (g : Nat) : (Chip.releaseRegion c j g).vaultMem = c.vaultMem := rfl

@[simp] theorem Chip.release_vaultMem (c : Chip) (j : Job) : (Chip.release c j).vaultMem = c.vaultMem := by
  unfold Chip.release
  repeat'
    first
    | with_reducible rfl | assumption | (with_reducible refine (overAll_keep Chip.vaultMem _ _ _ fun _ _ => ?_).trans ?_)
    | (with_reducible refine (foldl_keep Chip.vaultMem _ _ _ fun _ _ => ?_).trans ?_)
    | (with_reducible refine (Chip.when_keep Chip.vaultMem _ _ _ fun _ => ?_).trans ?_) | split | simp

@[simp] theorem Chip.settleTier_vaultMem (rest : List SwapDone) (w : SwapDone) (T : Nat) (c : Chip) : (Chip.settleTier rest w T
    c).vaultMem = c.vaultMem := by
  unfold Chip.settleTier
  repeat' split
  all_goals simp

@[simp] theorem Chip.settle_vaultMem (rest : List SwapDone) (c : Chip) (w : SwapDone) : (Chip.settle rest c w).vaultMem = c.vaultMem := by
  simp [Chip.settle]

@[simp] theorem Chip.endJob_vaultMem (c : Chip) (j : Job) (status sub flags : Nat) : (Chip.endJob c j status sub flags).vaultMem =
    c.vaultMem := by
  unfold Chip.endJob
  repeat'
    first
    | with_reducible rfl | assumption | (with_reducible refine (overAll_keep Chip.vaultMem _ _ _ fun _ _ => ?_).trans ?_)
    | (with_reducible refine (foldl_keep Chip.vaultMem _ _ _ fun _ _ => ?_).trans ?_)
    | (with_reducible refine (Chip.when_keep Chip.vaultMem _ _ _ fun _ => ?_).trans ?_) | split | simp

@[simp] theorem Chip.abortJob_vaultMem (c : Chip) (id : JobId) (status flags : Nat) : (Chip.abortJob c id status flags).vaultMem =
    c.vaultMem := by
  unfold Chip.abortJob
  repeat' split
  all_goals simp

@[simp] theorem Chip.loseJob_vaultMem (c : Chip) (j : Job) : (Chip.loseJob c j).vaultMem = c.vaultMem := by
  unfold Chip.loseJob
  repeat' split
  all_goals simp

@[simp] theorem Chip.loseWhere_vaultMem (c : Chip) (p : Job → Bool) : (Chip.loseWhere c p).vaultMem = c.vaultMem := by
  unfold Chip.loseWhere
  repeat'
    first
    | with_reducible rfl | assumption | (with_reducible refine (overAll_keep Chip.vaultMem _ _ _ fun _ _ => ?_).trans ?_)
    | (with_reducible refine (foldl_keep Chip.vaultMem _ _ _ fun _ _ => ?_).trans ?_)
    | (with_reducible refine (Chip.when_keep Chip.vaultMem _ _ _ fun _ => ?_).trans ?_) | split | simp

@[simp] theorem Chip.takeSeat_vaultMem (c : Chip) (q lp : Nat) : (Chip.takeSeat c q lp).vaultMem = c.vaultMem := rfl

@[simp] theorem Chip.abandonSurvey_vaultMem (c : Chip) (u : SurveyUnit) : (Chip.abandonSurvey c u).vaultMem = c.vaultMem := rfl

@[simp] theorem Chip.abandonUnit_vaultMem (c : Chip) (u : SurveyUnit) : (Chip.abandonUnit c u).vaultMem = c.vaultMem := by
  unfold Chip.abandonUnit
  repeat' split
  all_goals simp

@[simp] theorem Chip.substituted_vaultMem (c : Chip) (src : Nat) (locus : BitVec 32) (kind : Nat) (perm last : Bool) : (Chip.substituted
    c src locus kind perm last).vaultMem = c.vaultMem := by
  unfold Chip.substituted
  repeat' split
  all_goals simp

@[simp] theorem Chip.plotAbsent_vaultMem (c : Chip) (k lp : Nat) : (Chip.plotAbsent c k lp).vaultMem = c.vaultMem := by
  simp [Chip.plotAbsent]

@[simp] theorem Chip.noteHolds_vaultMem (c : Chip) : (Chip.noteHolds c).vaultMem = c.vaultMem := by
  unfold Chip.noteHolds
  repeat'
    first
    | with_reducible rfl | assumption | (with_reducible refine (overAll_keep Chip.vaultMem _ _ _ fun _ _ => ?_).trans ?_)
    | (with_reducible refine (foldl_keep Chip.vaultMem _ _ _ fun _ _ => ?_).trans ?_)
    | (with_reducible refine (Chip.when_keep Chip.vaultMem _ _ _ fun _ => ?_).trans ?_) | split | simp

@[simp] theorem Chip.holdJobs_vaultMem (c : Chip) (g k : Nat) (names : Job → Bool) : (Chip.holdJobs c g k names).vaultMem = c.vaultMem
    := by
  unfold Chip.holdJobs
  repeat'
    first
    | with_reducible rfl | assumption | (with_reducible refine (overAll_keep Chip.vaultMem _ _ _ fun _ _ => ?_).trans ?_)
    | (with_reducible refine (foldl_keep Chip.vaultMem _ _ _ fun _ _ => ?_).trans ?_)
    | (with_reducible refine (Chip.when_keep Chip.vaultMem _ _ _ fun _ => ?_).trans ?_) | split | simp

@[simp] theorem Chip.leaveSeat_vaultMem (c : Chip) (k reason : Nat) (retire perm : Bool) : (Chip.leaveSeat c k reason retire
    perm).vaultMem = c.vaultMem := by
  unfold Chip.leaveSeat
  repeat'
    first
    | with_reducible rfl | assumption | (with_reducible refine (overAll_keep Chip.vaultMem _ _ _ fun _ _ => ?_).trans ?_)
    | (with_reducible refine (foldl_keep Chip.vaultMem _ _ _ fun _ _ => ?_).trans ?_)
    | (with_reducible refine (Chip.when_keep Chip.vaultMem _ _ _ fun _ => ?_).trans ?_) | split | simp

@[simp] theorem Chip.endPlotHolds_vaultMem (c : Chip) : (Chip.endPlotHolds c).vaultMem = c.vaultMem := by
  simp [Chip.endPlotHolds]

@[simp] theorem Chip.retireGroup_vaultMem (c : Chip) (g k : Nat) : (Chip.retireGroup c g k).vaultMem = c.vaultMem := by
  unfold Chip.retireGroup
  repeat'
    first
    | with_reducible rfl | assumption | (with_reducible refine (overAll_keep Chip.vaultMem _ _ _ fun _ _ => ?_).trans ?_)
    | (with_reducible refine (foldl_keep Chip.vaultMem _ _ _ fun _ _ => ?_).trans ?_)
    | (with_reducible refine (Chip.when_keep Chip.vaultMem _ _ _ fun _ => ?_).trans ?_) | split | simp

@[simp] theorem Chip.holdGroup_vaultMem (c : Chip) (g k : Nat) : (Chip.holdGroup c g k).vaultMem = c.vaultMem := by
  unfold Chip.holdGroup
  repeat'
    first
    | with_reducible rfl | assumption | (with_reducible refine (overAll_keep Chip.vaultMem _ _ _ fun _ _ => ?_).trans ?_)
    | (with_reducible refine (foldl_keep Chip.vaultMem _ _ _ fun _ _ => ?_).trans ?_)
    | (with_reducible refine (Chip.when_keep Chip.vaultMem _ _ _ fun _ => ?_).trans ?_) | split | simp

@[simp] theorem Chip.impair_vaultMem (c : Chip) (a : Nat) : (Chip.impair c a).vaultMem = c.vaultMem := by
  unfold Chip.impair
  repeat'
    first
    | with_reducible rfl | assumption | (with_reducible refine (overAll_keep Chip.vaultMem _ _ _ fun _ _ => ?_).trans ?_)
    | (with_reducible refine (foldl_keep Chip.vaultMem _ _ _ fun _ _ => ?_).trans ?_)
    | (with_reducible refine (Chip.when_keep Chip.vaultMem _ _ _ fun _ => ?_).trans ?_) | split | simp

@[simp] theorem Chip.beginPlot_vaultMem (a : Nat) (c : Chip) (i : Nat) : (Chip.beginPlot a c i).vaultMem = c.vaultMem := by
  unfold Chip.beginPlot
  repeat'
    first
    | with_reducible rfl | assumption | (with_reducible refine (overAll_keep Chip.vaultMem _ _ _ fun _ _ => ?_).trans ?_)
    | (with_reducible refine (foldl_keep Chip.vaultMem _ _ _ fun _ _ => ?_).trans ?_)
    | (with_reducible refine (Chip.when_keep Chip.vaultMem _ _ _ fun _ => ?_).trans ?_) | split | simp

@[simp] theorem Chip.beginCells_vaultMem (c : Chip) (a : Nat) : (Chip.beginCells c a).vaultMem = c.vaultMem := by
  unfold Chip.beginCells
  repeat' split
  all_goals simp

@[simp] theorem Chip.beginCopies_vaultMem (c : Chip) (core : Nat) : (Chip.beginCopies c core).vaultMem = c.vaultMem := by
  unfold Chip.beginCopies
  repeat'
    first
    | with_reducible rfl | assumption | (with_reducible refine (overAll_keep Chip.vaultMem _ _ _ fun _ _ => ?_).trans ?_)
    | (with_reducible refine (foldl_keep Chip.vaultMem _ _ _ fun _ _ => ?_).trans ?_)
    | (with_reducible refine (Chip.when_keep Chip.vaultMem _ _ _ fun _ => ?_).trans ?_) | split | simp

@[simp] theorem Chip.startMove_vaultMem (c : Chip) (a : Nat) : (Chip.startMove c a).vaultMem = c.vaultMem := by
  unfold Chip.startMove
  repeat'
    first
    | with_reducible rfl | assumption | (with_reducible refine (overAll_keep Chip.vaultMem _ _ _ fun _ _ => ?_).trans ?_)
    | (with_reducible refine (foldl_keep Chip.vaultMem _ _ _ fun _ _ => ?_).trans ?_)
    | (with_reducible refine (Chip.when_keep Chip.vaultMem _ _ _ fun _ => ?_).trans ?_) | split | simp

@[simp] theorem Chip.startPlotCopy_vaultMem (c : Chip) (a i j : Nat) : (Chip.startPlotCopy c a i j).vaultMem = c.vaultMem := by
  unfold Chip.startPlotCopy
  repeat'
    first
    | with_reducible rfl | assumption | (with_reducible refine (overAll_keep Chip.vaultMem _ _ _ fun _ _ => ?_).trans ?_)
    | (with_reducible refine (foldl_keep Chip.vaultMem _ _ _ fun _ _ => ?_).trans ?_)
    | (with_reducible refine (Chip.when_keep Chip.vaultMem _ _ _ fun _ => ?_).trans ?_) | split | simp

@[simp] theorem Chip.addStuck_vaultMem (c : Chip) (a : Nat) (e : Stuck) : (Chip.addStuck c a e).vaultMem = c.vaultMem := by
  unfold Chip.addStuck
  repeat'
    first
    | with_reducible rfl | assumption | (with_reducible refine (overAll_keep Chip.vaultMem _ _ _ fun _ _ => ?_).trans ?_)
    | (with_reducible refine (foldl_keep Chip.vaultMem _ _ _ fun _ _ => ?_).trans ?_)
    | (with_reducible refine (Chip.when_keep Chip.vaultMem _ _ _ fun _ => ?_).trans ?_) | split | simp

@[simp] theorem Chip.endRotation_vaultMem (c : Chip) (a : Nat) : (Chip.endRotation c a).vaultMem = c.vaultMem := by
  unfold Chip.endRotation
  repeat' split
  all_goals simp

@[simp] theorem Chip.retirePeri_vaultMem (c : Chip) (p : Nat) : (Chip.retirePeri c p).vaultMem = c.vaultMem := by
  unfold Chip.retirePeri
  repeat'
    first
    | with_reducible rfl | assumption | (with_reducible refine (overAll_keep Chip.vaultMem _ _ _ fun _ _ => ?_).trans ?_)
    | (with_reducible refine (foldl_keep Chip.vaultMem _ _ _ fun _ _ => ?_).trans ?_)
    | (with_reducible refine (Chip.when_keep Chip.vaultMem _ _ _ fun _ => ?_).trans ?_) | split | simp

@[simp] theorem Chip.loseRegion_vaultMem (c : Chip) (g : Nat) : (Chip.loseRegion c g).vaultMem = c.vaultMem := by
  unfold Chip.loseRegion
  repeat' split
  all_goals simp

@[simp] theorem Chip.benchRestart_vaultMem (c : Chip) (g : Nat) : (Chip.benchRestart c g).vaultMem = c.vaultMem := rfl

@[simp] theorem Chip.entryLost_vaultMem (c : Chip) (T : Nat) : (Chip.entryLost c T).vaultMem = c.vaultMem := by
  simp [Chip.entryLost]

@[simp] theorem Chip.readCopy_vaultMem (c : Chip) (bad : List LedgerMiss) (T n : Nat) : (Chip.readCopy c bad T n).1.vaultMem =
    c.vaultMem := by
  unfold Chip.readCopy
  repeat' split
  all_goals simp

@[simp] theorem Chip.dropShadows_vaultMem (c : Chip) (s : Nat) : (Chip.dropShadows c s).vaultMem = c.vaultMem := rfl

@[simp] theorem Chip.upLaserAt_vaultMem (c : Chip) (r : LaserRef) (f : Laser → Laser) : (Chip.upLaserAt c r f).vaultMem = c.vaultMem := by
  unfold Chip.upLaserAt
  repeat' split
  all_goals simp

@[simp] theorem Chip.trackGains_vaultMem (c : Chip) (g : Nat) : (Chip.trackGains c g).vaultMem = c.vaultMem := rfl

@[simp] theorem Chip.endLaneSurvey_vaultMem (c : Chip) (p l : Nat) : (Chip.endLaneSurvey c p l).vaultMem = c.vaultMem := by
  unfold Chip.endLaneSurvey
  repeat'
    first
    | with_reducible rfl | assumption | (with_reducible refine (overAll_keep Chip.vaultMem _ _ _ fun _ _ => ?_).trans ?_)
    | (with_reducible refine (foldl_keep Chip.vaultMem _ _ _ fun _ _ => ?_).trans ?_)
    | (with_reducible refine (Chip.when_keep Chip.vaultMem _ _ _ fun _ => ?_).trans ?_) | split | simp

@[simp] theorem Chip.endLaneSurveys_vaultMem (c : Chip) (p : Nat) : (Chip.endLaneSurveys c p).vaultMem = c.vaultMem := by
  unfold Chip.endLaneSurveys
  repeat'
    first
    | with_reducible rfl | assumption | (with_reducible refine (overAll_keep Chip.vaultMem _ _ _ fun _ _ => ?_).trans ?_)
    | (with_reducible refine (foldl_keep Chip.vaultMem _ _ _ fun _ _ => ?_).trans ?_)
    | (with_reducible refine (Chip.when_keep Chip.vaultMem _ _ _ fun _ => ?_).trans ?_) | split | simp

@[simp] theorem Chip.portOut_vaultMem (c : Chip) (p : Nat) : (Chip.portOut c p).vaultMem = c.vaultMem := by
  unfold Chip.portOut
  repeat'
    first
    | with_reducible rfl | assumption | (with_reducible refine (overAll_keep Chip.vaultMem _ _ _ fun _ _ => ?_).trans ?_)
    | (with_reducible refine (foldl_keep Chip.vaultMem _ _ _ fun _ _ => ?_).trans ?_)
    | (with_reducible refine (Chip.when_keep Chip.vaultMem _ _ _ fun _ => ?_).trans ?_) | split | simp

@[simp] theorem Chip.quarantine_vaultMem (c : Chip) (p reason : Nat) : (Chip.quarantine c p reason).vaultMem = c.vaultMem := by
  simp [Chip.quarantine]

@[simp] theorem Chip.awaitLaser_vaultMem (c : Chip) (p : Nat) : (Chip.awaitLaser c p).vaultMem = c.vaultMem := by
  unfold Chip.awaitLaser
  repeat' split
  all_goals simp

@[simp] theorem Chip.linkFault_vaultMem (c : Chip) (p l kind : Nat) : (Chip.linkFault c p l kind).vaultMem = c.vaultMem := by
  unfold Chip.linkFault
  repeat'
    first
    | with_reducible rfl | assumption | (with_reducible refine (overAll_keep Chip.vaultMem _ _ _ fun _ _ => ?_).trans ?_)
    | (with_reducible refine (foldl_keep Chip.vaultMem _ _ _ fun _ _ => ?_).trans ?_)
    | (with_reducible refine (Chip.when_keep Chip.vaultMem _ _ _ fun _ => ?_).trans ?_) | split | simp

@[simp] theorem Chip.sendLane_vaultMem (c : Chip) (p : Nat) (m : LaneMsg) : (Chip.sendLane c p m).vaultMem = c.vaultMem := rfl

@[simp] theorem Chip.askLane_vaultMem (c : Chip) (p : Nat) (action : Fin 4) (l : Nat) : (Chip.askLane c p action l).vaultMem =
    c.vaultMem := rfl

@[simp] theorem Chip.retireLane_vaultMem (c : Chip) (p l reason : Nat) : (Chip.retireLane c p l reason).vaultMem = c.vaultMem := by
  unfold Chip.retireLane
  repeat'
    first
    | with_reducible rfl | assumption | (with_reducible refine (overAll_keep Chip.vaultMem _ _ _ fun _ _ => ?_).trans ?_)
    | (with_reducible refine (foldl_keep Chip.vaultMem _ _ _ fun _ _ => ?_).trans ?_)
    | (with_reducible refine (Chip.when_keep Chip.vaultMem _ _ _ fun _ => ?_).trans ?_) | split | simp

@[simp] theorem Chip.retireFar_vaultMem (c : Chip) (p l : Nat) : (Chip.retireFar c p l).vaultMem = c.vaultMem := by
  unfold Chip.retireFar
  repeat'
    first
    | with_reducible rfl | assumption | (with_reducible refine (overAll_keep Chip.vaultMem _ _ _ fun _ _ => ?_).trans ?_)
    | (with_reducible refine (foldl_keep Chip.vaultMem _ _ _ fun _ _ => ?_).trans ?_)
    | (with_reducible refine (Chip.when_keep Chip.vaultMem _ _ _ fun _ => ?_).trans ?_) | split | simp

@[simp] theorem Chip.streamFaultLane_vaultMem (c : Chip) (p l expected found : Nat) : (Chip.streamFaultLane c p l expected
    found).vaultMem = c.vaultMem := by
  unfold Chip.streamFaultLane
  repeat'
    first
    | with_reducible rfl | assumption | (with_reducible refine (overAll_keep Chip.vaultMem _ _ _ fun _ _ => ?_).trans ?_)
    | (with_reducible refine (foldl_keep Chip.vaultMem _ _ _ fun _ _ => ?_).trans ?_)
    | (with_reducible refine (Chip.when_keep Chip.vaultMem _ _ _ fun _ => ?_).trans ?_) | split | simp

@[simp] theorem Chip.applyLinkRemedies_vaultMem (c : Chip) (ports : List Nat) : (Chip.applyLinkRemedies c ports).vaultMem = c.vaultMem
    := by
  unfold Chip.applyLinkRemedies
  repeat'
    first
    | with_reducible rfl | assumption | (with_reducible refine (overAll_keep Chip.vaultMem _ _ _ fun _ _ => ?_).trans ?_)
    | (with_reducible refine (foldl_keep Chip.vaultMem _ _ _ fun _ _ => ?_).trans ?_)
    | (with_reducible refine (Chip.when_keep Chip.vaultMem _ _ _ fun _ => ?_).trans ?_) | split | simp

@[simp] theorem Chip.lsend_vaultMem (c : Chip) (st : Site) (j : Job) (g : Nat) (op : LinkOp) (p : Path) : (Chip.lsend c st j g op
    p).vaultMem = c.vaultMem := by
  unfold Chip.lsend
  repeat'
    first
    | with_reducible rfl | assumption | (with_reducible refine (overAll_keep Chip.vaultMem _ _ _ fun _ _ => ?_).trans ?_)
    | (with_reducible refine (foldl_keep Chip.vaultMem _ _ _ fun _ _ => ?_).trans ?_)
    | (with_reducible refine (Chip.when_keep Chip.vaultMem _ _ _ fun _ => ?_).trans ?_) | split | simp

@[simp] theorem Chip.headerFault_vaultMem (c : Chip) (p l : Nat) (h : FrameHdr) : (Chip.headerFault c p l h).vaultMem = c.vaultMem := by
  unfold Chip.headerFault
  repeat'
    first
    | with_reducible rfl | assumption | (with_reducible refine (overAll_keep Chip.vaultMem _ _ _ fun _ _ => ?_).trans ?_)
    | (with_reducible refine (foldl_keep Chip.vaultMem _ _ _ fun _ _ => ?_).trans ?_)
    | (with_reducible refine (Chip.when_keep Chip.vaultMem _ _ _ fun _ => ?_).trans ?_) | split | simp

@[simp] theorem Chip.codeFails_vaultMem (c : Chip) (p l : Nat) : (Chip.codeFails c p l).vaultMem = c.vaultMem := rfl

@[simp] theorem Chip.dataArrives_vaultMem (c : Chip) (p l : Nat) (j : Job) (i : Image) (f : Frame) : (Chip.dataArrives c p l j i
    f).vaultMem = c.vaultMem := by
  unfold Chip.dataArrives
  repeat'
    first
    | with_reducible rfl | assumption | (with_reducible refine (overAll_keep Chip.vaultMem _ _ _ fun _ _ => ?_).trans ?_)
    | (with_reducible refine (foldl_keep Chip.vaultMem _ _ _ fun _ _ => ?_).trans ?_)
    | (with_reducible refine (Chip.when_keep Chip.vaultMem _ _ _ fun _ => ?_).trans ?_) | split | simp

@[simp] theorem Chip.sendMeasure_vaultMem (c : Chip) (p : Nat) : (Chip.sendMeasure c p).vaultMem = c.vaultMem := rfl

@[simp] theorem Chip.askAgain_vaultMem (c : Chip) (p : Nat) (m : LaneMsg) : (Chip.askAgain c p m).vaultMem = c.vaultMem := by
  simp [Chip.askAgain]

@[simp] theorem Chip.askAgainDue_vaultMem (c : Chip) (p : Nat) (action : Fin 4) : (Chip.askAgainDue c p action).vaultMem = c.vaultMem := by
  unfold Chip.askAgainDue
  repeat'
    first
    | with_reducible rfl | assumption | (with_reducible refine (overAll_keep Chip.vaultMem _ _ _ fun _ _ => ?_).trans ?_)
    | (with_reducible refine (foldl_keep Chip.vaultMem _ _ _ fun _ _ => ?_).trans ?_)
    | (with_reducible refine (Chip.when_keep Chip.vaultMem _ _ _ fun _ => ?_).trans ?_) | split | simp

@[simp] theorem Chip.laneRetireApply_vaultMem (c : Chip) (p : Nat) : (Chip.laneRetireApply c p).vaultMem = c.vaultMem := by
  unfold Chip.laneRetireApply
  repeat'
    first
    | with_reducible rfl | assumption | (with_reducible refine (overAll_keep Chip.vaultMem _ _ _ fun _ _ => ?_).trans ?_)
    | (with_reducible refine (foldl_keep Chip.vaultMem _ _ _ fun _ _ => ?_).trans ?_)
    | (with_reducible refine (Chip.when_keep Chip.vaultMem _ _ _ fun _ => ?_).trans ?_) | split | simp

@[simp] theorem Chip.rotationOut_vaultMem (c : Chip) (p l : Nat) : (Chip.rotationOut c p l).vaultMem = c.vaultMem := by
  unfold Chip.rotationOut
  repeat'
    first
    | with_reducible rfl | assumption | (with_reducible refine (overAll_keep Chip.vaultMem _ _ _ fun _ _ => ?_).trans ?_)
    | (with_reducible refine (foldl_keep Chip.vaultMem _ _ _ fun _ _ => ?_).trans ?_)
    | (with_reducible refine (Chip.when_keep Chip.vaultMem _ _ _ fun _ => ?_).trans ?_) | split | simp

@[simp] theorem Chip.rotationReturn_vaultMem (c : Chip) (p l : Nat) : (Chip.rotationReturn c p l).vaultMem = c.vaultMem := by
  unfold Chip.rotationReturn
  repeat'
    first
    | with_reducible rfl | assumption | (with_reducible refine (overAll_keep Chip.vaultMem _ _ _ fun _ _ => ?_).trans ?_)
    | (with_reducible refine (foldl_keep Chip.vaultMem _ _ _ fun _ _ => ?_).trans ?_)
    | (with_reducible refine (Chip.when_keep Chip.vaultMem _ _ _ fun _ => ?_).trans ?_) | split | simp

@[simp] theorem Chip.cmdRetireLane_vaultMem (c : Chip) (p : Nat) : (Chip.cmdRetireLane c p).vaultMem = c.vaultMem := by
  unfold Chip.cmdRetireLane
  repeat'
    first
    | with_reducible rfl | assumption | (with_reducible refine (overAll_keep Chip.vaultMem _ _ _ fun _ _ => ?_).trans ?_)
    | (with_reducible refine (foldl_keep Chip.vaultMem _ _ _ fun _ _ => ?_).trans ?_)
    | (with_reducible refine (Chip.when_keep Chip.vaultMem _ _ _ fun _ => ?_).trans ?_) | split | simp

@[simp] theorem Chip.cmdBringUp_vaultMem (c : Chip) (p : Nat) : (Chip.cmdBringUp c p).vaultMem = c.vaultMem := by
  unfold Chip.cmdBringUp
  repeat' split
  all_goals simp

@[simp] theorem Chip.bringUpLane_vaultMem (p : Nat) (r : BringUp) (c : Chip) (l : Nat) : (Chip.bringUpLane p r c l).vaultMem =
    c.vaultMem := rfl

@[simp] theorem Chip.hopStep_vaultMem (c : Chip) (p : Nat) (r : BringUp) : (Chip.hopStep c p r).vaultMem = c.vaultMem := by
  unfold Chip.hopStep
  repeat'
    first
    | with_reducible rfl | assumption | (with_reducible refine (overAll_keep Chip.vaultMem _ _ _ fun _ _ => ?_).trans ?_)
    | (with_reducible refine (foldl_keep Chip.vaultMem _ _ _ fun _ _ => ?_).trans ?_)
    | (with_reducible refine (Chip.when_keep Chip.vaultMem _ _ _ fun _ => ?_).trans ?_) | split | simp

@[simp] theorem Chip.bringUpDone_vaultMem (c : Chip) (p : Nat) (r : BringUp) : (Chip.bringUpDone c p r).vaultMem = c.vaultMem := by
  unfold Chip.bringUpDone
  repeat'
    first
    | with_reducible rfl | assumption | (with_reducible refine (overAll_keep Chip.vaultMem _ _ _ fun _ _ => ?_).trans ?_)
    | (with_reducible refine (foldl_keep Chip.vaultMem _ _ _ fun _ _ => ?_).trans ?_)
    | (with_reducible refine (Chip.when_keep Chip.vaultMem _ _ _ fun _ => ?_).trans ?_) | split | simp

@[simp] theorem Chip.lightUp_vaultMem (c : Chip) (g : Nat) : (Chip.lightUp c g).vaultMem = c.vaultMem := by
  unfold Chip.lightUp
  repeat'
    first
    | with_reducible rfl | assumption | (with_reducible refine (overAll_keep Chip.vaultMem _ _ _ fun _ _ => ?_).trans ?_)
    | (with_reducible refine (foldl_keep Chip.vaultMem _ _ _ fun _ _ => ?_).trans ?_)
    | (with_reducible refine (Chip.when_keep Chip.vaultMem _ _ _ fun _ => ?_).trans ?_) | split | simp

@[simp] theorem Chip.wakeRegion_vaultMem (c : Chip) (g : Nat) (at_ : Option Nat) : (Chip.wakeRegion c g at_).vaultMem = c.vaultMem := by
  simp [Chip.wakeRegion]

@[simp] theorem Chip.sleepRegion_vaultMem (c : Chip) (g : Nat) : (Chip.sleepRegion c g).vaultMem = c.vaultMem := rfl

@[simp] theorem Chip.feedForward_vaultMem (c : Chip) (g : Nat) : (Chip.feedForward c g).vaultMem = c.vaultMem := by
  unfold Chip.feedForward
  repeat'
    first
    | with_reducible rfl | assumption | (with_reducible refine (overAll_keep Chip.vaultMem _ _ _ fun _ _ => ?_).trans ?_)
    | (with_reducible refine (foldl_keep Chip.vaultMem _ _ _ fun _ _ => ?_).trans ?_)
    | (with_reducible refine (Chip.when_keep Chip.vaultMem _ _ _ fun _ => ?_).trans ?_) | split | simp

@[simp] theorem Chip.startPiece_vaultMem (c : Chip) (j : Job) : (Chip.startPiece c j).vaultMem = c.vaultMem := rfl

@[simp] theorem Chip.reachPause_vaultMem (c : Chip) (j : Job) (b : Nat) : (Chip.reachPause c j b).vaultMem = c.vaultMem := by
  unfold Chip.reachPause
  repeat'
    first
    | with_reducible rfl | assumption | (with_reducible refine (overAll_keep Chip.vaultMem _ _ _ fun _ _ => ?_).trans ?_)
    | (with_reducible refine (foldl_keep Chip.vaultMem _ _ _ fun _ _ => ?_).trans ?_)
    | (with_reducible refine (Chip.when_keep Chip.vaultMem _ _ _ fun _ => ?_).trans ?_) | split | simp

@[simp] theorem Chip.jobStroke_vaultMem (c : Chip) (id : JobId) (halved : Bool) : (Chip.jobStroke c id halved).vaultMem = c.vaultMem := by
  unfold Chip.jobStroke
  repeat'
    first
    | with_reducible rfl | assumption | (with_reducible refine (overAll_keep Chip.vaultMem _ _ _ fun _ _ => ?_).trans ?_)
    | (with_reducible refine (foldl_keep Chip.vaultMem _ _ _ fun _ _ => ?_).trans ?_)
    | (with_reducible refine (Chip.when_keep Chip.vaultMem _ _ _ fun _ => ?_).trans ?_) | split | simp

@[simp] theorem Chip.trimPosted_vaultMem (c : Chip) (g : Nat) : (Chip.trimPosted c g).vaultMem = c.vaultMem := rfl

@[simp] theorem Chip.coxStrokes_vaultMem (c : Chip) (g : Nat) : (Chip.coxStrokes c g).vaultMem = c.vaultMem := by
  unfold Chip.coxStrokes
  repeat'
    first
    | with_reducible rfl | assumption | (with_reducible refine (overAll_keep Chip.vaultMem _ _ _ fun _ _ => ?_).trans ?_)
    | (with_reducible refine (foldl_keep Chip.vaultMem _ _ _ fun _ _ => ?_).trans ?_)
    | (with_reducible refine (Chip.when_keep Chip.vaultMem _ _ _ fun _ => ?_).trans ?_) | split | simp

@[simp] theorem Chip.fillMiss_vaultMem (g : Nat) (on : List Nat) (c : Chip) (m : Fin 136 × Nat) : (Chip.fillMiss g on c m).vaultMem =
    c.vaultMem := by
  unfold Chip.fillMiss
  repeat'
    first
    | with_reducible rfl | assumption | (with_reducible refine (overAll_keep Chip.vaultMem _ _ _ fun _ _ => ?_).trans ?_)
    | (with_reducible refine (foldl_keep Chip.vaultMem _ _ _ fun _ _ => ?_).trans ?_)
    | (with_reducible refine (Chip.when_keep Chip.vaultMem _ _ _ fun _ => ?_).trans ?_) | split | simp

@[simp] theorem Chip.pieceCommit_vaultMem (c : Chip) (id : JobId) : (Chip.pieceCommit c id).vaultMem = c.vaultMem := by
  unfold Chip.pieceCommit
  repeat'
    first
    | with_reducible rfl | assumption | (with_reducible refine (overAll_keep Chip.vaultMem _ _ _ fun _ _ => ?_).trans ?_)
    | (with_reducible refine (foldl_keep Chip.vaultMem _ _ _ fun _ _ => ?_).trans ?_)
    | (with_reducible refine (Chip.when_keep Chip.vaultMem _ _ _ fun _ => ?_).trans ?_) | split | simp

@[simp] theorem Chip.swapMaps_vaultMem (c : Chip) (array : Nat) (a b : Fin 64) : (Chip.swapMaps c array a b).vaultMem = c.vaultMem := rfl

@[simp] theorem Chip.undoSwap_vaultMem (rest : List SwapDone) (c : Chip) (w : SwapDone) : (Chip.undoSwap rest c w).vaultMem = c.vaultMem
    := by
  simp [Chip.undoSwap]

@[simp] theorem Chip.scheduleEvent_vaultMem (c : Chip) (j : Job) (cls code detail : Nat) : (Chip.scheduleEvent c j cls code
    detail).vaultMem = c.vaultMem := rfl

@[simp] theorem Chip.discard_vaultMem (c : Chip) (j : Job) : (Chip.discard c j).vaultMem = c.vaultMem := by
  unfold Chip.discard
  repeat'
    first
    | with_reducible rfl | assumption | (with_reducible refine (overAll_keep Chip.vaultMem _ _ _ fun _ _ => ?_).trans ?_)
    | (with_reducible refine (foldl_keep Chip.vaultMem _ _ _ fun _ _ => ?_).trans ?_)
    | (with_reducible refine (Chip.when_keep Chip.vaultMem _ _ _ fun _ => ?_).trans ?_) | split | simp

@[simp] theorem Chip.deferPause_vaultMem (c : Chip) (j : Job) : (Chip.deferPause c j).vaultMem = c.vaultMem := by
  unfold Chip.deferPause
  repeat' split
  all_goals simp

@[simp] theorem Chip.progAnswer_vaultMem (c : Chip) (a : Nat) (tier : Fin 64) (code : Nat) : (Chip.progAnswer c a tier code).vaultMem =
    c.vaultMem := rfl

@[simp] theorem Chip.progRefused_vaultMem (c : Chip) (a : Nat) (tier : Fin 64) (code : Option Nat) : (Chip.progRefused c a tier
    code).vaultMem = c.vaultMem := by
  unfold Chip.progRefused
  repeat' split
  all_goals simp

@[simp] theorem Chip.clearTier_vaultMem (c : Chip) (a : Nat) (tier : Fin 64) : (Chip.clearTier c a tier).vaultMem = c.vaultMem := rfl

@[simp] theorem Chip.cmdErase_vaultMem (c : Chip) (a : Nat) (tier : Fin 64) : (Chip.cmdErase c a tier).vaultMem = c.vaultMem := by
  unfold Chip.cmdErase
  repeat' split
  all_goals simp

@[simp] theorem Chip.eraseDone_vaultMem (c : Chip) (a : Nat) : (Chip.eraseDone c a).vaultMem = c.vaultMem := by
  unfold Chip.eraseDone
  repeat' split
  all_goals simp

@[simp] theorem Chip.swapAnswer_vaultMem (c : Chip) (a code : Nat) : (Chip.swapAnswer c a code).vaultMem = c.vaultMem := rfl

@[simp] theorem Chip.writeSwapTiers_vaultMem (c : Chip) (a : Nat) (tierA tierB : Fin 64) : (Chip.writeSwapTiers c a tierA
    tierB).vaultMem = c.vaultMem := rfl

@[simp] theorem Chip.cmdStage_vaultMem (c : Chip) (a : Nat) (tierA tierB : Fin 64) : (Chip.cmdStage c a tierA tierB).vaultMem =
    c.vaultMem := by
  unfold Chip.cmdStage
  repeat'
    first
    | with_reducible rfl | assumption | (with_reducible refine (overAll_keep Chip.vaultMem _ _ _ fun _ _ => ?_).trans ?_)
    | (with_reducible refine (foldl_keep Chip.vaultMem _ _ _ fun _ _ => ?_).trans ?_)
    | (with_reducible refine (Chip.when_keep Chip.vaultMem _ _ _ fun _ => ?_).trans ?_) | split | simp

@[simp] theorem Chip.cmdCancel_vaultMem (c : Chip) (a : Nat) : (Chip.cmdCancel c a).vaultMem = c.vaultMem := by
  unfold Chip.cmdCancel
  repeat' split
  all_goals simp

@[simp] theorem Chip.applySwap_vaultMem (c : Chip) (w : SwapDone) : (Chip.applySwap c w).1.vaultMem = c.vaultMem := by
  unfold Chip.applySwap
  repeat'
    first
    | with_reducible rfl | assumption | (with_reducible refine (overAll_keep Chip.vaultMem _ _ _ fun _ _ => ?_).trans ?_)
    | (with_reducible refine (foldl_keep Chip.vaultMem _ _ _ fun _ _ => ?_).trans ?_)
    | (with_reducible refine (Chip.when_keep Chip.vaultMem _ _ _ fun _ => ?_).trans ?_) | split | simp

@[simp] theorem Chip.applySwaps_vaultMem (c : Chip) (ws : List SwapDone) : (c.applySwaps ws).1.vaultMem = c.vaultMem := by
  induction ws generalizing c with
  | nil => rfl
  | cons w ws ih => exact (ih _).trans (Chip.applySwap_vaultMem c w)

@[simp] theorem Chip.applyStaged_vaultMem (c : Chip) (g boundary : Nat) : (Chip.applyStaged c g boundary).1.vaultMem = c.vaultMem := by
  unfold Chip.applyStaged
  repeat'
    first
    | with_reducible rfl | assumption | (with_reducible refine (overAll_keep Chip.vaultMem _ _ _ fun _ _ => ?_).trans ?_)
    | (with_reducible refine (foldl_keep Chip.vaultMem _ _ _ fun _ _ => ?_).trans ?_)
    | (with_reducible refine (Chip.when_keep Chip.vaultMem _ _ _ fun _ => ?_).trans ?_) | split | simp

@[simp] theorem Chip.cmdArm_vaultMem (c : Chip) (g : Nat) : (Chip.cmdArm c g).vaultMem = c.vaultMem := by
  unfold Chip.cmdArm
  repeat'
    first
    | with_reducible rfl | assumption | (with_reducible refine (overAll_keep Chip.vaultMem _ _ _ fun _ _ => ?_).trans ?_)
    | (with_reducible refine (foldl_keep Chip.vaultMem _ _ _ fun _ _ => ?_).trans ?_)
    | (with_reducible refine (Chip.when_keep Chip.vaultMem _ _ _ fun _ => ?_).trans ?_) | split | simp

@[simp] theorem Chip.cmdWithdraw_vaultMem (c : Chip) (g : Nat) : (Chip.cmdWithdraw c g).vaultMem = c.vaultMem := rfl

@[simp] theorem Chip.swapApply_vaultMem (c : Chip) (g : Nat) : (Chip.swapApply c g).vaultMem = c.vaultMem := by
  unfold Chip.swapApply
  repeat'
    first
    | with_reducible rfl | assumption | (with_reducible refine (overAll_keep Chip.vaultMem _ _ _ fun _ _ => ?_).trans ?_)
    | (with_reducible refine (foldl_keep Chip.vaultMem _ _ _ fun _ _ => ?_).trans ?_)
    | (with_reducible refine (Chip.when_keep Chip.vaultMem _ _ _ fun _ => ?_).trans ?_) | split | simp

@[simp] theorem Chip.clearSpare_vaultMem (c : Chip) (a i : Nat) : (Chip.clearSpare c a i).vaultMem = c.vaultMem := rfl

@[simp] theorem Chip.failWaiting_vaultMem (c : Chip) (a : Nat) : (Chip.failWaiting c a).vaultMem = c.vaultMem := by
  unfold Chip.failWaiting
  repeat'
    first
    | with_reducible rfl | assumption | (with_reducible refine (overAll_keep Chip.vaultMem _ _ _ fun _ _ => ?_).trans ?_)
    | (with_reducible refine (foldl_keep Chip.vaultMem _ _ _ fun _ _ => ?_).trans ?_)
    | (with_reducible refine (Chip.when_keep Chip.vaultMem _ _ _ fun _ => ?_).trans ?_) | split | simp

@[simp] theorem Chip.plotSwitch_vaultMem (c : Chip) (a i : Nat) : (Chip.plotSwitch c a i).vaultMem = c.vaultMem := by
  unfold Chip.plotSwitch
  repeat'
    first
    | with_reducible rfl | assumption | (with_reducible refine (overAll_keep Chip.vaultMem _ _ _ fun _ _ => ?_).trans ?_)
    | (with_reducible refine (foldl_keep Chip.vaultMem _ _ _ fun _ _ => ?_).trans ?_)
    | (with_reducible refine (Chip.when_keep Chip.vaultMem _ _ _ fun _ => ?_).trans ?_) | split | simp

@[simp] theorem Chip.cellSwitch_vaultMem (c : Chip) (a q : Nat) : (Chip.cellSwitch c a q).vaultMem = c.vaultMem := by
  unfold Chip.cellSwitch
  repeat'
    first
    | with_reducible rfl | assumption | (with_reducible refine (overAll_keep Chip.vaultMem _ _ _ fun _ _ => ?_).trans ?_)
    | (with_reducible refine (foldl_keep Chip.vaultMem _ _ _ fun _ _ => ?_).trans ?_)
    | (with_reducible refine (Chip.when_keep Chip.vaultMem _ _ _ fun _ => ?_).trans ?_) | split | simp

@[simp] theorem Chip.cellBlockSwitch_vaultMem (c : Chip) (a : Nat) : (Chip.cellBlockSwitch c a).vaultMem = c.vaultMem := by
  unfold Chip.cellBlockSwitch
  repeat' split
  all_goals simp

@[simp] theorem Chip.spareCoreSwitch_vaultMem (c : Chip) (a : Nat) : (Chip.spareCoreSwitch c a).vaultMem = c.vaultMem := by
  unfold Chip.spareCoreSwitch
  repeat' split
  all_goals simp

@[simp] theorem Chip.plotTimeout_vaultMem (c : Chip) (k : Nat) : (Chip.plotTimeout c k).vaultMem = c.vaultMem := by
  unfold Chip.plotTimeout
  repeat'
    first
    | with_reducible rfl | assumption | (with_reducible refine (overAll_keep Chip.vaultMem _ _ _ fun _ _ => ?_).trans ?_)
    | (with_reducible refine (foldl_keep Chip.vaultMem _ _ _ fun _ _ => ?_).trans ?_)
    | (with_reducible refine (Chip.when_keep Chip.vaultMem _ _ _ fun _ => ?_).trans ?_) | split | simp

@[simp] theorem Chip.plotReturn_vaultMem (c : Chip) (k : Nat) : (Chip.plotReturn c k).vaultMem = c.vaultMem := by
  unfold Chip.plotReturn
  repeat'
    first
    | with_reducible rfl | assumption | (with_reducible refine (overAll_keep Chip.vaultMem _ _ _ fun _ _ => ?_).trans ?_)
    | (with_reducible refine (foldl_keep Chip.vaultMem _ _ _ fun _ _ => ?_).trans ?_)
    | (with_reducible refine (Chip.when_keep Chip.vaultMem _ _ _ fun _ => ?_).trans ?_) | split | simp

@[simp] theorem Chip.cmdInject_vaultMem (c : Chip) (channel : Nat) : (Chip.cmdInject c channel).vaultMem = c.vaultMem := by
  unfold Chip.cmdInject
  repeat' split
  all_goals simp

@[simp] theorem Chip.cmdCalibrate_vaultMem (c : Chip) : (Chip.cmdCalibrate c).vaultMem = c.vaultMem := by
  unfold Chip.cmdCalibrate
  repeat' split
  all_goals simp

@[simp] theorem Chip.queuePop_vaultMem (c : Chip) : (Chip.queuePop c).vaultMem = c.vaultMem := rfl

@[simp] theorem Chip.upSurvey_vaultMem (c : Chip) (u : SurveyUnit) (f : SurveySt → SurveySt) : (Chip.upSurvey c u f).vaultMem =
    c.vaultMem := by
  unfold Chip.upSurvey
  repeat' split
  all_goals simp

@[simp] theorem Chip.deferSurvey_vaultMem (c : Chip) (u : SurveyUnit) : (Chip.deferSurvey c u).vaultMem = c.vaultMem := by
  unfold Chip.deferSurvey
  repeat' split
  all_goals simp

@[simp] theorem Chip.surveyTest_vaultMem (c : Chip) (u : SurveyUnit) (temp : BitVec 12) (drift : Bool) : (Chip.surveyTest c u temp
    drift).vaultMem = c.vaultMem := by
  unfold Chip.surveyTest
  repeat'
    first
    | with_reducible rfl | assumption | (with_reducible refine (overAll_keep Chip.vaultMem _ _ _ fun _ _ => ?_).trans ?_)
    | (with_reducible refine (foldl_keep Chip.vaultMem _ _ _ fun _ _ => ?_).trans ?_)
    | (with_reducible refine (Chip.when_keep Chip.vaultMem _ _ _ fun _ => ?_).trans ?_) | split | simp

@[simp] theorem Chip.beginSurvey_vaultMem (c : Chip) (u : SurveyUnit) : (Chip.beginSurvey c u).vaultMem = c.vaultMem := by
  simp [Chip.beginSurvey]

@[simp] theorem Chip.surveyStart_vaultMem (c : Chip) (u : SurveyUnit) : (Chip.surveyStart c u).vaultMem = c.vaultMem := by
  unfold Chip.surveyStart
  repeat'
    first
    | with_reducible rfl | assumption | (with_reducible refine (overAll_keep Chip.vaultMem _ _ _ fun _ _ => ?_).trans ?_)
    | (with_reducible refine (foldl_keep Chip.vaultMem _ _ _ fun _ _ => ?_).trans ?_)
    | (with_reducible refine (Chip.when_keep Chip.vaultMem _ _ _ fun _ => ?_).trans ?_) | split | simp

@[simp] theorem Chip.holdWeak_vaultMem (c : Chip) (core a : Nat) (v : PlotSurvey) : (Chip.holdWeak c core a v).1.vaultMem = c.vaultMem
    := by
  unfold Chip.holdWeak
  repeat'
    first
    | with_reducible rfl | assumption | (with_reducible refine (overAll_keep Chip.vaultMem _ _ _ fun _ _ => ?_).trans ?_)
    | (with_reducible refine (foldl_keep Chip.vaultMem _ _ _ fun _ _ => ?_).trans ?_)
    | (with_reducible refine (Chip.when_keep Chip.vaultMem _ _ _ fun _ => ?_).trans ?_) | split | simp

@[simp] theorem Chip.holdAll_vaultMem (c : Chip) (core a : Nat) (vs : List PlotSurvey) : (c.holdAll core a vs).1.vaultMem = c.vaultMem := by
  induction vs generalizing c with
  | nil => rfl
  | cons v vs ih => exact (ih _).trans (Chip.holdWeak_vaultMem c core a v)

@[simp] theorem Chip.arrayPlots_vaultMem (c : Chip) (a : Nat) (vs : List PlotSurvey) : (Chip.arrayPlots c a vs).vaultMem = c.vaultMem := by
  unfold Chip.arrayPlots
  repeat'
    first
    | with_reducible rfl | assumption | (with_reducible refine (overAll_keep Chip.vaultMem _ _ _ fun _ _ => ?_).trans ?_)
    | (with_reducible refine (foldl_keep Chip.vaultMem _ _ _ fun _ _ => ?_).trans ?_)
    | (with_reducible refine (Chip.when_keep Chip.vaultMem _ _ _ fun _ => ?_).trans ?_) | split | simp

@[simp] theorem Chip.endSurvey_vaultMem (c : Chip) (u : SurveyUnit) (ok : Bool) (temp : BitVec 12) : (Chip.endSurvey c u ok
    temp).vaultMem = c.vaultMem := by
  simp [Chip.endSurvey]

@[simp] theorem Chip.bankSurvey_vaultMem (k : Nat) (c : Chip) (v : BankSurvey) : (Chip.bankSurvey k c v).vaultMem = c.vaultMem := rfl

@[simp] theorem Chip.endPeriphery_vaultMem (c : Chip) (u : SurveyUnit) (g : Nat) (r : SurveyResult) : (Chip.endPeriphery c u g
    r).vaultMem = c.vaultMem := by
  unfold Chip.endPeriphery
  repeat'
    first
    | with_reducible rfl | assumption | (with_reducible refine (overAll_keep Chip.vaultMem _ _ _ fun _ _ => ?_).trans ?_)
    | (with_reducible refine (foldl_keep Chip.vaultMem _ _ _ fun _ _ => ?_).trans ?_)
    | (with_reducible refine (Chip.when_keep Chip.vaultMem _ _ _ fun _ => ?_).trans ?_) | split | simp

@[simp] theorem Chip.endPlot_vaultMem (c : Chip) (u : SurveyUnit) (r : SurveyResult) : (Chip.endPlot c u r).vaultMem = c.vaultMem := by
  unfold Chip.endPlot
  repeat'
    first
    | with_reducible rfl | assumption | (with_reducible refine (overAll_keep Chip.vaultMem _ _ _ fun _ _ => ?_).trans ?_)
    | (with_reducible refine (foldl_keep Chip.vaultMem _ _ _ fun _ _ => ?_).trans ?_)
    | (with_reducible refine (Chip.when_keep Chip.vaultMem _ _ _ fun _ => ?_).trans ?_) | split | simp

@[simp] theorem Chip.endLane_vaultMem (c : Chip) (u : SurveyUnit) (p l : Nat) (r : SurveyResult) : (Chip.endLane c u p l r).vaultMem =
    c.vaultMem := by
  unfold Chip.endLane
  repeat'
    first
    | with_reducible rfl | assumption | (with_reducible refine (overAll_keep Chip.vaultMem _ _ _ fun _ _ => ?_).trans ?_)
    | (with_reducible refine (foldl_keep Chip.vaultMem _ _ _ fun _ _ => ?_).trans ?_)
    | (with_reducible refine (Chip.when_keep Chip.vaultMem _ _ _ fun _ => ?_).trans ?_) | split | simp

@[simp] theorem Chip.surveyEnd_vaultMem (c : Chip) (u : SurveyUnit) (r : SurveyResult) : (Chip.surveyEnd c u r).vaultMem = c.vaultMem := by
  unfold Chip.surveyEnd
  repeat' split
  all_goals simp

@[simp] theorem Chip.warmOther_vaultMem (c : Chip) (r : LaserRef) : (Chip.warmOther c r).vaultMem = c.vaultMem := by
  unfold Chip.warmOther
  repeat'
    first
    | with_reducible rfl | assumption | (with_reducible refine (overAll_keep Chip.vaultMem _ _ _ fun _ _ => ?_).trans ?_)
    | (with_reducible refine (foldl_keep Chip.vaultMem _ _ _ fun _ _ => ?_).trans ?_)
    | (with_reducible refine (Chip.when_keep Chip.vaultMem _ _ _ fun _ => ?_).trans ?_) | split | simp

@[simp] theorem Chip.orderEnds_vaultMem (c : Chip) (r : LaserRef) (result : BitVec 8) : (Chip.orderEnds c r result).vaultMem =
    c.vaultMem := by
  unfold Chip.orderEnds
  repeat' split
  all_goals simp

@[simp] theorem Chip.startHandover_vaultMem (c : Chip) (r : LaserRef) (why : BitVec 2) : (Chip.startHandover c r why).vaultMem =
    c.vaultMem := by
  unfold Chip.startHandover
  repeat'
    first
    | with_reducible rfl | assumption | (with_reducible refine (overAll_keep Chip.vaultMem _ _ _ fun _ _ => ?_).trans ?_)
    | (with_reducible refine (foldl_keep Chip.vaultMem _ _ _ fun _ _ => ?_).trans ?_)
    | (with_reducible refine (Chip.when_keep Chip.vaultMem _ _ _ fun _ => ?_).trans ?_) | split | simp

@[simp] theorem Chip.spareFails_vaultMem (c : Chip) (r : LaserRef) (line : Nat) (reason : BitVec 4) : (Chip.spareFails c r line
    reason).vaultMem = c.vaultMem := by
  unfold Chip.spareFails
  repeat'
    first
    | with_reducible rfl | assumption | (with_reducible refine (overAll_keep Chip.vaultMem _ _ _ fun _ _ => ?_).trans ?_)
    | (with_reducible refine (foldl_keep Chip.vaultMem _ _ _ fun _ _ => ?_).trans ?_)
    | (with_reducible refine (Chip.when_keep Chip.vaultMem _ _ _ fun _ => ?_).trans ?_) | split | simp

@[simp] theorem Chip.orderDone_vaultMem (c : Chip) (r : LaserRef) : (Chip.orderDone c r).vaultMem = c.vaultMem := by
  unfold Chip.orderDone
  repeat' split
  all_goals simp

@[simp] theorem Chip.laserTakesOver_vaultMem (c : Chip) (r : LaserRef) (failed : Bool) : (Chip.laserTakesOver c r failed).vaultMem =
    c.vaultMem := by
  unfold Chip.laserTakesOver
  repeat' split
  all_goals simp

@[simp] theorem Chip.afterFailure_vaultMem (c : Chip) (group : BitVec 4) (other : Option LaserRef) (key : Option Nat) :
    (Chip.afterFailure c group other key).vaultMem = c.vaultMem := by
  unfold Chip.afterFailure
  repeat'
    first
    | with_reducible rfl | assumption | (with_reducible refine (overAll_keep Chip.vaultMem _ _ _ fun _ _ => ?_).trans ?_)
    | (with_reducible refine (foldl_keep Chip.vaultMem _ _ _ fun _ _ => ?_).trans ?_)
    | (with_reducible refine (Chip.when_keep Chip.vaultMem _ _ _ fun _ => ?_).trans ?_) | split | simp

@[simp] theorem Chip.laserFails_vaultMem (c : Chip) (r : LaserRef) (line : Nat) (reason : BitVec 4) : (Chip.laserFails c r line
    reason).vaultMem = c.vaultMem := by
  unfold Chip.laserFails
  repeat'
    first
    | with_reducible rfl | assumption | (with_reducible refine (overAll_keep Chip.vaultMem _ _ _ fun _ _ => ?_).trans ?_)
    | (with_reducible refine (foldl_keep Chip.vaultMem _ _ _ fun _ _ => ?_).trans ?_)
    | (with_reducible refine (Chip.when_keep Chip.vaultMem _ _ _ fun _ => ?_).trans ?_) | split | simp

@[simp] theorem Chip.lineMeasure_vaultMem (c : Chip) (r : LaserRef) (powers : List Nat) (readbackBad : Bool) :
    (Chip.lineMeasure c r powers readbackBad).vaultMem = c.vaultMem := by
  unfold Chip.lineMeasure
  extract_lets l lines new w ref present fell free c1 c2 floor exact_ fade c3 c4
  have h1 : c1.vaultMem = c.vaultMem := Chip.draw_vaultMem c
  have h2 : c2.vaultMem = c.vaultMem := (Chip.upLaserAt_vaultMem _ _ _).trans h1
  have h3 : c3.vaultMem = c.vaultMem := (Chip.upLaserAt_vaultMem _ _ _).trans h1
  have h4 : c4.vaultMem = c.vaultMem := by
    simp only [c4]
    split
    · exact (Chip.upGroup_vaultMem _ _ _).trans h3
    · exact h3
  clear_value c4 c2
  repeat' split
  all_goals simp [*]

@[simp] theorem Chip.fadeCross_vaultMem (c : Chip) (r : LaserRef) (p : Nat × Nat) : (Chip.fadeCross c r p).vaultMem = c.vaultMem := by
  unfold Chip.fadeCross
  repeat'
    first
    | with_reducible rfl | assumption | (with_reducible refine (overAll_keep Chip.vaultMem _ _ _ fun _ _ => ?_).trans ?_)
    | (with_reducible refine (foldl_keep Chip.vaultMem _ _ _ fun _ _ => ?_).trans ?_)
    | (with_reducible refine (Chip.when_keep Chip.vaultMem _ _ _ fun _ => ?_).trans ?_) | split | simp

@[simp] theorem Chip.orderHandover_vaultMem (c : Chip) (g action : Nat) : (Chip.orderHandover c g action).vaultMem = c.vaultMem := by
  unfold Chip.orderHandover
  repeat'
    first
    | with_reducible rfl | assumption | (with_reducible refine (overAll_keep Chip.vaultMem _ _ _ fun _ _ => ?_).trans ?_)
    | (with_reducible refine (foldl_keep Chip.vaultMem _ _ _ fun _ _ => ?_).trans ?_)
    | (with_reducible refine (Chip.when_keep Chip.vaultMem _ _ _ fun _ => ?_).trans ?_) | split | simp

@[simp] theorem Chip.handoverStart_vaultMem (c : Chip) (r : LaserRef) : (Chip.handoverStart c r).vaultMem = c.vaultMem := by
  unfold Chip.handoverStart
  repeat'
    first
    | with_reducible rfl | assumption | (with_reducible refine (overAll_keep Chip.vaultMem _ _ _ fun _ _ => ?_).trans ?_)
    | (with_reducible refine (foldl_keep Chip.vaultMem _ _ _ fun _ _ => ?_).trans ?_)
    | (with_reducible refine (Chip.when_keep Chip.vaultMem _ _ _ fun _ => ?_).trans ?_) | split | simp

@[simp] theorem Chip.handoverComplete_vaultMem (c : Chip) (r : LaserRef) : (Chip.handoverComplete c r).vaultMem = c.vaultMem := by
  unfold Chip.handoverComplete
  repeat'
    first
    | with_reducible rfl | assumption | (with_reducible refine (overAll_keep Chip.vaultMem _ _ _ fun _ _ => ?_).trans ?_)
    | (with_reducible refine (foldl_keep Chip.vaultMem _ _ _ fun _ _ => ?_).trans ?_)
    | (with_reducible refine (Chip.when_keep Chip.vaultMem _ _ _ fun _ => ?_).trans ?_) | split | simp

@[simp] theorem Chip.standbyReached_vaultMem (c : Chip) (r : LaserRef) : (Chip.standbyReached c r).vaultMem = c.vaultMem := by
  unfold Chip.standbyReached
  repeat'
    first
    | with_reducible rfl | assumption | (with_reducible refine (overAll_keep Chip.vaultMem _ _ _ fun _ _ => ?_).trans ?_)
    | (with_reducible refine (foldl_keep Chip.vaultMem _ _ _ fun _ _ => ?_).trans ?_)
    | (with_reducible refine (Chip.when_keep Chip.vaultMem _ _ _ fun _ => ?_).trans ?_) | split | simp

@[simp] theorem Chip.relight_vaultMem (c : Chip) (g k : Nat) : (Chip.relight c g k).vaultMem = c.vaultMem := by
  unfold Chip.relight
  repeat'
    first
    | with_reducible rfl | assumption | (with_reducible refine (overAll_keep Chip.vaultMem _ _ _ fun _ _ => ?_).trans ?_)
    | (with_reducible refine (foldl_keep Chip.vaultMem _ _ _ fun _ _ => ?_).trans ?_)
    | (with_reducible refine (Chip.when_keep Chip.vaultMem _ _ _ fun _ => ?_).trans ?_) | split | simp

@[simp] theorem Chip.spareActive_vaultMem (c : Chip) (r : LaserRef) : (Chip.spareActive c r).vaultMem = c.vaultMem := by
  unfold Chip.spareActive
  repeat'
    first
    | with_reducible rfl | assumption | (with_reducible refine (overAll_keep Chip.vaultMem _ _ _ fun _ _ => ?_).trans ?_)
    | (with_reducible refine (foldl_keep Chip.vaultMem _ _ _ fun _ _ => ?_).trans ?_)
    | (with_reducible refine (Chip.when_keep Chip.vaultMem _ _ _ fun _ => ?_).trans ?_) | split | simp

@[simp] theorem Chip.startSweep_vaultMem (c : Chip) (b : BankRef) : (Chip.startSweep c b).vaultMem = c.vaultMem := rfl

@[simp] theorem Chip.lineLost_vaultMem (c : Chip) (b : BankRef) (code : Nat) : (Chip.lineLost c b code).vaultMem = c.vaultMem := by
  unfold Chip.lineLost
  repeat'
    first
    | with_reducible rfl | assumption | (with_reducible refine (overAll_keep Chip.vaultMem _ _ _ fun _ _ => ?_).trans ?_)
    | (with_reducible refine (foldl_keep Chip.vaultMem _ _ _ fun _ _ => ?_).trans ?_)
    | (with_reducible refine (Chip.when_keep Chip.vaultMem _ _ _ fun _ => ?_).trans ?_) | split | simp

@[simp] theorem Chip.lockUpdate_vaultMem (c : Chip) (b : BankRef) (err : Int) : (Chip.lockUpdate c b err).vaultMem = c.vaultMem := by
  unfold Chip.lockUpdate
  repeat'
    first
    | with_reducible rfl | assumption | (with_reducible refine (overAll_keep Chip.vaultMem _ _ _ fun _ _ => ?_).trans ?_)
    | (with_reducible refine (foldl_keep Chip.vaultMem _ _ _ fun _ _ => ?_).trans ?_)
    | (with_reducible refine (Chip.when_keep Chip.vaultMem _ _ _ fun _ => ?_).trans ?_) | split | simp

@[simp] theorem Chip.heaterStrobe_vaultMem (c : Chip) (g : Nat) : (Chip.heaterStrobe c g).vaultMem = c.vaultMem := by
  unfold Chip.heaterStrobe
  repeat'
    first
    | with_reducible rfl | assumption | (with_reducible refine (overAll_keep Chip.vaultMem _ _ _ fun _ _ => ?_).trans ?_)
    | (with_reducible refine (foldl_keep Chip.vaultMem _ _ _ fun _ _ => ?_).trans ?_)
    | (with_reducible refine (Chip.when_keep Chip.vaultMem _ _ _ fun _ => ?_).trans ?_) | split | simp

@[simp] theorem Chip.heaterCheck_vaultMem (c : Chip) (b : BankRef) (measured : Nat) : (Chip.heaterCheck c b measured).vaultMem =
    c.vaultMem := by
  unfold Chip.heaterCheck
  repeat'
    first
    | with_reducible rfl | assumption | (with_reducible refine (overAll_keep Chip.vaultMem _ _ _ fun _ _ => ?_).trans ?_)
    | (with_reducible refine (foldl_keep Chip.vaultMem _ _ _ fun _ _ => ?_).trans ?_)
    | (with_reducible refine (Chip.when_keep Chip.vaultMem _ _ _ fun _ => ?_).trans ?_) | split | simp

@[simp] theorem Chip.pilotFrame_vaultMem (c : Chip) (b : BankRef) (chips : BitVec 32) : (Chip.pilotFrame c b chips).vaultMem =
    c.vaultMem := by
  unfold Chip.pilotFrame
  repeat'
    first
    | with_reducible rfl | assumption | (with_reducible refine (overAll_keep Chip.vaultMem _ _ _ fun _ _ => ?_).trans ?_)
    | (with_reducible refine (foldl_keep Chip.vaultMem _ _ _ fun _ _ => ?_).trans ?_)
    | (with_reducible refine (Chip.when_keep Chip.vaultMem _ _ _ fun _ => ?_).trans ?_) | split | simp

@[simp] theorem Chip.resweepDone_vaultMem (c : Chip) (b : BankRef) (peaks : List SweepPeak) : (Chip.resweepDone c b peaks).vaultMem =
    c.vaultMem := by
  unfold Chip.resweepDone
  repeat'
    first
    | with_reducible rfl | assumption | (with_reducible refine (overAll_keep Chip.vaultMem _ _ _ fun _ _ => ?_).trans ?_)
    | (with_reducible refine (foldl_keep Chip.vaultMem _ _ _ fun _ _ => ?_).trans ?_)
    | (with_reducible refine (Chip.when_keep Chip.vaultMem _ _ _ fun _ => ?_).trans ?_) | split | simp

@[simp] theorem Chip.easySignals_vaultMem (c : Chip) (on : Bool) : (Chip.easySignals c on).vaultMem = c.vaultMem := by
  unfold Chip.easySignals
  repeat'
    first
    | with_reducible rfl | assumption | (with_reducible refine (overAll_keep Chip.vaultMem _ _ _ fun _ _ => ?_).trans ?_)
    | (with_reducible refine (foldl_keep Chip.vaultMem _ _ _ fun _ _ => ?_).trans ?_)
    | (with_reducible refine (Chip.when_keep Chip.vaultMem _ _ _ fun _ => ?_).trans ?_) | split | simp

@[simp] theorem Chip.watchSample_vaultMem (c : Chip) (reading : BitVec 13) : (Chip.watchSample c reading).vaultMem = c.vaultMem := by
  unfold Chip.watchSample
  repeat'
    first
    | with_reducible rfl | assumption | (with_reducible refine (overAll_keep Chip.vaultMem _ _ _ fun _ _ => ?_).trans ?_)
    | (with_reducible refine (foldl_keep Chip.vaultMem _ _ _ fun _ _ => ?_).trans ?_)
    | (with_reducible refine (Chip.when_keep Chip.vaultMem _ _ _ fun _ => ?_).trans ?_) | split | simp

@[simp] theorem Chip.setHalved_vaultMem (c : Chip) (g : Nat) (b : Bool) : (Chip.setHalved c g b).vaultMem = c.vaultMem := by
  simp [Chip.setHalved]

@[simp] theorem Chip.thermalStop_vaultMem (c : Chip) : (Chip.thermalStop c).vaultMem = c.vaultMem := by
  unfold Chip.thermalStop
  repeat'
    first
    | with_reducible rfl | assumption | (with_reducible refine (overAll_keep Chip.vaultMem _ _ _ fun _ _ => ?_).trans ?_)
    | (with_reducible refine (foldl_keep Chip.vaultMem _ _ _ fun _ _ => ?_).trans ?_)
    | (with_reducible refine (Chip.when_keep Chip.vaultMem _ _ _ fun _ => ?_).trans ?_) | split | simp

@[simp] theorem Chip.scrub_vaultMem (c : Chip) (s line : Nat) (outcome : CodeResult) (ondie : Nat) (parity : Bool) (progress : BitVec 8)
    : (Chip.scrub c s line outcome ondie parity progress).vaultMem = c.vaultMem := by
  unfold Chip.scrub
  repeat' split
  all_goals simp

@[simp] theorem Chip.streamAcked_vaultMem (c : Chip) (p : Packet) : (Chip.streamAcked c p).vaultMem = c.vaultMem := by
  unfold Chip.streamAcked
  repeat' split
  all_goals simp

@[simp] theorem Chip.flushAll_vaultMem (c : Chip) : c.flushAll.vaultMem = c.vaultMem :=
  overAll_keep Chip.vaultMem _ _ _ (fun _ _ => Chip.flush_vaultMem _ _ _)

@[simp] theorem Chip.ackQueue_vaultMem (c : Chip) (q : Nat) (a : BitVec 32) : (Chip.ackQueue c q a).vaultMem = c.vaultMem := by
  unfold Chip.ackQueue
  repeat'
    first
    | with_reducible rfl | assumption | (with_reducible refine (overAll_keep Chip.vaultMem _ _ _ fun _ _ => ?_).trans ?_)
    | (with_reducible refine (foldl_keep Chip.vaultMem _ _ _ fun _ _ => ?_).trans ?_)
    | (with_reducible refine (Chip.when_keep Chip.vaultMem _ _ _ fun _ => ?_).trans ?_) | split | simp

@[simp] theorem Chip.resend_vaultMem (q : Nat) (c : Chip) (p : Packet) : (Chip.resend q c p).vaultMem = c.vaultMem := by
  simp [Chip.resend]

@[simp] theorem Chip.answer_vaultMem (c : Chip) (h : Hdr) (b : ResultBody) : (Chip.answer c h b).vaultMem = c.vaultMem := by
  simp [Chip.answer]

@[simp] theorem Chip.receipt_vaultMem (c : Chip) (h : Hdr) (status : Nat) : (Chip.receipt c h status).vaultMem = c.vaultMem := by
  simp [Chip.receipt]

@[simp] theorem Chip.outOfSequence_vaultMem (c : Chip) (h : Hdr) : (Chip.outOfSequence c h).vaultMem = c.vaultMem := by
  unfold Chip.outOfSequence
  repeat'
    first
    | with_reducible rfl | assumption | (with_reducible refine (overAll_keep Chip.vaultMem _ _ _ fun _ _ => ?_).trans ?_)
    | (with_reducible refine (foldl_keep Chip.vaultMem _ _ _ fun _ _ => ?_).trans ?_)
    | (with_reducible refine (Chip.when_keep Chip.vaultMem _ _ _ fun _ => ?_).trans ?_) | split | simp

@[simp] theorem Chip.foreign_vaultMem (c : Chip) (p : Fin 2) : (Chip.foreign c p).vaultMem = c.vaultMem := rfl

@[simp] theorem Chip.reply_vaultMem (c : Chip) (r : Reply) : (Chip.reply c r).vaultMem = c.vaultMem := rfl

@[simp] theorem Chip.releaseWaiting_vaultMem (c : Chip) (port : Fin 2) : (Chip.releaseWaiting c port).vaultMem = c.vaultMem := by
  unfold Chip.releaseWaiting
  repeat'
    first
    | with_reducible rfl | assumption | (with_reducible refine (overAll_keep Chip.vaultMem _ _ _ fun _ _ => ?_).trans ?_)
    | (with_reducible refine (foldl_keep Chip.vaultMem _ _ _ fun _ _ => ?_).trans ?_)
    | (with_reducible refine (Chip.when_keep Chip.vaultMem _ _ _ fun _ => ?_).trans ?_) | split | simp

@[simp] theorem Chip.queueReset_vaultMem (c : Chip) : (Chip.queueReset c).vaultMem = c.vaultMem := by
  unfold Chip.queueReset
  repeat'
    first
    | with_reducible rfl | assumption | (with_reducible refine (overAll_keep Chip.vaultMem _ _ _ fun _ _ => ?_).trans ?_)
    | (with_reducible refine (foldl_keep Chip.vaultMem _ _ _ fun _ _ => ?_).trans ?_)
    | (with_reducible refine (Chip.when_keep Chip.vaultMem _ _ _ fun _ => ?_).trans ?_) | split | simp

@[simp] theorem Chip.enqueue_vaultMem (c : Chip) (j : Job) : (Chip.enqueue c j).vaultMem = c.vaultMem := rfl

@[simp] theorem Chip.submit_vaultMem (c : Chip) (h : Hdr) (b : JobBody) : (Chip.submit c h b).vaultMem = c.vaultMem := by
  unfold Chip.submit
  repeat'
    first
    | with_reducible rfl | assumption | (with_reducible refine (overAll_keep Chip.vaultMem _ _ _ fun _ _ => ?_).trans ?_)
    | (with_reducible refine (foldl_keep Chip.vaultMem _ _ _ fun _ _ => ?_).trans ?_)
    | (with_reducible refine (Chip.when_keep Chip.vaultMem _ _ _ fun _ => ?_).trans ?_) | split | simp

@[simp] theorem Chip.resume_vaultMem (c : Chip) (h : Hdr) (b : JobBody) : (Chip.resume c h b).vaultMem = c.vaultMem := by
  unfold Chip.resume
  repeat'
    first
    | with_reducible rfl | assumption | (with_reducible refine (overAll_keep Chip.vaultMem _ _ _ fun _ _ => ?_).trans ?_)
    | (with_reducible refine (foldl_keep Chip.vaultMem _ _ _ fun _ _ => ?_).trans ?_)
    | (with_reducible refine (Chip.when_keep Chip.vaultMem _ _ _ fun _ => ?_).trans ?_) | split | simp

@[simp] theorem Chip.askPause_vaultMem (c : Chip) (j : Job) (boundary : Nat) (reason : BitVec 8) (area : BitVec 64) : (Chip.askPause c j
    boundary reason area).vaultMem = c.vaultMem := by
  unfold Chip.askPause
  repeat'
    first
    | with_reducible rfl | assumption | (with_reducible refine (overAll_keep Chip.vaultMem _ _ _ fun _ _ => ?_).trans ?_)
    | (with_reducible refine (foldl_keep Chip.vaultMem _ _ _ fun _ _ => ?_).trans ?_)
    | (with_reducible refine (Chip.when_keep Chip.vaultMem _ _ _ fun _ => ?_).trans ?_) | split | simp

@[simp] theorem Chip.askFleetPause_vaultMem (c : Chip) (j : Job) (reason : BitVec 8) (area : BitVec 64) : (Chip.askFleetPause c j reason
    area).vaultMem = c.vaultMem := by
  unfold Chip.askFleetPause
  repeat' split
  all_goals simp

@[simp] theorem Chip.pausePacket_vaultMem (c : Chip) (h : Hdr) (b : JobBody) : (Chip.pausePacket c h b).vaultMem = c.vaultMem := by
  unfold Chip.pausePacket
  repeat'
    first
    | with_reducible rfl | assumption | (with_reducible refine (overAll_keep Chip.vaultMem _ _ _ fun _ _ => ?_).trans ?_)
    | (with_reducible refine (foldl_keep Chip.vaultMem _ _ _ fun _ _ => ?_).trans ?_)
    | (with_reducible refine (Chip.when_keep Chip.vaultMem _ _ _ fun _ => ?_).trans ?_) | split | simp

@[simp] theorem Chip.abortPacket_vaultMem (c : Chip) (h : Hdr) (b : JobBody) : (Chip.abortPacket c h b).vaultMem = c.vaultMem := by
  unfold Chip.abortPacket
  repeat' split
  all_goals simp

@[simp] theorem Chip.pressurePacket_vaultMem (c : Chip) (h : Hdr) (b : JobBody) : (Chip.pressurePacket c h b).vaultMem = c.vaultMem := by
  unfold Chip.pressurePacket
  repeat'
    first
    | with_reducible rfl | assumption | (with_reducible refine (overAll_keep Chip.vaultMem _ _ _ fun _ _ => ?_).trans ?_)
    | (with_reducible refine (foldl_keep Chip.vaultMem _ _ _ fun _ _ => ?_).trans ?_)
    | (with_reducible refine (Chip.when_keep Chip.vaultMem _ _ _ fun _ => ?_).trans ?_) | split | simp

@[simp] theorem Chip.setMode_vaultMem (c : Chip) (g : Nat) (m : Mode) : (Chip.setMode c g m).vaultMem = c.vaultMem := by
  unfold Chip.setMode
  repeat'
    first
    | with_reducible rfl | assumption | (with_reducible refine (overAll_keep Chip.vaultMem _ _ _ fun _ _ => ?_).trans ?_)
    | (with_reducible refine (foldl_keep Chip.vaultMem _ _ _ fun _ _ => ?_).trans ?_)
    | (with_reducible refine (Chip.when_keep Chip.vaultMem _ _ _ fun _ => ?_).trans ?_) | split | simp

@[simp] theorem Chip.putTiles_vaultMem (c : Chip) (g lc : Nat) (b : List Byte) : (Chip.putTiles c g lc b).vaultMem = c.vaultMem := by
  simp [Chip.putTiles]

@[simp] theorem Chip.startJob_vaultMem (c : Chip) (j : Job) (i : Image) : (Chip.startJob c j i).vaultMem = c.vaultMem := by
  unfold Chip.startJob
  repeat'
    first
    | with_reducible rfl | assumption | (with_reducible refine (overAll_keep Chip.vaultMem _ _ _ fun _ _ => ?_).trans ?_)
    | (with_reducible refine (foldl_keep Chip.vaultMem _ _ _ fun _ _ => ?_).trans ?_)
    | (with_reducible refine (Chip.when_keep Chip.vaultMem _ _ _ fun _ => ?_).trans ?_) | split | simp

@[simp] theorem Chip.deadline_vaultMem (c : Chip) (j : Job) (i : Image) : (Chip.deadline c j i).vaultMem = c.vaultMem := by
  unfold Chip.deadline
  repeat'
    first
    | with_reducible rfl | assumption | (with_reducible refine (overAll_keep Chip.vaultMem _ _ _ fun _ _ => ?_).trans ?_)
    | (with_reducible refine (foldl_keep Chip.vaultMem _ _ _ fun _ _ => ?_).trans ?_)
    | (with_reducible refine (Chip.when_keep Chip.vaultMem _ _ _ fun _ => ?_).trans ?_) | split | simp

@[simp] theorem Chip.changeMode_vaultMem (c : Chip) (j : Job) (m : Mode) : (Chip.changeMode c j m).vaultMem = c.vaultMem := by
  unfold Chip.changeMode
  repeat'
    first
    | with_reducible rfl | assumption | (with_reducible refine (overAll_keep Chip.vaultMem _ _ _ fun _ _ => ?_).trans ?_)
    | (with_reducible refine (foldl_keep Chip.vaultMem _ _ _ fun _ _ => ?_).trans ?_)
    | (with_reducible refine (Chip.when_keep Chip.vaultMem _ _ _ fun _ => ?_).trans ?_) | split | simp

@[simp] theorem Chip.pressureApply_vaultMem (c : Chip) (j : Job) (i : Image) : (Chip.pressureApply c j i).vaultMem = c.vaultMem := by
  unfold Chip.pressureApply
  repeat'
    first
    | with_reducible rfl | assumption | (with_reducible refine (overAll_keep Chip.vaultMem _ _ _ fun _ _ => ?_).trans ?_)
    | (with_reducible refine (foldl_keep Chip.vaultMem _ _ _ fun _ _ => ?_).trans ?_)
    | (with_reducible refine (Chip.when_keep Chip.vaultMem _ _ _ fun _ => ?_).trans ?_) | split | simp

@[simp] theorem Chip.dropLoad_vaultMem (c : Chip) (l : Load) : (Chip.dropLoad c l).vaultMem = c.vaultMem := rfl

@[simp] theorem Chip.unload_vaultMem (c : Chip) (h : Hdr) (id : BitVec 256) : (Chip.unload c h id).vaultMem = c.vaultMem := by
  unfold Chip.unload
  repeat' split
  all_goals simp

@[simp] theorem Chip.loadDone_vaultMem (c : Chip) (l : Load) (f : LoadFail) (id : Nat) : (Chip.loadDone c l f id).vaultMem = c.vaultMem
    := by
  simp [Chip.loadDone]

@[simp] theorem Chip.checkComplete_vaultMem (c : Chip) (q : BitVec 15) (readBad : Bool) : (Chip.checkComplete c q readBad).vaultMem =
    c.vaultMem := by
  unfold Chip.checkComplete
  repeat'
    first
    | with_reducible rfl | assumption | (with_reducible refine (overAll_keep Chip.vaultMem _ _ _ fun _ _ => ?_).trans ?_)
    | (with_reducible refine (foldl_keep Chip.vaultMem _ _ _ fun _ _ => ?_).trans ?_)
    | (with_reducible refine (Chip.when_keep Chip.vaultMem _ _ _ fun _ => ?_).trans ?_) | split | simp

@[simp] theorem Chip.imageReplace_vaultMem (c : Chip) (id : BitVec 256) : (Chip.imageReplace c id).vaultMem = c.vaultMem := by
  unfold Chip.imageReplace
  repeat' split
  all_goals simp

@[simp] theorem Chip.latchRead_vaultMem (c : Chip) (a : Nat) : (Chip.latchRead c a).vaultMem = c.vaultMem := by
  unfold Chip.latchRead
  repeat' split
  all_goals simp

@[simp] theorem Chip.clearRegion_vaultMem (c : Chip) (g o : Nat) : (Chip.clearRegion c g o).vaultMem = c.vaultMem := by
  unfold Chip.clearRegion
  repeat'
    first
    | with_reducible rfl | assumption | (with_reducible refine (overAll_keep Chip.vaultMem _ _ _ fun _ _ => ?_).trans ?_)
    | (with_reducible refine (foldl_keep Chip.vaultMem _ _ _ fun _ _ => ?_).trans ?_)
    | (with_reducible refine (Chip.when_keep Chip.vaultMem _ _ _ fun _ => ?_).trans ?_) | split | simp

@[simp] theorem Chip.clearRead_vaultMem (c : Chip) (a : Nat) : (Chip.clearRead c a).vaultMem = c.vaultMem := by
  unfold Chip.clearRead
  repeat' split
  all_goals simp

@[simp] theorem Chip.afterRead_vaultMem (c : Chip) (a : Nat) : (Chip.afterRead c a).vaultMem = c.vaultMem := by
  unfold Chip.afterRead
  repeat' split
  all_goals simp

@[simp] theorem Chip.fabric_vaultMem (c : Chip) (n : Nat) (f : Fabric) : (Chip.fabric c n f).1.vaultMem = c.vaultMem := by
  unfold Chip.fabric
  repeat' split
  all_goals simp

@[simp] theorem Chip.setFleetStroke_vaultMem (c : Chip) (n : BitVec 48) : (Chip.setFleetStroke c n).vaultMem = c.vaultMem := rfl

@[simp] theorem Chip.fillPorts_vaultMem (c : Chip) : (Chip.fillPorts c).vaultMem = c.vaultMem := rfl

@[simp] theorem Chip.fleetStroke_vaultMem (c : Chip) : (Chip.fleetStroke c).vaultMem = c.vaultMem := by
  unfold Chip.fleetStroke
  repeat'
    first
    | with_reducible rfl | assumption | (with_reducible refine (overAll_keep Chip.vaultMem _ _ _ fun _ _ => ?_).trans ?_)
    | (with_reducible refine (foldl_keep Chip.vaultMem _ _ _ fun _ _ => ?_).trans ?_)
    | (with_reducible refine (Chip.when_keep Chip.vaultMem _ _ _ fun _ => ?_).trans ?_) | split | simp

@[simp] theorem Chip.fsyncEdge_vaultMem (c : Chip) (position : Int) : (Chip.fsyncEdge c position).vaultMem = c.vaultMem := by
  unfold Chip.fsyncEdge
  repeat'
    first
    | with_reducible rfl | assumption | (with_reducible refine (overAll_keep Chip.vaultMem _ _ _ fun _ _ => ?_).trans ?_)
    | (with_reducible refine (foldl_keep Chip.vaultMem _ _ _ fun _ _ => ?_).trans ?_)
    | (with_reducible refine (Chip.when_keep Chip.vaultMem _ _ _ fun _ => ?_).trans ?_) | split | simp

@[simp] theorem Chip.weighIn_vaultMem (c : Chip) (p : Nat) (n : BitVec 48) (w : WeighMsg) : (Chip.weighIn c p n w).vaultMem = c.vaultMem
    := by
  unfold Chip.weighIn
  repeat'
    first
    | with_reducible rfl | assumption | (with_reducible refine (overAll_keep Chip.vaultMem _ _ _ fun _ _ => ?_).trans ?_)
    | (with_reducible refine (foldl_keep Chip.vaultMem _ _ _ fun _ _ => ?_).trans ?_)
    | (with_reducible refine (Chip.when_keep Chip.vaultMem _ _ _ fun _ => ?_).trans ?_) | split | simp

@[simp] theorem Chip.linkExclude_vaultMem (c : Chip) (p : Nat) : (Chip.linkExclude c p).vaultMem = c.vaultMem := by
  unfold Chip.linkExclude
  repeat' split
  all_goals simp

@[simp] theorem Chip.runCatch_vaultMem (c : Chip) (p l : Nat) (j : Job) (m : CatchMsg) (offset : Int) : (Chip.runCatch c p l j m
    offset).vaultMem = c.vaultMem := by
  unfold Chip.runCatch
  repeat'
    first
    | with_reducible rfl | assumption | (with_reducible refine (overAll_keep Chip.vaultMem _ _ _ fun _ _ => ?_).trans ?_)
    | (with_reducible refine (foldl_keep Chip.vaultMem _ _ _ fun _ _ => ?_).trans ?_)
    | (with_reducible refine (Chip.when_keep Chip.vaultMem _ _ _ fun _ => ?_).trans ?_) | split | simp

@[simp] theorem Chip.fleetStart_vaultMem (c : Chip) (j : Job) (i : Image) : (Chip.fleetStart c j i).vaultMem = c.vaultMem := by
  unfold Chip.fleetStart
  repeat'
    first
    | with_reducible rfl | assumption | (with_reducible refine (overAll_keep Chip.vaultMem _ _ _ fun _ _ => ?_).trans ?_)
    | (with_reducible refine (foldl_keep Chip.vaultMem _ _ _ fun _ _ => ?_).trans ?_)
    | (with_reducible refine (Chip.when_keep Chip.vaultMem _ _ _ fun _ => ?_).trans ?_) | split | simp

@[simp] theorem Chip.forward_vaultMem (c : Chip) (j : Job) (p : Nat) (m : SignalMsg) : (Chip.forward c j p m).vaultMem = c.vaultMem := rfl

@[simp] theorem Chip.takeSignal_vaultMem (c : Chip) (j : Job) (p : Nat) (m : SignalMsg) : (Chip.takeSignal c j p m).vaultMem =
    c.vaultMem := by
  unfold Chip.takeSignal
  repeat' split
  all_goals simp

@[simp] theorem Chip.farLane_vaultMem (c : Chip) (p : Nat) (m : SignalMsg) : (Chip.farLane c p m).vaultMem = c.vaultMem := by
  unfold Chip.farLane
  repeat'
    first
    | with_reducible rfl | assumption | (with_reducible refine (overAll_keep Chip.vaultMem _ _ _ fun _ _ => ?_).trans ?_)
    | (with_reducible refine (foldl_keep Chip.vaultMem _ _ _ fun _ _ => ?_).trans ?_)
    | (with_reducible refine (Chip.when_keep Chip.vaultMem _ _ _ fun _ => ?_).trans ?_) | split | simp

@[simp] theorem Chip.fleetEasy_vaultMem (c : Chip) (j : Job) : (Chip.fleetEasy c j).vaultMem = c.vaultMem := by
  unfold Chip.fleetEasy
  repeat'
    first
    | with_reducible rfl | assumption | (with_reducible refine (overAll_keep Chip.vaultMem _ _ _ fun _ _ => ?_).trans ?_)
    | (with_reducible refine (foldl_keep Chip.vaultMem _ _ _ fun _ _ => ?_).trans ?_)
    | (with_reducible refine (Chip.when_keep Chip.vaultMem _ _ _ fun _ => ?_).trans ?_) | split | simp

@[simp] theorem Chip.fleetPause_vaultMem (c : Chip) (j : Job) : (Chip.fleetPause c j).vaultMem = c.vaultMem := by
  unfold Chip.fleetPause
  repeat' split
  all_goals simp

@[simp] theorem Chip.stopSurvey_vaultMem (c : Chip) (u : SurveyUnit) : (Chip.stopSurvey c u).vaultMem = c.vaultMem := by
  unfold Chip.stopSurvey
  repeat' split
  all_goals simp

@[simp] theorem Chip.stackOut_vaultMem (c : Chip) (s : Nat) : (Chip.stackOut c s).vaultMem = c.vaultMem := by
  unfold Chip.stackOut
  repeat' split
  all_goals simp

@[simp] theorem Chip.regulatorLost_vaultMem (c : Chip) (r : Rail) : (Chip.regulatorLost c r).vaultMem = c.vaultMem := by
  unfold Chip.regulatorLost
  repeat' split
  all_goals simp

@[simp] theorem Chip.railOut_vaultMem (c : Chip) (r : Rail) : (Chip.railOut c r).vaultMem = c.vaultMem := by
  unfold Chip.railOut
  repeat'
    first
    | with_reducible rfl | assumption | (with_reducible refine (overAll_keep Chip.vaultMem _ _ _ fun _ _ => ?_).trans ?_)
    | (with_reducible refine (foldl_keep Chip.vaultMem _ _ _ fun _ _ => ?_).trans ?_)
    | (with_reducible refine (Chip.when_keep Chip.vaultMem _ _ _ fun _ => ?_).trans ?_) | split | simp

@[simp] theorem Chip.railAbort_vaultMem (c : Chip) (r : Rail) : (Chip.railAbort c r).vaultMem = c.vaultMem := by
  unfold Chip.railAbort
  repeat' split
  all_goals simp

@[simp] theorem Chip.railReturn_vaultMem (c : Chip) (r : Rail) : (Chip.railReturn c r).vaultMem = c.vaultMem := by
  unfold Chip.railReturn
  repeat' split
  all_goals simp

@[simp] theorem Chip.powerIsGood_vaultMem (c : Chip) : (Chip.powerIsGood c).vaultMem = c.vaultMem := by
  unfold Chip.powerIsGood
  repeat' split
  all_goals simp

@[simp] theorem Chip.accessResult_vaultMem (c : Chip) (r : Nat) : (Chip.accessResult c r).vaultMem = c.vaultMem := rfl

@[simp] theorem Chip.cmdPassword_vaultMem (c : Chip) (length : Nat) : (Chip.cmdPassword c length).vaultMem = c.vaultMem := by
  unfold Chip.cmdPassword
  repeat'
    first
    | with_reducible rfl | assumption | (with_reducible refine (overAll_keep Chip.vaultMem _ _ _ fun _ _ => ?_).trans ?_)
    | (with_reducible refine (foldl_keep Chip.vaultMem _ _ _ fun _ _ => ?_).trans ?_)
    | (with_reducible refine (Chip.when_keep Chip.vaultMem _ _ _ fun _ => ?_).trans ?_) | split | simp

@[simp] theorem Chip.cmdChallenge_vaultMem (c : Chip) : (Chip.cmdChallenge c).vaultMem = c.vaultMem := rfl

@[simp] theorem Chip.cmdRequest_vaultMem (c : Chip) : (Chip.cmdRequest c).vaultMem = c.vaultMem := by
  unfold Chip.cmdRequest
  repeat'
    first
    | with_reducible rfl | assumption | (with_reducible refine (overAll_keep Chip.vaultMem _ _ _ fun _ _ => ?_).trans ?_)
    | (with_reducible refine (foldl_keep Chip.vaultMem _ _ _ fun _ _ => ?_).trans ?_)
    | (with_reducible refine (Chip.when_keep Chip.vaultMem _ _ _ fun _ => ?_).trans ?_) | split | simp

@[simp] theorem Chip.cmdLevel0_vaultMem (c : Chip) : (Chip.cmdLevel0 c).vaultMem = c.vaultMem := rfl

@[simp] theorem Chip.keyAnswer_vaultMem (c : Chip) (r : Nat) : (Chip.keyAnswer c r).vaultMem = c.vaultMem := rfl

@[simp] theorem Chip.cmdAttest_vaultMem (c : Chip) : (Chip.cmdAttest c).vaultMem = c.vaultMem := by
  unfold Chip.cmdAttest
  repeat'
    first
    | with_reducible rfl | assumption | (with_reducible refine (overAll_keep Chip.vaultMem _ _ _ fun _ _ => ?_).trans ?_)
    | (with_reducible refine (foldl_keep Chip.vaultMem _ _ _ fun _ _ => ?_).trans ?_)
    | (with_reducible refine (Chip.when_keep Chip.vaultMem _ _ _ fun _ => ?_).trans ?_) | split | simp

@[simp] theorem Chip.diagRead_vaultMem (c : Chip) : (Chip.diagRead c).vaultMem = c.vaultMem := by
  unfold Chip.diagRead
  repeat' split
  all_goals simp

@[simp] theorem Chip.tapSelect_vaultMem (c : Chip) (t : Tap) (scan : List Bool) : (Chip.tapSelect c t scan).vaultMem = c.vaultMem := by
  unfold Chip.tapSelect
  repeat' split
  all_goals simp

@[simp] theorem Chip.nextPhase_vaultMem (c : Chip) (n : Nat) : (Chip.nextPhase c n).vaultMem = c.vaultMem := rfl

@[simp] theorem Chip.recover_vaultMem (c : Chip) (reason : Nat) : (Chip.recover c reason).vaultMem = c.vaultMem := rfl

@[simp] theorem Chip.configPhase_vaultMem (c : Chip) (bad0 bad1 : Bool) : (Chip.configPhase c bad0 bad1).vaultMem = c.vaultMem := by
  unfold Chip.configPhase
  repeat'
    first
    | with_reducible rfl | assumption | (with_reducible refine (overAll_keep Chip.vaultMem _ _ _ fun _ _ => ?_).trans ?_)
    | (with_reducible refine (foldl_keep Chip.vaultMem _ _ _ fun _ _ => ?_).trans ?_)
    | (with_reducible refine (Chip.when_keep Chip.vaultMem _ _ _ fun _ => ?_).trans ?_) | split | simp

@[simp] theorem Chip.restoreKept_vaultMem (c : Chip) (k : Kept) : (Chip.restoreKept c k).vaultMem = c.vaultMem := rfl

@[simp] theorem Chip.failBadEntry_vaultMem (c : Chip) (T : Nat) : (Chip.failBadEntry c T).vaultMem = c.vaultMem := by
  unfold Chip.failBadEntry
  repeat' split
  all_goals simp

@[simp] theorem Chip.factoryStart_vaultMem (c : Chip) (stored : List Nat) : (Chip.factoryStart c stored).vaultMem = c.vaultMem := by
  unfold Chip.factoryStart
  dsimp only
  rw [Chip.eventOpen_vaultMem, Chip.vaultMem_mk, Chip.vaultMem_eta, overAll_keep Chip.vaultMem, overAll_keep Chip.vaultMem,
    Chip.vaultMem_mk, Chip.vaultMem_eta, Chip.restoreKept_vaultMem]
  · intro c x
    simp
  · intro c x
    simp

@[simp] theorem Chip.readStore_vaultMem (c : Chip) (bank0 bank1 : BankState) (stored : List Nat) : (Chip.readStore c bank0 bank1
    stored).vaultMem = c.vaultMem := by
  unfold Chip.readStore
  repeat'
    first
    | with_reducible rfl | assumption | (with_reducible refine (overAll_keep Chip.vaultMem _ _ _ fun _ _ => ?_).trans ?_)
    | (with_reducible refine (foldl_keep Chip.vaultMem _ _ _ fun _ _ => ?_).trans ?_)
    | (with_reducible refine (Chip.when_keep Chip.vaultMem _ _ _ fun _ => ?_).trans ?_) | split | simp

@[simp] theorem Chip.restartMoves_vaultMem (c : Chip) : (Chip.restartMoves c).vaultMem = c.vaultMem := by
  unfold Chip.restartMoves
  repeat'
    first
    | with_reducible rfl | assumption | (with_reducible refine (overAll_keep Chip.vaultMem _ _ _ fun _ _ => ?_).trans ?_)
    | (with_reducible refine (foldl_keep Chip.vaultMem _ _ _ fun _ _ => ?_).trans ?_)
    | (with_reducible refine (Chip.when_keep Chip.vaultMem _ _ _ fun _ => ?_).trans ?_) | split | simp

@[simp] theorem Chip.standBy_vaultMem (c : Chip) (r : LaserRef) : (Chip.standBy c r).vaultMem = c.vaultMem := by
  unfold Chip.standBy
  repeat'
    first
    | with_reducible rfl | assumption | (with_reducible refine (overAll_keep Chip.vaultMem _ _ _ fun _ _ => ?_).trans ?_)
    | (with_reducible refine (foldl_keep Chip.vaultMem _ _ _ fun _ _ => ?_).trans ?_)
    | (with_reducible refine (Chip.when_keep Chip.vaultMem _ _ _ fun _ => ?_).trans ?_) | split | simp

@[simp] theorem Chip.levelGroup_vaultMem (c : Chip) (n : Nat) : (Chip.levelGroup c n).vaultMem = c.vaultMem := by
  unfold Chip.levelGroup
  repeat' split
  all_goals simp

@[simp] theorem Chip.startSurvey_vaultMem (c : Chip) (v : SurveyUnit × SurveyResult) : (Chip.startSurvey c v).vaultMem = c.vaultMem := by
  unfold Chip.startSurvey
  repeat'
    first
    | with_reducible rfl | assumption | (with_reducible refine (overAll_keep Chip.vaultMem _ _ _ fun _ _ => ?_).trans ?_)
    | (with_reducible refine (foldl_keep Chip.vaultMem _ _ _ fun _ _ => ?_).trans ?_)
    | (with_reducible refine (Chip.when_keep Chip.vaultMem _ _ _ fun _ => ?_).trans ?_) | split | simp

@[simp] theorem Chip.seatAbsent_vaultMem (c : Chip) (g : Nat) : (Chip.seatAbsent c g).vaultMem = c.vaultMem := by
  unfold Chip.seatAbsent
  repeat'
    first
    | with_reducible rfl | assumption | (with_reducible refine (overAll_keep Chip.vaultMem _ _ _ fun _ _ => ?_).trans ?_)
    | (with_reducible refine (foldl_keep Chip.vaultMem _ _ _ fun _ _ => ?_).trans ?_)
    | (with_reducible refine (Chip.when_keep Chip.vaultMem _ _ _ fun _ => ?_).trans ?_) | split | simp

@[simp] theorem Chip.linksPhase_vaultMem (c : Chip) (results : List (Fin 16 × BringUp)) : (Chip.linksPhase c results).vaultMem =
    c.vaultMem := by
  unfold Chip.linksPhase
  repeat'
    first
    | with_reducible rfl | assumption | (with_reducible refine (overAll_keep Chip.vaultMem _ _ _ fun _ _ => ?_).trans ?_)
    | (with_reducible refine (foldl_keep Chip.vaultMem _ _ _ fun _ _ => ?_).trans ?_)
    | (with_reducible refine (Chip.when_keep Chip.vaultMem _ _ _ fun _ => ?_).trans ?_) | split | simp

@[simp] theorem Chip.writeChip_vaultMem (c : Chip) (a : Nat) (v : Word) : (Chip.writeChip c a v).vaultMem = c.vaultMem := by
  unfold Chip.writeChip
  dsimp only
  repeat refine ite_keep Chip.vaultMem (by simp) ?_
  rfl

@[simp] theorem Chip.writePort_vaultMem (c : Chip) (p o : Nat) (v : Word) : (Chip.writePort c p o v).vaultMem = c.vaultMem := by
  unfold Chip.writePort
  repeat' split
  all_goals simp

@[simp] theorem Chip.writeArr_vaultMem (c : Chip) (a o : Nat) (v : Word) : (Chip.writeArr c a o v).vaultMem = c.vaultMem := by
  unfold Chip.writeArr
  repeat' split
  all_goals simp

@[simp] theorem Chip.writeRegion_vaultMem (c : Chip) (g o : Nat) (v : Word) : (Chip.writeRegion c g o v).vaultMem = c.vaultMem := by
  unfold Chip.writeRegion
  repeat' split
  all_goals simp

@[simp] theorem Chip.writePlain_vaultMem (c : Chip) (a : Nat) (v : Word) : (Chip.writePlain c a v).vaultMem = c.vaultMem := by
  unfold Chip.writePlain
  repeat' split
  all_goals simp

end Sys2Proof.Machine
end

