-- ==== Sys2Proof/Laws/MemWf.lean ====
section
/-! SUPPORT. Every operation that stores into a memory keeps every memory canonical: one lemma per store and one per operation. -/

namespace Sys2Proof.Machine

/-! ## Stores of one memory -/

theorem Mem.wf_foldl_pair {α β : Type} (f : Mem × β → α → Mem × β) (hf : ∀ s x, s.1.wf = true → (f s x).1.wf = true) (l : List α)
    (s : Mem × β) (h : s.1.wf = true) : (l.foldl f s).1.wf = true := by
  induction l generalizing s with
  | nil => exact h
  | cons x l ih => exact ih _ (hf s x h)

theorem writeElem_wf (m : Mem) (base : Nat) (f : Fmt) (i raw : Nat) (h : m.wf = true) : (writeElem m base f i raw).wf = true := by
  unfold writeElem
  dsimp only
  split
  · exact Mem.wf_setByte m _ _ h
  · exact Mem.wf_writeBytes m _ _ h

theorem Pend.apply_wf (p : Pend) (base : Nat) (f : Fmt) (m : Mem) (h : m.wf = true) : (p.apply base f m).wf = true :=
  Mem.wf_foldl_pair _ (fun s _ hs => writeElem_wf s.1 _ _ _ _ hs) _ _ h

theorem runPipe_wf {σ : Type} (lat base : Nat) (f : Fmt) (chunk : Mem → σ → Nat → Pend × σ) (n k : Nat) (m : Mem) (pend : List Pend)
    (st : σ) (h : m.wf = true) : (runPipe lat base f chunk n k m pend st).1.wf = true := by
  induction n generalizing k m pend st with
  | zero => exact Mem.wf_foldl _ (fun m p hm => p.apply_wf base f m hm) _ _ h
  | succ n ih =>
    unfold runPipe
    dsimp only
    apply ih
    split
    · split
      · exact Pend.apply_wf _ _ _ _ h
      · exact h
    · exact h

@[simp] theorem moveChunks_wf (lat src dst n left : Nat) (m : Mem) (pend : List (Nat × List Byte)) (h : m.wf = true) :
    (moveChunks lat src dst n left m pend).wf = true := by
  induction n generalizing src dst left m pend with
  | zero => exact Mem.wf_foldl _ (fun m p hm => Mem.wf_writeBytes m p.1 p.2 hm) _ _ h
  | succ n ih =>
    unfold moveChunks
    dsimp only
    apply ih
    split
    · split
      · exact Mem.wf_writeBytes _ _ _ h
      · exact h
    · exact h

theorem vecRun_wf (x : VecCtx) (o len : Nat) (f : Mem → VecAcc → Nat → Nat × VecAcc) (m : Mem) (h : m.wf = true) :
    (vecRun x o len f m).1.wf = true := runPipe_wf _ _ _ _ _ _ _ _ _ h

theorem vecRows_wf (x : VecCtx) (len : Nat) (f : Mem → Nat → List Nat × Cnt) (m : Mem) (h : m.wf = true) :
    (vecRows x len f m).1.wf = true := Pend.apply_wf _ _ _ _ h

theorem vecTwice_wf {ρ : Type} (x : VecCtx) (o len : Nat) (row : Mem → Nat → ρ × Cnt) (elem : List ρ → Mem → Nat → Nat × Cnt) (m : Mem)
    (h : m.wf = true) : (vecTwice x o len row elem m).1.wf = true := vecRun_wf _ _ _ _ _ h

theorem quantRun_wf (x : VecCtx) (len : Nat) (m : Mem) (h : m.wf = true) : (quantRun x len m).1.wf = true :=
  Mem.wf_writeBytes _ _ _ (Mem.wf_writeBytes _ _ _ (runPipe_wf _ _ _ _ _ _ _ _ _ h))

@[simp] theorem vecEffect_wf (x : VecCtx) (o len : Nat) (m : Mem) (h : m.wf = true) : (vecEffect x o len m).1.wf = true := by
  unfold vecEffect
  dsimp only
  split
  all_goals first | exact vecRun_wf _ _ _ _ _ h | exact vecRows_wf _ _ _ _ h | exact vecTwice_wf _ _ _ _ _ _ h | exact quantRun_wf _ _ _ h | exact h

@[simp] theorem writeWindow_wf (m : Mem) (base o : Nat) (l : List Byte) (h : m.wf = true) : (writeWindow m base o l).wf = true := by
  induction l generalizing m o with
  | nil => exact h
  | cons b l ih => exact ih _ _ (Mem.wf_setByte _ _ _ h)

@[simp] theorem writeRing_wf (m : Mem) (base off ring k : Nat) (l : List Byte) (h : m.wf = true) : (writeRing m base off ring k l).wf =
    true := by
  induction l generalizing m k with
  | nil => exact h
  | cons b l ih => exact ih _ _ (Mem.wf_setByte _ _ _ h)

theorem addRecords_wf (m : Mem) (dst : Nat) (bytes : List Byte) (n : Nat) (h : m.wf = true) :
    (addRecords m dst bytes n).1.wf = true := by
  induction n generalizing m dst bytes with
  | zero => cases bytes <;> exact h
  | succ n ih =>
    cases bytes with
    | nil => exact h
    | cons b bytes => exact ih _ _ _ (Mem.wf_writeBytes _ _ _ h)

@[simp] theorem addChunks_wf (lat src dst n left : Nat) (m : Mem) (pend : List (Nat × List Byte)) (k : Nat) (h : m.wf = true) :
    (addChunks lat src dst n left m pend k).1.wf = true := by
  induction n generalizing src dst left m pend k with
  | zero =>
    unfold addChunks
    refine Mem.wf_foldl_pair _ (fun s p hs => ?_) _ (m, k) h
    exact addRecords_wf _ _ _ _ hs
  | succ n ih =>
    unfold addChunks
    dsimp only
    apply ih
    split
    · split
      · exact addRecords_wf _ _ _ _ h
      · exact h
    · exact h

/-! ## Stores of the block -/

theorem Mems.wf_iff (m : Mems) : m.wf = true ↔ m.hbm.wf = true ∧ m.rstg.wf = true ∧ m.cstg.wf = true ∧ m.tiers.wf = true ∧
    m.ledger.wf = true ∧ m.flash.wf = true := by
  simp [Mems.wf, and_assoc]

theorem Chip.vaultMem_snd_wf (c : Chip) : c.vaultMem.2.wf = true ↔ c.mem.wf = true := Iff.rfl

@[simp] theorem overAll_vaultMem {α : Type} (l : List α) (f : Chip → α → Chip) (c : Chip)
    (h : ∀ c x, (f c x).vaultMem = c.vaultMem) : (overAll l f c).vaultMem = c.vaultMem := overAll_keep Chip.vaultMem l f c h

theorem overAll_wf {α : Type} (l : List α) (f : Chip → α → Chip) (c : Chip) (h : c.vaultMem.2.wf = true)
    (hf : ∀ c x, c.vaultMem.2.wf = true → (f c x).vaultMem.2.wf = true) : (overAll l f c).vaultMem.2.wf = true := by
  induction l generalizing c with
  | nil => exact h
  | cons x l ih => exact ih _ (hf c x h)

theorem foldl_wf {α : Type} (f : Chip → α → Chip) (l : List α) (c : Chip) (h : c.vaultMem.2.wf = true)
    (hf : ∀ c x, c.vaultMem.2.wf = true → (f c x).vaultMem.2.wf = true) : (l.foldl f c).vaultMem.2.wf = true := overAll_wf l f c h hf

theorem Chip.when_wf (c : Chip) (b : Bool) (f : Chip → Chip) (h : c.vaultMem.2.wf = true)
    (hf : ∀ c, c.vaultMem.2.wf = true → (f c).vaultMem.2.wf = true) : (c.when b f).vaultMem.2.wf = true := by
  cases b
  · exact h
  · exact hf c h

@[simp] theorem Mems.wf_mk (hbm rstg cstg tiers ledger flash : Mem) : (Mems.mk hbm rstg cstg tiers ledger flash).wf = true ↔
    hbm.wf = true ∧ rstg.wf = true ∧ cstg.wf = true ∧ tiers.wf = true ∧ ledger.wf = true ∧ flash.wf = true := Mems.wf_iff _

@[simp] theorem Chip.hbm_wf (c : Chip) (h : c.vaultMem.2.wf = true) : c.mem.hbm.wf = true := ((Mems.wf_iff _).mp h).1

@[simp] theorem Chip.rstg_wf (c : Chip) (h : c.vaultMem.2.wf = true) : c.mem.rstg.wf = true := ((Mems.wf_iff _).mp h).2.1

@[simp] theorem Chip.cstg_wf (c : Chip) (h : c.vaultMem.2.wf = true) : c.mem.cstg.wf = true := ((Mems.wf_iff _).mp h).2.2.1

@[simp] theorem Chip.tiers_wf (c : Chip) (h : c.vaultMem.2.wf = true) : c.mem.tiers.wf = true := ((Mems.wf_iff _).mp h).2.2.2.1

@[simp] theorem Chip.ledger_wf (c : Chip) (h : c.vaultMem.2.wf = true) : c.mem.ledger.wf = true := ((Mems.wf_iff _).mp h).2.2.2.2.1

@[simp] theorem Chip.flash_wf (c : Chip) (h : c.vaultMem.2.wf = true) : c.mem.flash.wf = true := ((Mems.wf_iff _).mp h).2.2.2.2.2


@[simp] theorem Chip.vecIssue_wf (c : Chip) (st : Site) (j : Job) (g lc core o : Nat) (op : VecOp) (p : Path) (hw : c.vaultMem.2.wf =
    true) : (Chip.vecIssue c st j g lc core o op p).vaultMem.2.wf = true := by
  unfold Chip.vecIssue
  repeat'
    first
    | with_reducible assumption
    | with_reducible refine overAll_wf _ _ _ ?_ (fun _ _ _ => ?_)
    | with_reducible refine foldl_wf _ _ _ ?_ (fun _ _ _ => ?_)
    | with_reducible refine Chip.when_wf _ _ _ ?_ (fun _ _ => ?_)
    | with_reducible refine Chip.hbm_wf _ ?_
    | split
    | simp [*]

@[simp] theorem Chip.drainIssue_wf (c : Chip) (st : Site) (j : Job) (g lc core : Nat) (op : DrainOp) (p : Path) (hw : c.vaultMem.2.wf =
    true) : (Chip.drainIssue c st j g lc core op p).vaultMem.2.wf = true := by
  unfold Chip.drainIssue
  repeat'
    first
    | with_reducible assumption
    | with_reducible refine overAll_wf _ _ _ ?_ (fun _ _ _ => ?_)
    | with_reducible refine foldl_wf _ _ _ ?_ (fun _ _ _ => ?_)
    | with_reducible refine Chip.when_wf _ _ _ ?_ (fun _ _ => ?_)
    | with_reducible refine Mem.wf_writeBytes _ _ _ ?_
    | with_reducible refine Chip.hbm_wf _ ?_
    | split
    | simp [*]

@[simp] theorem Chip.optIssue_wf (c : Chip) (st : Site) (j : Job) (g : Nat) (op : OptOp) (rds : List OptReading) (p : Path) (hw :
    c.vaultMem.2.wf = true) : (Chip.optIssue c st j g op rds p).vaultMem.2.wf = true := by
  unfold Chip.optIssue
  repeat'
    first
    | with_reducible assumption
    | with_reducible refine overAll_wf _ _ _ ?_ (fun _ _ _ => ?_)
    | with_reducible refine foldl_wf _ _ _ ?_ (fun _ _ _ => ?_)
    | with_reducible refine Chip.when_wf _ _ _ ?_ (fun _ _ => ?_)
    | with_reducible refine Mem.wf_writeBytes _ _ _ ?_
    | with_reducible refine Chip.hbm_wf _ ?_
    | split
    | simp [*]

@[simp] theorem Chip.h2r_wf (c : Chip) (st : Site) (j : Job) (g : Nat) (op : HbmMove) (p : Path) (hw : c.vaultMem.2.wf = true) :
    (Chip.h2r c st j g op p).vaultMem.2.wf = true := by
  unfold Chip.h2r
  repeat'
    first
    | with_reducible assumption
    | with_reducible refine overAll_wf _ _ _ ?_ (fun _ _ _ => ?_)
    | with_reducible refine foldl_wf _ _ _ ?_ (fun _ _ _ => ?_)
    | with_reducible refine Chip.when_wf _ _ _ ?_ (fun _ _ => ?_)
    | with_reducible refine Mem.wf_writeBytes _ _ _ ?_
    | with_reducible refine Chip.hbm_wf _ ?_
    | split
    | simp [*]

@[simp] theorem Chip.r2h_wf (c : Chip) (st : Site) (j : Job) (g : Nat) (op : HbmMove) (p : Path) (hw : c.vaultMem.2.wf = true) :
    (Chip.r2h c st j g op p).vaultMem.2.wf = true := by
  unfold Chip.r2h
  repeat'
    first
    | with_reducible assumption
    | with_reducible refine overAll_wf _ _ _ ?_ (fun _ _ _ => ?_)
    | with_reducible refine foldl_wf _ _ _ ?_ (fun _ _ _ => ?_)
    | with_reducible refine Chip.when_wf _ _ _ ?_ (fun _ _ => ?_)
    | with_reducible refine Chip.hbm_wf _ ?_
    | split
    | simp [*]

@[simp] theorem Chip.r2c_wf (c : Chip) (st : Site) (j : Job) (g core : Nat) (op : CopyMove) (p : Path) (hw : c.vaultMem.2.wf = true) :
    (Chip.r2c c st j g core op p).vaultMem.2.wf = true := by
  unfold Chip.r2c
  repeat'
    first
    | with_reducible assumption
    | with_reducible refine overAll_wf _ _ _ ?_ (fun _ _ _ => ?_)
    | with_reducible refine foldl_wf _ _ _ ?_ (fun _ _ _ => ?_)
    | with_reducible refine Chip.when_wf _ _ _ ?_ (fun _ _ => ?_)
    | with_reducible refine Mem.wf_writeBytes _ _ _ ?_
    | with_reducible refine Chip.hbm_wf _ ?_
    | split
    | simp [*]

@[simp] theorem Chip.c2r_wf (c : Chip) (st : Site) (j : Job) (g core : Nat) (op : CopyMove) (p : Path) (hw : c.vaultMem.2.wf = true) :
    (Chip.c2r c st j g core op p).vaultMem.2.wf = true := by
  unfold Chip.c2r
  repeat'
    first
    | with_reducible assumption
    | with_reducible refine overAll_wf _ _ _ ?_ (fun _ _ _ => ?_)
    | with_reducible refine foldl_wf _ _ _ ?_ (fun _ _ _ => ?_)
    | with_reducible refine Chip.when_wf _ _ _ ?_ (fun _ _ => ?_)
    | with_reducible refine Mem.wf_writeBytes _ _ _ ?_
    | with_reducible refine Chip.hbm_wf _ ?_
    | split
    | simp [*]

@[simp] theorem Chip.c2c_wf (c : Chip) (st : Site) (core : Nat) (op : CopyMove) (p : Path) (hw : c.vaultMem.2.wf = true) : (Chip.c2c c
    st core op p).vaultMem.2.wf = true := by
  unfold Chip.c2c
  repeat'
    first
    | with_reducible assumption
    | with_reducible refine overAll_wf _ _ _ ?_ (fun _ _ _ => ?_)
    | with_reducible refine foldl_wf _ _ _ ?_ (fun _ _ _ => ?_)
    | with_reducible refine Chip.when_wf _ _ _ ?_ (fun _ _ => ?_)
    | with_reducible refine Chip.hbm_wf _ ?_
    | split
    | simp [*]

@[simp] theorem Chip.r2r_wf (c : Chip) (st : Site) (j : Job) (g : Nat) (op : CopyMove) (p : Path) (hw : c.vaultMem.2.wf = true) :
    (Chip.r2r c st j g op p).vaultMem.2.wf = true := by
  unfold Chip.r2r
  repeat'
    first
    | with_reducible assumption
    | with_reducible refine overAll_wf _ _ _ ?_ (fun _ _ _ => ?_)
    | with_reducible refine foldl_wf _ _ _ ?_ (fun _ _ _ => ?_)
    | with_reducible refine Chip.when_wf _ _ _ ?_ (fun _ _ => ?_)
    | with_reducible refine Chip.hbm_wf _ ?_
    | split
    | simp [*]

@[simp] theorem Chip.exchange_wf (c : Chip) (opByte : Nat) (st : Site) (g core dcore : Nat) (op : XchOp) (p : Path) (hw :
    c.vaultMem.2.wf = true) : (Chip.exchange c opByte st g core dcore op p).vaultMem.2.wf = true := by
  unfold Chip.exchange
  repeat'
    first
    | with_reducible assumption
    | with_reducible refine overAll_wf _ _ _ ?_ (fun _ _ _ => ?_)
    | with_reducible refine foldl_wf _ _ _ ?_ (fun _ _ _ => ?_)
    | with_reducible refine Chip.when_wf _ _ _ ?_ (fun _ _ => ?_)
    | with_reducible refine Chip.hbm_wf _ ?_
    | split
    | simp [*]

@[simp] theorem Chip.replaceCore_wf (c : Chip) (core : Nat) (hw : c.vaultMem.2.wf = true) : (Chip.replaceCore c core).vaultMem.2.wf =
    true := by
  unfold Chip.replaceCore
  repeat'
    first
    | with_reducible assumption
    | with_reducible refine overAll_wf _ _ _ ?_ (fun _ _ _ => ?_)
    | with_reducible refine foldl_wf _ _ _ ?_ (fun _ _ _ => ?_)
    | with_reducible refine Chip.when_wf _ _ _ ?_ (fun _ _ => ?_)
    | with_reducible refine Mem.wf_writeBytes _ _ _ ?_
    | with_reducible refine Chip.hbm_wf _ ?_
    | split
    | simp [*]

@[simp] theorem Chip.lrecv_wf (c : Chip) (st : Site) (j : Job) (g : Nat) (op : LinkOp) (p : Path) (hw : c.vaultMem.2.wf = true) :
    (Chip.lrecv c st j g op p).vaultMem.2.wf = true := by
  unfold Chip.lrecv
  repeat'
    first
    | with_reducible assumption
    | with_reducible refine overAll_wf _ _ _ ?_ (fun _ _ _ => ?_)
    | with_reducible refine foldl_wf _ _ _ ?_ (fun _ _ _ => ?_)
    | with_reducible refine Chip.when_wf _ _ _ ?_ (fun _ _ => ?_)
    | with_reducible refine Mem.wf_writeBytes _ _ _ ?_
    | with_reducible refine Chip.hbm_wf _ ?_
    | split
    | simp [*]

@[simp] theorem Chip.remedy_wf (c : Chip) (r : Remedy) (hw : c.vaultMem.2.wf = true) : (Chip.remedy c r).vaultMem.2.wf = true := by
  unfold Chip.remedy
  repeat'
    first
    | with_reducible assumption
    | with_reducible refine overAll_wf _ _ _ ?_ (fun _ _ _ => ?_)
    | with_reducible refine foldl_wf _ _ _ ?_ (fun _ _ _ => ?_)
    | with_reducible refine Chip.when_wf _ _ _ ?_ (fun _ _ => ?_)
    | split
    | simp [*]

@[simp] theorem Chip.applyWhere_wf (c : Chip) (mine : Remedy → Bool) (hw : c.vaultMem.2.wf = true) : (Chip.applyWhere c
    mine).vaultMem.2.wf = true := by
  unfold Chip.applyWhere
  repeat'
    first
    | with_reducible assumption
    | with_reducible refine overAll_wf _ _ _ ?_ (fun _ _ _ => ?_)
    | with_reducible refine foldl_wf _ _ _ ?_ (fun _ _ _ => ?_)
    | with_reducible refine Chip.when_wf _ _ _ ?_ (fun _ _ => ?_)
    | split
    | simp [*]

@[simp] theorem Chip.applyRemedies_wf (c : Chip) (gs : List Nat) (hw : c.vaultMem.2.wf = true) : (Chip.applyRemedies c gs).vaultMem.2.wf
    = true := by
  unfold Chip.applyRemedies
  repeat'
    first
    | with_reducible assumption
    | with_reducible refine overAll_wf _ _ _ ?_ (fun _ _ _ => ?_)
    | with_reducible refine foldl_wf _ _ _ ?_ (fun _ _ _ => ?_)
    | with_reducible refine Chip.when_wf _ _ _ ?_ (fun _ _ => ?_)
    | with_reducible refine Chip.applyWhere_wf _ _ ?_
    | split
    | simp [*]

@[simp] theorem Chip.moveParked_wf (c : Chip) (g : Nat) (hw : c.vaultMem.2.wf = true) : (Chip.moveParked c g).vaultMem.2.wf = true := by
  unfold Chip.moveParked
  repeat'
    first
    | with_reducible assumption
    | with_reducible refine overAll_wf _ _ _ ?_ (fun _ _ _ => ?_)
    | with_reducible refine foldl_wf _ _ _ ?_ (fun _ _ _ => ?_)
    | with_reducible refine Chip.when_wf _ _ _ ?_ (fun _ _ => ?_)
    | with_reducible refine Chip.applyWhere_wf _ _ ?_
    | split
    | simp [*]

@[simp] theorem Chip.putCopy_wf (c : Chip) (T n : Nat) (image header : List Byte) (hw : c.vaultMem.2.wf = true) : (Chip.putCopy c T n
    image header).vaultMem.2.wf = true := by
  unfold Chip.putCopy
  have hm := (Mems.wf_iff _).mp hw
  exact (Mems.wf_iff _).mpr ⟨Mem.wf_writeBytes _ _ _ (Mem.wf_writeBytes _ _ _ hm.1), hm.2⟩

@[simp] theorem Chip.repairCopy_wf (c : Chip) (T n : Nat) (image header : List Byte) (hw : c.vaultMem.2.wf = true) : (Chip.repairCopy c
    T n image header).vaultMem.2.wf = true := by
  unfold Chip.repairCopy
  repeat'
    first
    | with_reducible assumption
    | with_reducible refine overAll_wf _ _ _ ?_ (fun _ _ _ => ?_)
    | with_reducible refine foldl_wf _ _ _ ?_ (fun _ _ _ => ?_)
    | with_reducible refine Chip.when_wf _ _ _ ?_ (fun _ _ => ?_)
    | with_reducible refine Chip.putCopy_wf _ _ _ _ _ ?_
    | split
    | simp [*]

@[simp] theorem Chip.readLedger_wf (c : Chip) (bad : List LedgerMiss) (T : Nat) (hw : c.vaultMem.2.wf = true) : (Chip.readLedger c bad
    T).1.vaultMem.2.wf = true := by
  unfold Chip.readLedger
  have h0 : (c.readCopy bad T 0).1.vaultMem.2.wf = true := by rw [Chip.readCopy_vaultMem]; exact hw
  generalize c.readCopy bad T 0 = r0 at h0
  obtain ⟨c0, g0⟩ := r0
  dsimp only at h0 ⊢
  split
  · exact h0
  have h1 : (c0.readCopy bad T 1).1.vaultMem.2.wf = true := by rw [Chip.readCopy_vaultMem]; exact h0
  generalize c0.readCopy bad T 1 = r1 at h1
  obtain ⟨c1, g1⟩ := r1
  dsimp only at h1 ⊢
  repeat'
    first
    | with_reducible assumption
    | with_reducible refine Chip.when_wf _ _ _ ?_ (fun _ _ => ?_)
    | with_reducible refine Chip.repairCopy_wf _ _ _ _ _ ?_
    | split
    | simp [*]

@[simp] theorem Chip.readTiers_wf (c : Chip) (bad : List LedgerMiss) (a : Nat) (l : List (Fin 64)) (h : c.vaultMem.2.wf = true) :
    (c.readTiers bad a l).1.vaultMem.2.wf = true := by
  induction l generalizing c with
  | nil => exact h
  | cons t l ih =>
    have h1 := Chip.readLedger_wf c bad (tierKey a t.val) h
    unfold Chip.readTiers
    dsimp only
    split
    · exact h1
    · exact ih _ h1

@[simp] theorem Chip.repairFrom_wf (c : Chip) (T n : Nat) (hw : c.vaultMem.2.wf = true) : (Chip.repairFrom c T n).vaultMem.2.wf = true := by
  unfold Chip.repairFrom
  repeat'
    first
    | with_reducible assumption
    | with_reducible refine overAll_wf _ _ _ ?_ (fun _ _ _ => ?_)
    | with_reducible refine foldl_wf _ _ _ ?_ (fun _ _ _ => ?_)
    | with_reducible refine Chip.when_wf _ _ _ ?_ (fun _ _ => ?_)
    | with_reducible refine Chip.repairCopy_wf _ _ _ _ _ ?_
    | with_reducible refine Chip.hbm_wf _ ?_
    | split
    | simp [*]

@[simp] theorem Chip.rebuildCopies_wf (c : Chip) (s : Nat) (tiers : List Nat) (hw : c.vaultMem.2.wf = true) : (Chip.rebuildCopies c s
    tiers).vaultMem.2.wf = true := by
  unfold Chip.rebuildCopies
  repeat'
    first
    | with_reducible assumption
    | with_reducible refine overAll_wf _ _ _ ?_ (fun _ _ _ => ?_)
    | with_reducible refine foldl_wf _ _ _ ?_ (fun _ _ _ => ?_)
    | with_reducible refine Chip.when_wf _ _ _ ?_ (fun _ _ => ?_)
    | with_reducible refine Chip.repairFrom_wf _ _ _ ?_
    | split
    | simp [*]

@[simp] theorem Chip.fillShadow_wf (c : Chip) (bad : List LedgerMiss) (core base n : Nat) (hw : c.vaultMem.2.wf = true) :
    (Chip.fillShadow c bad core base n).vaultMem.2.wf = true := by
  unfold Chip.fillShadow
  dsimp only
  have h1 := Chip.readTiers_wf c bad (look {} (c.core core).table n).array (c.liveTiers (look {} (c.core core).table n).array) hw
  generalize c.readTiers bad (look {} (c.core core).table n).array (c.liveTiers (look {} (c.core core).table n).array) = r at h1
  obtain ⟨d, l⟩ := r
  cases l with
  | none => simpa using h1
  | some l =>
    have hm := (Mems.wf_iff _).mp h1
    simp only [Chip.upCore_vaultMem, Chip.vaultMem_mk, Mems.wf_mk]
    exact ⟨Mem.wf_writeBytes _ _ _ hm.1, hm.2⟩

@[simp] theorem Chip.fillShadows_wf (c : Chip) (bad : List LedgerMiss) (core : Nat) (hw : c.vaultMem.2.wf = true) : (Chip.fillShadows c
    bad core).vaultMem.2.wf = true := by
  unfold Chip.fillShadows
  repeat'
    first
    | with_reducible assumption
    | with_reducible refine overAll_wf _ _ _ ?_ (fun _ _ _ => ?_)
    | with_reducible refine foldl_wf _ _ _ ?_ (fun _ _ _ => ?_)
    | with_reducible refine Chip.when_wf _ _ _ ?_ (fun _ _ => ?_)
    | split
    | simp [*]

@[simp] theorem Chip.strokeBoundary_wf (c : Chip) (g : Nat) (misses : List (Fin 136 × Nat)) (bad : List LedgerMiss) (hw :
    c.vaultMem.2.wf = true) : (Chip.strokeBoundary c g misses bad).vaultMem.2.wf = true := by
  unfold Chip.strokeBoundary
  repeat'
    first
    | with_reducible assumption
    | with_reducible refine overAll_wf _ _ _ ?_ (fun _ _ _ => ?_)
    | with_reducible refine foldl_wf _ _ _ ?_ (fun _ _ _ => ?_)
    | with_reducible refine Chip.when_wf _ _ _ ?_ (fun _ _ => ?_)
    | with_reducible refine Chip.applyRemedies_wf _ _ ?_
    | with_reducible refine Chip.fillShadows_wf _ _ _ ?_
    | with_reducible refine Chip.moveParked_wf _ _ ?_
    | split
    | simp [*]

@[simp] theorem Chip.jobRemedies_wf (c : Chip) (j : Job) (hw : c.vaultMem.2.wf = true) : (Chip.jobRemedies c j).vaultMem.2.wf = true := by
  unfold Chip.jobRemedies
  repeat'
    first
    | with_reducible assumption
    | with_reducible refine overAll_wf _ _ _ ?_ (fun _ _ _ => ?_)
    | with_reducible refine foldl_wf _ _ _ ?_ (fun _ _ _ => ?_)
    | with_reducible refine Chip.when_wf _ _ _ ?_ (fun _ _ => ?_)
    | with_reducible refine Chip.applyRemedies_wf _ _ ?_
    | split
    | simp [*]

@[simp] theorem Chip.rerowLimit_wf (c : Chip) (j : Job) (hw : c.vaultMem.2.wf = true) : (Chip.rerowLimit c j).vaultMem.2.wf = true := by
  unfold Chip.rerowLimit
  repeat'
    first
    | with_reducible assumption
    | with_reducible refine overAll_wf _ _ _ ?_ (fun _ _ _ => ?_)
    | with_reducible refine foldl_wf _ _ _ ?_ (fun _ _ _ => ?_)
    | with_reducible refine Chip.when_wf _ _ _ ?_ (fun _ _ => ?_)
    | split
    | simp [*]

@[simp] theorem Chip.rerowJob_wf (c : Chip) (j : Job) (hw : c.vaultMem.2.wf = true) : (Chip.rerowJob c j).vaultMem.2.wf = true := by
  unfold Chip.rerowJob
  repeat'
    first
    | with_reducible assumption
    | with_reducible refine overAll_wf _ _ _ ?_ (fun _ _ _ => ?_)
    | with_reducible refine foldl_wf _ _ _ ?_ (fun _ _ _ => ?_)
    | with_reducible refine Chip.when_wf _ _ _ ?_ (fun _ _ => ?_)
    | split
    | simp [*]

@[simp] theorem Chip.cmdProgram_wf (c : Chip) (a : Nat) (tier : Fin 64) (int4 sourceBad : Bool) (hw : c.vaultMem.2.wf = true) :
    (Chip.cmdProgram c a tier int4 sourceBad).vaultMem.2.wf = true := by
  unfold Chip.cmdProgram
  split
  · simp [hw]
  · dsimp only
    generalize readBytes c.mem.hbm _ 16384 = image
    generalize ledgerHeader _ _ _ _ _ _ = header
    rw [Chip.progAnswer_vaultMem, Chip.upArr_vaultMem, Chip.upTier_vaultMem]
    have h2 : (((c.putCopy (tierKey a tier.val) 0 image header).putCopy (tierKey a tier.val) 1 image header).clearTier a
        tier).vaultMem.2.wf = true := by
      rw [Chip.clearTier_vaultMem]
      exact Chip.putCopy_wf _ _ _ _ _ (Chip.putCopy_wf _ _ _ _ _ hw)
    have hm := (Mems.wf_iff _).mp h2
    simp only [Chip.vaultMem_mk, Mems.wf_mk]
    exact ⟨hm.1, hm.2.1, hm.2.2.1, Mem.wf_writeBytes _ _ _ hm.2.2.2.1,
      Mem.wf_writeBytes _ _ _ (Mem.wf_writeBytes _ _ _ hm.2.2.2.2.1), hm.2.2.2.2.2⟩

theorem Verify.foldl_wf (a : Nat) (tier : Fin 64) (int4 : Bool) (l : List FailedCell) (v : Verify)
    (h : v.chip.vaultMem.2.wf = true) : (l.foldl (Verify.cell a tier int4) v).chip.vaultMem.2.wf = true := by
  induction l generalizing v with
  | nil => exact h
  | cons f l ih =>
    refine ih _ ?_
    unfold Verify.cell
    repeat' first | split | simp [h]

@[simp] theorem Chip.programDone_wf (c : Chip) (a : Nat) (failed : List FailedCell) (hw : c.vaultMem.2.wf = true) : (Chip.programDone c
    a failed).vaultMem.2.wf = true := by
  unfold Chip.programDone
  repeat'
    first
    | with_reducible assumption
    | with_reducible refine overAll_wf _ _ _ ?_ (fun _ _ _ => ?_)
    | with_reducible refine foldl_wf _ _ _ ?_ (fun _ _ _ => ?_)
    | with_reducible refine Chip.when_wf _ _ _ ?_ (fun _ _ => ?_)
    | with_reducible refine Verify.foldl_wf _ _ _ _ _ ?_
    | with_reducible refine Mem.wf_writeBytes _ _ _ ?_
    | with_reducible refine Chip.hbm_wf _ ?_
    | split
    | simp [*]

@[simp] theorem Chip.plotCopyDone_wf (c : Chip) (bad : List LedgerMiss) (a i : Nat) (hw : c.vaultMem.2.wf = true) : (Chip.plotCopyDone c
    bad a i).vaultMem.2.wf = true := by
  unfold Chip.plotCopyDone
  repeat'
    first
    | with_reducible assumption
    | with_reducible refine overAll_wf _ _ _ ?_ (fun _ _ _ => ?_)
    | with_reducible refine foldl_wf _ _ _ ?_ (fun _ _ _ => ?_)
    | with_reducible refine Chip.when_wf _ _ _ ?_ (fun _ _ => ?_)
    | split
    | simp [*]

@[simp] theorem Chip.cellCopyDone_wf (c : Chip) (bad : List LedgerMiss) (a : Nat) (hw : c.vaultMem.2.wf = true) : (Chip.cellCopyDone c
    bad a).vaultMem.2.wf = true := by
  unfold Chip.cellCopyDone
  repeat'
    first
    | with_reducible assumption
    | with_reducible refine overAll_wf _ _ _ ?_ (fun _ _ _ => ?_)
    | with_reducible refine foldl_wf _ _ _ ?_ (fun _ _ _ => ?_)
    | with_reducible refine Chip.when_wf _ _ _ ?_ (fun _ _ => ?_)
    | with_reducible refine Mem.wf_writeBytes _ _ _ ?_
    | with_reducible refine Chip.hbm_wf _ ?_
    | split
    | simp [*]

@[simp] theorem Chip.dropChannels_wf (c : Chip) (s : Nat) (hw : c.vaultMem.2.wf = true) : (Chip.dropChannels c s).vaultMem.2.wf = true := by
  unfold Chip.dropChannels
  repeat'
    first
    | with_reducible assumption
    | with_reducible refine overAll_wf _ _ _ ?_ (fun _ _ _ => ?_)
    | with_reducible refine foldl_wf _ _ _ ?_ (fun _ _ _ => ?_)
    | with_reducible refine Chip.when_wf _ _ _ ?_ (fun _ _ => ?_)
    | with_reducible refine Mem.wf_zeroBytes _ _ _ ?_
    | with_reducible refine Chip.hbm_wf _ ?_
    | split
    | simp [*]

@[simp] theorem Chip.degrade_wf (c : Chip) (s : Nat) (hw : c.vaultMem.2.wf = true) : (Chip.degrade c s).vaultMem.2.wf = true := by
  unfold Chip.degrade
  repeat'
    first
    | with_reducible assumption
    | with_reducible refine overAll_wf _ _ _ ?_ (fun _ _ _ => ?_)
    | with_reducible refine foldl_wf _ _ _ ?_ (fun _ _ _ => ?_)
    | with_reducible refine Chip.when_wf _ _ _ ?_ (fun _ _ => ?_)
    | with_reducible refine Chip.rebuildCopies_wf _ _ _ ?_
    | with_reducible refine Chip.dropChannels_wf _ _ ?_
    | with_reducible refine Chip.hbm_wf _ ?_
    | split
    | simp [*]

@[simp] theorem Chip.writeData_wf (c : Chip) (off : Nat) (bytes : List Byte) (hw : c.vaultMem.2.wf = true) : (Chip.writeData c off
    bytes).vaultMem.2.wf = true := by
  unfold Chip.writeData
  repeat'
    first
    | with_reducible assumption
    | with_reducible refine overAll_wf _ _ _ ?_ (fun _ _ _ => ?_)
    | with_reducible refine foldl_wf _ _ _ ?_ (fun _ _ _ => ?_)
    | with_reducible refine Chip.when_wf _ _ _ ?_ (fun _ _ => ?_)
    | with_reducible refine Chip.hbm_wf _ ?_
    | split
    | simp [*]

@[simp] theorem Chip.putCore_wf (c : Chip) (g lc staging : Nat) (b : List Byte) (hw : c.vaultMem.2.wf = true) : (Chip.putCore c g lc
    staging b).vaultMem.2.wf = true := by
  unfold Chip.putCore
  repeat'
    first
    | with_reducible assumption
    | with_reducible refine overAll_wf _ _ _ ?_ (fun _ _ _ => ?_)
    | with_reducible refine foldl_wf _ _ _ ?_ (fun _ _ _ => ?_)
    | with_reducible refine Chip.when_wf _ _ _ ?_ (fun _ _ => ?_)
    | with_reducible refine Mem.wf_writeBytes _ _ _ ?_
    | with_reducible refine Chip.hbm_wf _ ?_
    | split
    | simp [*]

theorem foldl_fst_wf {α β : Type} (f : Chip × β → α → Chip × β) (l : List α) (s : Chip × β) (h : s.1.vaultMem.2.wf = true)
    (hf : ∀ s x, s.1.vaultMem.2.wf = true → (f s x).1.vaultMem.2.wf = true) : (l.foldl f s).1.vaultMem.2.wf = true := by
  induction l generalizing s with
  | nil => exact h
  | cons x l ih => exact ih _ (hf s x h)

@[simp] theorem Chip.restore_wf (c : Chip) (j : Job) (i : Image) (r : List Byte) (hw : c.vaultMem.2.wf = true) : (Chip.restore c j i
    r).vaultMem.2.wf = true := by
  unfold Chip.restore
  dsimp only
  refine foldl_fst_wf _ _ _ (foldl_fst_wf _ _ _ hw ?_) ?_
  · intro s x hs
    split
    · simp [hs]
    · exact hs
  · intro s x hs
    refine foldl_fst_wf _ _ _ hs ?_
    intro s y hs
    split
    · exact hs
    · split
      · exact Chip.putCore_wf _ _ _ _ _ hs
      · exact hs

@[simp] theorem Chip.place_wf (c : Chip) (j : Job) (i : Image) (m : List (Nat × Nat)) (mode : Mode) (r : Option (List Byte)) (hw :
    c.vaultMem.2.wf = true) : (Chip.place c j i m mode r).vaultMem.2.wf = true := by
  unfold Chip.place
  repeat'
    first
    | with_reducible assumption
    | with_reducible refine overAll_wf _ _ _ ?_ (fun _ _ _ => ?_)
    | with_reducible refine foldl_wf _ _ _ ?_ (fun _ _ _ => ?_)
    | with_reducible refine Chip.when_wf _ _ _ ?_ (fun _ _ => ?_)
    | with_reducible refine Chip.restore_wf _ _ _ _ ?_
    | split
    | simp [*]

@[simp] theorem Chip.consider_wf (c : Chip) (j : Job) (hw : c.vaultMem.2.wf = true) : (Chip.consider c j).vaultMem.2.wf = true := by
  unfold Chip.consider
  repeat'
    first
    | with_reducible assumption
    | with_reducible refine overAll_wf _ _ _ ?_ (fun _ _ _ => ?_)
    | with_reducible refine foldl_wf _ _ _ ?_ (fun _ _ _ => ?_)
    | with_reducible refine Chip.when_wf _ _ _ ?_ (fun _ _ => ?_)
    | split
    | simp [*]

@[simp] theorem Chip.saveJob_wf (c : Chip) (j : Job) (i : Image) (p : PauseReq) (hw : c.vaultMem.2.wf = true) : (Chip.saveJob c j i
    p).vaultMem.2.wf = true := by
  unfold Chip.saveJob
  repeat'
    first
    | with_reducible assumption
    | with_reducible refine overAll_wf _ _ _ ?_ (fun _ _ _ => ?_)
    | with_reducible refine foldl_wf _ _ _ ?_ (fun _ _ _ => ?_)
    | with_reducible refine Chip.when_wf _ _ _ ?_ (fun _ _ => ?_)
    | split
    | simp [*]

@[simp] theorem Chip.zeroCores_wf (c : Chip) (g : Nat) (express other : Bool) (hw : c.vaultMem.2.wf = true) : (Chip.zeroCores c g
    express other).vaultMem.2.wf = true := by
  unfold Chip.zeroCores
  repeat'
    first
    | with_reducible assumption
    | with_reducible refine overAll_wf _ _ _ ?_ (fun _ _ _ => ?_)
    | with_reducible refine foldl_wf _ _ _ ?_ (fun _ _ _ => ?_)
    | with_reducible refine Chip.when_wf _ _ _ ?_ (fun _ _ => ?_)
    | with_reducible refine Chip.hbm_wf _ ?_
    | split
    | simp [*]

@[simp] theorem Chip.zeroDone_wf (c : Chip) (g : Nat) (hw : c.vaultMem.2.wf = true) : (Chip.zeroDone c g).vaultMem.2.wf = true := by
  unfold Chip.zeroDone
  repeat'
    first
    | with_reducible assumption
    | with_reducible refine overAll_wf _ _ _ ?_ (fun _ _ _ => ?_)
    | with_reducible refine foldl_wf _ _ _ ?_ (fun _ _ _ => ?_)
    | with_reducible refine Chip.when_wf _ _ _ ?_ (fun _ _ => ?_)
    | with_reducible refine Chip.zeroCores_wf _ _ _ _ ?_
    | with_reducible refine Mem.wf_zeroBytes _ _ _ ?_
    | with_reducible refine Chip.hbm_wf _ ?_
    | split
    | simp [*]

@[simp] theorem Chip.putSegment_wf (c : Chip) (h : Hdr) (l : Load) (data : List Byte) (hw : c.vaultMem.2.wf = true) : (Chip.putSegment c
    h l data).vaultMem.2.wf = true := by
  unfold Chip.putSegment
  repeat'
    first
    | with_reducible assumption
    | with_reducible refine overAll_wf _ _ _ ?_ (fun _ _ _ => ?_)
    | with_reducible refine foldl_wf _ _ _ ?_ (fun _ _ _ => ?_)
    | with_reducible refine Chip.when_wf _ _ _ ?_ (fun _ _ => ?_)
    | split
    | simp [*]

@[simp] theorem Chip.segment_wf (c : Chip) (h : Hdr) (segLen base off : Nat) (data : List Byte) (hw : c.vaultMem.2.wf = true) :
    (Chip.segment c h segLen base off data).vaultMem.2.wf = true := by
  unfold Chip.segment
  repeat'
    first
    | with_reducible assumption
    | with_reducible refine overAll_wf _ _ _ ?_ (fun _ _ _ => ?_)
    | with_reducible refine foldl_wf _ _ _ ?_ (fun _ _ _ => ?_)
    | with_reducible refine Chip.when_wf _ _ _ ?_ (fun _ _ => ?_)
    | with_reducible refine Chip.putSegment_wf _ _ _ _ ?_
    | split
    | simp [*]

@[simp] theorem Chip.writeInput_wf (c : Chip) (h : Hdr) (len off : Nat) (data : List Byte) (code : HbmCode) (hw : c.vaultMem.2.wf =
    true) : (Chip.writeInput c h len off data code).vaultMem.2.wf = true := by
  unfold Chip.writeInput
  repeat'
    first
    | with_reducible assumption
    | with_reducible refine overAll_wf _ _ _ ?_ (fun _ _ _ => ?_)
    | with_reducible refine foldl_wf _ _ _ ?_ (fun _ _ _ => ?_)
    | with_reducible refine Chip.when_wf _ _ _ ?_ (fun _ _ => ?_)
    | with_reducible refine Chip.hbm_wf _ ?_
    | split
    | simp [*]

@[simp] theorem Chip.fleetRerow_wf (c : Chip) (j : Job) (x : Nat) (hw : c.vaultMem.2.wf = true) : (Chip.fleetRerow c j x).vaultMem.2.wf
    = true := by
  unfold Chip.fleetRerow
  repeat'
    first
    | with_reducible assumption
    | with_reducible refine overAll_wf _ _ _ ?_ (fun _ _ _ => ?_)
    | with_reducible refine foldl_wf _ _ _ ?_ (fun _ _ _ => ?_)
    | with_reducible refine Chip.when_wf _ _ _ ?_ (fun _ _ => ?_)
    | split
    | simp [*]

@[simp] theorem Chip.salvageJob_wf (c : Chip) (j : Job) (i : Image) (hw : c.vaultMem.2.wf = true) : (Chip.salvageJob c j
    i).vaultMem.2.wf = true := by
  unfold Chip.salvageJob
  repeat'
    first
    | with_reducible assumption
    | with_reducible refine overAll_wf _ _ _ ?_ (fun _ _ _ => ?_)
    | with_reducible refine foldl_wf _ _ _ ?_ (fun _ _ _ => ?_)
    | with_reducible refine Chip.when_wf _ _ _ ?_ (fun _ _ => ?_)
    | split
    | simp [*]

@[simp] theorem Chip.halt_wf (c : Chip) (hw : c.vaultMem.2.wf = true) : (Chip.halt c).vaultMem.2.wf = true := by
  unfold Chip.halt
  repeat'
    first
    | with_reducible assumption
    | with_reducible refine overAll_wf _ _ _ ?_ (fun _ _ _ => ?_)
    | with_reducible refine foldl_wf _ _ _ ?_ (fun _ _ _ => ?_)
    | with_reducible refine Chip.when_wf _ _ _ ?_ (fun _ _ => ?_)
    | with_reducible refine Chip.hbm_wf _ ?_
    | with_reducible refine ⟨Chip.rstg_wf _ ?_, Chip.cstg_wf _ ?_, Chip.tiers_wf _ ?_, Chip.ledger_wf _ ?_, Chip.flash_wf _ ?_⟩
    | split
    | simp [*]

@[simp] theorem Chip.refclkLost_wf (c : Chip) (hw : c.vaultMem.2.wf = true) : (Chip.refclkLost c).vaultMem.2.wf = true := by
  unfold Chip.refclkLost
  repeat'
    first
    | with_reducible assumption
    | with_reducible refine overAll_wf _ _ _ ?_ (fun _ _ _ => ?_)
    | with_reducible refine foldl_wf _ _ _ ?_ (fun _ _ _ => ?_)
    | with_reducible refine Chip.when_wf _ _ _ ?_ (fun _ _ => ?_)
    | split
    | simp [*]

@[simp] theorem Chip.flashAfterLoss_wf (c : Chip) (h : c.vaultMem.2.wf = true) : c.flashAfterLoss.wf = true := by
  unfold Chip.flashAfterLoss
  split <;> simp [h]

@[simp] theorem Chip.mainLoss_wf (c : Chip) (hw : c.vaultMem.2.wf = true) : (Chip.mainLoss c).vaultMem.2.wf = true := by
  unfold Chip.mainLoss
  repeat'
    first
    | with_reducible assumption
    | with_reducible refine overAll_wf _ _ _ ?_ (fun _ _ _ => ?_)
    | with_reducible refine foldl_wf _ _ _ ?_ (fun _ _ _ => ?_)
    | with_reducible refine Chip.when_wf _ _ _ ?_ (fun _ _ => ?_)
    | with_reducible refine Chip.hbm_wf _ ?_
    | split
    | simp [*]

@[simp] theorem Chip.powerOff_wf (c : Chip) (hw : c.vaultMem.2.wf = true) : (Chip.powerOff c).vaultMem.2.wf = true := by
  unfold Chip.powerOff
  repeat'
    first
    | with_reducible assumption
    | with_reducible refine overAll_wf _ _ _ ?_ (fun _ _ _ => ?_)
    | with_reducible refine foldl_wf _ _ _ ?_ (fun _ _ _ => ?_)
    | with_reducible refine Chip.when_wf _ _ _ ?_ (fun _ _ => ?_)
    | with_reducible refine Chip.hbm_wf _ ?_
    | split
    | simp [*]

@[simp] theorem Chip.cmdConfigWrite_wf (c : Chip) (hw : c.vaultMem.2.wf = true) : (Chip.cmdConfigWrite c).vaultMem.2.wf = true := by
  unfold Chip.cmdConfigWrite
  repeat'
    first
    | with_reducible assumption
    | with_reducible refine overAll_wf _ _ _ ?_ (fun _ _ _ => ?_)
    | with_reducible refine foldl_wf _ _ _ ?_ (fun _ _ _ => ?_)
    | with_reducible refine Chip.when_wf _ _ _ ?_ (fun _ _ => ?_)
    | with_reducible refine Mem.wf_writeBytes _ _ _ ?_
    | with_reducible refine Chip.hbm_wf _ ?_
    | split
    | simp [*]

@[simp] theorem Chip.attestDone_wf (c : Chip) (hw : c.vaultMem.2.wf = true) : (Chip.attestDone c).vaultMem.2.wf = true := by
  unfold Chip.attestDone
  repeat'
    first
    | with_reducible assumption
    | with_reducible refine overAll_wf _ _ _ ?_ (fun _ _ _ => ?_)
    | with_reducible refine foldl_wf _ _ _ ?_ (fun _ _ _ => ?_)
    | with_reducible refine Chip.when_wf _ _ _ ?_ (fun _ _ => ?_)
    | with_reducible refine Chip.hbm_wf _ ?_
    | split
    | simp [*]

@[simp] theorem Chip.restoreCopies_wf (c : Chip) (T : Nat) (hw : c.vaultMem.2.wf = true) : (Chip.restoreCopies c T).vaultMem.2.wf = true
    := by
  unfold Chip.restoreCopies
  repeat'
    first
    | with_reducible assumption
    | with_reducible refine overAll_wf _ _ _ ?_ (fun _ _ _ => ?_)
    | with_reducible refine foldl_wf _ _ _ ?_ (fun _ _ _ => ?_)
    | with_reducible refine Chip.when_wf _ _ _ ?_ (fun _ _ => ?_)
    | with_reducible refine Chip.putCopy_wf _ _ _ _ _ ?_
    | with_reducible refine Chip.hbm_wf _ ?_
    | split
    | simp [*]

@[simp] theorem Chip.rebuildTable_wf (bad : List LedgerMiss) (c : Chip) (T : Nat) (hw : c.vaultMem.2.wf = true) : (Chip.rebuildTable bad
    c T).vaultMem.2.wf = true := by
  unfold Chip.rebuildTable
  repeat'
    first
    | with_reducible assumption
    | with_reducible refine overAll_wf _ _ _ ?_ (fun _ _ _ => ?_)
    | with_reducible refine foldl_wf _ _ _ ?_ (fun _ _ _ => ?_)
    | with_reducible refine Chip.when_wf _ _ _ ?_ (fun _ _ => ?_)
    | with_reducible refine Mem.wf_writeBytes _ _ _ ?_
    | with_reducible refine Chip.hbm_wf _ ?_
    | split
    | simp [*]

@[simp] theorem Chip.memoryPhase_wf (c : Chip) (failed : List (Fin 8 × Fin 32)) (bank0 bank1 : BankState) (bad : List LedgerMiss) (hw :
    c.vaultMem.2.wf = true) : (Chip.memoryPhase c failed bank0 bank1 bad).vaultMem.2.wf = true := by
  unfold Chip.memoryPhase
  repeat'
    first
    | with_reducible assumption
    | with_reducible refine overAll_wf _ _ _ ?_ (fun _ _ _ => ?_)
    | with_reducible refine foldl_wf _ _ _ ?_ (fun _ _ _ => ?_)
    | with_reducible refine Chip.when_wf _ _ _ ?_ (fun _ _ => ?_)
    | with_reducible refine Chip.restore_wf _ _ _ _ ?_
    | with_reducible refine Chip.dropChannels_wf _ _ ?_
    | with_reducible refine Chip.hbm_wf _ ?_
    | split
    | simp [*]

@[simp] theorem Chip.lightPhase_wf (c : Chip) (failedLasers : List LaserRef) (failedBanks : List BankRef) (hw : c.vaultMem.2.wf = true)
    : (Chip.lightPhase c failedLasers failedBanks).vaultMem.2.wf = true := by
  unfold Chip.lightPhase
  repeat'
    first
    | with_reducible assumption
    | with_reducible refine overAll_wf _ _ _ ?_ (fun _ _ _ => ?_)
    | with_reducible refine foldl_wf _ _ _ ?_ (fun _ _ _ => ?_)
    | with_reducible refine Chip.when_wf _ _ _ ?_ (fun _ _ => ?_)
    | with_reducible refine Chip.applyRemedies_wf _ _ ?_
    | split
    | simp [*]

@[simp] theorem Chip.cmdOwner_wf (c : Chip) (hw : c.vaultMem.2.wf = true) : c.cmdOwner.vaultMem.2.wf = true := by
  unfold Chip.cmdOwner
  repeat' first | split | simp [hw]
  all_goals exact hw

theorem forall_some_wf (e : Chip) : (∀ d, some e = some d → d.vaultMem.2.wf = true) ↔ e.vaultMem.2.wf = true := by
  simp

theorem forall_ite_wf {p : Prop} [Decidable p] {x y : Option Chip} (hx : ∀ d, x = some d → d.vaultMem.2.wf = true)
    (hy : ∀ d, y = some d → d.vaultMem.2.wf = true) : ∀ d, (if p then x else y) = some d → d.vaultMem.2.wf = true := by
  split
  · exact hx
  · exact hy

theorem forall_none_wf : ∀ d : Chip, none = some d → d.vaultMem.2.wf = true := by
  simp

theorem Chip.commandChip_wf (c : Chip) (a : Nat) (v : Word) (h : c.vaultMem.2.wf = true) :
    ∀ d, c.commandChip a v = some d → d.vaultMem.2.wf = true := by
  unfold Chip.commandChip
  dsimp only
  repeat' with_reducible refine forall_ite_wf ?_ ?_
  all_goals first | with_reducible exact forall_none_wf | rw [forall_some_wf] | skip
  all_goals repeat' first | (simp [h]; done) | with_reducible exact forall_none_wf | rw [forall_some_wf] | split | (with_reducible refine forall_ite_wf ?_ ?_)

theorem Chip.commandPort_wf (c : Chip) (p o : Nat) (v : Word) (h : c.vaultMem.2.wf = true) :
    ∀ d, c.commandPort p o v = some d → d.vaultMem.2.wf = true := by
  unfold Chip.commandPort
  dsimp only
  repeat' with_reducible refine forall_ite_wf ?_ ?_
  all_goals first | with_reducible exact forall_none_wf | rw [forall_some_wf] | skip
  all_goals repeat' first | (simp [h]; done) | with_reducible exact forall_none_wf | rw [forall_some_wf] | split | (with_reducible refine forall_ite_wf ?_ ?_)

theorem Chip.commandRegion_wf (c : Chip) (g o : Nat) (v : Word) (h : c.vaultMem.2.wf = true) :
    ∀ d, c.commandRegion g o v = some d → d.vaultMem.2.wf = true := by
  unfold Chip.commandRegion
  dsimp only
  repeat' with_reducible refine forall_ite_wf ?_ ?_
  all_goals first | with_reducible exact forall_none_wf | rw [forall_some_wf] | skip
  all_goals repeat' first | (simp [h]; done) | with_reducible exact forall_none_wf | rw [forall_some_wf] | split | (with_reducible refine forall_ite_wf ?_ ?_)

@[simp] theorem Chip.writeReg_wf (c : Chip) (a : Nat) (v : Word) (h : c.vaultMem.2.wf = true) : (c.writeReg a v).vaultMem.2.wf = true := by
  unfold Chip.writeReg
  dsimp only
  generalize hx : (if a % 4 ≠ 0 then none else if a < 0x100000 then c.commandChip a v else if a < 0x200000 then
    c.commandPort (a / 0x10000 % 16) (a % 0x10000) v else if 0x1000000 ≤ a ∧ a < 0x2000000 then
    c.commandRegion (a / 0x100000 % 16) (a % 0x100000) v else none : Option Chip) = x
  cases x with
  | none => simp [h]
  | some d =>
    show d.vaultMem.2.wf = true
    split at hx
    · cases hx
    · split at hx
      · exact Chip.commandChip_wf c a v h d hx
      · split at hx
        · exact Chip.commandPort_wf c _ _ v h d hx
        · split at hx
          · exact Chip.commandRegion_wf c _ _ v h d hx
          · cases hx

@[simp] theorem Chip.writeRegs_wf (c : Chip) (a : Nat) (l : List Word) (h : c.vaultMem.2.wf = true) :
    (c.writeRegs a l).vaultMem.2.wf = true := by
  induction l generalizing c a with
  | nil => exact h
  | cons v l ih => exact ih _ _ (Chip.writeReg_wf c a v h)

@[simp] theorem Chip.readRegs_vaultMem (c : Chip) (a n : Nat) : (c.readRegs a n).2.vaultMem = c.vaultMem := by
  induction n generalizing c a with
  | zero => rfl
  | succ n ih => exact (ih _ _).trans (Chip.afterRead_vaultMem ..)

/-! ## Commands of a site, frames and packets -/

theorem Chip.onCore_wf (c : Chip) (st : Site) (f : Chip → Job → Nat → Nat → Chip) (h : c.vaultMem.2.wf = true)
    (hf : ∀ c j g k, c.vaultMem.2.wf = true → (f c j g k).vaultMem.2.wf = true) : (c.onCore st f).vaultMem.2.wf = true := by
  unfold Chip.onCore
  split
  · exact hf _ _ _ _ h
  · exact h

theorem Chip.onSeq_wf (c : Chip) (st : Site) (f : Chip → Job → Nat → Chip) (h : c.vaultMem.2.wf = true)
    (hf : ∀ c j g, c.vaultMem.2.wf = true → (f c j g).vaultMem.2.wf = true) : (c.onSeq st f).vaultMem.2.wf = true := by
  unfold Chip.onSeq
  split
  · exact hf _ _ _ h
  · exact h

theorem Chip.fetched_wf (c : Chip) (st : Site) (g : Nat) (w : Fetch) (f : Chip → Chip) (h : c.vaultMem.2.wf = true)
    (hf : ∀ c, c.vaultMem.2.wf = true → (f c).vaultMem.2.wf = true) : (c.fetched st g w f).vaultMem.2.wf = true := by
  cases w
  · exact hf _ h
  · exact (congrArg (fun v => v.2.wf) (Chip.badFetch_vaultMem c st g)).trans h
  · exact (congrArg (fun v => v.2.wf) (Chip.lockstep_vaultMem (f c) st g)).trans (hf _ h)

theorem Chip.onStream_wf (c : Chip) (st : Site) (w : Fetch) (f : Chip → Job → Nat → Chip) (h : c.vaultMem.2.wf = true)
    (hf : ∀ c j g, c.vaultMem.2.wf = true → (f c j g).vaultMem.2.wf = true) : (c.onStream st w f).vaultMem.2.wf = true := by
  unfold Chip.onStream
  split
  · exact Chip.fetched_wf _ _ _ _ _ h fun c => hf c _ _
  · exact h

theorem Chip.onSeqWord_wf (c : Chip) (st : Site) (w : Fetch) (f : Chip → Job → Nat → Chip) (h : c.vaultMem.2.wf = true)
    (hf : ∀ c j g, c.vaultMem.2.wf = true → (f c j g).vaultMem.2.wf = true) : (c.onSeqWord st w f).vaultMem.2.wf = true :=
  Chip.onSeq_wf _ _ _ h fun _ _ _ hd => Chip.fetched_wf _ _ _ _ _ hd fun c => hf c _ _

theorem Chip.treat_wf (c : Chip) (h : Hdr) (lengths open_ : Bool) (f : Chip → Chip) (hw : c.vaultMem.2.wf = true)
    (hf : ∀ c, c.vaultMem.2.wf = true → (f c).vaultMem.2.wf = true) : (c.treat h lengths open_ f).vaultMem.2.wf = true := by
  unfold Chip.treat
  dsimp only
  repeat' first | with_reducible refine hf _ ?_ | split | simp [hw]

theorem Chip.takeFrame_wf (c : Chip) (p : Fin 16) (l : Fin 9) (h : FrameHdr) (code : CodeResult) (lost f : Chip → Chip)
    (hw : c.vaultMem.2.wf = true) (hl : ∀ c, c.vaultMem.2.wf = true → (lost c).vaultMem.2.wf = true)
    (hf : ∀ c, c.vaultMem.2.wf = true → (f c).vaultMem.2.wf = true) : (c.takeFrame p l h code lost f).vaultMem.2.wf = true := by
  unfold Chip.takeFrame
  split
  · exact hl _ (by simpa using hw)
  · split
    · simpa using hw
    · exact hf _ hw

theorem Chip.access_wf (c : Chip) (r : Fabric) (f : Chip → Chip) (hw : c.vaultMem.2.wf = true)
    (hf : ∀ c, c.vaultMem.2.wf = true → (f c).vaultMem.2.wf = true) : (c.access r f).vaultMem.2.wf = true :=
  Chip.when_wf _ _ _ (by simpa using hw) hf

end Sys2Proof.Machine
end

