-- ==== Sys2Proof/Laws/Standing.lean ====
section
/-! SUPPORT. What the shared operations of faults, events, calls and read paths can touch: the free-value counter, jobs, regions, cores, stacks, ports, SAF_, the log, the schedule and the fleet signals; every other field stays. One lemma per operation. -/

namespace Sys2Proof.Machine

/-- The fields that no handling of a fault, an event or a call touches. -/
def Chip.standing (c : Chip) : Clk × Start × Cfg × Vault × Access × HostSt × Nat × SMap Nat × SMap Arr × SMap Tier × SMap Nat × SMap Nat × SMap Tile × SMap (BitVec 48) × SMap (BitVec 2) × SMap Plot × SMap Laser × SMap Laser × SMap (BitVec 5) × SMap Group × SMap Bank × SMap (BitVec 7) × SMap Lane × Mon × Level × Mems := (c.clk, c.start, c.cfg, c.vault, c.acc, c.host, c.nextOrder, c.seats, c.arrays, c.tiers, c.peri, c.cells, c.tiles, c.accs, c.dev, c.plots, c.lasers, c.linkLasers, c.linkSel, c.groups, c.banks, c.trims, c.lanes, c.mon, c.lvl, c.mem)

@[simp] theorem Chip.standing_mk (freeCtr : Nat) (clk : Clk) (start : Start) (cfg : Cfg) (vault : Vault) (acc : Access) (host : HostSt)
    (sch : Sched) (jobs : List Job) (nextOrder : Nat) (regions : SMap Region) (cores : SMap CoreSt) (seats : SMap Nat) (arrays : SMap
    Arr) (tiers : SMap Tier) (peri : SMap Nat) (cells : SMap Nat) (tiles : SMap Tile) (accs : SMap (BitVec 48)) (dev : SMap (BitVec 2))
    (plots : SMap Plot) (lasers : SMap Laser) (linkLasers : SMap Laser) (linkSel : SMap (BitVec 5)) (groups : SMap Group) (banks : SMap
    Bank) (trims : SMap (BitVec 7)) (hbmStacks : SMap Stack) (ports : SMap Port) (lanes : SMap Lane) (fleetOut : List FleetOut) (mon :
    Mon) (lvl : Level) (saf : Saf) (log : Log) (mem : Mems) : (Chip.mk freeCtr clk start cfg vault acc host sch jobs nextOrder regions
    cores seats arrays tiers peri cells tiles accs dev plots lasers linkLasers linkSel groups banks trims hbmStacks ports lanes fleetOut
    mon lvl saf log mem).standing = (clk, start, cfg, vault, acc, host, nextOrder, seats, arrays, tiers, peri, cells, tiles, accs, dev,
    plots, lasers, linkLasers, linkSel, groups, banks, trims, lanes, mon, lvl, mem) := id rfl

@[simp] theorem Chip.standing_eta (c : Chip) : (c.clk, c.start, c.cfg, c.vault, c.acc, c.host, c.nextOrder, c.seats, c.arrays, c.tiers,
    c.peri, c.cells, c.tiles, c.accs, c.dev, c.plots, c.lasers, c.linkLasers, c.linkSel, c.groups, c.banks, c.trims, c.lanes, c.mon,
    c.lvl, c.mem) = c.standing := id rfl

@[simp] theorem Chip.upRegion_standing (c : Chip) (k : Nat) (f : Region → Region) : (Chip.upRegion c k f).standing = c.standing := rfl

@[simp] theorem Chip.upCore_standing (c : Chip) (k : Nat) (f : CoreSt → CoreSt) : (Chip.upCore c k f).standing = c.standing := rfl

@[simp] theorem Chip.upStack_standing (c : Chip) (k : Nat) (f : Stack → Stack) : (Chip.upStack c k f).standing = c.standing := rfl

@[simp] theorem Chip.upPort_standing (c : Chip) (k : Nat) (f : Port → Port) : (Chip.upPort c k f).standing = c.standing := rfl

@[simp] theorem Chip.event_standing (c : Chip) (src cls code : Nat) (rerow : Bool) (locus : BitVec 32) (detail : Nat) : (Chip.event c
    src cls code rerow locus detail).standing = c.standing := by
  unfold Chip.event
  repeat'
    first
    | with_reducible rfl | assumption | (with_reducible refine (overAll_keep Chip.standing _ _ _ fun _ _ => ?_).trans ?_)
    | (with_reducible refine (foldl_keep Chip.standing _ _ _ fun _ _ => ?_).trans ?_)
    | (with_reducible refine (Chip.when_keep Chip.standing _ _ _ fun _ => ?_).trans ?_) | split | simp

@[simp] theorem Chip.draw_standing (c : Chip) : (Chip.draw c).2.standing = c.standing := rfl

@[simp] theorem Chip.eventOpen_standing (c : Chip) (src cls : Nat) (locus : BitVec 32) (detail : Nat) : (Chip.eventOpen c src cls locus
    detail).standing = c.standing := by
  simp [Chip.eventOpen]

@[simp] theorem Chip.upJob_standing (c : Chip) (id : JobId) (f : Job → Job) : (Chip.upJob c id f).standing = c.standing := rfl

@[simp] theorem Chip.dropJob_standing (c : Chip) (id : JobId) : (Chip.dropJob c id).standing = c.standing := rfl

@[simp] theorem Chip.sendOn_standing (c : Chip) (ps : List Nat) (m : LinkMsg) : (Chip.sendOn c ps m).standing = c.standing := rfl

@[simp] theorem Chip.raiseSignal_standing (c : Chip) (j : Job) (kind : Nat) (x : Nat) (lane status : Nat) : (Chip.raiseSignal c j kind x
    lane status).standing = c.standing := rfl

@[simp] theorem Chip.callJob_standing (c : Chip) (j : Job) (lane : Nat) : (Chip.callJob c j lane).standing = c.standing := by
  unfold Chip.callJob
  repeat'
    first
    | with_reducible rfl | assumption | (with_reducible refine (overAll_keep Chip.standing _ _ _ fun _ _ => ?_).trans ?_)
    | (with_reducible refine (foldl_keep Chip.standing _ _ _ fun _ _ => ?_).trans ?_)
    | (with_reducible refine (Chip.when_keep Chip.standing _ _ _ fun _ => ?_).trans ?_) | split | simp

@[simp] theorem Chip.callRegion_standing (c : Chip) (g : Nat) : (Chip.callRegion c g).standing = c.standing := by
  unfold Chip.callRegion
  repeat'
    first
    | with_reducible rfl | assumption | (with_reducible refine (overAll_keep Chip.standing _ _ _ fun _ _ => ?_).trans ?_)
    | (with_reducible refine (foldl_keep Chip.standing _ _ _ fun _ _ => ?_).trans ?_)
    | (with_reducible refine (Chip.when_keep Chip.standing _ _ _ fun _ => ?_).trans ?_) | split | simp

@[simp] theorem Chip.callWhere_standing (c : Chip) (p : Job → Bool) : (Chip.callWhere c p).standing = c.standing := by
  unfold Chip.callWhere
  repeat'
    first
    | with_reducible rfl | assumption | (with_reducible refine (overAll_keep Chip.standing _ _ _ fun _ _ => ?_).trans ?_)
    | (with_reducible refine (foldl_keep Chip.standing _ _ _ fun _ _ => ?_).trans ?_)
    | (with_reducible refine (Chip.when_keep Chip.standing _ _ _ fun _ => ?_).trans ?_) | split | simp

@[simp] theorem Chip.hit_standing (c : Chip) (l : Locus) (need : Nat) : (Chip.hit c l need).1.standing = c.standing := by
  unfold Chip.hit
  repeat'
    first
    | with_reducible rfl | assumption | (with_reducible refine (overAll_keep Chip.standing _ _ _ fun _ _ => ?_).trans ?_)
    | (with_reducible refine (foldl_keep Chip.standing _ _ _ fun _ _ => ?_).trans ?_)
    | (with_reducible refine (Chip.when_keep Chip.standing _ _ _ fun _ => ?_).trans ?_) | split | simp

@[simp] theorem Chip.addRemedy_standing (c : Chip) (r : Remedy) : (Chip.addRemedy c r).standing = c.standing := rfl

@[simp] theorem Chip.fault_standing (c : Chip) (src code : Nat) (locus : BitVec 32) (detail : Nat) (l : Locus) (need : Nat) (remedy :
    Remedy) : (Chip.fault c src code locus detail l need remedy).standing = c.standing := by
  unfold Chip.fault
  repeat'
    first
    | with_reducible rfl | assumption | (with_reducible refine (overAll_keep Chip.standing _ _ _ fun _ _ => ?_).trans ?_)
    | (with_reducible refine (foldl_keep Chip.standing _ _ _ fun _ _ => ?_).trans ?_)
    | (with_reducible refine (Chip.when_keep Chip.standing _ _ _ fun _ => ?_).trans ?_) | split | simp

@[simp] theorem Chip.danger_standing (c : Chip) (g src code : Nat) (locus : BitVec 32) (detail : Nat) (l : Locus) (need : Nat) (remedy :
    Remedy) : (Chip.danger c g src code locus detail l need remedy).standing = c.standing := by
  simp [Chip.danger]

@[simp] theorem Chip.dangerLight_standing (c : Chip) (g src code : Nat) (locus : BitVec 32) (detail : Nat) (cls : Nat) :
    (Chip.dangerLight c g src code locus detail cls).standing = c.standing := by
  simp [Chip.dangerLight]

@[simp] theorem Chip.residue_standing (c : Chip) (unit g core array plot : Nat) : (Chip.residue c unit g core array plot).standing =
    c.standing := by
  unfold Chip.residue
  repeat'
    first
    | with_reducible rfl | assumption | (with_reducible refine (overAll_keep Chip.standing _ _ _ fun _ _ => ?_).trans ?_)
    | (with_reducible refine (foldl_keep Chip.standing _ _ _ fun _ _ => ?_).trans ?_)
    | (with_reducible refine (Chip.when_keep Chip.standing _ _ _ fun _ => ?_).trans ?_) | split | simp

@[simp] theorem Chip.residues_standing (c : Chip) (rs : List Residue) (g core array : Nat) (plot : Nat → Nat) :
    (Chip.residues c rs g core array plot).standing = c.standing := overAll_keep Chip.standing _ _ _ fun _ _ => Chip.residue_standing ..

@[simp] theorem Chip.badRead_standing (c : Chip) (id : JobId) (loc : Nat) : (Chip.badRead c id loc).standing = c.standing := rfl

@[simp] theorem Chip.coreCode_standing (c : Chip) (core kind : Nat) : (Chip.coreCode c core kind).standing = c.standing := by
  simp [Chip.coreCode]

@[simp] theorem Chip.regionCode_standing (c : Chip) (g kind : Nat) : (Chip.regionCode c g kind).standing = c.standing := by
  simp [Chip.regionCode]

@[simp] theorem Chip.scheduleFault_standing (c : Chip) (j : Job) (g src : Nat) (locus : BitVec 32) (index : Nat) : (Chip.scheduleFault c
    j g src locus index).standing = c.standing := by
  unfold Chip.scheduleFault
  repeat'
    first
    | with_reducible rfl | assumption | (with_reducible refine (overAll_keep Chip.standing _ _ _ fun _ _ => ?_).trans ?_)
    | (with_reducible refine (foldl_keep Chip.standing _ _ _ fun _ _ => ?_).trans ?_)
    | (with_reducible refine (Chip.when_keep Chip.standing _ _ _ fun _ => ?_).trans ?_) | split | simp

@[simp] theorem Chip.badFetch_standing (c : Chip) (st : Site) (g : Nat) : (Chip.badFetch c st g).standing = c.standing := by
  unfold Chip.badFetch
  repeat'
    first
    | with_reducible rfl | assumption | (with_reducible refine (overAll_keep Chip.standing _ _ _ fun _ _ => ?_).trans ?_)
    | (with_reducible refine (foldl_keep Chip.standing _ _ _ fun _ _ => ?_).trans ?_)
    | (with_reducible refine (Chip.when_keep Chip.standing _ _ _ fun _ => ?_).trans ?_) | split | simp

@[simp] theorem Chip.lockstep_standing (c : Chip) (st : Site) (g : Nat) : (Chip.lockstep c st g).standing = c.standing := by
  unfold Chip.lockstep
  split <;> simp

@[simp] theorem Chip.datumNote_standing (c : Chip) (core opByte g : Nat) (cn : Cnt) : (Chip.datumNote c core opByte g cn).standing =
    c.standing := by
  unfold Chip.datumNote
  repeat'
    first
    | with_reducible rfl | assumption | (with_reducible refine (overAll_keep Chip.standing _ _ _ fun _ _ => ?_).trans ?_)
    | (with_reducible refine (foldl_keep Chip.standing _ _ _ fun _ _ => ?_).trans ?_)
    | (with_reducible refine (Chip.when_keep Chip.standing _ _ _ fun _ => ?_).trans ?_) | split | simp

@[simp] theorem Chip.streamFaultCore_standing (c : Chip) (core : Nat) (t : TagMiss) : (Chip.streamFaultCore c core t).standing =
    c.standing := by
  simp [Chip.streamFaultCore]

@[simp] theorem Chip.corePath_standing (c : Chip) (id : JobId) (core array : Nat) (p : Path) : (Chip.corePath c id core array
    p).standing = c.standing := by
  unfold Chip.corePath
  repeat'
    first
    | with_reducible rfl | assumption | (with_reducible refine (overAll_keep Chip.standing _ _ _ fun _ _ => ?_).trans ?_)
    | split | simp

@[simp] theorem Chip.accFault_standing (c : Chip) (core peri : Nat) : (Chip.accFault c core peri).standing = c.standing := by
  simp [Chip.accFault]

@[simp] theorem Chip.accFaults_standing (c : Chip) (core peri n : Nat) : (Chip.accFaults c core peri n).standing = c.standing := by
  induction n generalizing c with
  | zero => rfl
  | succ n ih => exact (ih _).trans (Chip.accFault_standing c core peri)

@[simp] theorem Chip.accPath_standing (c : Chip) (core peri : Nat) (p : Path) : (Chip.accPath c core peri p).standing = c.standing := by
  unfold Chip.accPath
  repeat'
    first
    | with_reducible rfl | assumption | (with_reducible refine (overAll_keep Chip.standing _ _ _ fun _ _ => ?_).trans ?_)
    | (with_reducible refine (foldl_keep Chip.standing _ _ _ fun _ _ => ?_).trans ?_)
    | (with_reducible refine (Chip.when_keep Chip.standing _ _ _ fun _ => ?_).trans ?_) | split | simp

@[simp] theorem Chip.senseFail_standing (c : Chip) (core cells peri tier : Nat) (diagnosed : List (Nat × Nat)) (v : Mismatch) :
    (Chip.senseFail c core cells peri tier diagnosed v).standing = c.standing := by
  unfold Chip.senseFail
  repeat'
    first
    | with_reducible rfl | assumption | (with_reducible refine (overAll_keep Chip.standing _ _ _ fun _ _ => ?_).trans ?_)
    | (with_reducible refine (foldl_keep Chip.standing _ _ _ fun _ _ => ?_).trans ?_)
    | (with_reducible refine (Chip.when_keep Chip.standing _ _ _ fun _ => ?_).trans ?_) | split | simp

@[simp] theorem Chip.coxOverflow_standing (c : Chip) (core kind tick key : Nat) : (Chip.coxOverflow c core kind tick key).standing =
    c.standing := by
  simp [Chip.coxOverflow]

@[simp] theorem Chip.dropItem_standing (c : Chip) (core : Nat) (x : CoxItem) : (Chip.dropItem c core x).standing = c.standing := rfl

@[simp] theorem Chip.arriveItem_standing (core : Nat) (c : Chip) (x : CoxItem) : (Chip.arriveItem core c x).standing = c.standing := by
  unfold Chip.arriveItem
  repeat'
    first
    | with_reducible rfl | assumption | (with_reducible refine (overAll_keep Chip.standing _ _ _ fun _ _ => ?_).trans ?_)
    | (with_reducible refine (foldl_keep Chip.standing _ _ _ fun _ _ => ?_).trans ?_)
    | (with_reducible refine (Chip.when_keep Chip.standing _ _ _ fun _ => ?_).trans ?_) | split | simp

@[simp] theorem Chip.arrivals_standing (c : Chip) (core tick : Nat) : (Chip.arrivals c core tick).standing = c.standing := by
  unfold Chip.arrivals
  repeat'
    first
    | with_reducible rfl | assumption | (with_reducible refine (overAll_keep Chip.standing _ _ _ fun _ _ => ?_).trans ?_)
    | (with_reducible refine (foldl_keep Chip.standing _ _ _ fun _ _ => ?_).trans ?_)
    | (with_reducible refine (Chip.when_keep Chip.standing _ _ _ fun _ => ?_).trans ?_) | split | simp

@[simp] theorem Chip.missed_standing (c : Chip) (core start : Nat) : (Chip.missed c core start).standing = c.standing := by
  unfold Chip.missed
  repeat'
    first
    | with_reducible rfl | assumption | (with_reducible refine (overAll_keep Chip.standing _ _ _ fun _ _ => ?_).trans ?_)
    | (with_reducible refine (foldl_keep Chip.standing _ _ _ fun _ _ => ?_).trans ?_)
    | (with_reducible refine (Chip.when_keep Chip.standing _ _ _ fun _ => ?_).trans ?_) | split | simp

@[simp] theorem Chip.coxOffend_standing (core : Nat) (c : Chip) (o : Nat × Nat × Nat) : (Chip.coxOffend core c o).standing = c.standing
    := by
  simp [Chip.coxOffend]

@[simp] theorem Chip.coxStroke_standing (c : Chip) (core tick : Nat) : (Chip.coxStroke c core tick).standing = c.standing := by
  unfold Chip.coxStroke
  repeat'
    first
    | with_reducible rfl | assumption | (with_reducible refine (overAll_keep Chip.standing _ _ _ fun _ _ => ?_).trans ?_)
    | (with_reducible refine (foldl_keep Chip.standing _ _ _ fun _ _ => ?_).trans ?_)
    | (with_reducible refine (Chip.when_keep Chip.standing _ _ _ fun _ => ?_).trans ?_) | split | simp

@[simp] theorem Chip.addDuty_standing (c : Chip) (g issue first last : Nat) (plots : List Nat) : (Chip.addDuty c g issue first last
    plots).standing = c.standing := rfl

@[simp] theorem Chip.regionPath_standing (c : Chip) (id : JobId) (g : Nat) (plot : Nat → Nat) (p : Path) : (Chip.regionPath c id g plot
    p).standing = c.standing := by
  unfold Chip.regionPath
  repeat'
    first
    | with_reducible rfl | assumption | (with_reducible refine (overAll_keep Chip.standing _ _ _ fun _ _ => ?_).trans ?_)
    | split | simp

@[simp] theorem Chip.channelFault_standing (c : Chip) (L : Nat) (rerow : Bool) : (Chip.channelFault c L rerow).standing = c.standing := by
  unfold Chip.channelFault
  repeat'
    first
    | with_reducible rfl | assumption | (with_reducible refine (overAll_keep Chip.standing _ _ _ fun _ _ => ?_).trans ?_)
    | (with_reducible refine (foldl_keep Chip.standing _ _ _ fun _ _ => ?_).trans ?_)
    | (with_reducible refine (Chip.when_keep Chip.standing _ _ _ fun _ => ?_).trans ?_) | split | simp

@[simp] theorem Chip.stackCounts_standing (c : Chip) (s corrected ondie : Nat) (parity : Bool) : (Chip.stackCounts c s corrected ondie
    parity).standing = c.standing := rfl

@[simp] theorem Chip.slotFault_standing (c : Chip) (id : JobId) (g L : Nat) : (Chip.slotFault c id g L).standing = c.standing := by
  simp [Chip.slotFault]

@[simp] theorem Chip.hbmPath_standing (c : Chip) (id : JobId) (g stack : Nat) (p : Path) : (Chip.hbmPath c id g stack p).standing =
    c.standing := by
  unfold Chip.hbmPath
  repeat'
    first
    | with_reducible rfl | assumption | (with_reducible refine (overAll_keep Chip.standing _ _ _ fun _ _ => ?_).trans ?_)
    | split | simp

@[simp] theorem Chip.hbmWritePath_standing (c : Chip) (id : JobId) (g L : Nat) (p : Path) : (Chip.hbmWritePath c id g L p).standing =
    c.standing := by
  unfold Chip.hbmWritePath
  repeat'
    first
    | with_reducible rfl | assumption | (with_reducible refine (overAll_keep Chip.standing _ _ _ fun _ _ => ?_).trans ?_)
    | (with_reducible refine (foldl_keep Chip.standing _ _ _ fun _ _ => ?_).trans ?_)
    | (with_reducible refine (Chip.when_keep Chip.standing _ _ _ fun _ => ?_).trans ?_) | split | simp

@[simp] theorem Chip.hbmCode_standing (c : Chip) (s : Nat) (code : HbmCode) : (Chip.hbmCode c s code).standing = c.standing := by
  unfold Chip.hbmCode
  repeat'
    first
    | with_reducible rfl | assumption | (with_reducible refine (overAll_keep Chip.standing _ _ _ fun _ _ => ?_).trans ?_)
    | (with_reducible refine (foldl_keep Chip.standing _ _ _ fun _ _ => ?_).trans ?_)
    | (with_reducible refine (Chip.when_keep Chip.standing _ _ _ fun _ => ?_).trans ?_) | split | simp

@[simp] theorem Chip.jobRecord_standing (c : Chip) (j : Job) : (Chip.jobRecord c j).standing = c.standing := rfl

@[simp] theorem Chip.releaseRegion_standing (c : Chip) (j : Job) (g : Nat) : (Chip.releaseRegion c j g).standing = c.standing := rfl

@[simp] theorem Chip.substituted_standing (c : Chip) (src : Nat) (locus : BitVec 32) (kind : Nat) (perm last : Bool) : (Chip.substituted
    c src locus kind perm last).standing = c.standing := by
  unfold Chip.substituted
  repeat'
    first
    | with_reducible rfl | assumption | (with_reducible refine (overAll_keep Chip.standing _ _ _ fun _ _ => ?_).trans ?_)
    | (with_reducible refine (foldl_keep Chip.standing _ _ _ fun _ _ => ?_).trans ?_)
    | (with_reducible refine (Chip.when_keep Chip.standing _ _ _ fun _ => ?_).trans ?_) | split | simp

@[simp] theorem Chip.noteHolds_standing (c : Chip) : (Chip.noteHolds c).standing = c.standing := by
  unfold Chip.noteHolds
  repeat'
    first
    | with_reducible rfl | assumption | (with_reducible refine (overAll_keep Chip.standing _ _ _ fun _ _ => ?_).trans ?_)
    | (with_reducible refine (foldl_keep Chip.standing _ _ _ fun _ _ => ?_).trans ?_)
    | (with_reducible refine (Chip.when_keep Chip.standing _ _ _ fun _ => ?_).trans ?_) | split | simp

@[simp] theorem Chip.holdJobs_standing (c : Chip) (g k : Nat) (names : Job → Bool) : (Chip.holdJobs c g k names).standing = c.standing
    := by
  unfold Chip.holdJobs
  repeat'
    first
    | with_reducible rfl | assumption | (with_reducible refine (overAll_keep Chip.standing _ _ _ fun _ _ => ?_).trans ?_)
    | (with_reducible refine (foldl_keep Chip.standing _ _ _ fun _ _ => ?_).trans ?_)
    | (with_reducible refine (Chip.when_keep Chip.standing _ _ _ fun _ => ?_).trans ?_) | split | simp

@[simp] theorem Chip.endPlotHolds_standing (c : Chip) : (Chip.endPlotHolds c).standing = c.standing := by
  simp [Chip.endPlotHolds]

@[simp] theorem Chip.entryLost_standing (c : Chip) (T : Nat) : (Chip.entryLost c T).standing = c.standing := by
  simp [Chip.entryLost]

@[simp] theorem Chip.readCopy_standing (c : Chip) (bad : List LedgerMiss) (T n : Nat) : (Chip.readCopy c bad T n).1.standing =
    c.standing := by
  unfold Chip.readCopy
  repeat'
    first
    | with_reducible rfl | assumption | (with_reducible refine (overAll_keep Chip.standing _ _ _ fun _ _ => ?_).trans ?_)
    | (with_reducible refine (foldl_keep Chip.standing _ _ _ fun _ _ => ?_).trans ?_)
    | (with_reducible refine (Chip.when_keep Chip.standing _ _ _ fun _ => ?_).trans ?_) | split | simp

@[simp] theorem Chip.dropShadows_standing (c : Chip) (s : Nat) : (Chip.dropShadows c s).standing = c.standing := rfl

@[simp] theorem Chip.quarantine_standing (c : Chip) (p reason : Nat) : (Chip.quarantine c p reason).standing = c.standing := by
  simp [Chip.quarantine]

@[simp] theorem Chip.linkFault_standing (c : Chip) (p l kind : Nat) : (Chip.linkFault c p l kind).standing = c.standing := by
  unfold Chip.linkFault
  repeat'
    first
    | with_reducible rfl | assumption | (with_reducible refine (overAll_keep Chip.standing _ _ _ fun _ _ => ?_).trans ?_)
    | (with_reducible refine (foldl_keep Chip.standing _ _ _ fun _ _ => ?_).trans ?_)
    | (with_reducible refine (Chip.when_keep Chip.standing _ _ _ fun _ => ?_).trans ?_) | split | simp

@[simp] theorem Chip.sendLane_standing (c : Chip) (p : Nat) (m : LaneMsg) : (Chip.sendLane c p m).standing = c.standing := rfl

@[simp] theorem Chip.askLane_standing (c : Chip) (p : Nat) (action : Fin 4) (l : Nat) : (Chip.askLane c p action l).standing =
    c.standing := rfl

@[simp] theorem Chip.lsend_standing (c : Chip) (st : Site) (j : Job) (g : Nat) (op : LinkOp) (p : Path) : (Chip.lsend c st j g op
    p).standing = c.standing := by
  unfold Chip.lsend
  repeat'
    first
    | with_reducible rfl | assumption | (with_reducible refine (overAll_keep Chip.standing _ _ _ fun _ _ => ?_).trans ?_)
    | (with_reducible refine (foldl_keep Chip.standing _ _ _ fun _ _ => ?_).trans ?_)
    | (with_reducible refine (Chip.when_keep Chip.standing _ _ _ fun _ => ?_).trans ?_) | split | simp

@[simp] theorem Chip.headerFault_standing (c : Chip) (p l : Nat) (h : FrameHdr) : (Chip.headerFault c p l h).standing = c.standing := by
  unfold Chip.headerFault
  repeat'
    first
    | with_reducible rfl | assumption | (with_reducible refine (overAll_keep Chip.standing _ _ _ fun _ _ => ?_).trans ?_)
    | (with_reducible refine (foldl_keep Chip.standing _ _ _ fun _ _ => ?_).trans ?_)
    | (with_reducible refine (Chip.when_keep Chip.standing _ _ _ fun _ => ?_).trans ?_) | split | simp

@[simp] theorem Chip.dataArrives_standing (c : Chip) (p l : Nat) (j : Job) (i : Image) (f : Frame) : (Chip.dataArrives c p l j i
    f).standing = c.standing := by
  unfold Chip.dataArrives
  repeat'
    first
    | with_reducible rfl | assumption | (with_reducible refine (overAll_keep Chip.standing _ _ _ fun _ _ => ?_).trans ?_)
    | (with_reducible refine (foldl_keep Chip.standing _ _ _ fun _ _ => ?_).trans ?_)
    | (with_reducible refine (Chip.when_keep Chip.standing _ _ _ fun _ => ?_).trans ?_) | split | simp

@[simp] theorem Chip.sendMeasure_standing (c : Chip) (p : Nat) : (Chip.sendMeasure c p).standing = c.standing := rfl

@[simp] theorem Chip.askAgain_standing (c : Chip) (p : Nat) (m : LaneMsg) : (Chip.askAgain c p m).standing = c.standing := by
  simp [Chip.askAgain]

@[simp] theorem Chip.askAgainDue_standing (c : Chip) (p : Nat) (action : Fin 4) : (Chip.askAgainDue c p action).standing = c.standing := by
  unfold Chip.askAgainDue
  repeat'
    first
    | with_reducible rfl | assumption | (with_reducible refine (overAll_keep Chip.standing _ _ _ fun _ _ => ?_).trans ?_)
    | (with_reducible refine (foldl_keep Chip.standing _ _ _ fun _ _ => ?_).trans ?_)
    | (with_reducible refine (Chip.when_keep Chip.standing _ _ _ fun _ => ?_).trans ?_) | split | simp

@[simp] theorem Chip.rotationReturn_standing (c : Chip) (p l : Nat) : (Chip.rotationReturn c p l).standing = c.standing := by
  unfold Chip.rotationReturn
  repeat'
    first
    | with_reducible rfl | assumption | (with_reducible refine (overAll_keep Chip.standing _ _ _ fun _ _ => ?_).trans ?_)
    | (with_reducible refine (foldl_keep Chip.standing _ _ _ fun _ _ => ?_).trans ?_)
    | (with_reducible refine (Chip.when_keep Chip.standing _ _ _ fun _ => ?_).trans ?_) | split | simp

@[simp] theorem Chip.sleepRegion_standing (c : Chip) (g : Nat) : (Chip.sleepRegion c g).standing = c.standing := rfl

@[simp] theorem Chip.trimPosted_standing (c : Chip) (g : Nat) : (Chip.trimPosted c g).standing = c.standing := rfl

@[simp] theorem Chip.coxStrokes_standing (c : Chip) (g : Nat) : (Chip.coxStrokes c g).standing = c.standing := by
  unfold Chip.coxStrokes
  repeat'
    first
    | with_reducible rfl | assumption | (with_reducible refine (overAll_keep Chip.standing _ _ _ fun _ _ => ?_).trans ?_)
    | (with_reducible refine (foldl_keep Chip.standing _ _ _ fun _ _ => ?_).trans ?_)
    | (with_reducible refine (Chip.when_keep Chip.standing _ _ _ fun _ => ?_).trans ?_) | split | simp

@[simp] theorem Chip.scheduleEvent_standing (c : Chip) (j : Job) (cls code detail : Nat) : (Chip.scheduleEvent c j cls code
    detail).standing = c.standing := rfl

@[simp] theorem Chip.deferPause_standing (c : Chip) (j : Job) : (Chip.deferPause c j).standing = c.standing := by
  unfold Chip.deferPause
  repeat'
    first
    | with_reducible rfl | assumption | (with_reducible refine (overAll_keep Chip.standing _ _ _ fun _ _ => ?_).trans ?_)
    | (with_reducible refine (foldl_keep Chip.standing _ _ _ fun _ _ => ?_).trans ?_)
    | (with_reducible refine (Chip.when_keep Chip.standing _ _ _ fun _ => ?_).trans ?_) | split | simp

@[simp] theorem Chip.cmdWithdraw_standing (c : Chip) (g : Nat) : (Chip.cmdWithdraw c g).standing = c.standing := rfl

@[simp] theorem Chip.holdWeak_standing (c : Chip) (core a : Nat) (v : PlotSurvey) : (Chip.holdWeak c core a v).1.standing = c.standing
    := by
  unfold Chip.holdWeak
  repeat'
    first
    | with_reducible rfl | assumption | (with_reducible refine (overAll_keep Chip.standing _ _ _ fun _ _ => ?_).trans ?_)
    | (with_reducible refine (foldl_keep Chip.standing _ _ _ fun _ _ => ?_).trans ?_)
    | (with_reducible refine (Chip.when_keep Chip.standing _ _ _ fun _ => ?_).trans ?_) | split | simp

@[simp] theorem Chip.holdAll_standing (c : Chip) (core a : Nat) (vs : List PlotSurvey) : (c.holdAll core a vs).1.standing = c.standing := by
  induction vs generalizing c with
  | nil => rfl
  | cons v vs ih => exact (ih _).trans (Chip.holdWeak_standing c core a v)

@[simp] theorem Chip.orderEnds_standing (c : Chip) (r : LaserRef) (result : BitVec 8) : (Chip.orderEnds c r result).standing =
    c.standing := by
  unfold Chip.orderEnds
  repeat'
    first
    | with_reducible rfl | assumption | (with_reducible refine (overAll_keep Chip.standing _ _ _ fun _ _ => ?_).trans ?_)
    | (with_reducible refine (foldl_keep Chip.standing _ _ _ fun _ _ => ?_).trans ?_)
    | (with_reducible refine (Chip.when_keep Chip.standing _ _ _ fun _ => ?_).trans ?_) | split | simp

@[simp] theorem Chip.orderDone_standing (c : Chip) (r : LaserRef) : (Chip.orderDone c r).standing = c.standing := by
  unfold Chip.orderDone
  repeat'
    first
    | with_reducible rfl | assumption | (with_reducible refine (overAll_keep Chip.standing _ _ _ fun _ _ => ?_).trans ?_)
    | (with_reducible refine (foldl_keep Chip.standing _ _ _ fun _ _ => ?_).trans ?_)
    | (with_reducible refine (Chip.when_keep Chip.standing _ _ _ fun _ => ?_).trans ?_) | split | simp

@[simp] theorem Chip.easySignals_standing (c : Chip) (on : Bool) : (Chip.easySignals c on).standing = c.standing := by
  unfold Chip.easySignals
  repeat'
    first
    | with_reducible rfl | assumption | (with_reducible refine (overAll_keep Chip.standing _ _ _ fun _ _ => ?_).trans ?_)
    | (with_reducible refine (foldl_keep Chip.standing _ _ _ fun _ _ => ?_).trans ?_)
    | (with_reducible refine (Chip.when_keep Chip.standing _ _ _ fun _ => ?_).trans ?_) | split | simp

@[simp] theorem Chip.scrub_standing (c : Chip) (s line : Nat) (outcome : CodeResult) (ondie : Nat) (parity : Bool) (progress : BitVec 8)
    : (Chip.scrub c s line outcome ondie parity progress).standing = c.standing := by
  unfold Chip.scrub
  repeat'
    first
    | with_reducible rfl | assumption | (with_reducible refine (overAll_keep Chip.standing _ _ _ fun _ _ => ?_).trans ?_)
    | (with_reducible refine (foldl_keep Chip.standing _ _ _ fun _ _ => ?_).trans ?_)
    | (with_reducible refine (Chip.when_keep Chip.standing _ _ _ fun _ => ?_).trans ?_) | split | simp

@[simp] theorem Chip.streamAcked_standing (c : Chip) (p : Packet) : (Chip.streamAcked c p).standing = c.standing := by
  unfold Chip.streamAcked
  repeat'
    first
    | with_reducible rfl | assumption | (with_reducible refine (overAll_keep Chip.standing _ _ _ fun _ _ => ?_).trans ?_)
    | (with_reducible refine (foldl_keep Chip.standing _ _ _ fun _ _ => ?_).trans ?_)
    | (with_reducible refine (Chip.when_keep Chip.standing _ _ _ fun _ => ?_).trans ?_) | split | simp

@[simp] theorem Chip.askPause_standing (c : Chip) (j : Job) (boundary : Nat) (reason : BitVec 8) (area : BitVec 64) : (Chip.askPause c j
    boundary reason area).standing = c.standing := by
  unfold Chip.askPause
  repeat'
    first
    | with_reducible rfl | assumption | (with_reducible refine (overAll_keep Chip.standing _ _ _ fun _ _ => ?_).trans ?_)
    | (with_reducible refine (foldl_keep Chip.standing _ _ _ fun _ _ => ?_).trans ?_)
    | (with_reducible refine (Chip.when_keep Chip.standing _ _ _ fun _ => ?_).trans ?_) | split | simp

@[simp] theorem Chip.askFleetPause_standing (c : Chip) (j : Job) (reason : BitVec 8) (area : BitVec 64) : (Chip.askFleetPause c j reason
    area).standing = c.standing := by
  unfold Chip.askFleetPause
  repeat'
    first
    | with_reducible rfl | assumption | (with_reducible refine (overAll_keep Chip.standing _ _ _ fun _ _ => ?_).trans ?_)
    | (with_reducible refine (foldl_keep Chip.standing _ _ _ fun _ _ => ?_).trans ?_)
    | (with_reducible refine (Chip.when_keep Chip.standing _ _ _ fun _ => ?_).trans ?_) | split | simp

@[simp] theorem Chip.dropLoad_standing (c : Chip) (l : Load) : (Chip.dropLoad c l).standing = c.standing := rfl

@[simp] theorem Chip.imageReplace_standing (c : Chip) (id : BitVec 256) : (Chip.imageReplace c id).standing = c.standing := by
  unfold Chip.imageReplace
  repeat'
    first
    | with_reducible rfl | assumption | (with_reducible refine (overAll_keep Chip.standing _ _ _ fun _ _ => ?_).trans ?_)
    | (with_reducible refine (foldl_keep Chip.standing _ _ _ fun _ _ => ?_).trans ?_)
    | (with_reducible refine (Chip.when_keep Chip.standing _ _ _ fun _ => ?_).trans ?_) | split | simp

@[simp] theorem Chip.fabric_standing (c : Chip) (n : Nat) (f : Fabric) : (Chip.fabric c n f).1.standing = c.standing := by
  unfold Chip.fabric
  repeat'
    first
    | with_reducible rfl | assumption | (with_reducible refine (overAll_keep Chip.standing _ _ _ fun _ _ => ?_).trans ?_)
    | (with_reducible refine (foldl_keep Chip.standing _ _ _ fun _ _ => ?_).trans ?_)
    | (with_reducible refine (Chip.when_keep Chip.standing _ _ _ fun _ => ?_).trans ?_) | split | simp

@[simp] theorem Chip.fillPorts_standing (c : Chip) : (Chip.fillPorts c).standing = c.standing := rfl

@[simp] theorem Chip.runCatch_standing (c : Chip) (p l : Nat) (j : Job) (m : CatchMsg) (offset : Int) : (Chip.runCatch c p l j m
    offset).standing = c.standing := by
  unfold Chip.runCatch
  repeat'
    first
    | with_reducible rfl | assumption | (with_reducible refine (overAll_keep Chip.standing _ _ _ fun _ _ => ?_).trans ?_)
    | (with_reducible refine (foldl_keep Chip.standing _ _ _ fun _ _ => ?_).trans ?_)
    | (with_reducible refine (Chip.when_keep Chip.standing _ _ _ fun _ => ?_).trans ?_) | split | simp

@[simp] theorem Chip.forward_standing (c : Chip) (j : Job) (p : Nat) (m : SignalMsg) : (Chip.forward c j p m).standing = c.standing := rfl

@[simp] theorem Chip.takeSignal_standing (c : Chip) (j : Job) (p : Nat) (m : SignalMsg) : (Chip.takeSignal c j p m).standing =
    c.standing := by
  unfold Chip.takeSignal
  repeat'
    first
    | with_reducible rfl | assumption | (with_reducible refine (overAll_keep Chip.standing _ _ _ fun _ _ => ?_).trans ?_)
    | (with_reducible refine (foldl_keep Chip.standing _ _ _ fun _ _ => ?_).trans ?_)
    | (with_reducible refine (Chip.when_keep Chip.standing _ _ _ fun _ => ?_).trans ?_) | split | simp

@[simp] theorem Chip.farLane_standing (c : Chip) (p : Nat) (m : SignalMsg) : (Chip.farLane c p m).standing = c.standing := by
  unfold Chip.farLane
  repeat'
    first
    | with_reducible rfl | assumption | (with_reducible refine (overAll_keep Chip.standing _ _ _ fun _ _ => ?_).trans ?_)
    | (with_reducible refine (foldl_keep Chip.standing _ _ _ fun _ _ => ?_).trans ?_)
    | (with_reducible refine (Chip.when_keep Chip.standing _ _ _ fun _ => ?_).trans ?_) | split | simp

@[simp] theorem Chip.railReturn_standing (c : Chip) (r : Rail) : (Chip.railReturn c r).standing = c.standing := by
  unfold Chip.railReturn
  repeat'
    first
    | with_reducible rfl | assumption | (with_reducible refine (overAll_keep Chip.standing _ _ _ fun _ _ => ?_).trans ?_)
    | (with_reducible refine (foldl_keep Chip.standing _ _ _ fun _ _ => ?_).trans ?_)
    | (with_reducible refine (Chip.when_keep Chip.standing _ _ _ fun _ => ?_).trans ?_) | split | simp

end Sys2Proof.Machine
end

