-- ==== Sys2Proof/Laws/Window.lean ====
section
/-! SUPPORT. Windows of HBM: different offsets lie at different addresses (R240, R241), and what is written to a window reads back. -/

namespace Sys2Proof.Machine

/-- The offsets of a window lie at different physical addresses. -/
theorem windowAddr_injective (base o o' : Nat) (h : windowAddr base o = windowAddr base o') : o = o' := by
  simp only [windowAddr, windowStack, stackBytes, partData, partBytes] at h
  omega

theorem length_readWindow (m : Mem) (base o n : Nat) : (readWindow m base o n).length = n := by
  induction n generalizing o with
  | zero => rfl
  | succ n ih => simp [readWindow, ih]

theorem getElem?_readWindow (m : Mem) (base o n k : Nat) (h : k < n) :
    (readWindow m base o n)[k]? = some (getByte m (windowAddr base (o + k))) := by
  induction n generalizing o k with
  | zero => omega
  | succ n ih =>
    cases k with
    | zero => rfl
    | succ k => simp [readWindow, ih (o + 1) k (by omega), Nat.add_comm, Nat.add_left_comm]

/-- A window write leaves every other address alone. -/
theorem getByte_writeWindow_outside (m : Mem) (base o : Nat) (l : List Byte) (x : Nat) (h : ∀ k, k < l.length → x ≠ windowAddr base (o + k)) :
    getByte (writeWindow m base o l) x = getByte m x := by
  induction l generalizing m o with
  | nil => rfl
  | cons b l ih =>
    rw [writeWindow, ih]
    · exact getByte_setByte_ne _ _ _ _ (by simpa using h 0 (by simp))
    · intro k hk
      have := h (k + 1) (by simpa using hk)
      rwa [show o + (k + 1) = o + 1 + k by omega] at this

/-- A window write puts its bytes where they belong. -/
theorem getByte_writeWindow_inside (m : Mem) (base o : Nat) (l : List Byte) (k : Nat) (b : Byte) (h : l[k]? = some b) :
    getByte (writeWindow m base o l) (windowAddr base (o + k)) = b := by
  induction l generalizing m o k with
  | nil => simp at h
  | cons c l ih =>
    rw [writeWindow]
    cases k with
    | zero =>
      rw [getByte_writeWindow_outside]
      · simpa using h
      · intro k _ e
        have := windowAddr_injective _ _ _ e
        omega
    | succ k =>
      rw [show o + (k + 1) = o + 1 + k by omega]
      exact ih _ _ _ (by simpa using h)

/-- A read after a write of the same window range gives what was written. -/
theorem readWindow_writeWindow (m : Mem) (base o : Nat) (l : List Byte) : readWindow (writeWindow m base o l) base o l.length = l := by
  apply List.ext_getElem?
  intro k
  by_cases hk : k < l.length
  · rw [getElem?_readWindow _ _ _ _ _ hk, List.getElem?_eq_getElem hk]
    exact congrArg some (getByte_writeWindow_inside _ _ _ _ _ _ (List.getElem?_eq_getElem hk))
  · rw [List.getElem?_eq_none (by rw [length_readWindow]; omega), List.getElem?_eq_none (by omega)]

end Sys2Proof.Machine
end

