-- ==== Sys2Proof/Machine/Wire.lean ====
section
/-! DEFINITION. Lamni frames as bytes (R260, R281, R285, R287): the header, the payloads, the codewords, the scrambler and the alignment marker, as a frame of `fleetOut` goes out on a lane, and a received frame read back. -/

namespace Sys2Proof.Machine

/-- A number of `n` bytes, little-endian, of a bit vector. -/
def vecBytes {w : Nat} (n : Nat) (x : BitVec w) : List Byte := leBytes n x.toNat

/-- A byte list filled with zeros to `n` bytes. -/
def padTo (n : Nat) (l : List Byte) : List Byte := l ++ List.replicate (n - l.length) 0

/-- The 16 header bytes (R260). -/
def hdrBytes (h : FrameHdr) : List Byte :=
  leBytes 1 (h.type.toNat + field h.mode.toNat 4 + field (flag h.easy) 6) ++ leBytes 1 (h.blockTag.toNat + field h.lane.toNat 5)
    ++ leBytes 2 (h.index.toNat + field (flag h.last) 13) ++ vecBytes 6 h.stroke ++ leBytes 2 h.sendTick.toNat ++ leBytes 2 0
    ++ leBytes 1 h.payloadLen ++ [h.digestFrag]

/-- The payload bytes of CATCH, WEIGH and FAULT frames (R281, R285, R287). -/
def catchBytes (m : CatchMsg) : List Byte :=
  vecBytes 2 m.member ++ leBytes 1 (flag m.leadIn + field (flag m.easySet) 1) ++ vecBytes 1 m.distance ++ vecBytes 2 m.origin
    ++ vecBytes 6 m.jobStroke ++ vecBytes 4 m.epoch ++ vecBytes 32 m.imageId ++ vecBytes 6 m.start ++ vecBytes 1 m.mode
def weighBytes (m : WeighMsg) : List Byte :=
  m.version :: (leBytes 1 (flag m.joined) ++ vecBytes 2 m.member ++ vecBytes 2 m.fleetId ++ vecBytes 1 m.port ++ vecBytes 1 m.lastReason
    ++ vecBytes 4 m.apid ++ leBytes 4 0 ++ vecBytes 64 m.fleetDigest ++ vecBytes 32 m.portImage ++ vecBytes 6 m.fleetStroke ++ leBytes 2 0
    ++ vecBytes 16 m.serial)
def signalBytes (m : SignalMsg) : List Byte :=
  vecBytes 1 m.kind ++ vecBytes 1 m.hops ++ vecBytes 2 m.origin ++ vecBytes 4 m.sequence ++ vecBytes 4 m.epoch ++ vecBytes 6 m.stroke
    ++ leBytes 1 m.lane.toNat ++ vecBytes 1 m.status ++ vecBytes 32 m.imageId

/-- The payload of a frame, 208 bytes (R260). DESIGN CHOICE: a LANE_CTRL frame has its action in byte 0 and its lane in byte 1 (log entry 137). -/
def LinkMsg.payload : LinkMsg → List Byte
  | .idle => padTo 208 []
  | .data d => padTo 208 d
  | .catch m => padTo 208 (catchBytes m)
  | .weigh m => padTo 208 (weighBytes m)
  | .measure m => padTo 208 (vecBytes 8 m.sent ++ vecBytes 8 m.echoed ++ vecBytes 8 m.turnaround)
  | .lane m => padTo 208 (leBytes 1 m.action.val ++ leBytes 1 m.lane.val ++ vecBytes 6 m.target)
  | .signal m => padTo 208 (signalBytes m)

/-- `n` bits of the additive scrambler x^31 + x^28 + 1 from a state of its last 31 bits, the first bit lowest, and the state after (R260;
DEDUCED, bit 0 of a byte first, log entry 143). -/
def scramblerBits : Nat → Nat → Nat × Nat
  | 0, s => (0, s)
  | n + 1, s =>
    let b := (bitsOf s 30 30 + bitsOf s 27 27) % 2
    let r := scramblerBits n (2 * s % 2 ^ 31 + b)
    (b + 2 * r.1, r.2)

/-- Bytes scrambled from a state, or, as the scrambler is additive, read back. -/
def scrambleFrom (s : Nat) : List Byte → List Byte
  | [] => []
  | x :: xs =>
    let r := scramblerBits 8 s
    (x ^^^ BitVec.ofNat 8 r.1) :: scrambleFrom r.2 xs
def scramble (l : List Byte) : List Byte := scrambleFrom (2 ^ 31 - 1) l

/-- `n` codewords of consecutive 16-byte data. -/
def codewords : Nat → List Byte → List Byte
  | 0, _ => []
  | n + 1, l => encodeWord (l.take 16) ++ codewords n (l.drop 16)

/-- The 256 bytes of a frame on a physical lane (R260): the marker, then 14 codewords, scrambled. -/
def frameBytes (lane : Nat) (h : FrameHdr) (m : LinkMsg) : List Byte :=
  [0xC3, 0x5A, BitVec.ofNat 8 lane, ~~~(BitVec.ofNat 8 lane)] ++ scramble (codewords 14 (hdrBytes h ++ m.payload))

/-- What a frame of the block puts on a lane. -/
def FleetOut.bytes (f : FleetOut) (lane : Nat) : List Byte := frameBytes (f.lane.getD lane) f.hdr f.msg

/-! ## Reading a frame -/

/-- `n` codewords read (R251): their data and how many were corrected; none where one is uncorrectable. -/
def readWords : Nat → List Byte → Option (List Byte × Nat)
  | 0, _ => some ([], 0)
  | n + 1, l =>
    match decodeWord (l.take 18), readWords n (l.drop 18) with
    | some (d, fixed), some (rest, k) => some (d ++ rest, k + flag fixed)
    | _, _ => none

/-- The fields of 16 header bytes (R260). -/
def readHdr (b : List Byte) : FrameHdr :=
  { type := BitVec.ofNat 4 (leAt b 0 1), mode := BitVec.ofNat 2 (bitsOf (leAt b 0 1) 5 4), easy := bitOf (leAt b 0 1) 6
    blockTag := BitVec.ofNat 4 (leAt b 1 1), lane := BitVec.ofNat 3 (bitsOf (leAt b 1 1) 7 5), index := BitVec.ofNat 13 (leAt b 2 2)
    last := bitOf (leAt b 2 2) 13, stroke := BitVec.ofNat 48 (leAt b 4 6), sendTick := BitVec.ofNat 12 (leAt b 10 2)
    payloadLen := leAt b 14 1, digestFrag := (b[15]?).getD 0
    reservedZero := !bitOf (leAt b 0 1) 7 && !bitOf (leAt b 1 1) 4 && leAt b 2 2 < 2 ^ 14 && leAt b 10 2 < 2 ^ 12 && leAt b 12 2 == 0 }

/-- A frame's 252 scrambled bytes read: what the codes say, the header and the payload. -/
def readFrame (l : List Byte) : CodeResult × Option Frame :=
  match readWords 14 (scramble l) with
  | none => (.uncorrectable, none)
  | some (d, k) =>
    let h := readHdr (d.take 16)
    (if k = 0 then .clean else .corrected k, some { hdr := h, payload := (d.drop 16).take h.payloadLen })

end Sys2Proof.Machine
end

