-- ==== Sys2Proof/Tests/Slice0.lean ====
section
/-! SUPPORT. Tests: forms that are refused, stream words written out from the spec's encodings, single commands with results worked out by
hand from the spec, and for every clause of the obligations with hypotheses a small state and operands that meet them. -/

namespace Sys2Proof.Tests
open Sys2Proof Sys2Proof.Machine

set_option exponentiation.threshold 600
set_option maxRecDepth 10000

/-! ## Small states -/

def jid : JobId := { queue := 0, tag := 7 }

def aBody : JobBody :=
  { pressure := 0, flags := 0, res1 := 0, imageId := 0xA5, windowBase := 0, jobSeed := 5, genBase := 0, saveArea := 0x2000000
    salvageArea := 0, fleetStart := 100, inOff := 0, inBytes := 0x1000, outOff := 0x1000, outBytes := 0x1000, extOff := 0, extBytes := 0
    regionMap := 0 :: List.replicate 15 0xFF, portMap := 3 :: List.replicate 15 0xFF, res2 := 0 }

/-- An image of one logical region, three pieces of two strokes, one host input slot, one memory slot each way and one link slot each way. -/
def anImage : Image :=
  { id := 0xA5, digest := 1, base := 0x1000000, length := 0x1000, apid := 0x58560001, pressureRange := 7, floating := false, express := 2
    L := 2, D := 1, lamniMask := 0, hostMask := 1, window := 0x10000
    regions := [{ region := 0, optical := true, coreMask := 3, opticalMask := 3, coreStaging := 0x10000, regionStaging := 0x10000 }]
    phases := [{ changeover := false, mask := 1, bodyPieces := 3, reps := 1 }]
    coreStreams := [], seqStreams := []
    memSlots := [{ phase := 0, unit := 0, start := 0, len := 4, out := false, use := 0, region := 0, core := 0, sequencer := true, bytes := 256 },
      { phase := 0, unit := 0, start := 100, len := 4, out := true, use := 0, region := 0, core := 0, sequencer := true, bytes := 256 }]
    linkSlots := [{ phase := 0, unit := 0, start := 0, len := 4, out := true, use := 0, region := 0, core := 0, sequencer := true, bytes := 64 },
      { phase := 0, unit := 0, start := 0, len := 4, out := false, use := 0, region := 0, core := 0, sequencer := true, bytes := 64 }]
    hostSlots := [{ phase := 0, unit := 0, start := 0, len := 1, out := false, use := 0, region := 0, core := 0, sequencer := true, bytes := 64 }]
    coxSlots := [], duty := [], power := [{ phase := 0, scope := 0, values := [100, 80, 60] }] }

/-- The same image with Lamni port 0. -/
def linkImage : Image := { anImage with lamniMask := 1 }

def aJob : Job :=
  { id := jid, body := aBody, order := 0, cls := 3, image := 0xA5, fleet := false, st := .running, map := [(0, 0)] }

/-- A block that is ready, with one image, jobs of its own, and region 0 awake. -/
def ready (i : Image) (js : List Job) : Chip :=
  { clk := { refclkOk := true, masterLock := true, aon := 0x1000000000 }
    start := { powered := true, powerGood := true, phase := 8, ready := true, restored := true, memory := true, cold := false }
    cfg := { loaded := true, modes := 7, powerLimit := 0x1000, classMap := [3, 3, 0], reach := 4, hopBudget := 1000, class0 := true,
             surveyThreshold := 5, features := 4, access := 1 }
    sch := { images := [i] }
    jobs := js
    regions := [(0, { power := 2, mode := 0 })] }

def at' (c : Chip) : State := { toChip := c }
def run : Chip := ready anImage [aJob]
def hold (j : Job) : State := at' (ready anImage [j])
def fleetWith (j : Job) : State := at' (ready linkImage [{ j with fleet := true }])

def seq : Site := { job := jid, region := 0, core := none, tick := 0 }
def cs : Site := { job := jid, region := 0, core := some 0, tick := 0 }
def hdr : Hdr := { port := 0, queue := 0, seq := 0, ack := 0, tag := 7, length := 8192, payload := 9000 }
def idle : State := at' (ready anImage [])

def aSlot : Slot := { phase := 0, unit := 0, start := 0, len := 0, out := false, use := 0, region := 0, core := 0, sequencer := true, bytes := 0 }

def anItem : CoxItem :=
  { logical := 0, array := 0, cells := 0, tile := false, tier := 0, rowGroup := 0, column := 0, row := 0, plane := 0, rowBits := 0, codeUsed := 0, scale := 1
    posted := 0, deadline := 256, entry := 0 }

/-- An express job's queue is queue 2; its image is an express one. -/
def expressId : JobId := { queue := 2, tag := 9 }
def expressImage : Image := { anImage with id := 0xE5, express := 1 }

/-- A job whose last piece is due. -/
def lastJob : Job := { aJob with stroke := 12, committed := 2 }

/-- What a TILE of one row leaves on the block `run`. -/
def oneTile : TileOp :=
  { array := 0, tier := 0, tile := false, accumulate := false, inFmt := .int8, wInt4 := false, readPort := false, rows := 1, zeroPoint := 0
    src := 0 }
def nextOf (i : Instr) (s : State) : State :=
  match exec i s with
  | .next t => t
  | _ => s


def aPacket : Packet := { queue := 0, port := 0, seq := 2, tag := 0, time := 0, body := none }

theorem ne_succ (x : BitVec 512) : x ≠ x + 1 := by bv_omega

/-- A VEC operation over four FP32 elements in core staging. -/
def aVec : VecCtx :=
  { core := 0, peri := 0, accs := [], seed := 0, gen := 0, stream := none
    op := { srcA := .staging 0, srcB := .staging 0x10, dst := 0x20, length := 4, fmtIn := .fp32, fmtOut := .fp32, mode := 0
            release := false, sr := false } }

theorem aVec_noHazard : aVec.noHazard 4 := by
  intro src h _ i' i h1 h2
  have key : ∀ src ∈ [aVec.op.srcA, aVec.op.srcB], ∀ i < 4, ∀ i' < i,
      let d := elemStart (coreByte aVec.core aVec.op.dst.toNat) aVec.op.fmtOut i'
      let e := elemStart (aVec.addr src) aVec.op.fmtIn i
      d + elemLen aVec.op.fmtOut ≤ e ∨ e + elemLen aVec.op.fmtIn ≤ d := by decide
  exact key src (by simpa using h) i h2 i' h1

/-! ### Signed bytes

The signatures were made by hand for the private key 1, whose public key is the base point, with the ephemeral key 1: r is the base point's
x modulo the order, s the hash of the signed bytes plus r. -/

def baseKey : Nat × Nat := (ecGx, ecGy)

/-- A signed request of 3,600 s for the challenge 5 (R392). -/
def aRequest : List Byte :=
  leBytes 4 0x52415658 ++ leBytes 2 1 ++ leBytes 2 2 ++ leBytes 16 1 ++ leBytes 32 5 ++ leBytes 4 3600 ++ leBytes 4 0
    ++ signatureBytes (ecGx,
      0xc68bdaaa379dbda54d3bf3e8c7ae8aeeed781c239161b306bffa3c87601db843e0cd570ca879374ff9faf9ffe1f5b12d175b85da3d75db8b0c67a9b51d25f01075)

/-- An owner record with sequence 1, signed with its own key (R389). -/
def aRecord : List Byte :=
  leBytes 4 0x544F5658 ++ leBytes 2 1 ++ leBytes 2 0 ++ leBytes 16 1 ++ leBytes 4 1 ++ leBytes 4 0 ++ [4] ++ beBytes 66 ecGx ++ beBytes 66 ecGy
    ++ List.replicate 11 0
    ++ signatureBytes (ecGx,
      0xc6f80fb89c959213ff99718cfa196150da576e3bc36c1930ab1463c6ef758d09b2338348cd11f8290688d988c198e277a6389661332747456b03f16c384c9a7e28)

/-- A save record of image 0xA5 with no payload (R42), at stroke 0. -/
def aSave : List Byte :=
  leBytes 8 0 ++ leBytes 8 0xA0 ++ leBytes 32 0xA5 ++ leBytes 4 0x58560001 ++ List.replicate 44 0
    ++ beBytes 64
      0x14ae2003f5ea584d745de58718d6f35758d2c0d612457cd62536eda7dca3a75c09c83480767d8828cc2e6263dbbaf26e8083dbd8cd6ae21555e8258ee28846f6

def withData (c : Chip) (off : Nat) (b : List Byte) : Chip := { c with mem := { hbm := writeWindow [] 0 off b } }

/-- What was put in the data space reads back. -/
theorem withData_read (c : Chip) (off : Nat) (b : List Byte) (n : Nat) (h : b.length = n) :
    readWindow (withData c off b).mem.hbm 0 off n = b := by subst h; exact readWindow_writeWindow [] 0 off b

def asking : Chip := { run with acc := { challenge := some (5, 0x1000000001) }, vault := { run.vault with ownerKey := some baseKey } }
def owning : Chip := withData (ready anImage []) 0 aRecord
def resuming : Chip := withData (ready anImage []) 0x2000000 aSave

theorem aRequest_good : (withData asking 0 aRequest).requestGood (readWindow (withData asking 0 aRequest).mem.hbm 0 0 196) = some 3600 := by
  rw [withData_read asking 0 aRequest 196 (by decide)]; decide +kernel

theorem aRecord_good : owning.recordKey (readWindow owning.mem.hbm 0 0 308) = some baseKey := by
  rw [owning, withData_read _ 0 aRecord 308 (by decide)]; decide +kernel

theorem aSave_good : (resuming.accept hdr).readRecord 0x2000000 = some aSave := by
  have h : (resuming.accept hdr).mem = resuming.mem := rfl
  have hn : readWindow resuming.mem.hbm 0 (0x2000000 + 8) 8 = leBytes 8 0xA0 := by decide +kernel
  have hr : readWindow resuming.mem.hbm 0 0x2000000 0xA0 = aSave := withData_read _ _ aSave 0xA0 (by decide)
  have hs : sha512 (aSave.take 0x60 ++ List.replicate 64 0 ++ aSave.drop 0xA0) = slice aSave 0x60 64 := by decide +kernel
  simp only [Chip.readRecord, h, hn]
  rw [if_neg (by decide), if_neg (by decide)]
  have h8 : leNat (leBytes 8 0xA0) = 0xA0 := by decide
  simp only [h8, hr, hs, if_true]

theorem aSave_image : (resuming.accept hdr).recordImage ((resuming.accept hdr).readRecord 0x2000000) = (statusOk, some (anImage, aSave)) := by
  rw [aSave_good]; decide

/-! ## Ill-formed operands are refused (WellFormed.lean) -/

def vadd : VecOp :=
  { srcA := .staging 0, srcB := .staging 0x10, dst := 0x20, length := 1, fmtIn := .bf16, fmtOut := .bf16, mode := 0, release := false, sr := false }
def aMove : HbmMove := { rPort := 0, slotRef := 0, length := 16, addr := 0, hbm := 0 }
def aCopy : CopyMove := { cPort := false, rPort := 0, length := 1, addrA := 0, addrB := 0x10 }
def anOpt : OptOp :=
  { first := 0, count := 1, rows := 1, kblk := 1, aInt4 := false, bInt4 := false, rdPorts := 1, wrPorts := 1, aAddr := 0, bAddr := 0x100
    dst := 0x1000, even := false }

theorem test_form_vec_pair : { vadd with fmtIn := .int8 }.legal 0x00 = false := by decide
theorem test_form_vec_source : { vadd with srcB := .none }.legal 0x00 = false := by decide
theorem test_form_vec_mod : { vadd with mode := 1 }.legal 0x00 = false := by decide
theorem test_form_vec_row : { vadd with srcB := .none, length := 33 }.legal 0x12 = false := by decide
theorem test_form_vec_release : { vadd with release := true }.legal 0x00 = false := by decide
theorem test_form_vec_sr : { vadd with sr := true }.legal 0x00 = false := by decide
theorem test_form_vec_block : { vadd with srcB := .none, fmtOut := .int8, length := 31 }.legal 0x06 = false := by decide
theorem test_form_tile_rows : { oneTile with rows := 17, wInt4 := true }.legal = false := by decide
theorem test_form_tile_zero_point : { oneTile with zeroPoint := 1 }.legal = false := by decide
theorem test_form_opt_rows : { anOpt with rows := 31 }.legal = false := by decide
theorem test_form_opt_run : { anOpt with first := 127, count := 2 }.legal = false := by decide
theorem test_form_opt_ports : { anOpt with rdPorts := 0 }.legal = false := by decide
theorem test_form_dummy_run : dummyLegal 126 2 true = false := by decide
theorem test_form_h2r_port : { aMove with rPort := 2 }.legal false = false := by decide
theorem test_form_r2c_core : { aCopy with addrB := 0x10000 }.legal 2 = false := by decide
theorem test_form_c2c_port : { aCopy with rPort := 1 }.legal 4 = false := by decide
theorem test_form_lrecv_port : ({ port := 2, slotRef := 0, lport := 0, length := 1, addr := 0 } : LinkOp).legal false = false := by decide
theorem test_form_refused : exec (.optTile seq { anOpt with rows := 31 } [] Path.clean) (at' run)
    = .refused (.illFormed "OPT.TILE field outside R66") := by rfl

/-! ## Stream words, written out from R50, R57, R61, R65 to R70, R74, R78, R79 -/

/-- A word of issue delta 0: its opcode byte in bits 31 to 24, its operand fields as (bit, value). -/
def word (opcode : Nat) (fields : List (Nat × Nat)) : Nat := fields.foldl (fun w f => w + f.2 * 2 ^ f.1) (opcode * 2 ^ 24)

/-- The first ARR.TILE of the worked sequence of spec/03: low half 0x0020_0040_2000_0000, high half 0. -/
theorem test_word_tile : decodeInstr true 0x0020004020000000 = some { delta := 0, op := .tile { oneTile with tier := 4, rows := 32 } } :=
    by decide
theorem test_word_piece : decodeInstr false (word 0x01 [(0, 7), (32, 5)]) = some { delta := 7, op := .piece 5 } := by decide
theorem test_word_wake_placement : decodeInstr true (word 0x04 [(32, 3)]) = none := by decide
theorem test_word_drain :
    decodeInstr true (word 0x21 [(32, 15), (36, 1), (40, 0x0400)]) = some
      { delta := 0, op := .drain { array := 15, tile := true, dst := 0x0400 } } := by
  decide
theorem test_word_drain_reserved : decodeInstr true (word 0x21 [(32, 15), (37, 1)]) = none := by decide
theorem test_word_opt : decodeInstr false (word 0x40 [(32, 3), (39, 63), (47, 30), (52, 1), (57, 1), (59, 15), (63, 3), (65, 1), (67, 5),
    (87, 9), (107, 11)])
    = some
      { delta := 0, op := .opt { first := 3, count := 63, rows := 30, kblk := 1, aInt4 := true, bInt4 := false, rdPorts := 15, wrPorts := 3, aAddr := 5, bAddr := 9, dst := 11, even := true } }
      := by decide
theorem test_word_h2r : decodeInstr false (word 0x60 [(32, 0x123456789), (68, 0x10000), (88, 8192), (108, 5), (120, 1)])
    = some { delta := 0, op := .h2r { rPort := 1, slotRef := 5, length := 8192, addr := 0x10000, hbm := 0x123456789 } } := by decide
theorem test_word_c2r : decodeInstr true (word 0x63 [(32, 0x8000), (68, 0x40000), (88, 16), (120, 1), (122, 1)])
    = some { delta := 0, op := .c2r { cPort := true, rPort := 1, length := 16, addrA := 0x40000, addrB := 0x8000 } } := by decide
theorem test_word_stride : decodeInstr false (word 0x66 [(32, 9), (64, 3)]) = some { delta := 0, op := .stride 9 3 } := by decide
theorem test_word_vec_add : decodeInstr true (word 0x80 [(50, 0x10), (68, 0x20), (84, 1), (100, 1), (104, 1)]) = some
    { delta := 0, op := .vec 0x00 vadd } := by
  decide
theorem test_word_vec_req : decodeInstr true (word 0x88 [(32, 0x11), (48, 1), (50, 0x40), (84, 32), (100, 8), (104, 4), (116, 1), (117, 1)])
    = some
      { delta := 0, op := .vec 0x08 { srcA := .acc 1 true, srcB := .staging 0x40, dst := 0, length := 32, fmtIn := .int48, fmtOut := .int8, mode := 0, release := true, sr := true } }
      := by
  decide
theorem test_word_vec_unlisted : decodeInstr true (word 0x96 []) = none := by decide
theorem test_word_seed : decodeInstr true (word 0x95 [(32, 0x800000000001), (80, 0xABCD)]) = some
    { delta := 0, op := .seed 0x800000000001 0xABCD } := by
  decide
theorem test_word_xch : decodeInstr true (word 0xA1 [(32, 2), (52, 3), (72, 15), (76, 31), (81, 1), (82, 4), (118, 1)])
    = some { delta := 0, op := .xchRegion { port := true, length := 4, add := true, dstCore := 31, dstRegion := 15, dst := 3, src := 2 } }
      := by decide
theorem test_word_lrecv : decodeInstr false (word 0xA3 [(52, 3), (82, 4), (102, 6), (106, 2), (118, 1)])
    = some { delta := 0, op := .lrecv { port := 1, slotRef := 2, lport := 6, length := 4, addr := 3 } } := by decide

/-! ## The standards that the spec names -/

/-- The first 80 primes, whose roots FIPS 180-4 takes its constants from. -/
def primes : List Nat := (List.range 410).filter (fun p => decide (2 ≤ p) && (List.range p).all (fun d => decide (d < 2) || p % d != 0))
/-- Each round constant is the first 64 bits of the fraction of a cube root, each initial word of a square root. -/
theorem test_sha_cubes : primes.length = 80 ∧ (primes.zip shaK).all (fun x => (List.range 8).any (fun n =>
    let y := n * 2 ^ 64 + x.2.toNat
    decide (y ^ 3 ≤ x.1 * 2 ^ 192) && decide (x.1 * 2 ^ 192 < (y + 1) ^ 3))) = true := by decide +kernel
theorem test_sha_roots : (primes.zip shaInit).all (fun x => (List.range 5).any (fun n =>
    let y := n * 2 ^ 64 + x.2.toNat
    decide (y ^ 2 ≤ x.1 * 2 ^ 128) && decide (x.1 * 2 ^ 128 < (y + 1) ^ 2))) = true := by decide +kernel
/-- FIPS 180-4's one-block message "abc". -/
theorem test_sha512_abc : (sha512 [0x61, 0x62, 0x63]).take 8 = [0xDD, 0xAF, 0x35, 0xA1, 0x93, 0x61, 0x7A, 0xBA] := by decide +kernel

/-! ## Stream commands, on the block `run` -/

/-- A block with bytes at the start of core 0's staging of region 0, or of the region's staging. -/
def core (b : List (Nat × Byte)) : State := at' { run with mem := { cstg := b } }
def rgn (b : List (Nat × Byte)) : State := at' { run with mem := { rstg := b } }

theorem test_wake :
    ((nextOf (.synWake seq 1 .good) (hold { aJob with map := [(0, 0), (1, 9)] })).toChip.region 9).wakeAt = some 2048 := by decide
theorem test_sleep : ((nextOf (.synSleep seq 0 .good) (at' run)).toChip.region 0).sleepAtEnd = true := by decide
theorem test_catch : (nextOf (.synCatch seq .good) (at' { (ready linkImage [aJob]) with ports := [(3, { state := 4 })] })).fleetOut.length
    = 1 := by decide
/-- A sequencer's lock-step pair disagrees in the tick of a NOP: a dangerous event of the region source (R365, R380). -/
theorem test_lockstep : (look ({} : Ring) (nextOf (.synNop seq .split) (at' run)).log.rings 0x100).recs.map (fun e => (e.code, e.detail)) =
    [(0x105, 10)] := by decide
theorem test_piece_other : ((nextOf (.synPiece seq 1 .good) (at' run)).toChip.job? jid).map (·.holdNext) = some (some .image) := by decide

/-- The first TILE of one INT8 row in a piece: σ = 64, E = 64 + 32 × 8 = 320, ready at E + 272 (R63). -/
theorem test_tile : (nextOf (.arrTile cs oneTile [] [] Path.clean) (core [(0, 3), (1, 0xFE)])).toChip.tile 0 =
    { st := .filling, job := some jid, since := 592 } := by decide
theorem test_drain_frees :
    (fun (x : Tile) => (x.at 255, x.at 256))
      ((nextOf (.arrDrain cs { array := 0, tile := false, dst := 0 } Path.clean) (at'
        { run with tiles := [(0, { st := .ready, job := some jid })] })).toChip.tile 0)
      = (.draining, .free) := by decide
theorem test_drain_not_ready : (nextOf (.arrDrain cs { array := 0, tile := false, dst := 0 } Path.clean) (at' run)).saf.permanent = 1 := by
    decide
theorem test_exercise_missed : (nextOf (.checkPathExercise 0 0 0 false) (at' run)).saf.dangCompute = 1 := by decide

theorem test_dummy : ((nextOf (.optDummy { seq with tick := 4095 } 0 2 2 true .good) (at' run)).toChip.region 0).dutyNow
    = [{ plot := 0, start := 0, last := 1 }, { plot := 2, start := 0, last := 1 }] := by decide
theorem test_r2c : getByte (nextOf (.stgR2c cs { aCopy with addrB := 1 } Path.clean) (rgn [(15, 0xAA)])).mem.cstg 31 = 0xAA := by decide
theorem test_c2c : (nextOf (.stgC2c cs { aCopy with addrA := 1, addrB := 0 } Path.clean) (core [(0, 1)])).mem.cstg = [(0, 1), (16, 1)] :=
    by decide
theorem test_stride : ((nextOf (.stgStride seq 9 3 .good) (at' run)).toChip.job? jid).map (·.strides) = some [(0,
    { repStride := 9, repMod := 3 })] := by decide
theorem test_seed : ((nextOf (.vecSeed cs 5 6 .good) (at' run)).toChip.core 0).seed = some (5, 6) := by decide

/-- 1.5 + 2.5 = 4.0 in BF16. -/
theorem test_vec_add :
    readLE (nextOf (.vecAdd cs vadd Path.clean) (core [(0, 0xC0), (1, 0x3F), (256, 0x20), (257, 0x40)])).mem.cstg 512 2 = 0x4080 := by
      decide
/-- 1.5 × −2.0 = −3.0. -/
theorem test_vec_mul :
    readLE (nextOf (.vecMul cs vadd Path.clean) (core [(0, 0xC0), (1, 0x3F), (257, 0xC0)])).mem.cstg 512 2 = 0xC040 := by decide
/-- 1.5 × 2.0 + 1.0 = 4.0. -/
theorem test_vec_fma :
    readLE (nextOf (.vecFma cs vadd Path.clean) (core [(0, 0xC0), (1, 0x3F), (257, 0x40), (512, 0x80), (513, 0x3F)])).mem.cstg 512 2 =
      0x4080 := by decide
/-- The larger and the smaller of 1.0 and −2.0. -/
theorem test_vec_max :
    readLE (nextOf (.vecMax cs vadd Path.clean) (core [(0, 0x80), (1, 0x3F), (257, 0xC0)])).mem.cstg 512 2 = 0x3F80 := by decide
theorem test_vec_min :
    readLE (nextOf (.vecMin cs vadd Path.clean) (core [(0, 0x80), (1, 0x3F), (257, 0xC0)])).mem.cstg 512 2 = 0xC000 := by decide
/-- 2.5 to INT8: 2 to nearest even, 2 toward minus infinity. -/
theorem test_vec_cvt :
    readLE (nextOf (.vecCvt cs { vadd with srcB := .none, fmtOut := .int8 } Path.clean) (core [(0, 0x20), (1, 0x40)])).mem.cstg 512 1 = 2
      := by decide
/-- 1.0 on the datum 2^-4 is 16, and back. -/
theorem test_vec_datum :
    readLE (nextOf (.vecDatum cs { vadd with srcB := .none, fmtOut := .record, mode := 4 } Path.clean) (core [(0, 0x80), (1,
      0x3F)])).mem.cstg 512 16 = 16 := by
  decide
theorem test_vec_undatum :
    readLE (nextOf (.vecUndatum cs { vadd with srcB := .none, fmtIn := .record, mode := 4 } Path.clean) (core [(0, 16)])).mem.cstg 512 2 =
      0x3F80 := by decide
/-- 1 + (−1) = 0 over 128 bits. -/
theorem test_vec_radd :
    readLE (nextOf (.vecRadd cs { vadd with fmtIn := .record, fmtOut := .record } Path.clean)
      (core ((0, 1) :: (List.range 16).map (fun k => (256 + k, 0xFF))))).mem.cstg 512 16 = 0 := by decide
theorem test_vec_rcp :
    readLE (nextOf (.vecRcp cs { vadd with srcB := .none } Path.clean) (core [(1, 0x40)])).mem.cstg 512 2 = 0x3F00 := by decide
theorem test_vec_exp2 :
    readLE (nextOf (.vecExp2 cs { vadd with srcB := .none } Path.clean) (core [(0, 0x40), (1, 0x40)])).mem.cstg 512 2 = 0x4100 := by decide
theorem test_vec_log2 :
    readLE (nextOf (.vecLog2 cs { vadd with srcB := .none } Path.clean) (core [(1, 0x41)])).mem.cstg 512 2 = 0x4040 := by decide
theorem test_vec_rsqrt :
    readLE (nextOf (.vecRsqrt cs { vadd with srcB := .none } Path.clean) (core [(0, 0x80), (1, 0x40)])).mem.cstg 512 2 = 0x3F00 := by decide
/-- Two records, 2^126 and 2^126, add to the upper bound of the record, 2^127 − 1, one overflow counted (R188, R193). -/
theorem test_xch_add :
    readLE (nextOf (.xchCore cs { port := false, length := 1, add := true, dstCore := 1, dstRegion := 0, dst := 0, src := 0 } Path.clean)
      (core [(15, 0x40), (1048591, 0x40)])).mem.cstg 1048576 16 = 2 ^ 127 - 1 := by decide

/-! ## Strokes and jobs -/

theorem test_chip_stroke : (nextOf .chipStroke (at' run)).clk.chipStroke = 1 := by decide
theorem test_stroke_boundary : ((nextOf (.strokeBoundary 0 [] []) (at' run)).toChip.job? jid).map (·.stroke) = some 1 := by decide
theorem test_rerow : ((nextOf (.rerow jid) (hold { aJob with rerow := true, stroke := 5, committed := 2 })).toChip.job? jid).map (·.stroke)
    = some 4 := by
  decide
theorem test_abort_running : ((nextOf (.jobAbort hdr { aBody with fleetStart := 0 }) (at' run)).toChip.job? jid).map (·.abortReq) = some
    (some (0, 2)) := by decide
/-- IMAGE_DIGEST is status 0x05. -/
theorem test_submit_unknown_image :
    (nextOf (.jobSubmit hdr { aBody with imageId := 1 }) idle).host.sent.map (·.body) = [some (.receipt 5 0 0)] := by decide
theorem test_zeroing : (nextOf (.regionZeroDone 1) (at'
    { run with regions := [(1, { zeroing := 1 })], mem := { rstg := [(2 ^ 24, 7), (2 ^ 25, 9)] } })).mem.rstg
    = [(2 ^ 25, 9)] := by decide

/-! ## Registers and the host ports -/

theorem test_register_plain : (nextOf (.registerWrite 0x20030 0xFFFFFFFF Fabric.clean) State.reset).toChip.regValue 0x20030 = 0x7F := by
    decide
theorem test_register_w1c : (nextOf (.registerWrite 0x40 1 Fabric.clean) (at' { log := { newChip := 3 } })).log.newChip = 2 := by decide
theorem test_level_queue_pop : (nextOf .monQueuePop (at' { lvl := { queue := [1, 2] } })).lvl.queue = [2] := by decide
theorem test_arp_foreign : ((nextOf (.arpRequest 0 7 9) (at' run)).toChip.hport 0).foreign = 1 := by decide
theorem test_link_up_400 : ((nextOf (.hostLinkUp 1 true) (at' run)).toChip.hport 1).speed = 2 := by decide
theorem test_queue_reset_busy : (nextOf .queueReset (at' run)).host.queueCtrl = 2 := by decide

/-! ## Units, surveys, level, light -/

theorem test_erase : ((nextOf (.tierErase 0 0 0 5) (at' run)).toChip.tier 5).st = .programming := by decide
theorem test_swap_stage_blank : ((nextOf (.swapStage 0 0 0 1 2) (at' run)).toChip.arr 0).staged = false := by decide
theorem test_survey_test_drift : ((nextOf (.surveyTest (.plot 0 3) 0 true) (at' run)).toChip.plot 3).survey.cause = 3 := by decide
/-- 98.0625 °C is above the limit of R374, 98.0 °C; the tenth reading in a row calls for the stop. -/
theorem test_temperature_stop : (nextOf (.temperatureWatchSample 1569) (at' { run with saf := { hot := 9 } })).saf.thermalDue = true := by
    decide
theorem test_easy_entry : ((nextOf (.easyEntry 0) (at' { run with saf := { easy := true } })).toChip.region 0).halved = true := by decide
theorem test_inject_refused : (nextOf (.monInjectRequest 91) (at' run)).lvl.injectRefused = 1 := by decide
theorem test_standby : (nextOf (.laserStandbyReached (.compute 0 9)) (at'
    { run with lasers := [(9, { state := 1, group := 0xF })] })).toChip.laser 9
    = { state := 2, group := 0xF } := by decide
/-- An error of −5 moves the bias by 2: its quarter rounds down to −2 (R172). -/
theorem test_lock_loop : ((nextOf (.lockLoopUpdate { g := 0, o := 0, b := 0 } (-5)) (at'
    { run with banks := [(0, { lock := 3 })] })).toChip.bank 0).bias = 2 := by
  decide
theorem test_pilot_tag : ((nextOf (.pilotFrame { g := 0, o := 0, b := 3 } (tagChips (tagWord false 3 0))) (at'
    { run with banks := [(3, { lock := 3 })] })).toChip.bank 3).tagOk
    = true := by decide
theorem test_scrub : ((nextOf (.scrub 2 0 (.corrected 5) 0 false 1) (at' run)).toChip.stack 2).corrected = 5 := by decide

/-! ## Links, fleet, power, identity -/

/-- A frame header with every field set (R260). -/
def aHdr : FrameHdr :=
  { type := 1, mode := 2, easy := true, blockTag := 5, lane := 6, index := 0x123, last := true, stroke := 0x010203040506, sendTick := 0xABC
    payloadLen := 208, digestFrag := 0xA5, reservedZero := true }
theorem test_header_bytes : hdrBytes aHdr = [0x61, 0xC5, 0x23, 0x21, 6, 5, 4, 3, 2, 1, 0xBC, 0x0A, 0, 0, 0xD0, 0xA5] := by decide
def aFrame : List Byte := frameBytes 8 aHdr (.data (List.replicate 208 7))
theorem test_frame_marker : aFrame.take 4 = [0xC3, 0x5A, 8, 0xF7] ∧ aFrame.length = 256 := by decide +kernel
theorem test_frame_read : readFrame (aFrame.drop 4) = (.clean, some { hdr := aHdr, payload := List.replicate 208 7 }) := by decide +kernel
/-- The scrambler of x^31 + x^28 + 1 set to ones gives 28 zeros, then three ones (R260). -/
theorem test_scrambler : scramble [0, 0, 0, 0] = [0, 0, 0, 0x70] := by decide +kernel
theorem test_frame_corrected : (readFrame (((aFrame.drop 4).take 20) ++ 0 :: aFrame.drop 25)).1 ≠ .clean := by decide +kernel

theorem test_measure : ((nextOf (.measureFrame 2 0 aHdr { sent := 0, echoed := 400, turnaround := 100 } 1100 .clean) (at' run)).toChip.port
    2).delays = [600] := by decide
theorem test_hop_mean : ((nextOf (.hopMeasure 2) (at' { run with ports := [(2, { state := 4, delays := [1200, 1204] })] })).toChip.port
    2).hop = 601 := by decide
theorem test_lane_retire_no_lane : ((nextOf (.lnkRetireLane 2) (at' { run with ports := [(2, { laneSel := 9 })] })).toChip.port 2).pendRx =
    [] := by decide
theorem test_fleet_stroke : (nextOf .fleetStroke (at' { run with clk := { run.clk with fleetRunning := true } })).clk.fleetStroke = 1 := by
    decide
theorem test_fsync_start : (nextOf (.fsyncEdge 0) (at' run)).clk.fleetRunning = true := by decide
theorem test_refclk_lost : (nextOf .refclkLost (at' run)).jobs = [] := by decide +kernel
theorem test_power_good : (nextOf .powerGood State.reset).start.powerGood = true := by decide
theorem test_reset_release : (nextOf .resetRelease (at' { start := { powerGood := true } })).start.phase = 1 := by decide
theorem test_access_level0 : (nextOf .accessReturnLevel0 (at' { run with acc := { level := 2 } })).acc.level = 0 := by decide
theorem test_tap_level : (nextOf .tapIdcode (at' { run with acc := { level := 1 } })).acc.tap = .idle := by decide
theorem test_config_write_recovering : (nextOf .configWrite State.reset).cfg.result = 3 := by decide

/-! ## The hypotheses of the obligations can be met -/

theorem witness_StepRunsTheFrontCommand_0 : ∃ (c : Instr) (rest : List Instr) (s : State),
    s.pending = c :: rest :=
  ⟨.chipStroke, [.queueReset], { at' run with pending := [.chipStroke, .queueReset] }, by decide⟩

theorem witness_StepTakesOneCommand_0 : ∃ (s : State) (t : State),
    step s = .next t :=
  ⟨{ at' run with pending := [.synNop seq .good, .queueReset] }, { at' run with pending := [.queueReset] }, rfl⟩

theorem witness_StepTakesOneCommand_1 : ∃ (s : State) (t : State),
    step s = .next t ∧ s.pending = [] :=
  ⟨(at' run), (at' run), ⟨rfl, rfl⟩⟩

theorem witness_SynMarkersComplete_1 : ∃ (st : Site) (s : State) (j : Job) (g : Nat) (b : BitVec 32),
    s.toChip.atSite st = some (j, g) ∧ (s.toChip.pos j).map (·.piece) = some b.toNat :=
  ⟨seq, (at' run), aJob, 0, 0, by decide⟩

theorem witness_SynMarkersComplete_2 : ∃ (st : Site) (s : State) (j : Job) (g : Nat) (p : BitVec 6),
    s.toChip.atSite st = some (j, g) ∧ (s.toChip.pos j).map (·.phase) = some p.toNat :=
  ⟨cs, (at' run), aJob, 0, 0, by decide⟩

theorem witness_SynMarkersComplete_3 : ∃ (st : Site) (s : State) (j : Job) (g : Nat),
    s.toChip.atSite st = some (j, g) ∧ st.onSeq = true :=
  ⟨seq, (at' run), aJob, 0, by decide⟩

theorem witness_SynMarkersComplete_4 : ∃ (st : Site) (s : State) (j : Job) (g : Nat) (target : Fin 16) (r : Nat),
    s.toChip.atSite st = some (j, g) ∧ st.onSeq = true ∧ j.phys target.val = some r ∧ (s.toChip.region r).power = 0 :=
  ⟨seq, (hold { aJob with map := [(0, 0), (1, 9)] }), { aJob with map := [(0, 0), (1, 9)] }, 0, 1, 9, by decide⟩

theorem witness_SynMarkersComplete_5 : ∃ (st : Site) (s : State) (j : Job) (g : Nat) (target : Fin 16) (r : Nat),
    s.toChip.atSite st = some (j, g) ∧ st.onSeq = true ∧ j.phys target.val = some r ∧ (s.toChip.region r).power ≠ 0 :=
  ⟨seq, (at' run), aJob, 0, 0, 0, by decide⟩

theorem witness_SynMarkersComplete_6 : ∃ (st : Site) (s : State) (j : Job) (g : Nat) (w : Fetch) (b : BitVec 32) (p : BitVec 6) (i : Instr),
    s.toChip.atSite st = some (j, g) ∧ w ≠ .good ∧ st.onSeq = true ∧ (s.toChip.pos j).map (·.phase) = some p.toNat ∧ i ∈ [Instr.synNop st
      w, .synPiece st b w, .synCatch st w, .synChange st p w] :=
  ⟨seq, (at' run), aJob, 0, .bad, 0, 0, .synCatch seq .bad, by decide⟩

theorem witness_PieceMismatchHoldsTheJob_0 : ∃ (st : Site) (s : State) (j : Job) (g : Nat) (b : BitVec 32),
    s.toChip.atSite st = some (j, g) ∧ (s.toChip.pos j).map (·.piece) ≠ some b.toNat ∧ j.fleet = false :=
  ⟨seq, (at' run), aJob, 0, 3, by decide⟩

theorem witness_ArrayCommandsComplete_0 : ∃ (st : Site) (s : State) (j : Job) (g : Nat) (lc : Fin 32) (op : TileOp) (p : Path),
    s.toChip.atSite st = some (j, g) ∧ st.core = some lc ∧
    let cells := s.toChip.cellsOf g lc.val op.array.val;
    let peri := s.toChip.periOf cells;
    let tile := (s.toChip.tile (tileKey peri op.tile)).at st.tick;
    op.legal = true ∧ inCore op.src.toNat (op.rows * rowBytes op.inFmt) = true ∧ 0 < op.rows ∧ p.fetchBad = false ∧ (s.toChip.tier (tierKey
      cells (look op.tier (s.toChip.arr cells).map op.tier.val).val)).st ≠ .programming ∧ (if op.accumulate then tile = .filling ∨ tile =
      .ready else tile = .free) :=
  ⟨cs, (at' run), aJob, 0, 0,
    { array := 15, tier := 63, tile := true, accumulate := false, inFmt := .int8, wInt4 := false, readPort := true, rows := 32, zeroPoint := 0, src := 0 },
    Path.clean, by decide⟩

theorem witness_ArrayCommandsComplete_1 : ∃ (st : Site) (s : State) (j : Job) (g : Nat) (lc : Fin 32) (array : Fin 16) (tile : Bool),
    s.toChip.atSite st = some (j, g) ∧ st.core = some lc ∧
    let key := tileKey (s.toChip.periOf (s.toChip.cellsOf g lc.val array.val)) tile;
    st.tick = 0 ∧ (s.toChip.tile key).st = .filling :=
  ⟨cs, (at' { run with tiles := [(0, { st := .filling, job := some jid }), (1, { st := .ready, job := some jid })] }), aJob, 0, 0, 0,
    false, by decide⟩

theorem witness_ArrayCommandsComplete_2 : ∃ (st : Site) (s : State) (j : Job) (g : Nat) (lc : Fin 32) (op : DrainOp) (p : Path),
    s.toChip.atSite st = some (j, g) ∧ st.core = some lc ∧
    let peri := s.toChip.periOf (s.toChip.cellsOf g lc.val op.array.val);
    inCore op.dst.toNat 16384 = true ∧ p.fetchBad = false ∧ (s.toChip.tile (tileKey peri op.tile)).st = .ready :=
  ⟨cs, (at' { run with tiles := [(0, { st := .filling, job := some jid }), (1, { st := .ready, job := some jid })] }), aJob, 0, 0,
    { array := 0, tile := true, dst := 0xFC00 }, Path.clean, by decide⟩

theorem witness_TileAddsTheProduct_0 : ∃ (st : Site) (op : TileOp) (p : Path) (s : State) (t : State) (j : Job) (g : Nat) (lc : Fin 32) (r
    : _) (q : _),
    let cells := s.toChip.cellsOf g lc.val op.array.val;
    let peri := s.toChip.periOf cells;
    let tier := (look op.tier (s.toChip.arr cells).map op.tier.val).val;
    let T := tierKey cells tier;
    let tile := (s.toChip.tile (tileKey peri op.tile)).at st.tick;
    s.toChip.atSite st = some (j, g) ∧ st.core = some lc ∧ op.legal = true ∧ inCore op.src.toNat (op.rows * rowBytes op.inFmt) = true ∧ 0 <
      op.rows ∧ p.fetchBad = false ∧ (s.toChip.tier T).st ≠ .programming ∧ (if op.accumulate then tile = .filling ∨ tile = .ready else tile
      = .free) ∧ storedAdj s.toChip cells T op.wInt4 = [] ∧ stuckAdj (s.toChip.arr cells) tier = [] ∧ exec (.arrTile st op [] [] p) s =
      .next t ∧ r < op.rows ∧ q < columnsOf op.wInt4 :=
  ⟨cs, oneTile, Path.clean, (at' run), nextOf (.arrTile cs oneTile [] [] Path.clean) (at' run), aJob, 0, 0, 0, 0, by decide, by decide, by
    decide, by decide, by decide, by decide, by decide, by decide, by decide, by decide, rfl, by decide, by decide⟩

theorem witness_CheckPathExercises_0 : ∃ (g : Fin 16) (a : Fin 17) (s : State),
    (s.toChip.region g.val).stroke.toNat % 256 = 15 * a.val :=
  ⟨15, 16, (at' { run with regions := [(15, { stroke := 240 })] }), by decide⟩

theorem witness_CheckPathExercises_2 : ∃ (g : Fin 16) (o : Fin 136) (s : State),
    (s.toChip.region g.val).stroke.toNat % 256 = o.val :=
  ⟨3, 135, (at' { run with regions := [(3, { stroke := 0x187 })] }), by decide⟩

theorem witness_CoxSlotServesTheItem_0 : ∃ (job : JobId) (region : Fin 16) (lc : Fin 32) (start : Nat) (s : State) (j : Job) (g : Nat) (i :
    Image) (q : Pos) (x : CoxItem),
    let core := s.toChip.seat g lc.val;
    s.toChip.atSite { job := job, region := region, core := some lc, tick := start } = some (j, g) ∧ s.toChip.imageOf j = some i ∧
      s.toChip.pos j = some q ∧ bookedEscapes i q.phase region.val lc.val (start % 4096) = 0 ∧ start % 128 = 0 ∧ chooseItem (s.toChip.core
      core).items start = some x ∧ ((∀ y ∈ (s.toChip.core core).items, y ≠ x → start + 256 ≤ y.deadline)) ∧ (∀ y ∈ (s.toChip.core
      core).coming, start < y.posted) :=
  ⟨jid, 0, 0, 0, (at' { run with cores := [(0, { items := [anItem] })] }), aJob, 0, anImage,
    { phase := 0, rep := 0, piece := 0, bodyStroke := 0 }, anItem, by decide⟩

theorem witness_CoxSlotServesTheItem_1 : ∃ (g : Fin 16) (k : Fin 34) (entry : Fin 16) (s : State),
    let core := g.val * 34 + k.val;
    let e : TableEntry := look {} (s.toChip.core core).table entry.val;
    keysRise 0 (s.toChip.core core).table = true ∧ e.state = 2 ∧ 16 ≤ e.strokes :=
  ⟨2, 33, 15, (at' { run with cores := [(101, { table := [(15, { state := 2, strokes := 16 })] })] }), by decide⟩

theorem witness_OpticalCommandsComplete_0 : ∃ (st : Site) (s : State) (j : Job) (g : Nat) (op : OptOp) (p : Path),
    s.toChip.atSite st = some (j, g) ∧ st.onSeq = true ∧ op.legal = true ∧ 0 < op.count ∧ 0 < op.rows ∧ 0 < op.kblk ∧ s.toChip.fitsRegion
      st op.aAddr.toNat (optABytes op) = true ∧ s.toChip.fitsRegion st op.bAddr.toNat (optBBytes op) = true ∧ s.toChip.fitsRegion st
      op.dst.toNat (optResBytes op) = true ∧ p.fetchBad = false :=
  ⟨seq, (at' run), aJob, 0,
    { first := 0, count := 2, rows := 1, kblk := 1, aInt4 := false, bInt4 := true, rdPorts := 1, wrPorts := 1, aAddr := 0, bAddr := 0x100, dst := 0x200, even := false },
    Path.clean, by decide⟩

theorem witness_OpticalCommandsComplete_1 : ∃ (st : Site) (s : State) (j : Job) (g : Nat) (first : Fin 128) (count : Nat) (span : BitVec
    16) (even : Bool),
    s.toChip.atSite st = some (j, g) ∧ st.onSeq = true ∧ dummyLegal first count even = true ∧ span ≠ 0 :=
  ⟨seq, (at' run), aJob, 0, 127, 1, 1, false, by decide⟩

theorem witness_HbmMovesComplete_0 : ∃ (st : Site) (s : State) (j : Job) (g : Nat) (op : HbmMove) (p : Path) (i : Image) (e : Slot),
    s.toChip.atSite st = some (j, g) ∧ st.onSeq = true ∧ op.legal false = true ∧ p.fetchBad = false ∧ 0 < op.length.toNat ∧
      s.toChip.fitsRegion st op.addr.toNat (hbmBytes op) = true ∧ s.toChip.moves j = true ∧ s.toChip.imageOf j = some i ∧ s.toChip.slotOf j
      i.memSlots op.slotRef.toNat st.region.val false = some e ∧ 0 < e.bytes :=
  ⟨seq, (at' run), aJob, 0, { rPort := 0, slotRef := 0, length := 16, addr := 0xFFFF0, hbm := 0 }, Path.clean, anImage,
    anImage.memSlots.getD 0 aSlot, by decide⟩

theorem witness_HbmMovesComplete_1 : ∃ (st : Site) (s : State) (j : Job) (g : Nat) (op : HbmMove) (p : Path) (i : Image) (e : Slot),
    s.toChip.atSite st = some (j, g) ∧ st.onSeq = true ∧ op.legal true = true ∧ p.fetchBad = false ∧ 0 < op.length.toNat ∧
      s.toChip.fitsRegion st op.addr.toNat (hbmBytes op) = true ∧ s.toChip.moves j = true ∧ s.toChip.imageOf j = some i ∧ s.toChip.slotOf j
      i.memSlots op.slotRef.toNat st.region.val true = some e ∧ 0 < e.bytes :=
  ⟨seq, (at' run), aJob, 0, { rPort := 0, slotRef := 1, length := 16, addr := 0xFFFF0, hbm := 0 }, Path.clean, anImage,
    anImage.memSlots.getD 1 aSlot, by decide⟩

theorem witness_HbmMovesComplete_2 : ∃ (st : Site) (s : State) (j : Job) (g : Nat),
    s.toChip.atSite st = some (j, g) ∧ st.onSeq = true :=
  ⟨seq, (at' run), aJob, 0, by decide⟩

theorem witness_StagingCopiesComplete_0 : ∃ (st : Site) (s : State) (j : Job) (g : Nat) (op : CopyMove) (p : Path) (lc : Fin 32),
    s.toChip.atSite st = some (j, g) ∧ p.fetchBad = false ∧ 0 < op.length.toNat ∧ s.toChip.moves j = true ∧ st.core = some lc ∧
    let n := copyBytes op;
    op.legal 2 = true ∧ s.toChip.fitsRegion st op.addrA.toNat n = true ∧ inCore op.addrB.toNat n = true :=
  ⟨cs, (at' run), aJob, 0, { cPort := false, rPort := 0, length := 1, addrA := 0xFFFFF, addrB := 0xFFFF }, Path.clean, 0, by decide⟩

theorem witness_StagingCopiesComplete_1 : ∃ (st : Site) (s : State) (j : Job) (g : Nat) (op : CopyMove) (p : Path) (lc : Fin 32),
    s.toChip.atSite st = some (j, g) ∧ p.fetchBad = false ∧ 0 < op.length.toNat ∧ s.toChip.moves j = true ∧ st.core = some lc ∧
    let n := copyBytes op;
    op.legal 3 = true ∧ s.toChip.fitsRegion st op.addrA.toNat n = true ∧ inCore op.addrB.toNat n = true :=
  ⟨cs, (at' run), aJob, 0, { cPort := false, rPort := 0, length := 1, addrA := 0xFFFFF, addrB := 0xFFFF }, Path.clean, 0, by decide⟩

theorem witness_StagingCopiesComplete_2 : ∃ (st : Site) (s : State) (j : Job) (g : Nat) (op : CopyMove) (p : Path) (lc : Fin 32),
    s.toChip.atSite st = some (j, g) ∧ p.fetchBad = false ∧ 0 < op.length.toNat ∧ s.toChip.moves j = true ∧ st.core = some lc ∧
    let n := copyBytes op;
    op.legal 4 = true ∧ inCore op.addrA.toNat n = true ∧ inCore op.addrB.toNat n = true :=
  ⟨cs, (at' run), aJob, 0, { cPort := false, rPort := 0, length := 16, addrA := 16, addrB := 0 }, Path.clean, 0, by decide⟩

theorem witness_StagingCopiesComplete_3 : ∃ (st : Site) (s : State) (j : Job) (g : Nat) (op : CopyMove) (p : Path),
    s.toChip.atSite st = some (j, g) ∧ p.fetchBad = false ∧ 0 < op.length.toNat ∧ s.toChip.moves j = true ∧ st.onSeq = true ∧ op.legal 5 =
      true ∧
    let n := copyBytes op;
    s.toChip.fitsRegion st op.addrA.toNat n = true ∧ s.toChip.fitsRegion st op.addrB.toNat n = true :=
  ⟨seq, (at' run), aJob, 0, { cPort := false, rPort := 0, length := 16, addrA := 16, addrB := 0 }, Path.clean, by decide⟩

theorem witness_ExchangesComplete_0 : ∃ (st : Site) (s : State) (j : Job) (g : Nat) (h : Nat) (lc : Fin 32) (op : XchOp) (p : Path),
    s.toChip.atSite st = some (j, g) ∧ st.core = some lc ∧ p.fetchBad = false ∧ 0 < op.length.toNat ∧ s.toChip.moves j = true ∧ xchFits op
      = true ∧ op.dstRegion = st.region ∧ h = g :=
  ⟨cs, (at' run), aJob, 0, 0, 0, { port := false, length := 1, add := true, dstCore := 1, dstRegion := 0, dst := 0xFFFF, src := 0 },
    Path.clean, by decide⟩

theorem witness_ExchangesComplete_1 : ∃ (st : Site) (s : State) (j : Job) (g : Nat) (h : Nat) (lc : Fin 32) (op : XchOp) (p : Path),
    s.toChip.atSite st = some (j, g) ∧ st.core = some lc ∧ p.fetchBad = false ∧ 0 < op.length.toNat ∧ s.toChip.moves j = true ∧ xchFits op
      = true ∧ op.dstRegion ≠ st.region ∧ j.phys op.dstRegion.val = some h :=
  ⟨cs, (hold { aJob with map := [(0, 0), (1, 9)] }), { aJob with map := [(0, 0), (1, 9)] }, 0, 9, 0,
    { port := false, length := 1, add := false, dstCore := 1, dstRegion := 1, dst := 0xFFFF, src := 0 }, Path.clean, by decide⟩

theorem witness_VecOperationsComplete_0 : ∃ (st : Site) (s : State) (j : Job) (g : Nat) (lc : Fin 32),
    s.toChip.atSite st = some (j, g) ∧ st.core = some lc :=
  ⟨cs, (at' run), aJob, 0, 0, by decide⟩

theorem witness_VecOperationsComplete_1 : ∃ (o : Nat) (i : Site → VecOp → Path → Instr) (st : Site) (op : VecOp) (p : Path) (s : State) (j
    : Job) (g : Nat) (lc : Fin 32),
    let core := s.toChip.seat g lc.val;
    vecInstr o = some i ∧ s.toChip.atSite st = some (j, g) ∧ st.core = some lc ∧ op.legal o = true ∧ vecInRange o op = true ∧ p.fetchBad =
      false ∧ (usesTables o op && p.tableBad) = false ∧ ((op.sr = true → (s.toChip.core core).seed.isSome = true)) ∧ s.toChip.accReady
      (s.toChip.accPeri g lc.val op.srcA) op.srcA = true :=
  ⟨0x08, .vecReq, cs,
    { srcA := .acc 0 true, srcB := .staging 0x10, dst := 0x20, length := 2048, fmtIn := .int48, fmtOut := .int8, mode := 0, release := true, sr := true },
    Path.clean, (at' { run with tiles := [(1, { st := .ready })], cores := [(0, { seed := some (0, 0) })] }), aJob, 0, 0, ⟨rfl, by decide⟩⟩

theorem witness_VecElementResults_0 : ∃ (o : Nat) (x : VecCtx) (f : Mem → Nat → Nat × Cnt) (len : Nat) (i : _),
    elemOf x o = some f ∧ x.op.legal o = true ∧ x.noHazard len ∧ i < len :=
  ⟨0x00, aVec, addElem aVec, 4, 3, rfl, by decide, aVec_noHazard, by decide⟩

theorem witness_VecElementResults_1 : ∃ (o : Nat) (x : VecCtx),
    x.op.legal o = true :=
  ⟨0x00,
    { core := 0, peri := 0, accs := [], op := { srcA := .staging 0, srcB := .staging 0x10, dst := 0x20, length := 4, fmtIn := .fp32, fmtOut := .fp32, mode := 0, release := false, sr := false }, seed := 0, gen := 0, stream := none },
    by decide⟩

theorem witness_StrokesAdvance_0 : ∃ (g : Fin 16) (s : State),
    let r := s.toChip.region g.val;
    s.clk.masterLock = true ∧ r.power ≠ 0 ∧ (∀ j ∈ s.jobs, j.inRegion g.val = false) ∧ s.saf.remedies = [] :=
  ⟨0, (at' { run with jobs := [] }), by decide⟩

theorem witness_StrokesAdvance_1 : ∃ (s : State),
    s.clk.masterLock = true :=
  ⟨(at' run), by decide⟩

theorem witness_StrokesAdvance_2 : ∃ (s : State),
    s.clk.masterLock = false :=
  ⟨State.reset, by decide⟩

theorem witness_PieceCommits_0 : ∃ (id : JobId) (s : State) (j : Job) (i : Image),
    s.toChip.job? id = some j ∧ s.toChip.imageOf j = some i ∧ s.toChip.commitDue j i = true :=
  ⟨jid, (hold lastJob), lastJob, anImage, by decide⟩

theorem witness_RerowRestartsThePiece_0 : ∃ (id : JobId) (s : State) (j : Job),
    s.toChip.job? id = some j ∧ j.fleet = false ∧ j.rerow = true ∧ j.abortReq = none ∧ j.st = .running ∧ j.lostWord = false ∧ j.rerowCount
      < 8 ∧ s.saf.remedies = [] :=
  ⟨jid, (hold { aJob with rerow := true, stroke := 3, rerowCount := 7 }), { aJob with rerow := true, stroke := 3, rerowCount := 7 }, by
    decide⟩

theorem witness_RerowRestartsThePiece_1 : ∃ (id : JobId) (s : State) (j : Job),
    s.toChip.job? id = some j ∧ j.fleet = false ∧ j.rerow = true ∧ j.abortReq = none ∧ j.st = .running ∧ 8 ≤ j.rerowCount ∧ s.saf.remedies
      = [] :=
  ⟨jid, (hold { aJob with rerow := true, stroke := 3, rerowCount := 8 }), { aJob with rerow := true, stroke := 3, rerowCount := 8 }, by
    decide⟩

theorem witness_RerowRestartsThePiece_2 : ∃ (id : JobId) (s : State) (j : Job),
    s.toChip.job? id = some j ∧ j.st = .held .coreCopy ∧ j.coreHold = 0 :=
  ⟨jid, (hold { aJob with st := .held .coreCopy }), { aJob with st := .held .coreCopy }, by decide⟩

theorem witness_SubmitQueuesTheJob_0 : ∃ (h : Hdr) (b : JobBody) (s : State) (i : Image),
    s.toChip.takes h ∧ jobLengths h = true ∧ s.toChip.serves = true ∧ h.tag ≠ 0 ∧ bodyClean b = true ∧ (s.toChip.accept h).submitChecks
      h.queue.toNat b i = statusOk ∧ s.toChip.job? (Hdr.jobId h) = none ∧ (s.toChip.accept h).tagUsed (Hdr.jobId h) = false ∧
      (s.toChip.accept h).image? b.imageId = some i :=
  ⟨hdr, { aBody with fleetStart := 0 }, idle, anImage, by simp only [Chip.takes]; decide⟩

theorem witness_SubmitQueuesTheJob_1 : ∃ (h : Hdr) (b : JobBody) (s : State) (i : Image) (r : _),
    s.toChip.takes h ∧ jobLengths h = true ∧ s.toChip.serves = true ∧ h.tag ≠ 0 ∧ bodyClean b = true ∧ (s.toChip.accept h).submitChecks
      h.queue.toNat b i = statusOk ∧ s.toChip.job? (Hdr.jobId h) = none ∧ (s.toChip.accept h).tagUsed (Hdr.jobId h) = false ∧
      (s.toChip.accept h).recordImage ((s.toChip.accept h).readRecord b.saveArea.toNat) = (statusOk, some (i, r)) :=
  ⟨hdr, { aBody with fleetStart := 0 }, (at' resuming), anImage, aSave, ⟨by decide, by decide, by decide⟩, by decide, by decide, by decide,
    by decide, by decide, by decide, by decide, aSave_image⟩

theorem witness_JobPacketsComplete_0 : ∃ (h : Hdr) (b : JobBody) (s : State) (j : Job) (i : Image),
    let c := s.toChip.accept h;
    s.toChip.takes h ∧ jobLengths h = true ∧ s.toChip.serves = true ∧ bodyClean b = true ∧ c.job? (Hdr.jobId h) = some j ∧ c.imageOf j =
      some i ∧ j.live = true ∧ j.fleet = false ∧ j.pause = none ∧ j.st ≠ .draining ∧ c.nextPiece j < i.strokes ∧ b.saveArea.toNat +
      recordSize i ≤ dataSpace ∧ ((c.imageRanges ++ c.jobRanges (fun k => decide (k.id ≠ j.id)) ++ [windowRange j.body i]).any (meets
      (b.saveArea.toNat, recordSize i))) = false :=
  ⟨hdr, aBody, (at' run), aJob, anImage, by simp only [Chip.takes]; decide⟩

theorem witness_JobPacketsComplete_1 : ∃ (h : Hdr) (b : JobBody) (s : State) (j : Job) (i : Image),
    let c := s.toChip.accept h;
    s.toChip.takes h ∧ jobLengths h = true ∧ s.toChip.serves = true ∧ bodyClean b = true ∧ c.job? (Hdr.jobId h) = some j ∧ c.imageOf j =
      some i ∧ j.live = true ∧ j.fleet = false ∧ j.abortReq = none :=
  ⟨hdr, aBody, (at' run), aJob, anImage, by simp only [Chip.takes]; decide⟩

theorem witness_JobPacketsComplete_2 : ∃ (h : Hdr) (b : JobBody) (s : State) (j : Job) (i : Image),
    let c := s.toChip.accept h;
    s.toChip.takes h ∧ jobLengths h = true ∧ s.toChip.serves = true ∧ bodyClean b = true ∧ c.job? (Hdr.jobId h) = some j ∧ c.imageOf j =
      some i ∧ j.live = true ∧ j.fleet = false ∧ (b.pressure.toNat = 255 ∨ (b.pressure.toNat ≤ 2 ∧ c.allows i b.pressure.toNat = true)) :=
  ⟨hdr, aBody, (at' run), aJob, anImage, by simp only [Chip.takes]; decide⟩

theorem witness_JobPacketsComplete_3 : ∃ (h : Hdr) (b : JobBody) (s : State) (j : Job),
    s.toChip.takes h ∧ jobLengths h = true ∧ s.toChip.serves = true ∧ bodyClean b = true ∧ (s.toChip.accept h).job? (Hdr.jobId h) = some j
      ∧ j.live = false :=
  ⟨hdr, aBody, (hold { aJob with st := .paused, map := [] }), { aJob with st := .paused, map := [] }, by simp only [Chip.takes]; decide⟩

theorem witness_AdmitAndStart_0 : ∃ (id : JobId) (s : State) (j : Job) (i : Image) (mode : Mode),
    let c := s.toChip;
    c.job? id = some j ∧ c.imageOf j = some i ∧ c.admits = true ∧ j.st = .pending ∧ c.tooLate j = false ∧ c.canStart j = true ∧
      c.admitStatus j i (c.placement j i) = (statusOk, 0) ∧ c.grantMode j i (c.placement j i) = some mode ∧ j.isResume = false ∧ 0 < j.cls
      ∧ (c.jobs.any (fun k => decide (0 < k.cls) && decide (k.cls < j.cls ∨ (k.cls = j.cls ∧ k.order < j.order)) && c.canStart k)) = false
      :=
  ⟨jid, (hold { aJob with st := .pending, map := [], pIn := 0x1000 }), { aJob with st := .pending, map := [], pIn := 0x1000 }, anImage,
    .full, by decide⟩

theorem witness_AdmitAndStart_1 : ∃ (id : JobId) (s : State) (j : Job) (i : Image) (mode : Mode),
    let c := s.toChip;
    c.job? id = some j ∧ c.imageOf j = some i ∧ c.admits = true ∧ j.st = .pending ∧ c.tooLate j = false ∧ c.canStart j = true ∧
      c.admitStatus j i (c.placement j i) = (statusOk, 0) ∧ c.grantMode j i (c.placement j i) = some mode ∧ j.isResume = false ∧ j.cls = 0
      :=
  ⟨expressId, (at' (ready expressImage
    [{ aJob with id := expressId, image := 0xE5, st := .pending, map := [], cls := 0, pIn := 0x1000 }])),
    { aJob with id := expressId, image := 0xE5, st := .pending, map := [], cls := 0, pIn := 0x1000 }, expressImage, .full, by decide⟩

theorem witness_AdmitAndStart_2 : ∃ (id : JobId) (s : State) (j : Job) (i : Image),
    s.toChip.job? id = some j ∧ s.toChip.imageOf j = some i ∧ j.st = .admitted ∧ j.fleet = false :=
  ⟨jid, (hold { aJob with st := .admitted }), { aJob with st := .admitted }, anImage, by decide⟩

theorem witness_PausesComplete_0 : ∃ (id : JobId) (s : State) (j : Job) (i : Image) (p : PauseReq),
    s.toChip.job? id = some j ∧ s.toChip.imageOf j = some i ∧ j.pause = some p ∧ j.st = .draining ∧ j.rerow = false ∧ j.abortReq = none ∧
      p.boundary ≤ j.committed * max 1 i.L :=
  ⟨jid, (hold { aJob with st := .draining, stroke := 2, committed := 1, pause := some { boundary := 2, reason := 0, area := 0x2000000 } }),
    { aJob with st := .draining, stroke := 2, committed := 1, pause := some { boundary := 2, reason := 0, area := 0x2000000 } }, anImage,
    { boundary := 2, reason := 0, area := 0x2000000 }, by decide⟩

theorem witness_PausesComplete_1 : ∃ (id : JobId) (s : State) (j : Job) (i : Image),
    let at_ := j.stroke + s.toChip.jobDeltaF j + 1;
    let m := at_ / max 1 i.L;
    s.toChip.job? id = some j ∧ s.toChip.imageOf j = some i ∧ j.st = .running ∧ j.rerow = false ∧ j.pause = none ∧ j.fleetPause = none ∧
      j.fleet = false ∧ at_ % max 1 i.L = 0 ∧ m < i.pieces ∧ at_ < i.strokes ∧ j.pIn < i.streamAt false (m + 1) ∧ i.streamAt true (m + 1) ≤
      j.aOut + j.body.outBytes.toNat :=
  ⟨jid, (hold { aJob with stroke := 1 }), { aJob with stroke := 1 }, anImage, by decide⟩

theorem witness_PressureChangeApplies_0 : ∃ (id : JobId) (s : State) (j : Job) (i : Image) (m : Mode) (from_ : Nat),
    s.toChip.job? id = some j ∧ s.toChip.imageOf j = some i ∧ j.modeReq = some (some m, from_) ∧ s.toChip.atPiece j = true ∧ j.lastRerow ≠
      some j.stroke ∧ from_ ≤ (s.toChip.region j.lowRegion).stroke.toNat ∧ j.st = .running ∧ m ≠ j.mode ∧ s.toChip.grants j i (modeCode m)
      = true :=
  ⟨jid, (hold { aJob with modeReq := some (some .light, 0), stroke := 2 }), { aJob with modeReq := some (some .light, 0), stroke := 2 },
    anImage, .light, 0, by decide⟩

theorem witness_ZeroingClearsTheStaging_0 : ∃ (g : Fin 16) (s : State),
    (s.toChip.region g.val).zeroing = 3 :=
  ⟨15, (at' { run with regions := [(15, { zeroing := 3 })] }), by decide⟩

theorem witness_LoadPacketsComplete_0 : ∃ (h : Hdr) (segLen : Nat) (base : BitVec 64) (data : List Byte) (s : State),
    let c := s.toChip.accept h;
    let len := leAt (data.take segLen) 8 8;
    s.toChip.takes h ∧ s.toChip.serves = true ∧ 24 + segLen ≤ h.length ∧ 16 ≤ segLen ∧ segLen ≤ 8192 ∧ segLen % 16 = 0 ∧ data.length =
      segLen ∧ c.mayOpen h.queue base.toNat len = true ∧ segLen < len :=
  ⟨hdr, 16, 0x3000000, List.replicate 8 0 ++ [0, 0x10, 0, 0, 0, 0, 0, 0], idle, by simp only [Chip.takes]; decide⟩

theorem witness_LoadPacketsComplete_1 : ∃ (h : Hdr) (id : BitVec 256) (s : State) (i : Image),
    s.toChip.takes h ∧ s.toChip.serves = true ∧ 56 ≤ h.length ∧ s.toChip.image? id = some i ∧ ((∀ j ∈ (s.toChip.accept h).jobs, j.image =
      id → j.holds = false ∧ j.st ≠ .paused)) :=
  ⟨hdr, 0xA5, idle, anImage, by simp only [Chip.takes]; decide⟩

theorem witness_LoadPacketsComplete_2 : ∃ (id : BitVec 256) (s : State) (i : Image) (k : Image),
    s.sch.replacing.find? (fun i => i.id == id) = some i ∧ s.toChip.image? id = some k :=
  ⟨0xA5, (at' { run with sch := { run.sch with replacing := [{ anImage with base := 0x3000000 }] } }), { anImage with base := 0x3000000 },
    anImage, by decide⟩

theorem witness_CheckDecidesTheLoad_0 : ∃ (q : BitVec 15) (s : State),
    s.sch.loads.find? (fun l => l.queue == q && l.complete) = none :=
  ⟨0, (at' run), by decide⟩

theorem witness_CheckDecidesTheLoad_1 : ∃ (q : BitVec 15) (s : State) (l : Load),
    s.sch.loads.find? (fun l => l.queue == q && l.complete) = some l :=
  ⟨0, (at'
    { run with sch := { run.sch with loads := [{ queue := 0, base := 0x3000000, length := 1024, got := 1024, ref := 5, tag := 0, complete := true, replaceOnly := false }] } }),
    { queue := 0, base := 0x3000000, length := 1024, got := 1024, ref := 5, tag := 0, complete := true, replaceOnly := false }, by decide⟩

theorem witness_CheckDecidesTheLoad_2 : ∃ (q : BitVec 15) (s : State) (l : Load),
    s.sch.loads.find? (fun l => l.queue == q && l.complete) = some l :=
  ⟨0, (at'
    { run with sch := { run.sch with loads := [{ queue := 0, base := 0x3000000, length := 1024, got := 1024, ref := 5, tag := 0, complete := true, replaceOnly := false }] } }),
    { queue := 0, base := 0x3000000, length := 1024, got := 1024, ref := 5, tag := 0, complete := true, replaceOnly := false }, by decide⟩

theorem witness_RegisterWritesComplete_0 : ∃ (f : Fabric),
    f.bad = none :=
  ⟨{ corrected := 0xFFFF, bad := none }, by decide⟩

theorem witness_RegisterWritesComplete_2 : ∃ (r : BitVec 32 × Word) (f : Fabric),
    r ∈ plainRegisters ∧ f.bad = none :=
  ⟨(0x5080C, 0xFFFFFFFF), { corrected := 0xFFFF, bad := none }, by decide⟩

theorem witness_RegisterWritesComplete_3 : ∃ (f : Fabric),
    f.bad = some 0 :=
  ⟨{ corrected := 0xFFFF, bad := some 0 }, by decide⟩

theorem witness_ReadsWithEffects_0 : ∃ (f : Fabric),
    f.bad = none :=
  ⟨{ corrected := 0xFFFF, bad := none }, by decide⟩

theorem witness_ReadsWithEffects_1 : ∃ (f : Fabric),
    f.bad = none :=
  ⟨{ corrected := 0xFFFF, bad := none }, by decide⟩

theorem witness_ReadsWithEffects_2 : ∃ (f : Fabric),
    f.bad = none :=
  ⟨{ corrected := 0xFFFF, bad := none }, by decide⟩

theorem witness_ReadsWithEffects_4 : ∃ (f : Fabric),
    f.bad = some 0 :=
  ⟨{ corrected := 0xFFFF, bad := some 0 }, by decide⟩

theorem witness_RegisterPacketsComplete_0 : ∃ (h : Hdr) (a : BitVec 32) (n : Nat) (s : State),
    s.toChip.takes h ∧ regLengths h a.toNat n 0 = true ∧ (s.start.recovery = false ∨ h.queue = 0) ∧ a.toNat % 4 = 0 ∧ (s.toChip.accept
      h).closedRun a.toNat n = false :=
  ⟨hdr, 0x50200, 1, (at' { run with acc := { level := 1 } }), by simp only [Chip.takes]; decide⟩

theorem witness_RegisterPacketsComplete_1 : ∃ (h : Hdr) (r : BitVec 32 × Word) (f : Fabric) (s : State),
    r ∈ plainRegisters ∧ s.toChip.takes h ∧ regLengths h r.1.toNat 1 4 = true ∧ s.toChip.serves = true ∧ (s.toChip.accept h).closedRun
      r.1.toNat 1 = false ∧ f.bad = none :=
  ⟨hdr, (0x10100, 0x7FFF), { corrected := 0xFFFF, bad := none }, (at' run), by simp only [Chip.takes]; decide⟩

theorem witness_RegisterPacketsComplete_2 : ∃ (h : Hdr) (r : BitVec 32 × Word) (f : Fabric) (s : State),
    r ∈ plainRegisters ∧ s.toChip.takes h ∧ regLengths h r.1.toNat 1 4 = true ∧ s.toChip.serves = true ∧ (s.toChip.accept h).closedRun
      r.1.toNat 1 = false ∧ f.bad = some 0 :=
  ⟨hdr, (0x10100, 0x7FFF), { corrected := 0xFFFF, bad := some 0 }, (at' run), by simp only [Chip.takes]; decide⟩

theorem witness_BulkPacketsComplete_0 : ∃ (h : Hdr) (len : Nat) (addr : BitVec 64) (data : List Byte) (s : State),
    s.toChip.takes h ∧ 16 + len ≤ h.length ∧ (s.toChip.takesBulk h) = true ∧ (s.toChip.accept h).bulkStatus addr.toNat len = statusOk ∧
      data.length = len :=
  ⟨hdr, 16, 0x3000000, List.replicate 16 0xFF, (at' run), by simp only [Chip.takes]; decide⟩

theorem witness_BulkPacketsComplete_1 : ∃ (h : Hdr) (len : Nat) (addr : BitVec 64) (code : HbmCode) (s : State),
    s.toChip.takes h ∧ 16 ≤ h.length ∧ s.toChip.serves = true ∧ (s.toChip.accept h).bulkStatus addr.toNat len = statusOk ∧ code.bad = none
      :=
  ⟨hdr, 16, 0x3000000, { corrected := 1, ondie := 1, bad := none, parity := true }, (at' run), by simp only [Chip.takes]; decide⟩

theorem witness_BulkPacketsComplete_2 : ∃ (h : Hdr) (len : Nat) (addr : BitVec 64) (code : HbmCode) (s : State) (L : _),
    s.toChip.takes h ∧ 16 ≤ h.length ∧ s.toChip.serves = true ∧ (s.toChip.accept h).bulkStatus addr.toNat len = statusOk ∧ code.bad = some
      L :=
  ⟨hdr, 32, 0x3000000, { corrected := 1, ondie := 1, bad := some 0x3000010, parity := true }, (at' run), 0x3000010, ⟨by decide, by decide,
    by decide⟩, by decide, by decide, by decide, by decide⟩

theorem witness_BulkPacketsComplete_3 : ∃ (h : Hdr) (len : Nat) (off : BitVec 64) (data : List Byte) (code : HbmCode) (s : State) (j : Job)
    (i : Image),
    let c := s.toChip.accept h;
    s.toChip.takes h ∧ 16 + len ≤ h.length ∧ s.toChip.serves = true ∧ bulkLength len = true ∧ data.length = len ∧ c.job? (Hdr.jobId h) =
      some j ∧ c.imageOf j = some i ∧ i.hostSlots.any (fun e => !e.out) = true ∧ off.toNat + len ≤ i.streamAt false j.committed +
      j.body.inBytes.toNat ∧ code.bad = none :=
  ⟨hdr, 16, 0xFF0, List.replicate 16 0xFF, { corrected := 1, ondie := 1, bad := none, parity := true }, (at' run), aJob, anImage, ⟨by
    decide, by decide, by decide⟩, by decide, by decide, by decide, by decide, by decide, by decide, by decide, by decide, by decide⟩

theorem witness_AcksAndQueueResets_0 : ∃ (h : Hdr) (s : State),
    let k := s.toChip.queue h.queue.toNat;
    precedes k.next h.ack = false ∧ precedes h.ack k.acked = false ∧ s.host.queues.all (fun q => q.2.withheld.isEmpty) = true :=
  ⟨{ hdr with ack := 5 }, (at' { run with host := { queues := [(0, { next := 5, acked := 2, retained := [aPacket] })] } }), by decide⟩

theorem witness_AcksAndQueueResets_2 : ∃ (s : State),
    let q := s.host.queueSel.toNat;
    s.toChip.queueBusy q = false ∧ s.host.queues.all (fun k => k.2.withheld.isEmpty) = true :=
  ⟨idle, by decide⟩

theorem witness_AcksAndQueueResets_3 : ∃ (s : State),
    let q := s.host.queueSel.toNat;
    s.toChip.queueBusy q = true :=
  ⟨(at' run), by decide⟩

theorem witness_HostPortsComplete_3 : ∃ (p : Fin 2) (s : State),
    let cfg := s.toChip.portCfg p.val;
    cfg.flags.getLsbD 1 = true :=
  ⟨1, (at' { run with cfg := { run.cfg with port1 := { flags := 2, ipv4 := 0x0A000001 } } }), by decide⟩

theorem witness_HostPortsComplete_4 : ∃ (p : Fin 2) (s : State),
    let cfg := s.toChip.portCfg p.val;
    cfg.flags.getLsbD 2 = true :=
  ⟨1, (at' { run with cfg := { run.cfg with port1 := { flags := 4, ipv4 := 0x0A000001 } } }), by decide⟩

theorem witness_HostPortsComplete_5 : ∃ (p : Fin 2) (s : State) (target : _),
    let cfg := s.toChip.portCfg p.val;
    target ≠ cfg.ipv4 :=
  ⟨1, (at' { run with cfg := { run.cfg with port1 := { flags := 2, ipv4 := 0x0A000001 } } }), 0, by decide⟩

theorem witness_HostPortsComplete_6 : ∃ (p : Fin 2) (s : State),
    let cfg := s.toChip.portCfg p.val;
    cfg.flags.getLsbD 2 = true :=
  ⟨1, (at' { run with cfg := { run.cfg with port1 := { flags := 4, ipv4 := 0x0A000001 } } }), by decide⟩

theorem witness_HostPortsComplete_8 : ∃ (p : Fin 2) (s : State),
    (s.toChip.hport p).present = true ∧ (s.toChip.hport p).speed = 0 :=
  ⟨1, (at' { run with host := { port1 := { present := true } } }), by decide⟩

theorem witness_HostPortsComplete_11 : ∃ (p : Fin 2) (s : State),
    (s.toChip.portCfg p.val).flags.getLsbD 4 = true :=
  ⟨1, (at' { run with cfg := { run.cfg with port1 := { flags := 0x10, ipv4 := 0x0A000001 } } }), by decide⟩

theorem witness_HostPortsComplete_12 : ∃ (s : State),
    s.cfg.features.getLsbD 2 = true :=
  ⟨(at' { run with cfg := { run.cfg with features := 4 } }), by decide⟩

theorem witness_TierCommandsComplete_0 : ∃ (g : Fin 16) (k : Fin 34) (a : Fin 17) (tier : Fin 64) (s : State) (bad : Bool),
    let x := (g.val * 34 + k.val) * 17 + a.val;
    s.toChip.progRefusal x tier false bad = none :=
  ⟨15, 33, 16, 63, (at' run), false, by decide⟩

theorem witness_TierCommandsComplete_1 : ∃ (g : Fin 16) (k : Fin 34) (a : Fin 17) (tier : Fin 64) (s : State) (int4 : Bool),
    let x := (g.val * 34 + k.val) * 17 + a.val;
    (s.toChip.arr x).prog = some { tier := tier, erase := false, int4 := int4 } :=
  ⟨0, 0, 1, 63, (at'
    { run with arrays := [(1, { prog := some { tier := 63, erase := false, int4 := true } })], tiers := [(127, { st := .programming, int4 := true, count := 9999 })] }),
    true, by decide⟩

theorem witness_TierCommandsComplete_2 : ∃ (g : Fin 16) (k : Fin 34) (a : Fin 17) (tier : Fin 64) (s : State),
    let x := (g.val * 34 + k.val) * 17 + a.val;
    s.toChip.progRefusal x tier true false = none :=
  ⟨0, 0, 1, 63, (at' { run with tiers := [(127, { st := .failed, count := 10000 })] }), by decide⟩

theorem witness_TierCommandsComplete_3 : ∃ (g : Fin 16) (k : Fin 34) (a : Fin 17) (tier : Fin 64) (s : State) (int4 : Bool),
    let x := (g.val * 34 + k.val) * 17 + a.val;
    (s.toChip.arr x).prog = some { tier := tier, erase := true, int4 := int4 } :=
  ⟨0, 0, 1, 63, (at' { run with arrays := [(1, { prog := some { tier := 63, erase := true, int4 := true } })] }), true, by decide⟩

theorem witness_TierCommandsComplete_4 : ∃ (g : Fin 16) (k : Fin 34) (a : Fin 17) (tier : Fin 64) (s : State),
    let x := (g.val * 34 + k.val) * 17 + a.val;
    let T := tierKey x tier.val;
    (s.toChip.arr x).prog = none ∧ (s.toChip.arr x).copying = false ∧ (s.toChip.arr x).plotCopy = false ∧ s.toChip.coreProgramming (x / 17)
      < 4 ∧ s.toChip.tierNamed T = true :=
  ⟨0, 0, 0, 0, (at' (ready
    { anImage with coreStreams := [{ phase := 0, region := 0, core := some 0, words := [{ delta := 0, op := .tile oneTile }], index := 0 }] }
    [aJob])), by decide⟩

theorem witness_TierCommandsComplete_5 : ∃ (g : Fin 16) (k : Fin 34) (a : Fin 17) (tier : Fin 64) (s : State),
    let x := (g.val * 34 + k.val) * 17 + a.val;
    let T := tierKey x tier.val;
    (s.toChip.arr x).prog = none ∧ (s.toChip.arr x).copying = false ∧ (s.toChip.arr x).plotCopy = false ∧ s.toChip.coreProgramming (x / 17)
      < 4 ∧ s.toChip.tierNamed T = true :=
  ⟨0, 0, 0, 0, (at' (ready
    { anImage with coreStreams := [{ phase := 0, region := 0, core := some 0, words := [{ delta := 0, op := .tile oneTile }], index := 0 }] }
    [aJob])), by decide⟩

theorem witness_SwapsComplete_0 : ∃ (g : Fin 16) (k : Fin 34) (a : Fin 17) (tA : Fin 64) (tB : Fin 64) (s : State),
    let x := (g.val * 34 + k.val) * 17 + a.val;
    let A := s.toChip.tier (tierKey x tA.val);
    let B := s.toChip.tier (tierKey x tB.val);
    A.st.live = true ∧ B.st.live = true ∧ A.int4 = B.int4 ∧ (s.toChip.arr x).staged = false ∧ (s.toChip.arr x).copying = false :=
  ⟨0, 0, 1, 0, 63, (at' { run with tiers := [(64, { st := .ready }), (127, { st := .worn })] }), by decide⟩

theorem witness_SwapsComplete_1 : ∃ (g : Fin 16) (k : Fin 34) (a : Fin 17) (s : State),
    let x := (g.val * 34 + k.val) * 17 + a.val;
    (s.toChip.arr x).staged = true :=
  ⟨0, 0, 1, (at'
    { run with arrays := [(1, { staged := true, swapA := 0, swapB := 63 })], tiers := [(64, { st := .ready }), (127, { st := .worn })] }),
    by decide⟩

theorem witness_SwapsComplete_2 : ∃ (g : Fin 16) (s : State) (j : _),
    (∀ a ∈ s.toChip.stagedArrays g.val, (s.toChip.arr a).copying = false) ∧ s.toChip.swapJob g.val = some j ∧ (s.toChip.region
      g.val).swapAt.toNat % (s.toChip.lengths j).1 = 0 ∧ j.stroke + 2 ≤ (s.toChip.region g.val).swapAt.toNat :=
  ⟨0, (at'
    { run with arrays := [(1, { staged := true, swapA := 0, swapB := 63 })], tiers := [(64, { st := .ready }), (127, { st := .worn })], regions := [(0, { power := 2, mode := 0, swapAt := 2 })] }),
    aJob, by decide⟩

theorem witness_SwapsComplete_3 : ∃ (g : Fin 16) (s : State),
    (s.toChip.region g.val).armed = true :=
  ⟨0, (at' { run with regions := [(0, { power := 2, mode := 0, armed := true, swapTarget := 2 })] }), by decide⟩

theorem witness_SwapsComplete_4 : ∃ (g : Fin 16) (s : State) (j : Job),
    s.toChip.swapJob g.val = some j ∧ j.live = true ∧ (∀ w ∈ j.redo, w.boundary ≠ j.stroke) ∧ keysRise 0 s.arrays = true ∧ (s.toChip.region
      g.val).armed = true ∧ (s.toChip.region g.val).swapTarget = j.stroke :=
  ⟨0, (at'
    { (ready anImage [{ aJob with stroke := 2 }]) with arrays := [(1, { staged := true, swapA := 0, swapB := 63 })], tiers := [(64, { st := .ready }), (127, { st := .worn })], regions := [(0, { power := 2, mode := 0, armed := true, swapTarget := 2 })] }),
    { aJob with stroke := 2 }, by decide⟩

theorem witness_CopiesAndSwitchesComplete_0 : ∃ (g : Fin 16) (k : Fin 34) (a : Fin 17) (s : State) (i : Fin 16),
    let x := (g.val * 34 + k.val) * 17 + a.val;
    let good := ∀ t ∈ s.toChip.liveTiers x, s.toChip.copyUp (tierKey x t.val) 0 = true ∧ s.toChip.copyGood (tierKey x t.val) 0 = true;
    ((s.toChip.arr x).sub i.val).copying = true ∧ ((s.toChip.arr x).sub i.val).copied = false ∧ ((s.toChip.arr x).sub i.val).since.isSome =
      true ∧ good :=
  ⟨0, 0, 1, (at' { run with arrays := [(1, { subs := [(15, { copying := true, since := some 0 })] })] }), 15, by decide⟩

theorem witness_CopiesAndSwitchesComplete_1 : ∃ (g : Fin 16) (k : Fin 34) (a : Fin 17) (s : State) (i : Fin 16),
    let x := (g.val * 34 + k.val) * 17 + a.val;
    ((s.toChip.arr x).sub i.val).copying = true ∧ ((s.toChip.arr x).sub i.val).copied = true ∧ s.toChip.atSeatBoundary g.val = true :=
  ⟨0, 0, 1, (at' { run with arrays := [(1, { subs := [(15, { copying := true, copied := true })] })] }), 15, by decide⟩

theorem witness_CopiesAndSwitchesComplete_2 : ∃ (g : Fin 16) (k : Fin 34) (a : Fin 17) (s : State) (q : _),
    let x := (g.val * 34 + k.val) * 17 + a.val;
    let good := ∀ t ∈ s.toChip.liveTiers x, s.toChip.copyUp (tierKey x t.val) 0 = true ∧ s.toChip.copyGood (tierKey x t.val) 0 = true;
    (s.toChip.arr x).moveTo = some q ∧ q ≠ x ∧ (s.toChip.arr x).copying = true ∧ (s.toChip.arr x).copied = false ∧ (s.toChip.arr
      x).copyAt.isSome = true ∧ good :=
  ⟨0, 0, 1, (at' { run with arrays := [(1, { moveTo := some 16, copying := true, copyAt := some 0 })] }), 16, by decide⟩

theorem witness_CopiesAndSwitchesComplete_3 : ∃ (g : Fin 16) (k : Fin 34) (a : Fin 17) (s : State) (q : _) (lc : _) (la : _),
    let x := (g.val * 34 + k.val) * 17 + a.val;
    (s.toChip.arr x).moveTo = some q ∧ q ≠ x ∧ q / 17 = x / 17 ∧ (s.toChip.arr x).copied = true ∧ s.toChip.atSeatBoundary g.val = true ∧
      s.toChip.logicalOf x = some (lc, la) :=
  ⟨0, 0, 1, (at' { run with arrays := [(1, { moveTo := some 16, copying := true, copied := true })] }), 16, 0, 1, by decide⟩

theorem witness_CopiesAndSwitchesComplete_4 : ∃ (g : Fin 16) (core : Fin 32) (array : Fin 16) (s : State) (q : Nat),
    let x := s.toChip.cellsOf g.val core.val array.val;
    x / 578 = g.val ∧ (s.toChip.arr x).moveTo = some q ∧ q / 17 ≠ x / 17 ∧ (s.toChip.arr x).copied = true ∧ s.toChip.atSeatBoundary g.val =
      true ∧ s.toChip.logicalOf x = some (core.val, array.val) :=
  ⟨0, 0, 1, (at' { run with arrays := [(1, { moveTo := some 544, copying := true, copied := true })] }), 544, by decide⟩

theorem witness_PlotHoldsEnd_0 : ∃ (g : Fin 16) (o : Fin 136) (s : State) (since : Nat),
    let k := g.val * 136 + o.val;
    (s.toChip.plot k).state = 3 ∧ (s.toChip.plot k).seat ≠ 0xFF ∧ (s.toChip.plot k).absentSince = some since ∧ since + msCycles 10 ≤
      s.clk.aon :=
  ⟨0, 15, (at' { run with clk := { run.clk with aon := 250000 }, plots := [(15, { state := 3, seat := 15, absentSince := some 0 })] }), 0,
    by decide⟩

theorem witness_PlotHoldsEnd_1 : ∃ (g : Fin 16) (o : Fin 136) (s : State) (since : Nat),
    let k := g.val * 136 + o.val;
    (s.toChip.plot k).state = 3 ∧ (s.toChip.plot k).seat ≠ 0xFF ∧ (s.toChip.plot k).absentSince = some since :=
  ⟨0, 15, (at' { run with plots := [(15, { state := 3, seat := 15, absentSince := some 0 })] }), 0, by decide⟩

theorem witness_SurveyTestsFallDue_0 : ∃ (u : SurveyUnit) (drift : Bool) (s : State),
    let r := s.toChip.surveyNow u;
    let drifts := drift || s.toChip.drifts u;
    s.toChip.surveyTested u = true ∧ r.due = false ∧ (s.toChip.unitSeated u && s.toChip.standInGone u) = false ∧ drifts = true :=
  ⟨.periphery 0 0 1, true, (at' run), by decide⟩

theorem witness_SurveyTestsFallDue_1 : ∃ (u : SurveyUnit) (temp : BitVec 12) (drift : Bool) (s : State),
    let r := s.toChip.surveyNow u;
    let drifts := drift || s.toChip.drifts u;
    let moved := 10 * ((temp.toNat : Int) - r.temp.toNat).natAbs;
    s.toChip.surveyTested u = true ∧ r.due = false ∧ (s.toChip.unitSeated u && s.toChip.standInGone u) = false ∧ drifts = false ∧ 16 *
      s.cfg.surveyThreshold.toNat < moved :=
  ⟨.periphery 0 0 1, 9, false, (at' run), by decide⟩

theorem witness_SurveyTestsFallDue_2 : ∃ (u : SurveyUnit) (temp : BitVec 12) (drift : Bool) (s : State),
    let r := s.toChip.surveyNow u;
    let drifts := drift || s.toChip.drifts u;
    let moved := 10 * ((temp.toNat : Int) - r.temp.toNat).natAbs;
    s.toChip.surveyTested u = true ∧ r.due = false ∧ (s.toChip.unitSeated u && s.toChip.standInGone u) = false ∧ drifts = false ∧ moved ≤
      16 * s.cfg.surveyThreshold.toNat ∧ r.time + tenMinutes ≤ s.clk.aon :=
  ⟨.periphery 0 0 1, 8, false, (at' { run with clk := { run.clk with aon := 15000000000 } }), by decide⟩

theorem witness_SurveyTestsFallDue_3 : ∃ (u : SurveyUnit) (temp : BitVec 12) (drift : Bool) (s : State),
    let r := s.toChip.surveyNow u;
    let drifts := drift || s.toChip.drifts u;
    let moved := 10 * ((temp.toNat : Int) - r.temp.toNat).natAbs;
    s.toChip.surveyTested u = true ∧ r.due = false ∧ (s.toChip.unitSeated u && s.toChip.standInGone u) = false ∧ drifts = false ∧ moved ≤
      16 * s.cfg.surveyThreshold.toNat ∧ s.clk.aon < r.time + tenMinutes :=
  ⟨.periphery 0 0 1, 8, false, (at' { run with clk := { run.clk with aon := 14999999999 } }), by decide⟩

theorem witness_SurveysComplete_0 : ∃ (u : SurveyUnit) (s : State),
    s.toChip.surveyTurn u = true ∧ s.toChip.unitSeated u = false :=
  ⟨.plot 0 16, (at'
    { run with plots := [(16, { state := 1, seat := 0xFF, survey := { due := true } })], banks := (List.range 18).map (fun b => (288 + b, { lock := 3 })) }),
    by decide⟩

theorem witness_SurveysComplete_1 : ∃ (g : Fin 16) (k : Fin 34) (a : Fin 17) (s : State) (home : Nat) (q : _),
    let u := SurveyUnit.periphery g k a;
    let x := (g.val * 34 + k.val) * 17 + a.val;
    s.toChip.surveyTurn u = true ∧ s.toChip.sensesOf x = some home ∧ s.toChip.sparePeri x = some q ∧ s.toChip.atSeatBoundary g.val = true :=
  ⟨0, 0, 1, (at' { run with arrays := [(1, { survey := { due := true } })] }), 1, 16, by decide⟩

theorem witness_SurveysComplete_2 : ∃ (g : Fin 16) (k : Fin 34) (a : Fin 17) (s : State) (home : Nat),
    let u := SurveyUnit.periphery g k a;
    let x := (g.val * 34 + k.val) * 17 + a.val;
    u ∈ s.mon.running ∧ (s.toChip.arr x).away = some home ∧ s.toChip.atSeatBoundary g.val = true :=
  ⟨0, 0, 1, (at'
    { run with arrays := [(1, { survey := { due := true, active := true }, away := some 1 })], peri := [(1, 16)], mon := { running := [.periphery 0 0 1] } }),
    1, by decide⟩

theorem witness_SurveysComplete_3 : ∃ (g : Fin 16) (o : Fin 136) (r : SurveyResult) (v : PlotSurvey) (s : State),
    let u := SurveyUnit.plot g o;
    let k := g.val * 136 + o.val;
    u ∈ s.mon.running ∧ (s.toChip.plot k).state = 2 ∧ r.ok = true ∧ r.plots.head? = some v ∧ 115 < v.margin.toNat ∧ (s.toChip.plot
      k).flagCount < 2048 :=
  ⟨0, 16, { ok := true, temp := 0, plots := [{ rowGroup := 0, colGroup := 0, margin := 116 }], taps := [], banks := [] },
    { rowGroup := 0, colGroup := 0, margin := 116 }, (at'
    { run with plots := [(16, { state := 2, seat := 0xFF, survey := { active := true }, flags := List.replicate 2047 0 })], mon := { running := [.plot 0 16] } }),
    by decide, by decide, by decide, by decide, by decide, by decide +kernel⟩

theorem witness_StoreCommitsComplete_0 : ∃ (s : State),
    s.mon.writing = false ∧ s.mon.newer.payload ≠ some s.toChip.keptNow ∧ s.start.powerGood = true ∧ (s.mon.commitAt = 0 ∨ s.mon.commitAt +
      msCycles 1000 ≤ s.clk.aon) :=
  ⟨(at' run), by decide⟩

theorem witness_StoreCommitsComplete_1 : ∃ (s : State),
    s.mon.writing = true :=
  ⟨(at' { run with mon := { writing := true } }), by decide⟩

theorem witness_TemperatureCommandsComplete_1 : ∃ (s : State),
    s.saf.thermalDue = true :=
  ⟨(at' { run with saf := { thermalDue := true } }), by decide⟩

theorem witness_TemperatureCommandsComplete_2 : ∃ (g : Fin 16) (s : State),
    s.toChip.easyNow g.val = true ∧ s.saf.easy = true ∧ (s.toChip.region g.val).halved = false :=
  ⟨0, (at' { run with saf := { easy := true } }), by decide⟩

theorem witness_TemperatureCommandsComplete_3 : ∃ (g : Fin 16) (s : State),
    s.toChip.easyNow g.val = true ∧ s.saf.easy = false ∧ (s.toChip.region g.val).halved = true :=
  ⟨0, (at' { run with regions := [(0, { power := 2, mode := 0, halved := true })] }), by decide⟩

theorem witness_LevelCommandsComplete_0 : ∃ (s : State),
    let l := s.lvl;
    l.queue = [] :=
  ⟨(at' run), by decide⟩

theorem witness_LevelCommandsComplete_1 : ∃ (s : State) (k : Nat) (i : Bool),
    let l := s.lvl;
    s.start.powerGood = true ∧ l.cal = 0 ∧ l.now = some (k, i) :=
  ⟨(at' { run with lvl := { now := some (90, true) } }), 90, true, by decide⟩

theorem witness_LevelCommandsComplete_2 : ∃ (s : State) (ch : BitVec 7),
    let l := s.lvl;
    ch.toNat < 91 ∧ l.inject.length < 4 :=
  ⟨(at' { run with lvl := { inject := [1, 2, 3] } }), 90, by decide⟩

theorem witness_LevelCommandsComplete_3 : ∃ (s : State) (ch : BitVec 7),
    let l := s.lvl;
    (91 ≤ ch.toNat ∨ 4 ≤ l.inject.length) :=
  ⟨(at' { run with lvl := { inject := [1, 2, 3] } }), 91, by decide⟩

theorem witness_LevelCommandsComplete_4 : ∃ (s : State),
    let l := s.lvl;
    l.cal = 0 :=
  ⟨(at' { run with lvl := { inject := [1, 2, 3, 4] } }), by decide⟩

theorem witness_LevelCommandsComplete_5 : ∃ (s : State) (rs : List Int) (o : _) (gr : _),
    let l := s.lvl;
    l.cal = 2 ∧ rs.length = 8 ∧ calibration rs = some (o, gr) :=
  ⟨(at' { run with lvl := { cal := 2 } }), [0, 2048, 393216, 393216, 393216, -393216, -393216, -393216], 2048, 0x400000, by decide⟩

theorem witness_LevelCommandsComplete_6 : ∃ (s : State) (rs : List Int),
    let l := s.lvl;
    l.cal = 2 ∧ rs.length = 8 ∧ calibration rs = none :=
  ⟨(at' { run with lvl := { cal := 2 } }), [0, 2049, 393216, 393216, 393216, -393216, -393216, -393216], by decide⟩

theorem witness_LineMeasureAndFade_0 : ∃ (g : Fin 16) (n : Fin 10) (powers : List Nat) (s : State),
    let r := LaserRef.compute g n;
    let l := s.toChip.laser (g.val * 10 + n.val);
    l.serves = true ∧ l.power = [] ∧ powers.length = 16 ∧ ((∀ i, i < 16 → commissioned r l (s.toChip.biasMode r) i ≤ powers.getD i 0 ∧ 0 <
      powers.getD i 0)) :=
  ⟨0, 0, List.replicate 16 15000, (at' run), by decide⟩

theorem witness_LineMeasureAndFade_1 : ∃ (r : LaserRef) (s : State),
    let l := s.toChip.laserAt r;
    l.serves = true ∧ l.leaving = 0 ∧ look false l.crossed 2 = false ∧ look 0 l.below 2 < 100 ∧ look false l.crossed 0 = false ∧ 100 ≤ look
      0 l.below 0 ∧ look 0 l.below 1 < 100 :=
  ⟨.compute 0 7, (at' { run with lasers := [(7, { state := 4, group := 7, below := [(0, 100), (1, 99)] })] }), by decide⟩

theorem witness_LineMeasureAndFade_2 : ∃ (r : LaserRef) (s : State) (x : _),
    let l := s.toChip.laserAt r;
    l.serves = true ∧ l.leaving = 0 ∧ look false l.crossed 2 = false ∧ look 0 l.below 2 < 100 ∧ look false l.crossed 1 = false ∧ 100 ≤ look
      0 l.below 1 ∧ s.toChip.preparing r = none ∧ s.toChip.spareLaser r = some x ∧ (s.toChip.laserAt x).state = 2 :=
  ⟨.compute 0 7, (at'
    { run with lasers := [(7, { state := 4, group := 7, below := [(0, 100), (1, 100), (2, 99)], crossed := [(0, true)] })] }), .compute 0
    8, by decide⟩

theorem witness_HandoversComplete_0 : ∃ (g : Fin 16) (n : Fin 10) (s : State) (x : LaserRef),
    let r := LaserRef.compute g n;
    (s.toChip.region g.val).lasLaser.toNat = n.val ∧ (s.toChip.laserAt r).state = 4 ∧ (∀ y ∈ laserPool r, (s.toChip.laserAt y).state ≠ 3 ∧
      (s.toChip.laserAt y).state ≠ 5 ∧ (s.toChip.laserAt y).leaving = 0) ∧ s.toChip.spareLaser r = some x ∧ (s.toChip.laserAt x).state = 2
      :=
  ⟨0, 7, (at' { run with regions := [(0, { power := 2, mode := 0, lasLaser := 7 })] }), .compute 0 8, by decide⟩

theorem witness_HandoversComplete_1 : ∃ (r : LaserRef) (s : State),
    let l := s.toChip.laserAt r;
    l.state = 3 :=
  ⟨.compute 0 8, (at' { run with lasers := [(8, { state := 3, group := 7 })] }), by decide⟩

theorem witness_HandoversComplete_2 : ∃ (r : LaserRef) (s : State) (x : _),
    let l := s.toChip.laserAt r;
    s.toChip.handoverBoundary r = true ∧ l.state = 3 ∧ l.ready = true ∧ (laserPool r).find? (fun x => (s.toChip.laserAt x).state == 4 &&
      (s.toChip.laserAt x).group == l.group) = some x :=
  ⟨.compute 0 8, (at' { run with lasers := [(8, { state := 3, group := 7, ready := true })] }), .compute 0 7, by decide⟩

theorem witness_HandoversComplete_3 : ∃ (r : LaserRef) (s : State) (x : _),
    let l := s.toChip.laserAt r;
    l.state = 5 ∧ l.leaving = 0 ∧ s.toChip.partner r = some x :=
  ⟨.compute 0 8, (at' { run with lasers := [(7, { state := 5, group := 7 }), (8, { state := 5, group := 7 })] }), .compute 0 7, by decide⟩

theorem witness_HandoversComplete_4 : ∃ (r : LaserRef) (s : State),
    let l := s.toChip.laserAt r;
    l.state = 1 ∧ (∀ y ∈ laserPool r, (s.toChip.laserAt y).leaving = 0) :=
  ⟨.compute 0 9, (at' { run with lasers := [(9, { state := 1, group := 0xF })] }), by decide⟩

theorem witness_HandoversComplete_5 : ∃ (r : LaserRef) (s : State) (k : _),
    let l := s.toChip.laserAt r;
    k < 16 ∧ s.toChip.unlit r = some k ∧ l.state = 2 :=
  ⟨.compute 0 8, (at'
    { run with lasers := [(7, { state := 6, group := 7 })], plots := [(119, { state := 3, seat := 0x70, reason := 6 })] }), 7, by decide⟩

theorem witness_LocksAndHeatersComplete_0 : ∃ (b : BankRef) (err : Int) (s : State),
    let x := s.toChip.bank (bankIndex b);
    (x.lock = 2 ∨ (x.lock = 3 ∧ err.natAbs ≤ 16)) :=
  ⟨{ g := 0, o := 1, b := 0 }, -16, (at' { run with banks := [(18, { lock := 3, heater := 100 })] }), by decide⟩

theorem witness_LocksAndHeatersComplete_1 : ∃ (s : State),
    keysRise 0 s.banks = true :=
  ⟨(at' { run with banks := [(18, { lock := 3, heater := 100 })] }), by decide⟩

theorem witness_LocksAndHeatersComplete_2 : ∃ (b : BankRef) (measured : Nat) (s : State),
    let x := s.toChip.bank (bankIndex b);
    let off := ((measured : Int) - x.heater.toNat).natAbs;
    (off ≤ 64 ∨ off * 100 ≤ x.heater.toNat) :=
  ⟨{ g := 0, o := 1, b := 0 }, 36, (at' { run with banks := [(18, { lock := 3, heater := 100 })] }), by decide⟩

theorem witness_LocksAndHeatersComplete_3 : ∃ (b : BankRef) (measured : Nat) (s : State),
    let x := s.toChip.bank (bankIndex b);
    let off := ((measured : Int) - x.heater.toNat).natAbs;
    64 < off ∧ x.heater.toNat < off * 100 ∧ x.fault = false ∧ (s.toChip.plot (bankPlot b)).state ≠ 4 :=
  ⟨{ g := 0, o := 1, b := 0 }, 35, (at' { run with banks := [(18, { lock := 3, heater := 100 })] }), by decide⟩

theorem witness_PilotsComplete_0 : ∃ (b : BankRef) (s : State) (line : Fin 16),
    let x := s.toChip.bank (bankIndex b);
    2 ≤ x.lock.toNat ∧ (s.toChip.plot (bankPlot b)).state ≠ 4 ∧ ((b.b.val < 16 → line.val = b.b.val)) :=
  ⟨{ g := 0, o := 1, b := 0 }, (at' { run with banks := [(18, { lock := 2 })] }), 0, by decide⟩

theorem witness_PilotsComplete_1 : ∃ (b : BankRef) (s : State) (chips : BitVec 32),
    let x := s.toChip.bank (bankIndex b);
    2 ≤ x.lock.toNat ∧ (s.toChip.plot (bankPlot b)).state ≠ 4 ∧ chips.toNat / 2 ^ 24 ≠ 0xF2 ∧ x.lostFrames < 7 :=
  ⟨{ g := 0, o := 1, b := 0 }, (at' { run with banks := [(18, { lock := 2, lostFrames := 6 })] }), 0, by decide⟩

theorem witness_PilotsComplete_2 : ∃ (b : BankRef) (s : State) (peaks : List SweepPeak) (p : SweepPeak),
    let x := s.toChip.bank (bankIndex b);
    x.lock = 1 ∧
    let own (p : SweepPeak) : Prop := p.code.toNat % 16 = 0 ∧ (ownFrame b p.frame0 = true ∨ ownFrame b p.frame1 = true);
    p ∈ peaks ∧ own p ∧ ((∀ q ∈ peaks, own q → q ≠ p → ((p.code.toNat : Int) - x.last).natAbs < ((q.code.toNat : Int) - x.last).natAbs)) :=
  ⟨{ g := 0, o := 1, b := 0 }, (at' { run with banks := [(18, { lock := 1, last := 0x100 })] }),
    [{ code := 0x200, frame0 := 0, frame1 := tagChips (tagWord false 0 0) }, { code := 0xF0, frame0 := 0, frame1 := 0 }],
    { code := 0x200, frame0 := 0, frame1 := tagChips (tagWord false 0 0) }, by decide⟩

theorem witness_PilotsComplete_3 : ∃ (b : BankRef) (s : State) (peaks : List SweepPeak),
    let x := s.toChip.bank (bankIndex b);
    x.lock = 1 ∧
    let own (p : SweepPeak) : Prop := p.code.toNat % 16 = 0 ∧ (ownFrame b p.frame0 = true ∨ ownFrame b p.frame1 = true);
    (∀ p ∈ peaks, ¬ own p) :=
  ⟨{ g := 0, o := 1, b := 0 }, (at' { run with banks := [(18, { lock := 1 })] }), [{ code := 0x200, frame0 := 0, frame1 := 0 }], by decide⟩

theorem witness_StackCommandsComplete_2 : ∃ (line : Nat),
    line * 64 < stackBytes :=
  ⟨0x17FFFFFF, by decide⟩

theorem witness_StackCommandsComplete_3 : ∃ (k : Fin 8) (s : State),
    let x := s.toChip.stack k.val;
    x.failing &&& ~~~x.failed ≠ 0 :=
  ⟨7, (at' { run with hbmStacks := [(7, { failing := 1 })] }), by decide⟩

theorem witness_LamniFramesComplete_0 : ∃ (p : Fin 16) (hdr : FrameHdr) (code : CodeResult) (s : State) (f : Frame) (j : Job) (i : Image),
    let q := s.toChip.port p.val;
    code ≠ .uncorrectable ∧ hdrUnclean hdr = false ∧ q.state = 4 ∧ s.toChip.portJob p.val = some j ∧ s.toChip.imageOf j = some i ∧
      s.toChip.discarded j i f.hdr = false ∧ s.toChip.strokeAgrees j i f.hdr = true ∧ s.toChip.headerAgrees j i p.val f = true ∧
      f.hdr.digestFrag = digestFrag i.id f.hdr.stroke.toNat ∧ q.held + f.payload.length ≤ 2 ^ 21 :=
  ⟨3,
    { type := 6, mode := 0, easy := false, blockTag := 0, lane := 0, index := 0, last := false, stroke := 1, sendTick := 0, payloadLen := 208, digestFrag := 0, reservedZero := true },
    .corrected 1, (at' { (ready linkImage [{ aJob with fleet := true, stroke := 1 }]) with ports := [(3, { state := 4 })] }),
    { hdr := { type := 1, mode := 0, easy := false, blockTag := 0, lane := 0, index := 0, last := true, stroke := 0, sendTick := 2368, payloadLen := 64, digestFrag := 0xA5, reservedZero := true }, payload := List.replicate 64 1 },
    { aJob with fleet := true, stroke := 1 }, linkImage, by decide⟩

theorem witness_LamniFramesComplete_1 : ∃ (p : Fin 16) (hdr : FrameHdr) (code : CodeResult) (s : State) (m : CatchMsg) (offset : Int) (j :
    Job),
    let q := s.toChip.port p.val;
    code ≠ .uncorrectable ∧ hdrUnclean hdr = false ∧ q.state = 4 ∧ s.toChip.portJob p.val = some j ∧ j.fleet = true ∧ m.leadIn = false ∧
      j.live = true ∧ offset.natAbs ≤ 200 ∧ m.imageId = j.image ∧ q.catches.head? = some (m.jobStroke.toNat, m.epoch) :=
  ⟨3,
    { type := 6, mode := 0, easy := false, blockTag := 0, lane := 0, index := 0, last := false, stroke := 1, sendTick := 0, payloadLen := 208, digestFrag := 0, reservedZero := true },
    .corrected 1, (at'
    { (ready linkImage [{ aJob with fleet := true, stroke := 2 }]) with ports := [(3, { state := 4, catches := [(1, 0), (2, 0)] })] }),
    { member := 1, leadIn := false, easySet := false, distance := 1, origin := 0, jobStroke := 1, epoch := 0, imageId := 0xA5, start := 100, mode := 0 },
    -200, { aJob with fleet := true, stroke := 2 }, by decide⟩

theorem witness_LamniFramesComplete_2 : ∃ (p : Fin 16) (hdr : FrameHdr) (code : CodeResult) (s : State),
    let q := s.toChip.port p.val;
    code ≠ .uncorrectable ∧ hdrUnclean hdr = false ∧ q.state = 2 ∧ q.weighCount < 15 :=
  ⟨3,
    { type := 6, mode := 0, easy := false, blockTag := 0, lane := 0, index := 0, last := false, stroke := 1, sendTick := 0, payloadLen := 208, digestFrag := 0, reservedZero := true },
    .corrected 1, (at'
    { (ready linkImage [{ aJob with fleet := true, stroke := 1 }]) with ports := [(3, { state := 2, weighCount := 14 })] }), by decide⟩

theorem witness_LamniFramesComplete_3 : ∃ (p : Fin 16) (hdr : FrameHdr) (code : CodeResult) (s : State),
    let q := s.toChip.port p.val;
    code ≠ .uncorrectable ∧ hdrUnclean hdr = false ∧ q.state = 2 ∧ 15 ≤ q.weighCount :=
  ⟨3,
    { type := 6, mode := 0, easy := false, blockTag := 0, lane := 0, index := 0, last := false, stroke := 1, sendTick := 0, payloadLen := 208, digestFrag := 0, reservedZero := true },
    .corrected 1, (at'
    { (ready linkImage [{ aJob with fleet := true, stroke := 1 }]) with ports := [(3, { state := 2, weighCount := 15 })] }), by decide⟩

theorem witness_LamniFramesComplete_4 : ∃ (hdr : FrameHdr) (code : CodeResult),
    code ≠ .uncorrectable ∧ hdrUnclean hdr = false :=
  ⟨{ type := 6, mode := 0, easy := false, blockTag := 0, lane := 0, index := 0, last := false, stroke := 1, sendTick := 0, payloadLen := 208, digestFrag := 0, reservedZero := true },
    .corrected 1, by decide⟩

theorem witness_LamniFramesComplete_5 : ∃ (p : Fin 16) (hdr : FrameHdr) (code : CodeResult) (s : State) (m : LaneMsg),
    let q := s.toChip.port p.val;
    code ≠ .uncorrectable ∧ hdrUnclean hdr = false ∧ q.state ≠ 1 ∧ m.action ≠ 1 :=
  ⟨3,
    { type := 6, mode := 0, easy := false, blockTag := 0, lane := 0, index := 0, last := false, stroke := 1, sendTick := 0, payloadLen := 208, digestFrag := 0, reservedZero := true },
    .corrected 1, (at' run), { action := 0, lane := 8, target := 3 }, by decide⟩

theorem witness_LamniFramesComplete_6 : ∃ (p : Fin 16) (hdr : FrameHdr) (code : CodeResult) (s : State) (m : LaneMsg),
    let q := s.toChip.port p.val;
    code ≠ .uncorrectable ∧ hdrUnclean hdr = false ∧ q.state ≠ 1 ∧ m.action = 1 ∧ s.toChip.portStroke p.val + 4 ≤ m.target.toNat :=
  ⟨3,
    { type := 6, mode := 0, easy := false, blockTag := 0, lane := 0, index := 0, last := false, stroke := 1, sendTick := 0, payloadLen := 208, digestFrag := 0, reservedZero := true },
    .corrected 1, (at' { run with ports := [(3, { pendRx := [({ action := 0, lane := 7, target := 4 }, false)] })] }),
    { action := 1, lane := 7, target := 4 }, by decide⟩

theorem witness_LamniFramesComplete_7 : ∃ (p : Fin 16) (hdr : FrameHdr) (code : CodeResult) (s : State) (m : LaneMsg),
    let q := s.toChip.port p.val;
    code ≠ .uncorrectable ∧ hdrUnclean hdr = false ∧ q.state ≠ 1 ∧ m.action = 1 ∧ m.target.toNat < s.toChip.portStroke p.val + 4 :=
  ⟨3,
    { type := 6, mode := 0, easy := false, blockTag := 0, lane := 0, index := 0, last := false, stroke := 1, sendTick := 0, payloadLen := 208, digestFrag := 0, reservedZero := true },
    .corrected 1, (at' { run with ports := [(3, { pendRx := [({ action := 0, lane := 7, target := 3 }, false)] })] }),
    { action := 1, lane := 7, target := 3 }, by decide⟩

theorem witness_LamniFramesComplete_8 : ∃ (p : Fin 16) (hdr : FrameHdr) (code : CodeResult) (s : State) (m : SignalMsg) (j : Job),
    let q := s.toChip.port p.val;
    code ≠ .uncorrectable ∧ hdrUnclean hdr = false ∧ q.state = 4 ∧ s.toChip.portJob p.val = some j ∧ j.fleet = true ∧ j.image = m.imageId ∧
      m.kind = 1 ∧ j.epoch.toNat ≤ m.epoch.toNat ∧ ((∀ x, j.knownX = some x → m.stroke.toNat < x)) :=
  ⟨3,
    { type := 6, mode := 0, easy := false, blockTag := 0, lane := 0, index := 0, last := false, stroke := 1, sendTick := 0, payloadLen := 208, digestFrag := 0, reservedZero := true },
    .corrected 1, (at'
    { (ready linkImage [{ aJob with fleet := true, stroke := 2, knownX := some 2 }]) with ports := [(3, { state := 4 })] }),
    { kind := 1, hops := 0, origin := 1, sequence := 0, epoch := 0, stroke := 1, lane := 0, status := 0, imageId := 0xA5 },
    { aJob with fleet := true, stroke := 2, knownX := some 2 }, by decide, by decide, by decide, by decide, by decide, by decide, by
    decide, by decide, by intro x h; cases h; decide⟩

theorem witness_LamniFramesComplete_9 : ∃ (hdr : FrameHdr) (code : CodeResult),
    code ≠ .uncorrectable ∧ hdrUnclean hdr = false :=
  ⟨{ type := 6, mode := 0, easy := false, blockTag := 0, lane := 0, index := 0, last := false, stroke := 1, sendTick := 0, payloadLen := 208, digestFrag := 0, reservedZero := true },
    .corrected 1, by decide⟩

theorem witness_LamniFramesComplete_10 : ∃ (p : Fin 16) (s : State),
    let q := s.toChip.port p.val;
    q.state = 4 :=
  ⟨3, (at' { (ready linkImage [{ aJob with fleet := true, stroke := 1 }]) with ports := [(3, { state := 4 })] }), by decide⟩

theorem witness_LamniFramesComplete_15 : ∃ (p : Fin 16) (l : Fin 9) (s : State),
    let lane := laneKey p.val l.val;
    (s.toChip.lane lane).markers < 3 :=
  ⟨3, 8, (at' { run with lanes := [(35, { markers := 2 })] }), by decide⟩

theorem witness_LamniPortsComplete_0 : ∃ (p : Fin 16) (s : State),
    let q := s.toChip.port p.val;
    let now := s.toChip.portStroke p.val;
    now % 256 = 0 ∧ (q.state = 2 ∨ q.state = 3 ∨ q.state = 4) ∧ q.delays ≠ [] ∧ meanDelay q.delays + 30 ≤ s.cfg.hopBudget.toNat :=
  ⟨3, (at' { run with ports := [(3, { state := 4, delays := [1940, 1940] })] }), by decide⟩

theorem witness_LamniPortsComplete_1 : ∃ (p : Fin 16) (s : State) (l : Fin 9) (w : BitVec 8) (h : BitVec 8) (n : Nat),
    let x := s.toChip.lane (laneKey p.val l.val);
    n < 400 ∧ x.commission.toNat * 80 ≤ h.toNat * 100 ∧ 77 ≤ w.toNat :=
  ⟨3, (at' { run with lanes := [(35, { commission := 100 })] }), 8, 77, 80, 399, by decide⟩

theorem witness_LamniPortsComplete_2 : ∃ (p : Fin 16) (s : State),
    let q := s.toChip.port p.val;
    q.pendRx = [] ∧ q.laneSel.toNat ≤ 8 ∧ (mapFind q.mapRx q.laneSel.toNat).isSome = true ∧ (q.state = 2 ∨ q.state = 3 ∨ q.state = 4) ∧
      (spareLane q.mapRx q.retiredRx q.rotOut).isSome = true :=
  ⟨3, (at' { run with ports := [(3, { state := 2, laneSel := 7 })] }), by decide⟩

theorem witness_LamniPortsComplete_3 : ∃ (p : Fin 16) (s : State) (m : LaneMsg),
    let q := s.toChip.port p.val;
    let now := s.toChip.portStroke p.val;
    q.pendTx = [] ∧ q.pendRx = [(m, true)] ∧ m.action = 0 ∧ m.target.toNat ≤ now ∧ q.retiredRx.getLsbD m.lane.val = false ∧
    let after := q.retireRx m.lane.val;
    mapShort after.mapRx = false :=
  ⟨3, (at'
    { run with ports := [(3, { pendRx := [({ action := 0, lane := 7, target := 3 }, true)] })], clk := { run.clk with fleetStroke := 3 } }),
    { action := 0, lane := 7, target := 3 }, by decide⟩

theorem witness_LamniPortsComplete_4 : ∃ (p : Fin 16) (s : State) (m : LaneMsg),
    let q := s.toChip.port p.val;
    let now := s.toChip.portStroke p.val;
    q.pendTx = [] ∧ q.pendRx = [(m, true)] ∧ m.action = 0 ∧ m.target.toNat ≤ now ∧ q.retiredRx.getLsbD m.lane.val = false ∧
    let after := q.retireRx m.lane.val;
    mapShort after.mapRx = true ∧ q.state ≠ 3 :=
  ⟨3, (at'
    { run with ports := [(3, { retiredRx := 0x100, pendRx := [({ action := 0, lane := 7, target := 3 }, true)] })], clk := { run.clk with fleetStroke := 3 } }),
    { action := 0, lane := 7, target := 3 }, by decide⟩

theorem witness_LamniPortsComplete_5 : ∃ (p : Fin 16) (s : State) (m : LaneMsg),
    let q := s.toChip.port p.val;
    let now := s.toChip.portStroke p.val;
    q.pendTx = [m] ∧ q.pendRx = [] ∧ m.action = 0 ∧ m.target.toNat ≤ now ∧
    let after := ({ q with pendTx := [] } : Port).retireTx m.lane.val;
    mapShort after.mapTx = false :=
  ⟨3, (at' { run with ports := [(3, { pendTx := [{ action := 0, lane := 7, target := 3 }] })], clk := { run.clk with fleetStroke := 3 } }),
    { action := 0, lane := 7, target := 3 }, by decide⟩

theorem witness_LamniPortsComplete_6 : ∃ (p : Fin 16) (s : State) (m : LaneMsg),
    let q := s.toChip.port p.val;
    let now := s.toChip.portStroke p.val;
    q.pendTx = [m] ∧ q.pendRx = [] ∧ m.action = 0 ∧ m.target.toNat ≤ now ∧
    let after := ({ q with pendTx := [] } : Port).retireTx m.lane.val;
    mapShort after.mapTx = true ∧ q.state ≠ 3 :=
  ⟨3, (at'
    { run with ports := [(3, { retiredTx := 0x100, pendTx := [{ action := 0, lane := 7, target := 3 }] })], clk := { run.clk with fleetStroke := 3 } }),
    { action := 0, lane := 7, target := 3 }, by decide⟩

theorem witness_LamniPortsComplete_7 : ∃ (p : Fin 16) (s : State) (l : Fin 9) (m : LaneMsg),
    let q := s.toChip.port p.val;
    let now := s.toChip.portStroke p.val;
    m.lane = l ∧ q.pendRx = [(m, true)] ∧ q.pendTx = [] ∧ m.target.toNat ≤ now ∧ m.action = 2 ∧ spareFree q.mapRx q.retiredRx q.rotOut =
      true ∧ (mapFind q.mapRx l.val).isSome = true :=
  ⟨3, (at'
    { run with ports := [(3, { pendRx := [({ action := 2, lane := 7, target := 3 }, true)] })], clk := { run.clk with fleetStroke := 3 } }),
    7, { action := 2, lane := 7, target := 3 }, by decide⟩

theorem witness_LamniPortsComplete_8 : ∃ (p : Fin 16) (s : State) (l : Fin 9) (m : LaneMsg),
    let q := s.toChip.port p.val;
    let now := s.toChip.portStroke p.val;
    m.lane = l ∧ q.pendRx = [(m, true)] ∧ q.pendTx = [] ∧ m.target.toNat ≤ now ∧ m.action = 3 ∧ q.rotOut = some l.val :=
  ⟨3, (at'
    { run with ports := [(3, { pendRx := [({ action := 3, lane := 7, target := 3 }, true)], rotOut := some 7 })], clk := { run.clk with fleetStroke := 3 } }),
    7, { action := 3, lane := 7, target := 3 }, by decide⟩

theorem witness_LamniPortsComplete_9 : ∃ (p : Fin 16) (s : State),
    let q := s.toChip.port p.val;
    q.pendRx = [] :=
  ⟨3, (at' run), by decide⟩

theorem witness_LamniPortsComplete_10 : ∃ (p : Fin 16) (s : State) (r : BringUp) (rx : BitVec 32) (tx : BitVec 32),
    let q := s.toChip.port p.val;
    q.state = 1 ∧ q.remeasure = false ∧ s.toChip.portLit p.val = true ∧ freshMap (s.toChip.fitLanes p.val r) = some rx ∧ freshMap
      r.txUsable = some tx ∧ meanDelay (r.trips.drop (r.trips.length - 256)) + 50 ≤ s.cfg.hopBudget.toNat :=
  ⟨3, (at' { run with ports := [(3, { state := 1 })] }),
    { rxUsable := [true, true, true, false, true, true, true, true, true], txUsable := List.replicate 9 true, heights := List.replicate 9 1, widths := List.replicate 9 56, trips := [1900] },
    0x76548210, 0x76543210, by decide⟩

theorem witness_LamniPortsComplete_11 : ∃ (p : Fin 16) (s : State),
    let q := s.toChip.port p.val;
    q.state = 3 ∧ q.retryAt ≠ 0 ∧ q.retryAt ≤ s.clk.fleetStroke.toNat :=
  ⟨3, (at' { run with ports := [(3, { state := 3, retryAt := 7 })], clk := { run.clk with fleetStroke := 7 } }), by decide⟩

theorem witness_LamniPortsComplete_12 : ∃ (p : Fin 16) (s : State),
    s.toChip.portJob p.val = none :=
  ⟨3, (at' run), by decide⟩

theorem witness_LamniPortsComplete_13 : ∃ (p : Fin 16) (s : State),
    (s.toChip.portJob p.val).isSome = true :=
  ⟨3, (at' { (ready linkImage [{ aJob with fleet := true, stroke := 1 }]) with ports := [(3, { state := 4 })] }), by decide⟩

theorem witness_LinkExchangesComplete_0 : ∃ (st : Site) (s : State) (j : Job) (g : Nat) (op : LinkOp) (i : Image) (port : Nat) (e : Slot),
    s.toChip.atSite st = some (j, g) ∧ st.onSeq = true ∧ linkFits s.toChip st op = true ∧ 0 < op.length.toNat ∧ s.toChip.moves j = true ∧
      s.toChip.imageOf j = some i ∧ s.toChip.lport j op.lport.val = some port ∧ op.legal true = true ∧ s.toChip.slotOf j i.linkSlots
      op.slotRef.toNat st.region.val true = some e :=
  ⟨seq, (at' { (ready linkImage [{ aJob with fleet := true, stroke := 1 }]) with ports := [(3, { state := 4 })] }),
    { aJob with fleet := true, stroke := 1 }, 0, { port := 0, slotRef := 0, lport := 0, length := 4, addr := 0 }, linkImage, 3,
    linkImage.linkSlots.getD 0 aSlot, by decide⟩

theorem witness_LinkExchangesComplete_1 : ∃ (st : Site) (s : State) (j : Job) (g : Nat) (op : LinkOp) (i : Image) (port : Nat) (e : Slot)
    (p : Path),
    s.toChip.atSite st = some (j, g) ∧ st.onSeq = true ∧ linkFits s.toChip st op = true ∧ 0 < op.length.toNat ∧ s.toChip.moves j = true ∧
      s.toChip.imageOf j = some i ∧ s.toChip.lport j op.lport.val = some port ∧
    let n := 16 * op.length.toNat;
    op.legal false = true ∧ p.fetchBad = false ∧ s.toChip.slotOf j i.linkSlots op.slotRef.toNat st.region.val false = some e ∧
    let r := s.toChip.receive j (s.toChip.port port).buffer (s.toChip.hopPad i) (occurrences e.start e.bytes n st.tick) 0
      { data := [], used := [], late := none, tag := none };
    r.late = none ∧ r.tag = none :=
  ⟨{ seq with tick := 4096 }, (at'
    { (ready linkImage [{ aJob with fleet := true, stroke := 1 }]) with ports := [(3, { state := 4, buffer := [{ lane := 0, frame := { hdr := { type := 1, mode := 0, easy := false, blockTag := 0, lane := 0, index := 0, last := true, stroke := 0, sendTick := 2368, payloadLen := 64, digestFrag := 0xA5, reservedZero := true }, payload := List.replicate 64 1 } }] })] }),
    { aJob with fleet := true, stroke := 1 }, 0, { port := 0, slotRef := 1, lport := 0, length := 4, addr := 0 }, linkImage, 3,
    linkImage.linkSlots.getD 1 aSlot, Path.clean, by decide⟩

theorem witness_FleetTimeComplete_0 : ∃ (s : State),
    s.clk.fleetRunning = true ∧ s.clk.refclkOk = true :=
  ⟨(at' { run with clk := { run.clk with fleetRunning := true } }), by decide⟩

theorem witness_FleetTimeComplete_1 : ∃ (s : State),
    s.clk.fleetRunning = false :=
  ⟨(at' run), by decide⟩

theorem witness_FleetTimeComplete_2 : ∃ (s : State) (position : Int),
    s.clk.fleetRunning = true ∧ position.natAbs ≤ 20 :=
  ⟨(at' { run with clk := { run.clk with fleetRunning := true } }), -20, by decide⟩

theorem witness_FleetTimeComplete_3 : ∃ (s : State) (position : Int),
    s.clk.fleetRunning = true ∧ 20 < position.natAbs ∧ s.toChip.fleetJobs ≠ [] :=
  ⟨(at' { (ready linkImage [{ aJob with fleet := true }]) with clk := { run.clk with fleetRunning := true } }), 21, by decide⟩

theorem witness_FleetTimeComplete_4 : ∃ (s : State),
    s.clk.fsyncOk = true ∧ 131072 ≤ s.clk.sinceFsync :=
  ⟨(at' { run with clk := { run.clk with fsyncOk := true, sinceFsync := 131072 } }), by decide⟩

theorem witness_FleetSignalsTakeEffect_0 : ∃ (id : JobId) (s : State) (j : Job) (i : Image),
    s.toChip.job? id = some j ∧ s.toChip.imageOf j = some i ∧ j.fleet = true ∧ j.st = .admitted ∧ startStroke j.body ≤
      s.clk.fleetStroke.toNat ∧ ((∀ p ∈ s.toChip.jobPorts j, ∀ k, k < 16 → look 0 j.leadIns p / 3 ^ (k + 1) % 3 = 1)) ∧ 2 *
      j.distance.toNat ≤ s.cfg.reach.toNat :=
  ⟨jid, (at'
    { (ready linkImage [{ aJob with fleet := true, st := .admitted, leadIns := [(3, 64570080)], distance := 2 }]) with ports := [(3, { state := 4 })], clk := { run.clk with fleetStroke := 100 } }),
    { aJob with fleet := true, st := .admitted, leadIns := [(3, 64570080)], distance := 2 }, linkImage, by decide⟩

theorem witness_FleetSignalsTakeEffect_1 : ∃ (id : JobId) (s : State) (j : Job) (i : Image) (x : _),
    s.toChip.job? id = some j ∧ s.toChip.imageOf j = some i ∧ j.fleet = true ∧ j.knownX = some x ∧ j.st = .running ∧ j.abortReq = none ∧
      x + s.toChip.jobDeltaF j + 1 ≤ j.stroke ∧ j.signalDue [5, 6] = none ∧ j.lostWord = false ∧ j.rerowCount < 8 ∧ s.saf.remedies = [] :=
  ⟨jid, (at'
    { (ready linkImage [{ aJob with fleet := true, stroke := 9, committed := 2, knownX := some 3 }]) with ports := [(3, { state := 4 })] }),
    { aJob with fleet := true, stroke := 9, committed := 2, knownX := some 3 }, linkImage, 3, by decide⟩

theorem witness_FleetSignalsTakeEffect_2 : ∃ (id : JobId) (s : State) (j : Job) (i : Image),
    s.toChip.job? id = some j ∧ s.toChip.imageOf j = some i ∧ j.fleet = true ∧ s.toChip.atPiece j = true ∧ (j.signalDue [2, 3]).isSome =
      true :=
  ⟨jid, (at'
    { (ready linkImage [{ aJob with fleet := true, stroke := 2, signals := [{ kind := 2, origin := 1, seq := 0, due := 2, status := 0x19 }] }]) with ports := [(3, { state := 4 })] }),
    { aJob with fleet := true, stroke := 2, signals := [{ kind := 2, origin := 1, seq := 0, due := 2, status := 0x19 }] }, linkImage, by
    decide⟩

theorem witness_FleetSignalsTakeEffect_3 : ∃ (id : JobId) (s : State) (j : Job) (i : Image),
    s.toChip.job? id = some j ∧ s.toChip.imageOf j = some i ∧ j.fleet = true ∧ j.st = .running ∧ s.toChip.atPiece j = true ∧ (j.signalDue
      [4]).isSome = true ∧ j.stroke < i.strokes :=
  ⟨jid, (at'
    { (ready linkImage [{ aJob with fleet := true, stroke := 2, signals := [{ kind := 4, origin := 1, seq := 0, due := 2, status := 0x19 }] }]) with ports := [(3, { state := 4 })] }),
    { aJob with fleet := true, stroke := 2, signals := [{ kind := 4, origin := 1, seq := 0, due := 2, status := 0x19 }] }, linkImage, by
    decide⟩

theorem witness_FleetSignalsTakeEffect_4 : ∃ (id : JobId) (s : State) (j : Job) (i : Image) (m : _),
    s.toChip.job? id = some j ∧ s.toChip.imageOf j = some i ∧ j.fleet = true ∧ j.live = true ∧ j.signalDue [5] = some m :=
  ⟨jid, (at'
    { (ready linkImage [{ aJob with fleet := true, stroke := 2, signals := [{ kind := 5, origin := 1, seq := 0, due := 2, status := 0x19 }] }]) with ports := [(3, { state := 4 })] }),
    { aJob with fleet := true, stroke := 2, signals := [{ kind := 5, origin := 1, seq := 0, due := 2, status := 0x19 }] }, linkImage,
    { kind := 5, origin := 1, seq := 0, due := 2, status := 0x19 }, by decide⟩

theorem witness_FleetSignalsTakeEffect_5 : ∃ (id : JobId) (s : State) (j : Job) (i : Image),
    s.toChip.job? id = some j ∧ s.toChip.imageOf j = some i ∧ j.fleet = true ∧ j.live = true ∧ (j.signalDue [6]).isSome = true :=
  ⟨jid, (at'
    { (ready linkImage [{ aJob with fleet := true, stroke := 2, signals := [{ kind := 6, origin := 1, seq := 0, due := 2, status := 0x19 }] }]) with ports := [(3, { state := 4 })] }),
    { aJob with fleet := true, stroke := 2, signals := [{ kind := 6, origin := 1, seq := 0, due := 2, status := 0x19 }] }, linkImage, by
    decide⟩

theorem witness_ClocksAndPowerComplete_0 : ∃ (s : State),
    s.clk.refclkOk = true :=
  ⟨(at' run), by decide⟩

theorem witness_ClocksAndPowerComplete_1 : ∃ (s : State),
    s.clk.refclkOk = false ∧ s.clk.onBackup = true ∧ 3 ≤ s.start.phase.toNat :=
  ⟨(at' { run with clk := { onBackup := true } }), by decide⟩

theorem witness_ClocksAndPowerComplete_2 : ∃ (s : State) (g : Fin 16),
    (s.toChip.region g.val).power ≠ 0 :=
  ⟨(at' run), 0, by decide⟩

theorem witness_ClocksAndPowerComplete_3 : ∃ (s : State) (r : Rail),
    s.saf.breaches.any (fun b => b.rail == r && b.active) = false :=
  ⟨(at' run), .portReg 15, by decide⟩

theorem witness_ClocksAndPowerComplete_4 : ∃ (s : State) (r : Rail),
    s.saf.breaches.any (fun b => b.rail == r && b.active && !b.aborted && decide (b.since + msCycles 10 ≤ s.clk.aon)) = true :=
  ⟨(at'
    { run with clk := { run.clk with aon := 250000 }, saf := { breaches := [{ rail := .regionReg 0, active := true, since := 0, returned := 0, aborted := false }] } }),
    .regionReg 0, by decide⟩

theorem witness_ClocksAndPowerComplete_5 : ∃ (s : State) (r : Rail),
    s.saf.breaches.any (fun b => b.rail == r && b.active) = true :=
  ⟨(at' { run with saf := { breaches := [{ rail := .main, active := true, since := 0, returned := 0, aborted := false }] } }), .main, by
    decide⟩

theorem witness_ClocksAndPowerComplete_6 : ∃ (s : State),
    s.start.powerGood = true ∧ s.cfg.writing = none :=
  ⟨(at' run), by decide⟩

theorem witness_ClocksAndPowerComplete_7 : ∃ (s : State),
    s.cfg.writing = none :=
  ⟨(at' run), by decide⟩

theorem witness_ClocksAndPowerComplete_8 : ∃ (s : State),
    s.start.powerGood = false :=
  ⟨State.reset, by decide⟩

theorem witness_StartupPhasesComplete_0 : ∃ (s : State),
    s.toChip.inPhase 0 = true ∧ s.start.powered = false :=
  ⟨(at' { start := { powerGood := true } }), by decide⟩

theorem witness_StartupPhasesComplete_1 : ∃ (s : State),
    s.toChip.inPhase 1 = true :=
  ⟨(at' { start := { powered := true, powerGood := true, phase := 1 } }), by decide⟩

theorem witness_StartupPhasesComplete_3 : ∃ (s : State),
    s.toChip.inPhase 2 = true :=
  ⟨(at' { start := { powered := true, powerGood := true, phase := 2 } }), by decide⟩

theorem witness_StartupPhasesComplete_4 : ∃ (s : State),
    s.toChip.inPhase 3 = true ∧ s.start.memory = false :=
  ⟨(at' { start := { powered := true, powerGood := true, phase := 3 } }), by decide⟩

theorem witness_StartupPhasesComplete_5 : ∃ (s : State),
    s.toChip.inPhase 4 = true :=
  ⟨(at' { start := { powered := true, powerGood := true, phase := 4 } }), by decide⟩

theorem witness_StartupPhasesComplete_6 : ∃ (s : State),
    s.toChip.inPhase 4 = true :=
  ⟨(at' { start := { powered := true, powerGood := true, phase := 4 } }), by decide⟩

theorem witness_StartupPhasesComplete_7 : ∃ (s : State) (rs : List Int) (o : _) (gr : _),
    s.toChip.inPhase 5 = true ∧ rs.length = 8 ∧ calibration rs = some (o, gr) :=
  ⟨(at' { start := { powered := true, powerGood := true, phase := 5 } }), [0, 2048, 393216, 393216, 393216, -393216, -393216, -393216],
    2048, 0x400000, by decide⟩

theorem witness_StartupPhasesComplete_8 : ∃ (s : State) (rs : List Int),
    s.toChip.inPhase 5 = true ∧ rs.length = 8 ∧ calibration rs = none :=
  ⟨(at' { start := { powered := true, powerGood := true, phase := 5 } }), [0, 2049, 393216, 393216, 393216, -393216, -393216, -393216], by
    decide⟩

theorem witness_StartupPhasesComplete_9 : ∃ (s : State),
    s.toChip.inPhase 6 = true ∧ s.saf.remedies = [] :=
  ⟨(at' { start := { powered := true, powerGood := true, phase := 6 } }), by decide⟩

theorem witness_StartupPhasesComplete_10 : ∃ (s : State),
    s.toChip.inPhase 7 = true :=
  ⟨(at' { start := { powered := true, powerGood := true, phase := 7 } }), by decide⟩

theorem witness_StartupPhasesComplete_11 : ∃ (s : State),
    s.toChip.inPhase 8 = true :=
  ⟨(at' { start := { powered := true, powerGood := true, phase := 8 } }), by decide⟩

theorem witness_ConfigurationAndAccessComplete_0 : ∃ (s : State),
    s.cfg.writing = none ∧ s.start.ready = true ∧ s.start.recovery = false ∧ s.toChip.tapHolds = false ∧ s.cfg.src.toNat % 16 = 0 ∧
      s.cfg.src.toNat + cfgLength ≤ dataSpace :=
  ⟨(at' { run with cfg := { run.cfg with src := 0x5FFFF7000 } }), by decide⟩

theorem witness_ConfigurationAndAccessComplete_1 : ∃ (s : State) (copy : _),
    s.cfg.writing = some copy :=
  ⟨(at' { run with cfg := { run.cfg with writing := some true } }), true, by decide⟩

theorem witness_ConfigurationAndAccessComplete_3 : ∃ (s : State) (n : BitVec 7),
    let a := s.acc;
    s.cfg.access.getLsbD 0 = true ∧ s.toChip.lockedOut = false ∧ 8 ≤ n.toNat ∧ n.toNat ≤ 64 ∧
    let given := s.cfg.salt ++ a.pw.take n.toNat ++ List.replicate (n.toNat - a.pw.length) 0;
    sha512Field given = s.cfg.verifier ∧ a.level ≠ 2 :=
  ⟨(at'
    { run with cfg := { run.cfg with verifier := sha512Field ([] ++ ([] : List Byte).take (64 : BitVec 7).toNat ++ List.replicate ((64 : BitVec 7).toNat - ([] : List Byte).length) 0) } }),
    64, by decide, by decide, by decide, by decide, rfl, by decide⟩

theorem witness_ConfigurationAndAccessComplete_4 : ∃ (s : State) (n : BitVec 7),
    let a := s.acc;
    s.cfg.access.getLsbD 0 = true ∧ s.toChip.lockedOut = false ∧ 8 ≤ n.toNat ∧ n.toNat ≤ 64 ∧
    let given := s.cfg.salt ++ a.pw.take n.toNat ++ List.replicate (n.toNat - a.pw.length) 0;
    sha512Field given ≠ s.cfg.verifier :=
  ⟨(at'
    { run with cfg := { run.cfg with verifier := sha512Field ([] ++ ([] : List Byte).take (64 : BitVec 7).toNat ++ List.replicate ((64 : BitVec 7).toNat - ([] : List Byte).length) 0) + 1 } }),
    64, by decide, by decide, by decide, by decide, ne_succ _⟩

theorem witness_ConfigurationAndAccessComplete_6 : ∃ (s : State) (d : _),
    let a := s.acc;
    a.src.toNat + 196 ≤ dataSpace ∧ s.toChip.requestGood (readWindow s.mem.hbm 0 a.src.toNat 196) = some d :=
  ⟨(at' (withData asking 0 aRequest)), 3600, by decide, aRequest_good⟩

theorem witness_ConfigurationAndAccessComplete_8 : ∃ (s : State),
    let a := s.acc;
    a.level ≠ 0 ∧ a.expiry ≤ s.clk.aon :=
  ⟨(at' { run with acc := { level := 1, expiry := 0x1000000000 } }), by decide⟩

theorem witness_ConfigurationAndAccessComplete_9 : ∃ (s : State) (until_ : _),
    let a := s.acc;
    a.lockoutUntil = some until_ ∧ until_ ≤ s.clk.aon :=
  ⟨(at' { run with acc := { lockoutUntil := some 0x1000000000 } }), 0x1000000000, by decide⟩

theorem witness_ConfigurationAndAccessComplete_10 : ∃ (s : State) (ch : _) (until_ : _),
    let a := s.acc;
    a.challenge = some (ch, until_) ∧ until_ ≤ s.clk.aon :=
  ⟨(at' { run with acc := { challenge := some (5, 0x1000000000) } }), 5, 0x1000000000, by decide⟩

theorem witness_IdentityCommandsComplete_0 : ∃ (s : State),
    let a := s.acc;
    a.attesting = none ∧ a.src.toNat % 16 = 0 ∧ a.dst.toNat % 16 = 0 ∧ s.toChip.dataFree a.src.toNat 64 = true ∧ s.toChip.dataFree
      a.dst.toNat 2516 = true :=
  ⟨(at' { (ready anImage []) with acc := { src := 0x40000, dst := 0x80000 } }), by decide⟩

theorem witness_IdentityCommandsComplete_1 : ∃ (s : State) (src : _) (dst : _),
    let a := s.acc;
    a.attesting = some (src, dst) ∧ dst + 2516 ≤ dataSpace ∧ s.sch.images.length ≤ 64 :=
  ⟨(at' { (ready anImage []) with acc := { attesting := some (0x40000, 0x80000) } }), 0x40000, 0x80000, by decide⟩

theorem witness_IdentityCommandsComplete_2 : ∃ (s : State) (k : _),
    let a := s.acc;
    a.attesting = none ∧ a.src.toNat + 308 ≤ dataSpace ∧ s.start.recovery = false ∧ s.toChip.recordKey (readWindow s.mem.hbm 0 a.src.toNat
      308) = some k :=
  ⟨(at' owning), baseKey, rfl, by decide, rfl, aRecord_good⟩

theorem witness_IdentityCommandsComplete_3 : ∃ (s : State),
    let a := s.acc;
    a.level ≠ 0 :=
  ⟨(at' { (ready anImage []) with acc := { level := 1 } }), by decide⟩

theorem witness_IdentityCommandsComplete_4 : ∃ (s : State),
    let a := s.acc;
    a.level = 2 :=
  ⟨(at' { (ready anImage []) with acc := { level := 2 } }), by decide⟩

theorem witness_IdentityCommandsComplete_10 : ∃ (s : State),
    let a := s.acc;
    a.level ≠ 2 :=
  ⟨(at' { (ready anImage []) with acc := { level := 1 } }), by decide⟩

theorem witness_StreamCommandFrames_0 : ∃ (i : Instr),
    commandFamily i = .stream :=
  ⟨.synNop seq .good, by decide⟩

theorem witness_HostCommandFrames_0 : ∃ (i : Instr),
    commandFamily i = .host :=
  ⟨.chipStroke, by decide⟩

theorem witness_UnitCommandFrames_0 : ∃ (i : Instr),
    commandFamily i = .unit :=
  ⟨.storeCommit, by decide⟩

theorem witness_LinkAndPlantCommandFrames_0 : ∃ (i : Instr),
    commandFamily i = .link :=
  ⟨.fleetStroke, by decide⟩

theorem witness_ResetIsAsTheTablesSay_9 : ∃ (p : _),
    p < 16 :=
  ⟨15, by decide⟩

theorem witness_MemoriesStayCanonical_0 : ∃ (s : State) (t : State),
    s.memOk ∧ step s = .next t :=
  ⟨{ State.reset with pending := [.chipStroke] }, State.reset, rfl, rfl⟩

end Sys2Proof.Tests
end

/-! Re-row calls (R32, R124, R291): what a call to the jobs of a region leaves alone, and that it reaches every live job there outside a fleet. -/

namespace Sys2Proof.Machine

/-! ## Finding a job -/

/-- A change of a job that keeps identifiers changes the job found, where it is the one named. -/
theorem Chip.job?_upJob (c : Chip) (id id' : JobId) (f : Job → Job) (hid : ∀ k, (f k).id = k.id) :
    (c.upJob id f).job? id' = (c.job? id').map (fun k => if k.id = id then f k else k) := by
  have hsame : ((fun k : Job => k.id == id') ∘ fun k => if k.id = id then f k else k) = fun k => k.id == id' := by
    funext k
    simp only [Function.comp_apply]
    split <;> simp [hid]
  simp only [Chip.job?, Chip.upJob, List.find?_map, hsame]

/-- A change of a job that keeps identifiers removes no job. -/
theorem Chip.isSome_job?_upJob (c : Chip) (id id' : JobId) (f : Job → Job) (hid : ∀ k, (f k).id = k.id) :
    ((c.upJob id f).job? id').isSome = (c.job? id').isSome := by
  rw [c.job?_upJob id id' f hid, Option.isSome_map]

/-- A job of the block is found by its identifier. -/
theorem Chip.isSome_job?_of_mem {c : Chip} {j : Job} (hj : j ∈ c.jobs) : (c.job? j.id).isSome = true := by
  simp only [Chip.job?, List.find?_isSome]
  exact ⟨j, hj, by simp⟩

/-- The job found by an identifier is marked to re-row. -/
def Chip.toRerow (c : Chip) (id : JobId) : Prop := (c.job? id).map (·.rerow) = some true

/-- A change that keeps identifiers and clears no re-row mark keeps the mark of every job. -/
theorem Chip.toRerow_upJob {c : Chip} {id' : JobId} (id : JobId) (f : Job → Job) (hid : ∀ k, (f k).id = k.id)
    (hmark : ∀ k, k.rerow = true → (f k).rerow = true) (h : c.toRerow id') : (c.upJob id f).toRerow id' := by
  obtain ⟨k, hk, hr⟩ := Option.map_eq_some_iff.mp h
  simp only [Chip.toRerow, c.job?_upJob id id' f hid, hk, Option.map_some, Option.some.injEq]
  split
  · exact hmark k hr
  · exact hr

/-- A re-row mark set on a known job is found there. -/
theorem Chip.toRerow_upJob_mark {c : Chip} {id : JobId} (h : (c.job? id).isSome = true) :
    (c.upJob id (fun k => { k with rerow := true })).toRerow id := by
  obtain ⟨k, hk⟩ := Option.isSome_iff_exists.mp h
  have hid : k.id = id := by simpa using List.find?_some hk
  rw [Chip.toRerow, Chip.job?_upJob, hk]
  · simp [hid]
  · exact fun _ => rfl

/-! ## One call -/

/-- A call leaves the block, raises a REROW signal (R288), or marks the job. -/
theorem Chip.callJob_cases (c : Chip) (j : Job) (lane : Nat) :
    c.callJob j lane = c ∨ c.callJob j lane = c.raiseSignal j 1 j.stroke lane 0
      ∨ c.callJob j lane = c.upJob j.id (fun k => { k with rerow := true }) := by
  unfold Chip.callJob
  repeat' split
  all_goals simp

/-- A call to a live job outside a fleet marks it (R32). -/
theorem Chip.callJob_local (c : Chip) {j : Job} (lane : Nat) (hlive : j.live = true) (hfleet : j.fleet = false) :
    c.callJob j lane = c.upJob j.id (fun k => { k with rerow := true }) := by
  simp [Chip.callJob, hlive, hfleet]

@[simp] theorem Chip.callJob_saf (c : Chip) (j : Job) (lane : Nat) : (c.callJob j lane).saf = c.saf := by
  rcases c.callJob_cases j lane with h | h | h <;> rw [h] <;> rfl

@[simp] theorem Chip.callJob_log (c : Chip) (j : Job) (lane : Nat) : (c.callJob j lane).log = c.log := by
  rcases c.callJob_cases j lane with h | h | h <;> rw [h] <;> rfl

/-- A call clears no re-row mark. -/
theorem Chip.toRerow_callJob {c : Chip} {id : JobId} (j : Job) (lane : Nat) (h : c.toRerow id) : (c.callJob j lane).toRerow id := by
  rcases c.callJob_cases j lane with e | e | e <;> rw [e]
  · exact h
  · exact Chip.toRerow_upJob j.id _ (fun _ => rfl) (fun _ hk => hk) h
  · exact Chip.toRerow_upJob j.id _ (fun _ => rfl) (fun _ _ => rfl) h

/-- A call removes no job. -/
theorem Chip.isSome_job?_callJob (c : Chip) (j : Job) (lane : Nat) (id : JobId) :
    ((c.callJob j lane).job? id).isSome = (c.job? id).isSome := by
  rcases c.callJob_cases j lane with e | e | e <;> rw [e]
  · exact Chip.isSome_job?_upJob _ j.id id _ fun _ => rfl
  · exact Chip.isSome_job?_upJob _ j.id id _ fun _ => rfl

/-! ## The calls of a region -/

/-- What every step of a list keeps holds after the list. -/
theorem overAll_invariant {α : Type} (P : Chip → Prop) (f : Chip → α → Chip) (hkeep : ∀ c x, P c → P (f c x)) (l : List α) (c : Chip)
    (h : P c) : P (overAll l f c) := by
  induction l generalizing c with
  | nil => exact h
  | cons x l ih => exact ih _ (hkeep c x h)

@[simp] theorem Chip.callRegion_saf (c : Chip) (g : Nat) : (c.callRegion g).saf = c.saf :=
  overAll_keep Chip.saf _ _ _ fun _ _ => Chip.callJob_saf ..

@[simp] theorem Chip.callRegion_log (c : Chip) (g : Nat) : (c.callRegion g).log = c.log :=
  overAll_keep Chip.log _ _ _ fun _ _ => Chip.callJob_log ..

/-- The calls of a region reach each of its live jobs outside a fleet: the calls before its own keep the job, its own marks it, and
those after clear no mark. -/
theorem Chip.toRerow_callRegion {c : Chip} {g : Nat} {j : Job} (hj : j ∈ c.jobs) (hregion : j.inRegion g = true) (hlive : j.live = true)
    (hfleet : j.fleet = false) : (c.callRegion g).toRerow j.id := by
  have hcalled : j ∈ c.jobs.filter (fun k => k.inRegion g) := List.mem_filter.mpr ⟨hj, hregion⟩
  obtain ⟨before, after, hsplit⟩ := List.append_of_mem hcalled
  have hknown : ((overAll before (fun c j => c.callJob j) c).job? j.id).isSome = true :=
    (overAll_keep (fun c => (c.job? j.id).isSome) _ _ c fun d k => d.isSome_job?_callJob k _ _).trans (isSome_job?_of_mem hj)
  rw [Chip.callRegion, hsplit, overAll, List.foldl_append, List.foldl_cons, Chip.callJob_local _ _ hlive hfleet]
  exact overAll_invariant (Chip.toRerow · j.id) _ (fun d k => Chip.toRerow_callJob k _) after _ (Chip.toRerow_upJob_mark hknown)

end Sys2Proof.Machine

/-! Event records (R362, R377, R378): what an event adds to the log, and what a dangerous event leaves (R124, R363). -/

namespace Sys2Proof.Machine

/-- The sequence number of a source's next record (R378). -/
def Log.nextSeq (l : Log) (src : Nat) : BitVec 32 := (look ({} : Ring) l.rings src).next

/-- Every record written consumes one sequence number of its source, kept or dropped (R378). -/
theorem Log.nextSeq_write (l : Log) (full : Bool) (src : Nat) (r : EventRec) : (l.write full src r).nextSeq src = l.nextSeq src + 1 := by
  rw [Log.nextSeq, Log.write, look_put_same]
  split <;> rfl

section
variable (c : Chip) (src cls code : Nat) (rerow : Bool) (locus : BitVec 32) (detail : Nat)

/-- An event touches the log, two counters of SAF_EVENTS, and the FIFO fill of the source's region. -/
theorem Chip.event_eq :
    c.event src cls code rerow locus detail =
      { c with
        log := c.log.write (c.fifoFull src) src (c.record src cls code rerow locus detail)
        saf := { c.saf with transient := satIf (cls == 1) c.saf.transient, permanent := satIf (cls == 2) c.saf.permanent }
        regions := (c.event src cls code rerow locus detail).regions } := by
  simp only [Chip.event]
  repeat' split
  all_goals rfl

@[simp] theorem Chip.event_nextSeq : (c.event src cls code rerow locus detail).log.nextSeq src = c.log.nextSeq src + 1 := by
  rw [c.event_eq, Log.nextSeq_write]

@[simp] theorem Chip.event_dangCompute : (c.event src cls code rerow locus detail).saf.dangCompute = c.saf.dangCompute := by
  rw [c.event_eq]

@[simp] theorem Chip.event_jobs : (c.event src cls code rerow locus detail).jobs = c.jobs := by
  rw [c.event_eq]

end

/-! ## Dangerous events -/

/-- What a dangerous event of the compute path of a region leaves (R124, R371, R383): one more in SAF_DANGEROUS, one record more of its
source, every live job of the region outside a fleet to re-row, and the memories as they were. -/
structure Chip.DangerousEvent (c d : Chip) (g src : Nat) : Prop where
  counted : d.saf.dangCompute = satAdd c.saf.dangCompute 1
  logged : d.log.nextSeq src = c.log.nextSeq src + 1
  called : ∀ j ∈ c.jobs, j.inRegion g = true → j.live = true → j.fleet = false → d.toRerow j.id
  mem : d.mem = c.mem

/-- The end of a dangerous event: its remedy waits where it is permanent (R363), and the region is called to re-row. -/
def Chip.remedyAndCall (c : Chip) (g : Nat) (permanent : Bool) (r : Remedy) : Chip :=
  (c.when permanent (·.addRemedy r)).callRegion g

@[simp] theorem Chip.remedyAndCall_standing (c : Chip) (g : Nat) (permanent : Bool) (r : Remedy) :
    (c.remedyAndCall g permanent r).standing = c.standing :=
  (Chip.callRegion_standing ..).trans (Chip.when_keep Chip.standing _ _ _ fun d => d.addRemedy_standing r)

@[simp] theorem Chip.remedyAndCall_arr (c : Chip) (g : Nat) (permanent : Bool) (r : Remedy) (k : Nat) :
    (c.remedyAndCall g permanent r).arr k = c.arr k := by
  have h := c.remedyAndCall_standing g permanent r
  simp only [Chip.standing, Prod.mk.injEq] at h
  simp only [Chip.arr, h]

@[simp] theorem Chip.remedyAndCall_plot (c : Chip) (g : Nat) (permanent : Bool) (r : Remedy) (k : Nat) :
    (c.remedyAndCall g permanent r).plot k = c.plot k := by
  have h := c.remedyAndCall_standing g permanent r
  simp only [Chip.standing, Prod.mk.injEq] at h
  simp only [Chip.plot, h]

/-- Its remedy and its calls complete a dangerous event that is counted and logged. -/
theorem Chip.dangerousEvent_remedyAndCall {c d : Chip} {g src : Nat} (permanent : Bool) (r : Remedy)
    (hcount : d.saf.dangCompute = satAdd c.saf.dangCompute 1)
    (hlog : d.log.nextSeq src = c.log.nextSeq src + 1)
    (hjobs : d.jobs = c.jobs) (hmem : d.vaultMem = c.vaultMem) : c.DangerousEvent (d.remedyAndCall g permanent r) g src where
  counted := by
    rw [Chip.remedyAndCall, Chip.callRegion_saf, ← hcount]
    exact Chip.when_keep (·.saf.dangCompute) _ _ _ fun _ => rfl
  logged := by
    rw [Chip.remedyAndCall, Chip.callRegion_log, ← hlog]
    exact Chip.when_keep (·.log.nextSeq src) _ _ _ fun _ => rfl
  called j hj := by
    apply Chip.toRerow_callRegion
    have h : (d.when permanent (·.addRemedy r)).jobs = d.jobs := Chip.when_keep Chip.jobs _ _ _ fun _ => rfl
    rwa [h, hjobs]
  mem := by
    have h : (d.remedyAndCall g permanent r).vaultMem = d.vaultMem :=
      (Chip.callRegion_vaultMem ..).trans (Chip.when_keep Chip.vaultMem _ _ _ fun e => e.addRemedy_vaultMem r)
    exact congrArg Prod.snd (h.trans hmem)

end Sys2Proof.Machine

/-! The check-path exercises of arrays (R123) and of optical plots (R155): the obligation O7. -/

namespace Sys2Proof.Machine

/-! ## What a missed exercise leaves -/

/-- The block after a check-path exercise of an array did not fail: counted, logged, and its note set, or taken back by the second in a
row (R363). -/
def Chip.missArrayExercise (c : Chip) (core array : Nat) : Chip :=
  let again := (c.arr array).exerciseFail
  let c := c.upCore core (fun k => { k with benchFails := satAdd k.benchFails 1 })
  let c := { c with saf := { c.saf with dangCompute := satAdd c.saf.dangCompute 1 } }
  (c.event (srcCore core) (if again then 2 else 1) 0x104 true (arrLocus array none) 0).upArr array
    (fun x => { x with exerciseFail := !again })

/-- The block after a check-path exercise of an optical plot did not fail: counted, logged, and its note set, or taken back by the second
in a row (R363). -/
def Chip.missPlotExercise (c : Chip) (g k : Nat) : Chip :=
  let again := (c.plot k).exerciseFail
  let c := { c with saf := { c.saf with dangCompute := satAdd c.saf.dangCompute 1 } }
  (c.event (srcRgn g) (if again then 2 else 1) 0x104 true (plotLocus k) 0).upPlot k (fun x => { x with exerciseFail := !again })

@[simp] theorem Chip.exerciseFail_missArrayExercise (c : Chip) (core array : Nat) :
    ((c.missArrayExercise core array).arr array).exerciseFail = !(c.arr array).exerciseFail := by
  simp [Chip.missArrayExercise]

@[simp] theorem Chip.exerciseFail_missPlotExercise (c : Chip) (g k : Nat) :
    ((c.missPlotExercise g k).plot k).exerciseFail = !(c.plot k).exerciseFail := by
  simp [Chip.missPlotExercise]

theorem Chip.dangerousEvent_missArrayExercise (c : Chip) (g core array : Nat) (again : Bool) (r : Remedy) :
    c.DangerousEvent ((c.missArrayExercise core array).remedyAndCall g again r) g (srcCore core) := by
  apply Chip.dangerousEvent_remedyAndCall <;> simp [Chip.missArrayExercise]

theorem Chip.dangerousEvent_missPlotExercise (c : Chip) (g k : Nat) (again : Bool) (r : Remedy) :
    c.DangerousEvent ((c.missPlotExercise g k).remedyAndCall g again r) g (srcRgn g) := by
  apply Chip.dangerousEvent_remedyAndCall <;> simp [Chip.missPlotExercise]

/-! ## The meanings of the two commands, each in the stroke of its exercise -/

theorem exec_checkPathExercise (g : Fin 16) (k : Fin 34) (a : Fin 17) (compareFailed : Bool) (s : State) :
    exec (.checkPathExercise g k a compareFailed) s = execCheckPathExercise g k a compareFailed s := rfl

theorem exec_opticalCheckPathExercise (g : Fin 16) (o : Fin 136) (compareFailed : Bool) (s : State) :
    exec (.opticalCheckPathExercise g o compareFailed) s = execOpticalCheckPathExercise g o compareFailed s := rfl

section
variable (g : Fin 16) (k : Fin 34) (a : Fin 17) (s : State) (hturn : (s.toChip.region g.val).stroke.toNat % 256 = 15 * a.val)
include hturn

theorem exec_checkPathExercise_failed :
    exec (.checkPathExercise g k a true) s
      = .next { s with toChip := s.toChip.upArr ((g.val * 34 + k.val) * 17 + a.val) (fun x => { x with exerciseFail := false }) } := by
  simp [exec_checkPathExercise, execCheckPathExercise, act_next, hturn]

theorem exec_checkPathExercise_missed :
    let core := g.val * 34 + k.val
    let array := core * 17 + a.val
    exec (.checkPathExercise g k a false) s
      = .next { s with toChip :=
          ((s.toChip.missArrayExercise core array).remedyAndCall g.val (s.toChip.arr array).exerciseFail (.periphery array)) } := by
  simp [exec_checkPathExercise, execCheckPathExercise, act_next, hturn, Chip.missArrayExercise, Chip.remedyAndCall]

end

section
variable (g : Fin 16) (o : Fin 136) (s : State) (hturn : (s.toChip.region g.val).stroke.toNat % 256 = o.val)
include hturn

theorem exec_opticalCheckPathExercise_failed :
    exec (.opticalCheckPathExercise g o true) s
      = .next { s with toChip := s.toChip.upPlot (g.val * 136 + o.val) (fun x => { x with exerciseFail := false }) } := by
  simp [exec_opticalCheckPathExercise, execOpticalCheckPathExercise, act_next, hturn]

theorem exec_opticalCheckPathExercise_missed :
    let plot := g.val * 136 + o.val
    exec (.opticalCheckPathExercise g o false) s
      = .next { s with toChip :=
          ((s.toChip.missPlotExercise g.val plot).remedyAndCall g.val (s.toChip.plot plot).exerciseFail (.plot plot 4)) } := by
  simp [exec_opticalCheckPathExercise, execOpticalCheckPathExercise, act_next, hturn, Chip.missPlotExercise, Chip.remedyAndCall]

end

/-! ## The obligation -/

/-- Settles O7: a compare that fails only clears the note; one that does not is a dangerous event, whose remedy and calls leave the
note. -/
theorem checkPathExercises : Obligations.CheckPathExercises := by
  unfold Obligations.CheckPathExercises
  constructor
  · intro g k a s array hturn
    constructor
    · exact ⟨_, exec_checkPathExercise_failed g k a s hturn, by simp [array], rfl⟩
    · obtain ⟨hcount, hlog, hcalled, hmem⟩ := s.toChip.dangerousEvent_missArrayExercise g.val (g.val * 34 + k.val) array
        (s.toChip.arr array).exerciseFail (.periphery array)
      exact ⟨_, exec_checkPathExercise_missed g k a s hturn, by simp [array], hcount, hlog, hcalled, hmem⟩
  · intro g o s plot hturn
    constructor
    · exact ⟨_, exec_opticalCheckPathExercise_failed g o s hturn, by simp [plot], rfl⟩
    · obtain ⟨hcount, hlog, hcalled, hmem⟩ := s.toChip.dangerousEvent_missPlotExercise g.val plot
        (s.toChip.plot plot).exerciseFail (.plot plot 4)
      exact ⟨_, exec_opticalCheckPathExercise_missed g o s hturn, by simp [plot], hcount, hlog, hcalled, hmem⟩

end Sys2Proof.Machine

/-! The level (R344 to R347): the queue entry and the shown value of a result, the next period, the calibration; the obligation O40. -/

namespace Sys2Proof.Machine

/-! ## The encodings of a result -/

/-- The range of a corrected value (R345). -/
theorem Level.corrected_range (l : Level) (raw : Int) : -4194303 ≤ l.corrected raw ∧ l.corrected raw ≤ 4194303 := by
  unfold Level.corrected clampInt
  split_ifs <;> omega

theorem trunc_eq_toNat_ofInt (w : Nat) (v : Int) : trunc w v = (BitVec.ofInt w v).toNat := by
  simp [trunc, BitVec.toNat_ofInt]

theorem flag_lt_two (b : Bool) : flag b < 2 := by
  cases b <;> decide

theorem decide_flag_eq_one (b : Bool) : decide (flag b = 1) = b := by
  cases b <;> rfl

section
variable (channel : Nat) (injected : Bool) (v : Int) (cycles : Nat)

/-- An entry as the sum of its fields (R345): none reaches into the next. -/
theorem toNat_levelEntry : (levelEntry channel injected v cycles).toNat =
    channel % 128 * 2 ^ 57 + flag injected * 2 ^ 56 + flag (overRange v) * 2 ^ 55 + (BitVec.ofInt 23 v).toNat * 2 ^ 32
      + cycles / 16 % 2 ^ 32 := by
  have hvalue := (BitVec.ofInt 23 v).isLt
  have hinjected := flag_lt_two injected
  have hover := flag_lt_two (overRange v)
  simp only [levelEntry, field, Nat.shiftLeft_eq, trunc_eq_toNat_ofInt, BitVec.toNat_ofNat]
  omega

/-- Every field of an entry, read at its bits. -/
theorem levelEntry_fields (hlo : -4194303 ≤ v) (hhi : v ≤ 4194303) :
    let e := levelEntry channel injected v cycles
    e.toNat / 2 ^ 57 = channel % 128 ∧ e.getLsbD 56 = injected ∧ e.getLsbD 55 = decide (2 ^ 19 < v ∨ v < -(2 ^ 19))
      ∧ ((e >>> 32).setWidth 23).toInt = v ∧ e.toNat % 2 ^ 32 = cycles / 16 % 2 ^ 32 := by
  intro e
  have hsum : e.toNat = _ := toNat_levelEntry channel injected v cycles
  have hvalue := (BitVec.ofInt 23 v).isLt
  have hinjected := flag_lt_two injected
  have hover := flag_lt_two (overRange v)
  refine ⟨by omega, ?_, ?_, ?_, by omega⟩
  · have hbit : e.toNat / 2 ^ 56 % 2 = flag injected := by omega
    rw [BitVec.getLsbD, Nat.testBit_eq_decide_div_mod_eq, hbit, decide_flag_eq_one]
  · have hbit : e.toNat / 2 ^ 55 % 2 = flag (overRange v) := by omega
    rw [BitVec.getLsbD, Nat.testBit_eq_decide_div_mod_eq, hbit, decide_flag_eq_one, overRange, Bool.decide_or]
  · have hword : (e >>> 32).setWidth 23 = BitVec.ofInt 23 v := by
      apply BitVec.eq_of_toNat_eq
      rw [BitVec.toNat_setWidth, BitVec.toNat_ushiftRight, Nat.shiftRight_eq_div_pow]
      omega
    rw [hword, BitVec.toInt_ofInt, Int.bmod_eq_of_le] <;> omega

end

/-! ## The registers -/

/-- MON_QUEUE_HI (R349). -/
theorem Chip.regValue_monQueueHi (c : Chip) : c.regValue 0x20024 = c.lvl.showHigh := by
  simp [Chip.regValue, Chip.monReg]

/-- MON_CH_VALUE of a selected channel that the level converts (R349). -/
theorem Chip.regValue_monChValue {c : Chip} {k : Nat} (hk : k < 91) (hsel : c.lvl.chSel.toNat = k) :
    c.regValue 0x20034 = look 0 c.lvl.values k := by
  simp [Chip.regValue, Chip.monReg, levelChannels, hsel, hk]

/-- The head of an empty queue is channel 127 (R345). -/
theorem Chip.monQueueHi_channel_of_empty {c : Chip} (h : c.lvl.queue = []) : (c.regValue 0x20024).toNat / 2 ^ 25 = 127 := by
  simp [Chip.regValue_monQueueHi, Level.showHigh, h]

/-! ## A result -/

section
variable (l : Level) (channel : Nat) (injected : Bool) (raw : Int) (cycles : Nat)

/-- A result in a queue with room is its last entry. -/
theorem Level.result_of_room (h : l.queue.length < 256) : l.result channel injected raw cycles =
    { l with values := put 0 l.values channel (channelWord (l.corrected raw))
             queue := l.queue ++ [levelEntry channel injected (l.corrected raw) cycles] } := by
  simp [Level.result, h]

/-- A result at a full queue is dropped and counted. -/
theorem Level.result_of_full (h : 256 ≤ l.queue.length) : l.result channel injected raw cycles =
    { l with values := put 0 l.values channel (channelWord (l.corrected raw)), dropped := satAdd l.dropped 1 } := by
  simp [Level.result, h]

/-- A result touches the queue, the drop count, and the latest value of its channel. -/
theorem Level.result_eq : l.result channel injected raw cycles =
    { l with values := put 0 l.values channel (channelWord (l.corrected raw))
             queue := (l.result channel injected raw cycles).queue
             dropped := (l.result channel injected raw cycles).dropped } := by
  simp only [Level.result]
  split_ifs <;> rfl

@[simp] theorem Level.result_cal : (l.result channel injected raw cycles).cal = l.cal := by
  rw [Level.result_eq]

@[simp] theorem Level.result_inject : (l.result channel injected raw cycles).inject = l.inject := by
  rw [Level.result_eq]

@[simp] theorem Level.result_chSel : (l.result channel injected raw cycles).chSel = l.chSel := by
  rw [Level.result_eq]

@[simp] theorem Level.result_nextRegular : (l.result channel injected raw cycles).nextRegular = l.nextRegular := by
  rw [Level.result_eq]
  rfl

/-- The latest result of a channel is what its value shows. -/
theorem Level.look_result_values :
    look 0 (l.result channel injected raw cycles).values channel = channelWord (l.corrected raw) := by
  rw [Level.result_eq, look_put_same]

end

/-! ## The next period -/

section
variable (l : Level)

/-- The choice of the next period touches what is under way, the injected channels, the place in the sequence, and the calibration. -/
theorem Level.choose_eq : l.choose =
    { l with now := l.choose.now, inject := l.choose.inject, last := l.choose.last
             cal := l.choose.cal, calWait := l.choose.calWait, calResult := l.choose.calResult } := by
  unfold Level.choose
  repeat' split
  all_goals rfl

@[simp] theorem Level.choose_queue : l.choose.queue = l.queue := by rw [Level.choose_eq]
@[simp] theorem Level.choose_dropped : l.choose.dropped = l.dropped := by rw [Level.choose_eq]
@[simp] theorem Level.choose_values : l.choose.values = l.values := by rw [Level.choose_eq]
@[simp] theorem Level.choose_chSel : l.choose.chSel = l.chSel := by rw [Level.choose_eq]
@[simp] theorem Level.choose_offset : l.choose.offset = l.offset := by rw [Level.choose_eq]
@[simp] theorem Level.choose_gain : l.choose.gain = l.gain := by rw [Level.choose_eq]

variable {l}

/-- The oldest injected channel is next. -/
theorem Level.choose_of_inject {n : Nat} {rest : List Nat} (hcal : l.cal = 0) (h : l.inject = n :: rest) :
    l.choose = { l with now := some (n, true), inject := rest, calWait := l.calWait - 1 } := by
  simp [Level.choose, hcal, h]

/-- With none injected the regular sequence goes on. -/
theorem Level.choose_of_regular (hcal : l.cal = 0) (h : l.inject = []) :
    l.choose = { l with now := l.nextRegular.map (·, false), last := l.nextRegular.or l.last } := by
  cases hnext : l.nextRegular <;> simp [Level.choose, hcal, h, hnext]

/-- No calibration begins that was not asked for. -/
theorem Level.choose_idle (hcal : l.cal = 0) : l.choose.cal = 0 ∧ l.choose.calResult = l.calResult := by
  cases h : l.inject with
  | nil => simp [Level.choose_of_regular hcal h, hcal]
  | cons n rest => simp [Level.choose_of_inject hcal h, hcal]

end

/-! ## The event of a failed calibration -/

/-- An event leaves the level. -/
@[simp] theorem Chip.eventOpen_lvl (c : Chip) (src cls : Nat) (locus : BitVec 32) (detail : Nat) :
    (c.eventOpen src cls locus detail).lvl = c.lvl := by
  rw [Chip.eventOpen, Chip.event_eq]
  rfl

/-- An event leaves the memories. -/
@[simp] theorem Chip.eventOpen_mem (c : Chip) (src cls : Nat) (locus : BitVec 32) (detail : Nat) :
    (c.eventOpen src cls locus detail).mem = c.mem :=
  congrArg Prod.snd (c.eventOpen_vaultMem ..)

/-! ## The meanings of the four commands -/

/-- The end of a conversion's period takes its result and chooses what is next (R344, R345). -/
theorem exec_levelPeriodEnd (raw : Int) (s : State) {k : Nat} {i : Bool} (hgood : s.start.powerGood = true) (hcal : s.lvl.cal = 0)
    (hnow : s.lvl.now = some (k, i)) :
    exec (.levelPeriodEnd raw) s = .next { s with lvl := (s.lvl.result k i raw s.clk.aon).choose } := by
  change execLevelPeriodEnd raw s = _
  simp [execLevelPeriodEnd, act_next, hgood, hcal, hnow]

theorem exec_monInjectRequest (ch : BitVec 7) (s : State) :
    exec (.monInjectRequest ch) s = .next { s with toChip := s.toChip.cmdInject ch.toNat } := rfl

theorem Chip.cmdInject_of_room {c : Chip} {n : Nat} (hn : n < levelChannels) (hroom : c.lvl.inject.length < 4) :
    c.cmdInject n = { c with lvl := { c.lvl with inject := c.lvl.inject ++ [n] } } := by
  simp [Chip.cmdInject, hn, hroom]

theorem Chip.cmdInject_refused {c : Chip} {n : Nat} (h : levelChannels ≤ n ∨ 4 ≤ c.lvl.inject.length) :
    c.cmdInject n = { c with lvl := { c.lvl with injectRefused := satAdd c.lvl.injectRefused 1 } } := by
  simp [Chip.cmdInject, h]

theorem exec_monSelfCalibrate (s : State) (hcal : s.lvl.cal = 0) :
    exec .monSelfCalibrate s
      = .next { s with lvl := { s.lvl with cal := 1, calWait := s.lvl.inject.length, calResult := 1 } } := by
  change execMonSelfCalibrate s = _
  simp [execMonSelfCalibrate, act_next, Chip.cmdCalibrate, hcal]

section
variable (s : State) {rs : List Int} (hcal : s.lvl.cal = 2) (hlen : rs.length = 8)
include hcal hlen

/-- A calibration that succeeds sets the factors, and the sequence goes on. -/
theorem exec_levelCalibrationDone_set {o : Int} {gr : Nat} (h : calibration rs = some (o, gr)) :
    exec (.levelCalibrationDone rs) s
      = .next { s with lvl := ({ s.lvl.take (o, gr) with cal := 0, calResult := 3 } : Level).choose } := by
  change execLevelCalibrationDone rs s = _
  simp [execLevelCalibrationDone, act_next, hcal, hlen, h]

/-- A calibration that fails keeps the factors, and the sequence goes on with a transient event. -/
theorem exec_levelCalibrationDone_failed (h : calibration rs = none) :
    exec (.levelCalibrationDone rs) s = .next { s with toChip :=
      (Chip.eventOpen { s.toChip with lvl := ({ s.lvl with cal := 0, calResult := 6 } : Level).choose } 3 1
        (locusWord none none none) 0) } := by
  change execLevelCalibrationDone rs s = _
  simp [execLevelCalibrationDone, act_next, hcal, hlen, h]

end

/-! ## The obligation -/

/-- Settles O40: a result is an entry of the queue with room, and a drop of a full one; the injected channels go before the regular
sequence; a calibration sets the factors or only logs. -/
theorem levelCommandsComplete : Obligations.LevelCommandsComplete := by
  unfold Obligations.LevelCommandsComplete
  intro s
  refine ⟨s.toChip.monQueueHi_channel_of_empty, ?_, ?_, ?_, ?_⟩ <;> dsimp only
  · intro raw k i hgood hcal hnow
    obtain ⟨hlo, hhi⟩ := s.lvl.corrected_range raw
    refine ⟨_, exec_levelPeriodEnd raw s hgood hcal hnow, ⟨hlo, hhi⟩, ?_, ?_, ?_, ?_, ?_, rfl⟩
    · intro hroom
      have hfields := levelEntry_fields k i (s.lvl.corrected raw) s.clk.aon hlo hhi
      exact ⟨by simp [Level.result_of_room, hroom], _, by simp [Level.result_of_room, hroom], hfields⟩
    · intro hfull
      simp [Level.result_of_full, hfull]
    · intro hk hsel
      rw [Chip.regValue_monChValue hk (by simp [hsel])]
      simp only [Level.choose_values, Level.look_result_values]
    · intro n rest hinject
      simp [Level.choose_of_inject (n := n) (rest := rest), hcal, hinject]
    · intro hinject
      simp [Level.choose_of_regular, hcal, hinject]
  · intro ch
    constructor
    · intro hch hroom
      exact ⟨_, exec_monInjectRequest ch s, Chip.cmdInject_of_room hch hroom⟩
    · intro hrefused
      exact ⟨_, exec_monInjectRequest ch s, Chip.cmdInject_refused hrefused⟩
  · intro hcal
    exact ⟨_, exec_monSelfCalibrate s hcal, rfl⟩
  · intro rs hcal hlen
    constructor
    · intro o gr h
      exact ⟨_, exec_levelCalibrationDone_set s hcal hlen h, by simp [Level.take, Level.choose_idle]⟩
    · intro h
      exact ⟨_, exec_levelCalibrationDone_failed s hcal hlen h, by simp [Level.choose_idle]⟩

end Sys2Proof.Machine

/-! What a command that goes on leaves of the queue, and the canonical form of the memories: the obligations O1, O2, O59 and O60. -/

namespace Sys2Proof.Machine

/-! ## Outcomes -/

/-- Every state in which a command goes on has the queue as it was given, and a block of which `P` holds. -/
def Leads (P : Chip → Prop) (s : State) (o : Host.Outcome State Fault Refusal) : Prop :=
  ∀ t, o = .next t → t.pending = s.pending ∧ P t.toChip

theorem leads_act {P : Chip → Prop} {s : State} {f : Chip → Chip} (h : P (f s.toChip)) : Leads P s (act f s) := by
  intro t ht
  obtain ⟨hchip, hqueue⟩ := act_eq_next ht
  exact ⟨hqueue, hchip ▸ h⟩

theorem leads_next {P : Chip → Prop} {s : State} (h : P s.toChip) : Leads P s (.next s) := by
  rintro t ⟨⟩
  exact ⟨rfl, h⟩

theorem leads_fault {P : Chip → Prop} {s : State} (r : Fault) : Leads P s (.fault r) := fun _ h => absurd h (by simp)

theorem leads_refused {P : Chip → Prop} {s : State} (r : Refusal) : Leads P s (.refused r) := fun _ h => absurd h (by simp)

theorem leads_ite {P : Chip → Prop} {s : State} {p : Prop} [Decidable p] {o o' : Host.Outcome State Fault Refusal}
    (h : p → Leads P s o) (h' : ¬ p → Leads P s o') : Leads P s (if p then o else o') := by
  split
  · exact h ‹_›
  · exact h' ‹_›

/-- A VEC word has the effect of a corrupt fetch or of its issue, on the job and the region of its site (R51, R222). -/
theorem leads_vecWord {P : Chip → Prop} {s : State} {o : Nat} {st : Site} {op : VecOp} {p : Path} (hnone : P s.toChip)
    (hbad : ∀ core, P (s.toChip.coreCode core 3)) (hissue : ∀ j g lc core, P (s.toChip.vecIssue st j g lc core o op p)) :
    Leads P s (vecWord o st op p s) := by
  unfold vecWord
  refine leads_ite (fun _ => leads_refused _) fun _ => leads_ite (fun _ => leads_fault _) fun _ => ?_
  split
  · exact leads_ite (fun _ => leads_act (hbad _)) fun _ => leads_ite (fun _ => leads_refused _) fun _ => leads_act (hissue ..)
  · exact leads_next hnone

/-- A word that is refused, or whose range passes the end of its staging, or that has an effect on the block. -/
theorem leads_checked {P : Chip → Prop} {s : State} {p q : Prop} [Decidable p] [Decidable q] {r : Refusal} {r' : Fault}
    {o : Host.Outcome State Fault Refusal} (h : Leads P s o) : Leads P s (if p then .refused r else if q then .fault r' else o) :=
  leads_ite (fun _ => leads_refused _) fun _ => leads_ite (fun _ => leads_fault _) fun _ => h

/-! ## The canonical form -/


/-- The stream instructions keep every memory canonical: the effect at their site, a corrupt fetch, and what their path met do. -/
theorem exec_wf_stream (i : Instr) {s : State} (hi : commandFamily i = .stream) (h : s.toChip.vaultMem.2.wf = true) :
    Leads (fun c => c.vaultMem.2.wf = true) s (exec i s) := by
  cases i <;> cases hi <;> unfold exec <;> dsimp only
  case vecAdd | vecMul | vecFma | vecMax | vecMin | vecCvt | vecQuant | vecDeq | vecReq | vecDatum | vecUndatum |
      vecRadd | vecRrow | vecExp2 | vecLog2 | vecRcp | vecRsqrt | vecAct | vecSoftmax | vecNorm | vecRmax =>
    exact leads_vecWord h (fun _ => by simp [h]) (fun _ _ _ _ => by simp [h])
  case arrTile | arrDrain =>
    refine leads_checked ?_
    split
    · exact leads_ite (fun _ => leads_act (by simp [h])) fun _ => leads_act (by simp [h])
    · exact leads_next h
  case optTile st op rds p =>
    refine leads_ite (fun _ => leads_refused _) fun _ => leads_ite (fun _ => leads_act ?_) fun _ =>
      leads_ite (fun _ => leads_fault _) fun _ => leads_act ?_
    all_goals
      refine Chip.onSeq_wf _ _ _ h fun _ _ _ hc => ?_
      split <;> simp [hc]
  case synChange =>
    unfold execSynChange
    split
    · refine leads_ite (fun _ => leads_act ?_) fun _ => leads_refused _
      exact Chip.fetched_wf _ _ _ _ _ h fun _ hc => hc
    · exact leads_next h
  case stgH2r | stgR2h | stgR2r | xchLsend | xchLrecv =>
    refine leads_checked (leads_act (Chip.onSeq_wf _ _ _ h fun _ _ _ hc => ?_))
    repeat' split
    all_goals simp [hc]
  case stgR2c | stgC2r | stgC2c | xchCore | xchRegion =>
    refine leads_checked (leads_act (Chip.onCore_wf _ _ _ h fun _ _ _ _ hc => ?_))
    dsimp only
    repeat' split
    all_goals simp [hc]
  case' synCatch | synWake | synSleep | vecSeed | stgStride | optDummy => refine leads_ite (fun _ => leads_refused _) fun _ => ?_
  all_goals
    refine leads_act ?_
    repeat'
      first
      | with_reducible assumption
      | with_reducible refine overAll_wf _ _ _ ?_ (fun _ _ _ => ?_)
      | with_reducible refine Chip.when_wf _ _ _ ?_ (fun _ _ => ?_)
      | with_reducible refine Chip.onCore_wf _ _ _ ?_ (fun _ _ _ _ _ => ?_)
      | with_reducible refine Chip.onSeq_wf _ _ _ ?_ (fun _ _ _ _ => ?_)
      | with_reducible refine Chip.onSeqWord_wf _ _ _ _ ?_ (fun _ _ _ _ => ?_)
      | with_reducible refine Chip.onStream_wf _ _ _ _ ?_ (fun _ _ _ _ => ?_)
      | with_reducible refine Chip.fetched_wf _ _ _ _ _ ?_ (fun _ _ => ?_)
      | split
      | simp [*]

/-- Strokes, jobs, packets and register accesses keep every memory canonical: the treatment of a packet and the access of the fabric do. -/
theorem exec_wf_host (i : Instr) {s : State} (hi : commandFamily i = .host) (h : s.toChip.vaultMem.2.wf = true) :
    Leads (fun c => c.vaultMem.2.wf = true) s (exec i s) := by
  cases i <;> cases hi <;> unfold exec <;> dsimp only
  all_goals
    refine leads_act ?_
    repeat'
      first
      | with_reducible assumption
      | with_reducible refine overAll_wf _ _ _ ?_ (fun _ _ _ => ?_)
      | with_reducible refine Chip.when_wf _ _ _ ?_ (fun _ _ => ?_)
      | with_reducible refine Chip.treat_wf _ _ _ _ _ ?_ (fun _ _ => ?_)
      | with_reducible refine Chip.access_wf _ _ _ ?_ (fun _ _ => ?_)
      | split
      | simp [*]

/-- The commands of tiers, surveys, temperature, the level, light and HBM keep every memory canonical. -/
theorem exec_wf_unit (i : Instr) {s : State} (hi : commandFamily i = .unit) (h : s.toChip.vaultMem.2.wf = true) :
    Leads (fun c => c.vaultMem.2.wf = true) s (exec i s) := by
  cases i <;> cases hi <;> unfold exec <;> dsimp only
  case' levelCalibrationDone => refine leads_ite (fun _ => leads_refused _) fun _ => ?_
  all_goals
    refine leads_act ?_
    repeat'
      first
      | with_reducible assumption
      | with_reducible refine foldl_wf _ _ _ ?_ (fun _ _ _ => ?_)
      | with_reducible refine Chip.when_wf _ _ _ ?_ (fun _ _ => ?_)
      | split
      | simp [*]

/-- The commands of links, the fleet, power and identity keep every memory canonical: a frame that is lost or taken does. -/
theorem exec_wf_link (i : Instr) {s : State} (hi : commandFamily i = .link) (h : s.toChip.vaultMem.2.wf = true) :
    Leads (fun c => c.vaultMem.2.wf = true) s (exec i s) := by
  cases i <;> cases hi <;> unfold exec <;> dsimp only
  case' levelCalibrationPhase => refine leads_ite (fun _ => leads_refused _) fun _ => ?_
  case identityPhase =>
    refine leads_act ?_
    split
    · exact h
    · split
      · exact h
      · simp [h]
  all_goals
    refine leads_act ?_
    repeat'
      first
      | with_reducible assumption
      | with_reducible refine overAll_wf _ _ _ ?_ (fun _ _ _ => ?_)
      | with_reducible refine Chip.when_wf _ _ _ ?_ (fun _ _ => ?_)
      | with_reducible refine Chip.takeFrame_wf _ _ _ _ _ _ _ ?_ (fun _ _ => ?_) (fun _ _ => ?_)
      | split
      | simp [*]

/-- Whatever a command does, it keeps every memory canonical. -/
theorem exec_wf (i : Instr) {s : State} (h : s.toChip.vaultMem.2.wf = true) : Leads (fun c => c.vaultMem.2.wf = true) s (exec i s) := by
  cases hi : commandFamily i
  · exact exec_wf_stream i hi h
  · exact exec_wf_host i hi h
  · exact exec_wf_unit i hi h
  · exact exec_wf_link i hi h

/-! ## The queue -/

/-- Whatever a command does, it leaves the rest of the queue as it was given. -/
theorem exec_pending (i : Instr) (s : State) : Leads (fun _ => True) s (exec i s) := by
  cases i <;> unfold exec <;> dsimp only
  case vecAdd | vecMul | vecFma | vecMax | vecMin | vecCvt | vecQuant | vecDeq | vecReq | vecDatum | vecUndatum |
      vecRadd | vecRrow | vecExp2 | vecLog2 | vecRcp | vecRsqrt | vecAct | vecSoftmax | vecNorm | vecRmax =>
    exact leads_vecWord trivial (fun _ => trivial) fun _ _ _ _ => trivial
  case stgH2r | stgR2h | stgR2c | stgC2r | stgC2c | stgR2r | xchCore | xchRegion | xchLsend | xchLrecv => exact leads_checked (leads_act trivial)
  case arrTile | arrDrain =>
    refine leads_checked ?_
    split
    · exact leads_ite (fun _ => leads_act trivial) fun _ => leads_act trivial
    · exact leads_next trivial
  case optTile =>
    exact leads_ite (fun _ => leads_refused _) fun _ => leads_ite (fun _ => leads_act trivial) fun _ =>
      leads_ite (fun _ => leads_fault _) fun _ => leads_act trivial
  case synChange =>
    unfold execSynChange
    split
    · exact leads_ite (fun _ => leads_act trivial) fun _ => leads_refused _
    · exact leads_next trivial
  case synCatch | synWake | synSleep | vecSeed | stgStride | optDummy | levelCalibrationDone | levelCalibrationPhase =>
    exact leads_ite (fun _ => leads_refused _) fun _ => leads_act trivial
  all_goals exact leads_act trivial

/-! ## The obligations -/

theorem step_of_pending {c : Instr} {rest : List Instr} {s : State} (h : s.pending = c :: rest) :
    step s = exec c { s with pending := rest } := by
  simp only [step, h]

theorem step_of_empty {s : State} (h : s.pending = []) : step s = .next s := by
  simp only [step, h]

/-- Settles O1. -/
theorem stepRunsTheFrontCommand : Obligations.StepRunsTheFrontCommand := fun _ _ _ h => step_of_pending h

/-- Settles O2: a command gives back the queue it was given, which is the queue without its front. -/
theorem stepTakesOneCommand : Obligations.StepTakesOneCommand := by
  intro s t ht
  cases hq : s.pending with
  | nil =>
    rw [step_of_empty hq] at ht
    cases ht
    exact ⟨hq, fun _ => rfl⟩
  | cons c rest =>
    rw [step_of_pending hq] at ht
    exact ⟨(exec_pending c _ t ht).1, nofun⟩

/-- Settles O60: the front command keeps the memories canonical, whichever it is. -/
theorem memoriesStayCanonical : Obligations.MemoriesStayCanonical := by
  intro s t hs ht
  cases hq : s.pending with
  | nil =>
    rw [step_of_empty hq] at ht
    cases ht
    exact hs
  | cons c rest =>
    rw [step_of_pending hq] at ht
    exact (exec_wf c (s := { s with pending := rest }) hs t ht).2

/-- Settles O59: what `State.reset` lists, and the value that a table shows where it lists nothing. -/
theorem resetIsAsTheTablesSay : Obligations.ResetIsAsTheTablesSay := by
  refine ⟨rfl, rfl, rfl, rfl, rfl, rfl, rfl, rfl, fun _ => rfl, fun p hp => ?_, rfl, rfl, rfl⟩
  interval_cases p <;> exact ⟨rfl, rfl, rfl⟩

end Sys2Proof.Machine

/-! Bytes of a memory (R7): what is written is what is read, byte by byte and as little-endian numbers. -/

namespace Sys2Proof.Machine

@[simp] theorem length_leBytes (n v : Nat) : (leBytes n v).length = n := by
  induction n generalizing v with
  | zero => rfl
  | succ n ih => simp [leBytes, ih]

/-- Little-endian bytes give back the number they were made of, where it fits in them (R7). -/
theorem leNat_leBytes (n v : Nat) (h : v < 256 ^ n) : leNat (leBytes n v) = v := by
  induction n generalizing v with
  | zero => simp [leBytes, leNat] at *; omega
  | succ n ih =>
    rw [leBytes, leNat, ih _ (Nat.div_lt_of_lt_mul (by rwa [Nat.pow_succ, Nat.mul_comm] at h))]
    simp only [BitVec.toNat_ofNat]
    omega

theorem trunc_lt (w : Nat) (x : Int) : trunc w x < 2 ^ w := by
  unfold trunc
  have h0 := Int.emod_nonneg x (show (2 ^ w : Int) ≠ 0 by positivity)
  have h1 := Int.emod_lt_of_pos x (show (0 : Int) < 2 ^ w by positivity)
  have : ((2 ^ w : Nat) : Int) = 2 ^ w := by push_cast; rfl
  omega

/-- The block of a list of equal blocks that an index falls in. -/
theorem getElem?_flatMap_range {α : Type} (f : Nat → List α) (w n i k : Nat) (hw : ∀ i, (f i).length = w) (hi : i < n) (hk : k < w) :
    ((List.range n).flatMap f)[w * i + k]? = (f i)[k]? := by
  induction n with
  | zero => omega
  | succ n ih =>
    have hlen : ((List.range n).flatMap f).length = n * w := by simp [List.length_flatMap, hw]
    rw [List.range_succ, List.flatMap_append, List.flatMap_cons, List.flatMap_nil, List.append_nil]
    by_cases h : i < n
    · rw [List.getElem?_append_left (by rw [hlen]; nlinarith), ih h]
    · obtain rfl : i = n := by omega
      rw [List.getElem?_append_right (by rw [hlen]; nlinarith), hlen]
      congr 1
      rw [Nat.mul_comm]
      omega

theorem length_flatMap_range {α : Type} (f : Nat → List α) (w n : Nat) (hw : ∀ i, (f i).length = w) :
    ((List.range n).flatMap f).length = n * w := by
  simp [List.length_flatMap, hw]

/-- Bytes that stand at an address are the ones read there. -/
theorem readBytes_eq_of_getByte (m : Mem) (a : Nat) (l : List Byte) (h : ∀ k b, l[k]? = some b → getByte m (a + k) = b) :
    readBytes m a l.length = l := by
  apply List.ext_getElem? fun k => ?_
  by_cases hk : k < l.length
  · rw [getElem?_readBytes _ _ _ _ hk, List.getElem?_eq_getElem hk, h k l[k] (List.getElem?_eq_getElem hk)]
  · rw [List.getElem?_eq_none (by simpa using hk), List.getElem?_eq_none (by simpa using hk)]

/-- What is written reads back. -/
theorem holdsAt_writeBytes (m : Mem) (a : Nat) (l : List Byte) : holdsAt (writeBytes m a l) a l :=
  fun k b h => getByte_writeBytes_inside m a l k b h

theorem sameOutside_writeBytes (m : Mem) (a n : Nat) (l : List Byte) (h : l.length ≤ n) : sameOutside m (writeBytes m a l) a n :=
  fun x hx => getByte_writeBytes_outside m a l x (by omega)

/-- A list of numbers of `w` bytes each reads back number by number. -/
theorem readLE_writeBytes_flatMap (m : Mem) (a w n : Nat) (v : Nat → Nat) {i : Nat} (hi : i < n) (hv : v i < 256 ^ w) :
    readLE (writeBytes m a ((List.range n).flatMap fun i => leBytes w (v i))) (a + w * i) w = v i := by
  have h := readBytes_eq_of_getByte (writeBytes m a ((List.range n).flatMap fun i => leBytes w (v i))) (a + w * i) (leBytes w (v i))
    (fun k b hk => by
      have hkw : k < w := by simpa using (List.getElem?_eq_some_iff.mp hk).1
      rw [Nat.add_assoc]
      exact getByte_writeBytes_inside _ _ _ _ _
        ((getElem?_flatMap_range (fun i => leBytes w (v i)) w n i k (fun _ => length_leBytes ..) hi hkw).trans hk))
  rw [length_leBytes] at h
  rw [readLE, h, leNat_leBytes _ _ hv]

end Sys2Proof.Machine

/-! ARR.TILE, TILE_READY and ARR.DRAIN (R61 to R65, R184 to R186): the obligations O5 and O6. -/

namespace Sys2Proof.Machine

/-! ## What a TILE's checks leave -/

/-- The output tiles and the accumulators: what a TILE's checks, items and diagnosis keep. -/
def Chip.tilesAccs (c : Chip) : SMap Tile × SMap (BitVec 48) := (c.tiles, c.accs)

theorem Chip.tilesAccs_of_standing {c d : Chip} (h : d.standing = c.standing) : d.tilesAccs = c.tilesAccs := by
  simp only [Chip.standing, Prod.mk.injEq] at h
  simp only [Chip.tilesAccs, h]

theorem Chip.upCore_tilesAccs (c : Chip) (k : Nat) (f : CoreSt → CoreSt) : (c.upCore k f).tilesAccs = c.tilesAccs := rfl

theorem Chip.upArr_tilesAccs (c : Chip) (k : Nat) (f : Arr → Arr) : (c.upArr k f).tilesAccs = c.tilesAccs := rfl

theorem Chip.addRemedy_tilesAccs (c : Chip) (r : Remedy) : (c.addRemedy r).tilesAccs = c.tilesAccs := rfl

theorem Chip.event_tilesAccs (c : Chip) (src cls code : Nat) (rerow : Bool) (locus : BitVec 32) (detail : Nat) :
    (c.event src cls code rerow locus detail).tilesAccs = c.tilesAccs := Chip.tilesAccs_of_standing (c.event_standing ..)

theorem Chip.callRegion_tilesAccs (c : Chip) (g : Nat) : (c.callRegion g).tilesAccs = c.tilesAccs :=
  Chip.tilesAccs_of_standing (c.callRegion_standing g)

theorem Chip.postItem_tilesAccs (x : TileCtx) (core cells peri issue E v0 : Nat) (c : Chip) (v : Conv) :
    (c.postItem x core cells peri issue E v0 v).tilesAccs = c.tilesAccs := rfl

theorem Chip.diagnose_tilesAccs (c : Chip) (core cells tier : Nat) (int4 : Bool) (im : Nat × Nat) (k : Cand) :
    (c.diagnose core cells tier int4 im k).tilesAccs = c.tilesAccs := by
  unfold Chip.diagnose
  split
  · exact (Chip.addRemedy_tilesAccs ..).trans (Chip.event_tilesAccs ..)
  · rfl

theorem Chip.benchFail_tilesAccs (core cells peri tier : Nat) (c : Chip) (b : BenchMiss) :
    (c.benchFail core cells peri tier b).tilesAccs = c.tilesAccs := by
  unfold Chip.benchFail
  dsimp only
  split
  · rfl
  · refine (Chip.callRegion_tilesAccs ..).trans ((ite_keep Chip.tilesAccs ?_ (ite_keep Chip.tilesAccs ?_ rfl)).trans ?_)
    · exact Chip.addRemedy_tilesAccs ..
    · exact Chip.addRemedy_tilesAccs ..
    · exact (Chip.upArr_tilesAccs ..).trans (Chip.event_tilesAccs ..)

/-! ## A TILE that issues -/

section
variable (c : Chip) (g lc core : Nat) (op : TileOp)

/-- The cell block of a TILE's logical array, the array that senses it, and the tier that its map names (R61, R84, R109). -/
def Chip.tileCells : Nat := c.cellsOf g lc op.array.val
def Chip.tilePeri : Nat := c.periOf (c.tileCells g lc op)
def Chip.tileTier : Nat := (look op.tier (c.arr (c.tileCells g lc op)).map op.tier.val).val

/-- What a TILE needs of the block when it issues. -/
def Chip.tileCtx : TileCtx :=
  { img := c.mem.tiers, T := tierKey (c.tileCells g lc op) (c.tileTier g lc op), op := op
    stored := storedAdj c (c.tileCells g lc op) (tierKey (c.tileCells g lc op) (c.tileTier g lc op)) op.wInt4
    stuck := stuckAdj (c.arr (c.tileCells g lc op)) (c.tileTier g lc op)
    rows := (List.range op.rows).map (appliedRow c.mem.cstg (coreByte core op.src.toNat) op) }

/-- The sums of a TILE with the entries that they are added to, row by row and column by column (R62, R184). -/
def Chip.tileSums (convs : List Conv) : List (Nat × Int) :=
  (List.range op.rows).flatMap fun r => (List.range (columnsOf op.wInt4)).map fun q =>
    (accKey (c.tilePeri g lc op) op.tile (r * columnsOf op.wInt4 + q), (c.tileCtx g lc core op).result convs r q)

/-- The accumulators that a TILE adds to: as they stand, or its tile cleared (R185). -/
def Chip.tileAccs : SMap (BitVec 48) := if op.accumulate then c.accs else accClear c.accs (c.tilePeri g lc op) op.tile

/-- The state of the output tile that a TILE meets (R64), and whether it may issue on it. -/
def Chip.tileMet (tick : Nat) : TileSt := (c.tile (tileKey (c.tilePeri g lc op) op.tile)).at tick
def Chip.tileTakes (tick : Nat) : Prop :=
  if op.accumulate then c.tileMet g lc op tick = .filling ∨ c.tileMet g lc op tick = .ready else c.tileMet g lc op tick = .free

/-- A TILE that issues leaves its tile filling for the job, and its sums added to the accumulators in turn (R62 to R64, R184 to R186). -/
theorem Chip.tileIssue_tilesAccs {st : Site} {j : Job} {rds : List Reading} {bench : List BenchMiss} {p : Path} (hrows : 0 < op.rows)
    (htier : (c.tier (tierKey (c.tileCells g lc op) (c.tileTier g lc op))).st ≠ .programming) (htakes : c.tileTakes g lc op st.tick) :
    ∃ since, (c.tileIssue st j g lc core op rds bench p).tilesAccs =
      (put {} c.tiles (tileKey (c.tilePeri g lc op) op.tile) { st := .filling, job := some j.id, since := since },
        (accAdds (c.tileAccs g lc op) (c.tileSums g lc core op
          ((rds.filter fun r => r.row < op.rows && r.plane < planesOf op.inFmt).map (c.tileCtx g lc core op).conv))).1) := by
  refine ⟨?since, ?_⟩
  rotate_left
  unfold Chip.tileIssue
  dsimp only
  rw [if_neg (by omega), if_neg ?guard]
  case guard =>
    simp only [Chip.tileTakes, Chip.tileMet, Chip.tilePeri, Chip.tileCells, Chip.tileTier] at htier htakes
    cases hacc : op.accumulate <;> simp_all [or_iff_not_imp_left]
  refine (Chip.tilesAccs_of_standing (Chip.corePath_standing ..)).trans ?_
  refine (Chip.when_keep Chip.tilesAccs _ _ _ fun _ => Chip.tilesAccs_of_standing (Chip.accPath_standing ..)).trans ?_
  refine (Chip.upArr_tilesAccs ..).trans ?_
  refine (overAll_keep Chip.tilesAccs _ _ _ fun _ _ => Chip.benchFail_tilesAccs ..).trans ?_
  refine (overAll_keep Chip.tilesAccs _ _ _ fun _ _ => Chip.diagnose_tilesAccs ..).trans ?_
  refine (overAll_keep Chip.tilesAccs _ _ _ fun _ _ => Chip.tilesAccs_of_standing (Chip.senseFail_standing ..)).trans ?_
  refine (overAll_keep Chip.tilesAccs _ _ _ fun _ _ => Chip.postItem_tilesAccs ..).trans ?_
  refine (Chip.tilesAccs_of_standing (Chip.accFaults_standing ..)).trans ?_
  rfl

/-- A TILE stores nothing. -/
theorem Chip.tileIssue_mem (st : Site) (j : Job) (rds : List Reading) (bench : List BenchMiss) (p : Path) :
    (c.tileIssue st j g lc core op rds bench p).mem = c.mem :=
  congrArg Prod.snd (c.tileIssue_vaultMem st j g lc core op rds bench p)

end

/-! ## Sums held at the 48-bit bounds -/

theorem toInt_ofInt_clamp (s : Int) :
    (BitVec.ofInt 48 (clampInt (-(2 ^ 47)) (2 ^ 47 - 1) s)).toInt = clampInt (-(2 ^ 47)) (2 ^ 47 - 1) s := by
  rw [BitVec.toInt_ofInt]
  apply Int.bmod_eq_of_le <;> unfold clampInt <;> split <;> try split
  all_goals omega

/-- A list of sums leaves the entries that it does not name. -/
theorem look_accAdds_ne (accs : SMap (BitVec 48)) (l : List (Nat × Int)) {k : Nat} (h : ∀ e ∈ l, k ≠ e.1) :
    look 0 (accAdds accs l).1 k = look 0 accs k := by
  induction l generalizing accs with
  | nil => rfl
  | cons e l ih =>
    simp only [List.forall_mem_cons] at h
    exact (ih _ h.2).trans (look_put_ne _ _ _ h.1)

/-- An entry that a list of sums names once becomes its sum, held at the bounds. -/
theorem toInt_look_accAdds (accs : SMap (BitVec 48)) (l : List (Nat × Int)) (hl : (l.map Prod.fst).Nodup) {k : Nat} {y : Int} (h : (k, y) ∈ l) :
    (look 0 (accAdds accs l).1 k).toInt = clampInt (-(2 ^ 47)) (2 ^ 47 - 1) ((look 0 accs k).toInt + y) := by
  induction l generalizing accs with
  | nil => simp at h
  | cons e l ih =>
    simp only [List.map_cons, List.nodup_cons, List.mem_map, not_exists, not_and] at hl
    obtain rfl | h := List.mem_cons.mp h
    · rw [← toInt_ofInt_clamp]
      refine congrArg BitVec.toInt ((look_accAdds_ne _ l fun e he hk => hl.1 e he hk.symm).trans ?_)
      exact look_put_same ..
    · have hk : k ≠ e.1 := fun hk => hl.1 _ h hk
      refine (ih _ hl.2 h).trans ?_
      rw [look_put_ne _ _ _ hk]

/-- A cleared tile's entries read 0; every other entry stands (R185). -/
theorem look_accClear (accs : SMap (BitVec 48)) (peri : Nat) (tile : Bool) (k : Nat) :
    look 0 (accClear accs peri tile) k = if accKey peri tile 0 ≤ k ∧ k < accKey peri tile 2048 then 0 else look 0 accs k := by
  refine (look_filter 0 accs (fun k => !(decide (accKey peri tile 0 ≤ k) && decide (k < accKey peri tile 2048))) k).trans ?_
  by_cases h : accKey peri tile 0 ≤ k ∧ k < accKey peri tile 2048
  · rw [if_pos h, if_neg (by simpa using h)]
  · rw [if_neg h, if_pos (by simpa [Decidable.or_iff_not_imp_left] using h)]

section
variable (c : Chip) (g lc core : Nat) (op : TileOp)

theorem Chip.mem_tileSums (convs : List Conv) {r q : Nat} (hr : r < op.rows) (hq : q < columnsOf op.wInt4) :
    (accKey (c.tilePeri g lc op) op.tile (r * columnsOf op.wInt4 + q), (c.tileCtx g lc core op).result convs r q)
      ∈ c.tileSums g lc core op convs :=
  List.mem_flatMap.mpr ⟨r, List.mem_range.mpr hr, List.mem_map.mpr ⟨q, List.mem_range.mpr hq, rfl⟩⟩

/-- A TILE names each of its entries once. -/
theorem Chip.nodup_tileSums (convs : List Conv) : ((c.tileSums g lc core op convs).map Prod.fst).Nodup := by
  have hinj : ∀ r r' q q' : Nat, q < columnsOf op.wInt4 → q' < columnsOf op.wInt4 →
      r * columnsOf op.wInt4 + q = r' * columnsOf op.wInt4 + q' → r = r' ∧ q = q' := by
    intro r r' q q' hq hq' h
    have hr : r = r' := by
      have := congrArg (· / columnsOf op.wInt4) h
      simpa [Nat.add_comm (_ * _), Nat.add_mul_div_right _ _ (Nat.zero_lt_of_lt hq), Nat.div_eq_of_lt hq, Nat.div_eq_of_lt hq'] using this
    exact ⟨hr, by rw [hr] at h; omega⟩
  rw [Chip.tileSums, List.map_flatMap, List.nodup_flatMap]
  constructor
  · intro r _
    rw [List.map_map]
    refine List.Nodup.map_on (fun q hq q' hq' h => ?_) List.nodup_range
    rw [List.mem_range] at hq hq'
    simp only [Function.comp_apply, accKey] at h
    exact (hinj r r q q' hq hq' (by omega)).2
  · refine List.Pairwise.imp ?_ List.nodup_range
    intro r r' hne k hk hk'
    simp only [List.map_map, List.mem_map, List.mem_range, Function.comp_apply, accKey] at hk hk'
    obtain ⟨q, hq, rfl⟩ := hk
    obtain ⟨q', hq', h⟩ := hk'
    exact hne (hinj r r' q q' hq hq' (by omega)).1

/-- What an entry of a TILE's tile holds before its sum: its value, or 0 where the TILE overwrites (R185). -/
theorem Chip.toInt_look_tileAccs {e : Nat} (he : e < 2048) :
    (look 0 (c.tileAccs g lc op) (accKey (c.tilePeri g lc op) op.tile e)).toInt
      = if op.accumulate then c.accOf (c.tilePeri g lc op) op.tile e else 0 := by
  unfold Chip.tileAccs
  split
  · rfl
  · rw [look_accClear, if_pos (by simp only [accKey]; omega)]
    rfl

/-- The exact product of a tile row and a weight column (R62, R93): what a TILE's conversions give where each reads the intended sum. -/
theorem TileCtx.result_exact (x : TileCtx) (hstored : x.stored = []) (hstuck : x.stuck = []) {r : Nat} {row : List Int}
    (hrow : x.rows[r]? = some row) (q : Nat) :
    x.result [] r q = (List.range 256).foldl (fun a k => a + rowAt row k * tierWeight x.img x.T x.op.wInt4 k q) 0 := by
  simp [TileCtx.result, TileCtx.base, hstored, hstuck, hrow]

end

theorem TileOp.entry_lt {op : TileOp} (hlegal : op.legal = true) {r q : Nat} (hr : r < op.rows) (hq : q < columnsOf op.wInt4) :
    r * columnsOf op.wInt4 + q < 2048 := by
  simp only [TileOp.legal, Bool.and_eq_true, decide_eq_true_eq] at hlegal
  obtain ⟨hrows, -⟩ := hlegal
  cases hw : op.wInt4 <;> simp only [hw, columnsOf] at hrows hq ⊢ <;> simp at hrows hq ⊢ <;> omega

/-! ## The meanings of the commands -/

theorem exec_arrTile {st : Site} {op : TileOp} {p : Path} {s : State} {j : Job} {g : Nat} {lc : Fin 32} (hsite : s.toChip.atSite st = some (j, g))
    (hcore : st.core = some lc) (hlegal : op.legal = true) (hsrc : inCore op.src.toNat (op.rows * rowBytes op.inFmt) = true)
    (hfetch : p.fetchBad = false) (rds : List Reading) (bench : List BenchMiss) :
    exec (.arrTile st op rds bench p) s
      = .next { s with toChip := s.toChip.tileIssue st j g lc.val (s.toChip.seat g lc.val) op rds bench p } := by
  change execArrTile st op rds bench p s = _
  simp [execArrTile, act_next, hsite, hcore, hlegal, hsrc, hfetch, Site.onCore]

theorem exec_tileReady {st : Site} {array : Fin 16} {tile : Bool} {s : State} {j : Job} {g : Nat} {lc : Fin 32}
    (hsite : s.toChip.atSite st = some (j, g)) (hcore : st.core = some lc) (htick : st.tick = 0)
    (hfill : (s.toChip.tile (tileKey (s.toChip.periOf (s.toChip.cellsOf g lc.val array.val)) tile)).st = .filling) :
    exec (.tileReady st.job st.region lc array tile) s
      = .next { s with toChip := (s.toChip.upTile (tileKey (s.toChip.periOf (s.toChip.cellsOf g lc.val array.val)) tile)
          (fun t => { t with st := .ready })) } := by
  change execTileReady st.job st.region lc array tile s = _
  have hst : { job := st.job, region := st.region, core := some lc, tick := 0 } = st := by rw [← hcore, ← htick]
  simp [execTileReady, act_next, hst, Chip.onCore, hsite, hfill]

theorem exec_arrDrain {st : Site} {op : DrainOp} {p : Path} {s : State} {j : Job} {g : Nat} {lc : Fin 32}
    (hsite : s.toChip.atSite st = some (j, g)) (hcore : st.core = some lc) (hdst : inCore op.dst.toNat 16384 = true) (hfetch : p.fetchBad = false) :
    exec (.arrDrain st op p) s = .next { s with toChip := s.toChip.drainIssue st j g lc.val (s.toChip.seat g lc.val) op p } := by
  change execArrDrain st op p s = _
  simp [execArrDrain, act_next, hsite, hcore, hdst, hfetch, Site.onCore]

/-- The bytes of a drained tile: its entries in order, 8 bytes each, sign-extended (R65). -/
@[irreducible] def Chip.drainBytes (c : Chip) (peri : Nat) (tile : Bool) : List Byte :=
  (List.range 2048).flatMap fun e => leBytes 8 (trunc 64 (c.accOf peri tile e))

theorem Chip.drainBytes_eq (c : Chip) (peri : Nat) (tile : Bool) :
    c.drainBytes peri tile = (List.range 2048).flatMap fun e => leBytes 8 (trunc 64 (c.accOf peri tile e)) := by
  unfold Chip.drainBytes
  rfl

theorem Chip.length_drainBytes (c : Chip) (peri : Nat) (tile : Bool) : (c.drainBytes peri tile).length = 16384 := by
  unfold Chip.drainBytes
  exact length_flatMap_range _ 8 2048 fun _ => length_leBytes ..

theorem Chip.readLE_drainBytes (c : Chip) (peri : Nat) (tile : Bool) (m : Mem) (a : Nat) {e : Nat} (he : e < 2048) :
    readLE (writeBytes m a (c.drainBytes peri tile)) (a + 8 * e) 8 = trunc 64 (c.accOf peri tile e) := by
  unfold Chip.drainBytes
  exact readLE_writeBytes_flatMap m a 8 2048 (fun e => trunc 64 (c.accOf peri tile e)) he (trunc_lt 64 _)

/-- A drain of a ready tile writes its bytes and leaves it draining; its diagnosis touches neither tiles, accumulators nor memory (R65). -/
theorem Chip.drainIssue_ready (c : Chip) (st : Site) (j : Job) (g lc core : Nat) (op : DrainOp) (p : Path)
    (hready : (c.tile (tileKey (c.periOf (c.cellsOf g lc op.array.val)) op.tile)).st = .ready) :
    (c.drainIssue st j g lc core op p).standing =
      Chip.standing { c.upTile (tileKey (c.periOf (c.cellsOf g lc op.array.val)) op.tile)
          (fun t => { t with st := .draining, since := st.tick + 256 }) with
        mem := { c.mem with cstg := (writeBytes c.mem.cstg (coreByte core op.dst.toNat)
          (c.drainBytes (c.periOf (c.cellsOf g lc op.array.val)) op.tile)) } } := by
  unfold Chip.drainIssue
  dsimp only
  rw [if_neg (by simp [hready]), ← Chip.drainBytes_eq]
  refine (Chip.residues_standing ..).trans ?_
  refine (Chip.accPath_standing ..).trans ?_
  rfl

/-! ## The obligations -/

/-- Settles O6: every conversion reads exactly, so a sum is the exact product; its entry is named once. -/
theorem tileAddsTheProduct : Obligations.TileAddsTheProduct := by
  unfold Obligations.TileAddsTheProduct
  intro st op p s t j g lc cells peri tier T tile hsite hcore hlegal hsrc hrows hfetch htier htakes hstored hstuck ht r q hr hq row sum e
  rw [exec_arrTile hsite hcore hlegal hsrc hfetch, Host.Outcome.next.injEq] at ht
  subst ht
  obtain ⟨_, hissue⟩ := s.toChip.tileIssue_tilesAccs g lc.val (s.toChip.seat g lc.val) op (j := j) (rds := []) (bench := []) (p := p)
    hrows htier htakes
  have haccs := congrArg Prod.snd hissue
  have hsum : (s.toChip.tileCtx g lc.val (s.toChip.seat g lc.val) op).result [] r q = sum :=
    TileCtx.result_exact _ hstored hstuck (row := row) (by simp [Chip.tileCtx, hr, row]) q
  have hadd := toInt_look_accAdds (s.toChip.tileAccs g lc.val op) _ (s.toChip.nodup_tileSums g lc.val (s.toChip.seat g lc.val) op [])
    (s.toChip.mem_tileSums g lc.val (s.toChip.seat g lc.val) op [] hr hq)
  rw [s.toChip.toInt_look_tileAccs g lc.val op (TileOp.entry_lt hlegal hr hq), hsum] at hadd
  simp only [Chip.accOf]
  exact (congrArg (fun m => (look 0 m (accKey peri op.tile e)).toInt) haccs).trans hadd

/-- Settles O5: what a TILE, a TILE_READY and a drain leave in the tiles, the accumulators and core staging. -/
theorem arrayCommandsComplete : Obligations.ArrayCommandsComplete := by
  unfold Obligations.ArrayCommandsComplete
  intro st s j g lc hsite hcore
  refine ⟨?tile, ?ready, ?drain⟩
  case tile =>
    intro op rds bench p cells peri tile hlegal hsrc hrows hfetch htier htakes
    refine ⟨_, exec_arrTile hsite hcore hlegal hsrc hfetch rds bench, ?_⟩
    obtain ⟨_, hissue⟩ := s.toChip.tileIssue_tilesAccs g lc.val (s.toChip.seat g lc.val) op (j := j) (rds := rds) (bench := bench) (p := p)
      hrows htier htakes
    have htile := congrArg (fun m : SMap Tile × SMap (BitVec 48) => look ({} : Tile) m.1 (tileKey peri op.tile)) hissue
    dsimp only at htile
    have htile := htile.trans (look_put_same ..)
    exact ⟨congrArg Tile.st htile, congrArg Tile.job htile, Chip.tileIssue_mem ..⟩
  case ready =>
    intro array tile key htick hfill
    refine ⟨_, exec_tileReady hsite hcore htick hfill, ?_, rfl⟩
    exact congrArg Tile.st (Chip.tile_upTile ..)
  case drain =>
    intro op p peri dst hdst hfetch hready
    refine ⟨_, exec_arrDrain hsite hcore hdst hfetch, ?_⟩
    have h := s.toChip.drainIssue_ready st j g lc.val (s.toChip.seat g lc.val) op p hready
    simp only [Chip.standing, Prod.mk.injEq] at h
    obtain ⟨-, -, -, -, -, -, -, -, -, -, -, -, htiles, haccs, -, -, -, -, -, -, -, -, -, -, -, hmem⟩ := h
    have htile := (congrArg (fun m => look ({} : Tile) m (tileKey peri op.tile)) htiles).trans (Chip.tile_upTile ..)
    have hat (tick : Nat) := congrArg (fun t => Tile.at t tick) htile
    refine ⟨congrArg Tile.st htile, fun tick => (hat tick).trans ?_, fun e he => ?_, ?_, ?_, haccs⟩
    · simp [Tile.at]
    · refine (congrArg (fun m : Mems => readLE m.cstg (dst + 8 * e) 8) hmem).trans ?_
      exact s.toChip.readLE_drainBytes peri op.tile _ _ he
    · refine (congrArg (fun m : Mems => sameOutside s.mem.cstg m.cstg dst 16384) hmem).mpr ?_
      exact sameOutside_writeBytes _ _ _ _ (Chip.length_drainBytes ..).le
    · exact hmem.trans (congrArg (fun m : Mems => { s.mem with cstg := m.cstg }) hmem).symm

end Sys2Proof.Machine

/-! The SYN markers (R53, R57 to R60) and what a corrupt word or a disagreeing lock-step pair leaves (R82, R365): the obligations O3 and O4. -/

namespace Sys2Proof.Machine

/-! ## Dangerous events: the count and the ports -/

/-- The count of dangerous events of the compute path, and the ports. -/
def Chip.dangPorts (c : Chip) : BitVec 16 × SMap Port := (c.saf.dangCompute, c.ports)

theorem Chip.event_dangPorts (c : Chip) (src cls code : Nat) (rerow : Bool) (locus : BitVec 32) (detail : Nat) :
    (c.event src cls code rerow locus detail).dangPorts = c.dangPorts := by
  rw [Chip.event_eq]
  rfl

theorem Chip.callJob_dangPorts (c : Chip) (j : Job) (lane : Nat) : (c.callJob j lane).dangPorts = c.dangPorts := by
  rcases c.callJob_cases j lane with h | h | h <;> rw [h] <;> rfl

theorem Chip.callRegion_dangPorts (c : Chip) (g : Nat) : (c.callRegion g).dangPorts = c.dangPorts :=
  overAll_keep Chip.dangPorts _ _ _ fun _ _ => Chip.callJob_dangPorts ..

theorem Chip.hit_dangPorts (c : Chip) (l : Locus) (need : Nat) : (c.hit l need).1.dangPorts = c.dangPorts := by
  unfold Chip.hit
  dsimp only
  repeat' split
  all_goals rfl

theorem Chip.fault_dangPorts (c : Chip) (src code : Nat) (locus : BitVec 32) (detail : Nat) (l : Locus) (need : Nat) (r : Remedy) :
    (c.fault src code locus detail l need r).dangPorts = c.dangPorts := by
  unfold Chip.fault
  dsimp only
  split <;> exact (Chip.event_dangPorts ..).trans (c.hit_dangPorts l need)

/-- A dangerous event counts once and leaves the ports. -/
theorem Chip.danger_dangPorts (c : Chip) (g src code : Nat) (locus : BitVec 32) (detail : Nat) (l : Locus) (need : Nat) (r : Remedy) :
    (c.danger g src code locus detail l need r).dangPorts = (satAdd c.saf.dangCompute 1, c.ports) :=
  (Chip.callRegion_dangPorts ..).trans (Chip.fault_dangPorts ..)

/-- A corrupt word is one dangerous event (R82, R363). -/
theorem Chip.badFetch_dangPorts (c : Chip) (st : Site) (g : Nat) : (c.badFetch st g).dangPorts = (satAdd c.saf.dangCompute 1, c.ports) := by
  unfold Chip.badFetch
  split <;> exact Chip.danger_dangPorts ..

/-- A disagreement of the issuing pair is one dangerous event (R365). -/
theorem Chip.lockstep_dangPorts (c : Chip) (st : Site) (g : Nat) : (c.lockstep st g).dangPorts = (satAdd c.saf.dangCompute 1, c.ports) := by
  unfold Chip.lockstep
  split <;> exact Chip.danger_dangPorts ..

theorem Chip.raiseSignal_dangPorts (c : Chip) (j : Job) (kind x lane status : Nat) :
    (c.raiseSignal j kind x lane status).dangPorts = c.dangPorts := rfl

/-- A refusal at run time is no dangerous event (R82). -/
theorem Chip.scheduleFault_dangPorts (c : Chip) (j : Job) (g src : Nat) (locus : BitVec 32) (index : Nat) :
    (c.scheduleFault j g src locus index).dangPorts = c.dangPorts := by
  unfold Chip.scheduleFault
  dsimp only
  split
  all_goals exact (overAll_keep Chip.dangPorts _ _ _ fun _ _ => Chip.callJob_dangPorts ..).trans (Chip.event_dangPorts ..)

/-! ## Words of a stream -/

theorem Chip.atStream_of_atSite {c : Chip} {st : Site} {x : Job × Nat} (h : c.atSite st = some x) : c.atStream st = some x := by
  unfold Chip.atSite at h
  split at h
  · simp at h
  · split at h
    · simp_all
    · simp at h

theorem Chip.job?_of_atSite {c : Chip} {st : Site} {j : Job} {g : Nat} (h : c.atSite st = some (j, g)) : c.job? st.job = some j := by
  have h := Chip.atStream_of_atSite h
  unfold Chip.atStream at h
  split at h
  · simp at h
  · split at h
    · obtain ⟨_, -, he⟩ := Option.map_eq_some_iff.mp h
      simp_all
    · simp at h

theorem Chip.onStream_of_atSite {c : Chip} {st : Site} {j : Job} {g : Nat} (h : c.atSite st = some (j, g)) (fetch : Fetch)
    (f : Chip → Job → Nat → Chip) : c.onStream st fetch f = c.fetched st g fetch (fun c => f c j g) := by
  simp [Chip.onStream, Chip.atStream_of_atSite h]

/-- A word that came corrupt or from a disagreeing pair is one dangerous event, where the word itself is none; it stores nothing where the
word itself does not, and a corrupt one leaves the ports (R82, R365). -/
theorem Chip.fetched_danger (c : Chip) (st : Site) (g : Nat) {w : Fetch} (hw : w ≠ .good) (f : Chip → Chip)
    (hf : (f c).saf.dangCompute = c.saf.dangCompute) (hmem : (f c).mem = c.mem) :
    (c.fetched st g w f).saf.dangCompute = satAdd c.saf.dangCompute 1 ∧ (c.fetched st g w f).mem = c.mem
      ∧ (w = .bad → (c.fetched st g w f).ports = c.ports) := by
  cases w with
  | good => exact absurd rfl hw
  | bad =>
    have h := c.badFetch_dangPorts st g
    exact ⟨congrArg Prod.fst h, congrArg Prod.snd (c.badFetch_vaultMem st g), fun _ => congrArg Prod.snd h⟩
  | split =>
    have h := congrArg Prod.fst ((f c).lockstep_dangPorts st g)
    exact ⟨h.trans (congrArg (satAdd · 1) hf), (congrArg Prod.snd ((f c).lockstep_vaultMem st g)).trans hmem, fun h => by cases h⟩

/-! ## CATCH -/

/-- CATCH frames are awaited on a list of ports. -/
def Chip.awaitCatch (c : Chip) (ps : List Nat) (x : Nat × BitVec 32) : Chip :=
  overAll ps (fun c p => c.upPort p (fun q => { q with catches := q.catches ++ [x] })) c

section
variable (c : Chip) (ps : List Nat) (x : Nat × BitVec 32)

/-- Awaiting CATCH frames touches the ports only. -/
theorem Chip.awaitCatch_eq : ∃ ports, c.awaitCatch ps x = { c with ports := ports } := by
  refine overAll_invariant (fun d => ∃ ports, d = { c with ports := ports }) _ ?_ ps c ⟨_, rfl⟩
  rintro _ p ⟨ports, rfl⟩
  exact ⟨_, rfl⟩

theorem Chip.port_awaitCatch_of_not_mem {p : Nat} (hp : p ∉ ps) : (c.awaitCatch ps x).port p = c.port p := by
  induction ps generalizing c with
  | nil => rfl
  | cons q ps ih =>
    rw [List.mem_cons, not_or] at hp
    exact (ih _ hp.2).trans (Chip.port_upPort_ne _ _ _ _ hp.1)

/-- A port at which a CATCH frame is awaited awaits it last. -/
theorem Chip.catches_awaitCatch {p : Nat} (h : p ∈ ps ∨ (c.port p).catches.getLast? = some x) :
    ((c.awaitCatch ps x).port p).catches.getLast? = some x := by
  induction ps generalizing c with
  | nil => simpa [Chip.awaitCatch, overAll] using h
  | cons q ps ih =>
    refine ih _ (or_iff_not_imp_left.mpr fun hps => ?_)
    by_cases hq : p = q
    · subst hq
      simp
    · rw [Chip.port_upPort_ne _ _ _ _ hq]
      exact h.resolve_left (by simp [hq, hps])

/-- What a port sends on: its state and its transmit map. -/
theorem Chip.sending_awaitCatch (p : Nat) :
    ((c.awaitCatch ps x).port p).state = (c.port p).state ∧ ((c.awaitCatch ps x).port p).mapTx = (c.port p).mapTx := by
  refine overAll_invariant (fun d => (d.port p).state = (c.port p).state ∧ (d.port p).mapTx = (c.port p).mapTx) _ ?_ ps c ⟨rfl, rfl⟩
  intro d q h
  by_cases hq : p = q
  · subst hq
    simpa using h
  · rwa [Chip.port_upPort_ne _ _ _ _ hq]

theorem Chip.upPorts_awaitCatch (qs : List Nat) : (c.awaitCatch ps x).upPorts qs = c.upPorts qs := by
  simp only [Chip.upPorts, Chip.sending_awaitCatch]

theorem Chip.frameOn_awaitCatch (p : Nat) (m : LinkMsg) : (c.awaitCatch ps x).frameOn p m = c.frameOn p m := by
  have hmap := (c.sending_awaitCatch ps x p).2
  obtain ⟨ports, h⟩ := c.awaitCatch_eq ps x
  simp only [Chip.frameOn, hmap]
  rw [h]
  rfl

end

/-- A CATCH (R57, R58): a frame on every port of the job that is up, its peer's awaited there. -/
def Chip.sendCatch (c : Chip) (j : Job) : Chip :=
  let d := c.awaitCatch (c.upPorts (c.jobPorts j)) (j.stroke, j.epoch)
  d.sendOn (d.jobPorts j) (.catch (d.catchMsg j false))

theorem Chip.sendCatch_eq (c : Chip) (j : Job) : c.sendCatch j =
    { c with
      ports := (c.awaitCatch (c.upPorts (c.jobPorts j)) (j.stroke, j.epoch)).ports
      fleetOut := c.fleetOut ++ (c.upPorts (c.jobPorts j)).map (fun p => c.frameOn p (.catch (c.catchMsg j false))) } := by
  have hup := c.upPorts_awaitCatch (c.upPorts (c.jobPorts j)) (j.stroke, j.epoch) (c.jobPorts j)
  have hframe := c.frameOn_awaitCatch (c.upPorts (c.jobPorts j)) (j.stroke, j.epoch)
  obtain ⟨ports, h⟩ := c.awaitCatch_eq (c.upPorts (c.jobPorts j)) (j.stroke, j.epoch)
  unfold Chip.sendCatch Chip.sendOn
  simp only [h] at hup hframe ⊢
  have hmsg : Chip.catchMsg { c with ports := ports } j false = c.catchMsg j false := rfl
  have hports : Chip.jobPorts { c with ports := ports } j = c.jobPorts j := rfl
  rw [hports, hup, hmsg]
  simp only [hframe]

/-! ## WAKE and SLEEP -/

/-- Lasers that serve their groups again touch the lasers only. -/
theorem Chip.lightUp_eq (c : Chip) (g : Nat) : ∃ lasers, c.lightUp g = { c with lasers := lasers } := by
  refine overAll_invariant (fun d => ∃ lasers, d = { c with lasers := lasers }) _ ?_ _ c ⟨_, rfl⟩
  rintro _ n ⟨lasers, rfl⟩
  dsimp only
  split
  · exact ⟨_, rfl⟩
  · exact ⟨_, rfl⟩

/-- A wake touches the lasers and the regions. -/
theorem Chip.wakeRegion_eq (c : Chip) (g : Nat) (at_ : Option Nat) :
    ∃ regions lasers, c.wakeRegion g at_ = { c with regions := regions, lasers := lasers } := by
  obtain ⟨lasers, h⟩ := c.lightUp_eq g
  exact ⟨_, _, by rw [Chip.wakeRegion, h]; rfl⟩

/-- A region that is woken issues from the given tick on, one wake more counted (R18, R60). -/
theorem Chip.region_wakeRegion (c : Chip) (g : Nat) (at_ : Option Nat) :
    (c.wakeRegion g at_).region g = { c.region g with
      power := 1, wakes := satAdd (c.region g).wakes 1, wakeNo := (c.region g).wakeNo + 1, wokeAt := c.clk.aon, wakeAt := at_
      rewake := none, sleepAtEnd := false } := by
  obtain ⟨lasers, h⟩ := c.lightUp_eq g
  rw [Chip.wakeRegion, Chip.region_upRegion, h]
  rfl

/-! ## The meanings of the markers -/

section
variable {st : Site} {s : State} {j : Job} {g : Nat} (hsite : s.toChip.atSite st = some (j, g))

theorem exec_synNop (st : Site) (s : State) (w : Fetch) :
    exec (.synNop st w) s = .next { s with toChip := s.toChip.onStream st w (fun c _ _ => c) } := rfl

include hsite

theorem exec_synPiece (b : BitVec 32) (w : Fetch) : exec (.synPiece st b w) s = .next { s with toChip := (s.toChip.fetched st g w (fun c =>
    if (c.pos j).map (·.piece) = some b.toNat then c
    else c.scheduleFault j g (c.siteSource st g).1 (c.siteSource st g).2 (c.issueIndex j st 0))) } := by
  change Host.Outcome.next { s with toChip := s.toChip.onStream st w _ } = _
  rw [Chip.onStream_of_atSite hsite]

theorem exec_synCatch (w : Fetch) (hseq : st.onSeq = true) :
    exec (.synCatch st w) s = .next { s with toChip := s.toChip.fetched st g w (fun c => c.sendCatch j) } := by
  change execSynCatch st w s = _
  simp only [execSynCatch, hseq, Bool.not_true, Bool.false_eq_true, if_false, act_next, Chip.onStream_of_atSite hsite]
  rfl

theorem exec_synChange (p : BitVec 6) (w : Fetch) (hphase : (s.toChip.pos j).map (·.phase) = some p.toNat) :
    exec (.synChange st p w) s = .next { s with toChip := s.toChip.fetched st g w id } := by
  change execSynChange st p w s = _
  simp [execSynChange, Chip.atStream_of_atSite hsite, hphase, act_next]

theorem exec_synWake (target : Fin 16) (hseq : st.onSeq = true) {r : Nat} (hr : j.phys target.val = some r) (hpower : (s.toChip.region r).power = 0) :
    exec (.synWake st target .good) s = .next { s with toChip := s.toChip.wakeRegion r (some (st.tick % 4096 + 2048)) } := by
  change execSynWake st target .good s = _
  simp [execSynWake, hseq, act_next, Chip.onSeqWord, Chip.onSeq, hsite, Chip.fetched, hr, hpower]

theorem exec_synSleep (target : Fin 16) (hseq : st.onSeq = true) {r : Nat} (hr : j.phys target.val = some r) (hpower : (s.toChip.region r).power ≠ 0) :
    exec (.synSleep st target .good) s
      = .next { s with toChip := s.toChip.upRegion r (fun r => { r with sleepAtEnd := true, rewake := none }) } := by
  change execSynSleep st target .good s = _
  simp only [execSynSleep, hseq, act_next, Chip.onSeqWord, Chip.onSeq, hsite, Chip.fetched, hr, if_pos hpower, Bool.not_true,
    Bool.false_eq_true, if_false]

end

/-! ## A refusal at run time -/

/-- What every step of a list that names its members keeps is as before the list. -/
theorem overAll_keep_of_mem {α β : Type} (F : Chip → β) (l : List α) (f : Chip → α → Chip) (c : Chip) (h : ∀ c, ∀ x ∈ l, F (f c x) = F c) :
    F (overAll l f c) = F c := by
  induction l generalizing c with
  | nil => rfl
  | cons x l ih => exact (ih (f c x) fun c y hy => h c y (List.mem_cons_of_mem _ hy)).trans (h c x List.mem_cons_self)

/-- A change of one job leaves the others. -/
theorem Chip.job?_upJob_ne (c : Chip) {id id' : JobId} (f : Job → Job) (hid : ∀ k, (f k).id = k.id) (h : id ≠ id') :
    (c.upJob id f).job? id' = c.job? id' := by
  rw [c.job?_upJob id id' f hid]
  cases hj : c.job? id' with
  | none => rfl
  | some k =>
    have hk : k.id = id' := by simpa using List.find?_some hj
    simp [show k.id ≠ id by rw [hk]; exact h.symm]

/-- A change of a job that is there is found there. -/
theorem Chip.job?_upJob_same {c : Chip} {id : JobId} {k : Job} (f : Job → Job) (hid : ∀ k, (f k).id = k.id) (h : c.job? id = some k) :
    (c.upJob id f).job? id = some (f k) := by
  have hk : k.id = id := by simpa using List.find?_some h
  simp [c.job?_upJob id id f hid, h, hk]

/-- A call to another job leaves a job. -/
theorem Chip.job?_callJob_ne (c : Chip) {k : Job} {id : JobId} (lane : Nat) (h : k.id ≠ id) : (c.callJob k lane).job? id = c.job? id := by
  rcases c.callJob_cases k lane with e | e | e <;> rw [e]
  · exact Chip.job?_upJob_ne _ _ (fun _ => rfl) h
  · exact Chip.job?_upJob_ne _ _ (fun _ => rfl) h

theorem Chip.event_permanent (c : Chip) (src code : Nat) (rerow : Bool) (locus : BitVec 32) (detail : Nat) :
    (c.event src 2 code rerow locus detail).saf.permanent = satAdd c.saf.permanent 1 := by
  rw [c.event_eq]
  rfl

section
variable (c : Chip) {j : Job} (hfleet : j.fleet = false) (g src : Nat) (locus : BitVec 32) (index : Nat)

/-- A refusal at run time of a job outside a fleet (R82): its event, the calls of the other jobs of the region, and the hold. -/
def Chip.calledFault (j : Job) : Chip :=
  let c := c.event src 2 0x109 true locus index
  overAll (c.jobs.filter (fun k => decide (k.id ≠ j.id) && k.inRegion g)) (fun c k => c.callJob k) c

theorem Chip.calledFault_keep {β : Type} (F : Chip → β) (h : ∀ (d : Chip) (k : Job), k.id ≠ j.id → F (d.callJob k) = F d) :
    F (c.calledFault g src locus index j) = F (c.event src 2 0x109 true locus index) :=
  overAll_keep_of_mem F _ _ _ fun d k hk => h d k (by simp at hk; exact hk.2.1)

include hfleet in
theorem Chip.scheduleFault_local : c.scheduleFault j g src locus index
    = (c.calledFault g src locus index j).upJob j.id (fun j => { j with rerow := true, holdNext := some .image }) := by
  simp [Chip.scheduleFault, Chip.calledFault, hfleet]

end

theorem exec_synPiece_mismatch {st : Site} {s : State} {j : Job} {g : Nat} {b : BitVec 32} (hsite : s.toChip.atSite st = some (j, g))
    (hb : (s.toChip.pos j).map (·.piece) ≠ some b.toNat) :
    exec (.synPiece st b .good) s = .next { s with toChip := (s.toChip.scheduleFault j g (s.toChip.siteSource st g).1
      (s.toChip.siteSource st g).2 (s.toChip.issueIndex j st 0)) } := by
  rw [exec_synPiece hsite]
  simp [Chip.fetched, hb]

/-! ## The obligations -/

/-- Settles O3: each marker by its meaning; a word that came corrupt or from a disagreeing pair is one dangerous event beside it. -/
theorem synMarkersComplete : Obligations.SynMarkersComplete := by
  unfold Obligations.SynMarkersComplete
  refine ⟨fun st s => ?nop, fun st s j g hsite => ⟨fun b hb => ?piece, fun p hp => ?change, fun hseq => ?catches,
    fun target r hseq hr hpower => ?wake, fun target r hseq hr hpower => ?sleep, fun w b p i hw hseq hp hi => ?corrupt⟩⟩
  case nop =>
    rw [exec_synNop, Chip.onStream]
    split <;> rfl
  case piece =>
    rw [exec_synPiece hsite]
    simp [Chip.fetched, hb]
  case change =>
    rw [exec_synChange hsite p .good hp]
    rfl
  case catches =>
    refine ⟨_, exec_synCatch hsite .good hseq, ?_⟩
    simp only [Chip.fetched, Chip.sendCatch_eq]
    exact ⟨trivial, fun p hp => Chip.catches_awaitCatch _ _ _ (.inl hp), fun p hp => Chip.port_awaitCatch_of_not_mem _ _ _ hp, trivial⟩
  case wake =>
    refine ⟨_, exec_synWake hsite target hseq hr hpower, ?_⟩
    obtain ⟨regions, lasers, h⟩ := s.toChip.wakeRegion_eq r (some (st.tick % 4096 + 2048))
    simp only [Chip.region_wakeRegion, true_and]
    rw [h]
  case sleep =>
    refine ⟨_, exec_synSleep hsite target hseq hr hpower, ?_⟩
    simp only [Chip.region_upRegion, true_and]
    rfl
  case corrupt =>
    simp only [List.mem_cons, List.not_mem_nil, or_false] at hi
    rcases hi with rfl | rfl | rfl | rfl
    · refine ⟨_, exec_synNop st s w, ?_⟩
      rw [Chip.onStream_of_atSite hsite]
      exact Chip.fetched_danger _ _ _ hw _ rfl rfl
    · refine ⟨_, exec_synPiece hsite b w, Chip.fetched_danger _ _ _ hw _ ?_ ?_⟩
      · split
        · rfl
        · exact congrArg Prod.fst (Chip.scheduleFault_dangPorts ..)
      · split
        · rfl
        · exact congrArg Prod.snd (Chip.scheduleFault_vaultMem ..)
    · refine ⟨_, exec_synCatch hsite w hseq, Chip.fetched_danger _ _ _ hw _ ?_ ?_⟩ <;> rw [Chip.sendCatch_eq]
    · exact ⟨_, exec_synChange hsite p w hp, Chip.fetched_danger _ _ _ hw _ rfl rfl⟩

/-- Settles O4: the event is logged once; the calls reach other jobs, and the job's own mark and hold come last. -/
theorem pieceMismatchHoldsTheJob : Obligations.PieceMismatchHoldsTheJob := by
  unfold Obligations.PieceMismatchHoldsTheJob
  intro st s j g b hsite hb hfleet
  refine ⟨_, exec_synPiece_mismatch hsite hb, ?_⟩
  have hjob := Chip.job?_of_atSite hsite
  have hid : j.id = st.job := by simpa using List.find?_some hjob
  rw [← hid] at hjob ⊢
  have hmem := congrArg Prod.snd (s.toChip.scheduleFault_vaultMem j g (s.toChip.siteSource st g).1 (s.toChip.siteSource st g).2
    (s.toChip.issueIndex j st 0))
  simp only [Chip.scheduleFault_local _ hfleet] at hmem ⊢
  refine ⟨Chip.job?_upJob_same _ (fun _ => rfl) ?_, ?_, ?_, hmem⟩
  · refine (Chip.calledFault_keep _ _ _ _ _ (Chip.job? · j.id) fun d k hk => d.job?_callJob_ne _ hk).trans ?_
    rw [Chip.job?, Chip.event_jobs]
    exact hjob
  · exact (Chip.calledFault_keep _ _ _ _ _ (·.log.nextSeq _) fun d k _ => congrArg (Log.nextSeq · _) (d.callJob_log k _)).trans
      (Chip.event_nextSeq ..)
  · exact (Chip.calledFault_keep _ _ _ _ _ (·.saf.permanent) fun d k _ => congrArg Saf.permanent (d.callJob_saf k _)).trans
      (Chip.event_permanent ..)

end Sys2Proof.Machine

/-! Frames: each operation changes the block in some of its parts at most. One lemma per operation: outside a list that holds the
parts it may change, the block is as before. -/

namespace Sys2Proof.Machine

/-- A block outside a list of parts: those parts blanked. -/
def Chip.outside (parts : List Part) (c : Chip) : Chip where
  freeCtr := if .freeCtr ∈ parts then ({} : Chip).freeCtr else c.freeCtr
  clk := if .clk ∈ parts then ({} : Chip).clk else c.clk
  start := if .start ∈ parts then ({} : Chip).start else c.start
  cfg := if .cfg ∈ parts then ({} : Chip).cfg else c.cfg
  vault := if .vault ∈ parts then ({} : Chip).vault else c.vault
  acc := if .acc ∈ parts then ({} : Chip).acc else c.acc
  host := if .host ∈ parts then ({} : Chip).host else c.host
  sch := if .sch ∈ parts then ({} : Chip).sch else c.sch
  jobs := if .jobs ∈ parts then ({} : Chip).jobs else c.jobs
  nextOrder := if .nextOrder ∈ parts then ({} : Chip).nextOrder else c.nextOrder
  regions := if .regions ∈ parts then ({} : Chip).regions else c.regions
  cores := if .cores ∈ parts then ({} : Chip).cores else c.cores
  seats := if .seats ∈ parts then ({} : Chip).seats else c.seats
  arrays := if .arrays ∈ parts then ({} : Chip).arrays else c.arrays
  tiers := if .tiers ∈ parts then ({} : Chip).tiers else c.tiers
  peri := if .peri ∈ parts then ({} : Chip).peri else c.peri
  cells := if .cells ∈ parts then ({} : Chip).cells else c.cells
  tiles := if .tiles ∈ parts then ({} : Chip).tiles else c.tiles
  accs := if .accs ∈ parts then ({} : Chip).accs else c.accs
  dev := if .dev ∈ parts then ({} : Chip).dev else c.dev
  plots := if .plots ∈ parts then ({} : Chip).plots else c.plots
  lasers := if .lasers ∈ parts then ({} : Chip).lasers else c.lasers
  linkLasers := if .linkLasers ∈ parts then ({} : Chip).linkLasers else c.linkLasers
  linkSel := if .linkSel ∈ parts then ({} : Chip).linkSel else c.linkSel
  groups := if .groups ∈ parts then ({} : Chip).groups else c.groups
  banks := if .banks ∈ parts then ({} : Chip).banks else c.banks
  trims := if .trims ∈ parts then ({} : Chip).trims else c.trims
  hbmStacks := if .hbmStacks ∈ parts then ({} : Chip).hbmStacks else c.hbmStacks
  ports := if .ports ∈ parts then ({} : Chip).ports else c.ports
  lanes := if .lanes ∈ parts then ({} : Chip).lanes else c.lanes
  fleetOut := if .fleetOut ∈ parts then ({} : Chip).fleetOut else c.fleetOut
  mon := if .mon ∈ parts then ({} : Chip).mon else c.mon
  lvl := if .lvl ∈ parts then ({} : Chip).lvl else c.lvl
  saf := if .saf ∈ parts then ({} : Chip).saf else c.saf
  log := if .log ∈ parts then ({} : Chip).log else c.log
  mem :=
    { hbm := if .hbm ∈ parts then ({} : Chip).mem.hbm else c.mem.hbm
      rstg := if .rstg ∈ parts then ({} : Chip).mem.rstg else c.mem.rstg
      cstg := if .cstg ∈ parts then ({} : Chip).mem.cstg else c.mem.cstg
      tiers := if .tierImages ∈ parts then ({} : Chip).mem.tiers else c.mem.tiers
      ledger := if .ledger ∈ parts then ({} : Chip).mem.ledger else c.mem.ledger
      flash := if .flash ∈ parts then ({} : Chip).mem.flash else c.mem.flash }

section
variable {parts : List Part}

/-- Two blocks that are alike outside a list agree in every part that it does not hold. -/
theorem Chip.same_of_outside {c d : Chip} (h : d.outside parts = c.outside parts) {p : Part} (hp : p ∉ parts) : p.same c d := by
  simp only [Chip.outside, Chip.mk.injEq, Mems.mk.injEq] at h
  cases p
  all_goals simp only [hp, if_false] at h; simp only [Part.same, h]

/-! ## A block written out field by field -/

section
variable {c : Chip} {freeCtr : Nat} {clk : Clk} {start : Start} {cfg : Cfg} {vault : Vault} {acc : Access} {host : HostSt} {sch : Sched}
    {jobs : List Job} {nextOrder : Nat} {regions : SMap Region} {cores : SMap CoreSt} {seats : SMap Nat} {arrays : SMap Arr} {tiers : SMap
    Tier} {peri : SMap Nat} {cells : SMap Nat} {tiles : SMap Tile} {accs : SMap (BitVec 48)} {dev : SMap (BitVec 2)} {plots : SMap Plot}
    {lasers : SMap Laser} {linkLasers : SMap Laser} {linkSel : SMap (BitVec 5)} {groups : SMap Group} {banks : SMap Bank} {trims : SMap
    (BitVec 7)} {hbmStacks : SMap Stack} {ports : SMap Port} {lanes : SMap Lane} {fleetOut : List FleetOut} {mon : Mon} {lvl : Level} {saf :
    Saf} {log : Log} {mem : Mems}

theorem ite_eq_of_or {α : Type} {p : Prop} [Decidable p] {x y z : α} (h : p ∨ y = z) : (if p then x else y) = if p then x else z := by
  rcases h with h | rfl
  · rw [if_pos h, if_pos h]
  · rfl

/-- A block with fields of another, and with others where their parts are in the list. -/
@[simp] theorem Chip.outside_mk (h_clk : .clk ∈ parts ∨ clk = c.clk) (h_start : .start ∈ parts ∨ start = c.start) (h_cfg : .cfg ∈ parts ∨
    cfg = c.cfg) (h_vault : .vault ∈ parts ∨ vault = c.vault) (h_acc : .acc ∈ parts ∨ acc = c.acc) (h_host : .host ∈ parts ∨ host = c.host)
    (h_sch : .sch ∈ parts ∨ sch = c.sch) (h_jobs : .jobs ∈ parts ∨ jobs = c.jobs) (h_nextOrder : .nextOrder ∈ parts ∨ nextOrder =
    c.nextOrder) (h_regions : .regions ∈ parts ∨ regions = c.regions) (h_cores : .cores ∈ parts ∨ cores = c.cores) (h_seats : .seats ∈ parts
    ∨ seats = c.seats) (h_arrays : .arrays ∈ parts ∨ arrays = c.arrays) (h_tiers : .tiers ∈ parts ∨ tiers = c.tiers) (h_peri : .peri ∈ parts
    ∨ peri = c.peri) (h_cells : .cells ∈ parts ∨ cells = c.cells) (h_tiles : .tiles ∈ parts ∨ tiles = c.tiles) (h_accs : .accs ∈ parts ∨
    accs = c.accs) (h_dev : .dev ∈ parts ∨ dev = c.dev) (h_plots : .plots ∈ parts ∨ plots = c.plots) (h_lasers : .lasers ∈ parts ∨ lasers =
    c.lasers) (h_linkLasers : .linkLasers ∈ parts ∨ linkLasers = c.linkLasers) (h_linkSel : .linkSel ∈ parts ∨ linkSel = c.linkSel)
    (h_groups : .groups ∈ parts ∨ groups = c.groups) (h_banks : .banks ∈ parts ∨ banks = c.banks) (h_trims : .trims ∈ parts ∨ trims =
    c.trims) (h_hbmStacks : .hbmStacks ∈ parts ∨ hbmStacks = c.hbmStacks) (h_ports : .ports ∈ parts ∨ ports = c.ports) (h_lanes : .lanes ∈
    parts ∨ lanes = c.lanes) (h_fleetOut : .fleetOut ∈ parts ∨ fleetOut = c.fleetOut) (h_mon : .mon ∈ parts ∨ mon = c.mon) (h_lvl : .lvl ∈
    parts ∨ lvl = c.lvl) (h_saf : .saf ∈ parts ∨ saf = c.saf) (h_log : .log ∈ parts ∨ log = c.log) (h_hbm : .hbm ∈ parts ∨ mem.hbm =
    c.mem.hbm) (h_rstg : .rstg ∈ parts ∨ mem.rstg = c.mem.rstg) (h_cstg : .cstg ∈ parts ∨ mem.cstg = c.mem.cstg) (h_tierImages : .tierImages
    ∈ parts ∨ mem.tiers = c.mem.tiers) (h_ledger : .ledger ∈ parts ∨ mem.ledger = c.mem.ledger) (h_flash : .flash ∈ parts ∨ mem.flash =
    c.mem.flash) : (Chip.mk c.freeCtr clk start cfg vault acc host sch jobs nextOrder regions cores seats arrays tiers peri cells tiles accs
    dev plots lasers linkLasers linkSel groups banks trims hbmStacks ports lanes fleetOut mon lvl saf log mem).outside parts = c.outside
    parts := by
  simp only [Chip.outside]
  congr 1
  case e_mem => congr 1 <;> exact ite_eq_of_or ‹_›
  all_goals exact ite_eq_of_or ‹_›

/-- The same, where the free-running counter is another. -/
@[simp] theorem Chip.outside_mk_freeCtr (h_freeCtr : .freeCtr ∈ parts ∨ freeCtr = c.freeCtr) (h_clk : .clk ∈ parts ∨ clk = c.clk) (h_start
    : .start ∈ parts ∨ start = c.start) (h_cfg : .cfg ∈ parts ∨ cfg = c.cfg) (h_vault : .vault ∈ parts ∨ vault = c.vault) (h_acc : .acc ∈
    parts ∨ acc = c.acc) (h_host : .host ∈ parts ∨ host = c.host) (h_sch : .sch ∈ parts ∨ sch = c.sch) (h_jobs : .jobs ∈ parts ∨ jobs =
    c.jobs) (h_regions : .regions ∈ parts ∨ regions = c.regions) (h_cores : .cores ∈ parts ∨ cores = c.cores) (h_seats : .seats ∈ parts ∨
    seats = c.seats) (h_arrays : .arrays ∈ parts ∨ arrays = c.arrays) (h_tiers : .tiers ∈ parts ∨ tiers = c.tiers) (h_peri : .peri ∈ parts ∨
    peri = c.peri) (h_cells : .cells ∈ parts ∨ cells = c.cells) (h_tiles : .tiles ∈ parts ∨ tiles = c.tiles) (h_accs : .accs ∈ parts ∨ accs
    = c.accs) (h_dev : .dev ∈ parts ∨ dev = c.dev) (h_plots : .plots ∈ parts ∨ plots = c.plots) (h_lasers : .lasers ∈ parts ∨ lasers =
    c.lasers) (h_linkLasers : .linkLasers ∈ parts ∨ linkLasers = c.linkLasers) (h_linkSel : .linkSel ∈ parts ∨ linkSel = c.linkSel)
    (h_groups : .groups ∈ parts ∨ groups = c.groups) (h_banks : .banks ∈ parts ∨ banks = c.banks) (h_trims : .trims ∈ parts ∨ trims =
    c.trims) (h_hbmStacks : .hbmStacks ∈ parts ∨ hbmStacks = c.hbmStacks) (h_ports : .ports ∈ parts ∨ ports = c.ports) (h_lanes : .lanes ∈
    parts ∨ lanes = c.lanes) (h_fleetOut : .fleetOut ∈ parts ∨ fleetOut = c.fleetOut) (h_mon : .mon ∈ parts ∨ mon = c.mon) (h_lvl : .lvl ∈
    parts ∨ lvl = c.lvl) (h_saf : .saf ∈ parts ∨ saf = c.saf) (h_log : .log ∈ parts ∨ log = c.log) (h_hbm : .hbm ∈ parts ∨ mem.hbm =
    c.mem.hbm) (h_rstg : .rstg ∈ parts ∨ mem.rstg = c.mem.rstg) (h_cstg : .cstg ∈ parts ∨ mem.cstg = c.mem.cstg) (h_tierImages : .tierImages
    ∈ parts ∨ mem.tiers = c.mem.tiers) (h_ledger : .ledger ∈ parts ∨ mem.ledger = c.mem.ledger) (h_flash : .flash ∈ parts ∨ mem.flash =
    c.mem.flash) : (Chip.mk freeCtr clk start cfg vault acc host sch jobs c.nextOrder regions cores seats arrays tiers peri cells tiles accs
    dev plots lasers linkLasers linkSel groups banks trims hbmStacks ports lanes fleetOut mon lvl saf log mem).outside parts = c.outside
    parts := by
  simp only [Chip.outside]
  congr 1
  case e_mem => congr 1 <;> exact ite_eq_of_or ‹_›
  all_goals exact ite_eq_of_or ‹_›

end

/-! ## Lists and conditions -/

section
variable (c : Chip)

@[simp] theorem Chip.outside_overAll {α : Type} (l : List α) (f : Chip → α → Chip) (hf : ∀ d x, (f d x).outside parts = d.outside parts) :
    (overAll l f c).outside parts = c.outside parts := overAll_keep (Chip.outside parts) l f c hf

@[simp] theorem Chip.outside_foldl {α : Type} (l : List α) (f : Chip → α → Chip) (hf : ∀ d x, (f d x).outside parts = d.outside parts) :
    (l.foldl f c).outside parts = c.outside parts := overAll_keep (Chip.outside parts) l f c hf

@[simp] theorem Chip.outside_when (b : Bool) (f : Chip → Chip) (hf : ∀ d, (f d).outside parts = d.outside parts) :
    (c.when b f).outside parts = c.outside parts := Chip.when_keep (Chip.outside parts) c b f hf

/-! ## Tables -/

@[simp] theorem Chip.outside_upRegion (h : .regions ∈ parts) (k : Nat) (f : Region → Region) : (c.upRegion k f).outside parts = c.outside parts := by
  simp [Chip.upRegion, h]

@[simp] theorem Chip.outside_upCore (h : .cores ∈ parts) (k : Nat) (f : CoreSt → CoreSt) : (c.upCore k f).outside parts = c.outside parts := by
  simp [Chip.upCore, h]

@[simp] theorem Chip.outside_upArr (h : .arrays ∈ parts) (k : Nat) (f : Arr → Arr) : (c.upArr k f).outside parts = c.outside parts := by
  simp [Chip.upArr, h]

@[simp] theorem Chip.outside_upTier (h : .tiers ∈ parts) (k : Nat) (f : Tier → Tier) : (c.upTier k f).outside parts = c.outside parts := by
  simp [Chip.upTier, h]

@[simp] theorem Chip.outside_upTile (h : .tiles ∈ parts) (k : Nat) (f : Tile → Tile) : (c.upTile k f).outside parts = c.outside parts := by
  simp [Chip.upTile, h]

@[simp] theorem Chip.outside_upPlot (h : .plots ∈ parts) (k : Nat) (f : Plot → Plot) : (c.upPlot k f).outside parts = c.outside parts := by
  simp [Chip.upPlot, h]

@[simp] theorem Chip.outside_upLaser (h : .lasers ∈ parts) (k : Nat) (f : Laser → Laser) : (c.upLaser k f).outside parts = c.outside parts := by
  simp [Chip.upLaser, h]

@[simp] theorem Chip.outside_upLinkLaser (h : .linkLasers ∈ parts) (k : Nat) (f : Laser → Laser) : (c.upLinkLaser k f).outside parts = c.outside parts := by
  simp [Chip.upLinkLaser, h]

@[simp] theorem Chip.outside_upGroup (h : .groups ∈ parts) (k : Nat) (f : Group → Group) : (c.upGroup k f).outside parts = c.outside parts := by
  simp [Chip.upGroup, h]

@[simp] theorem Chip.outside_upBank (h : .banks ∈ parts) (k : Nat) (f : Bank → Bank) : (c.upBank k f).outside parts = c.outside parts := by
  simp [Chip.upBank, h]

@[simp] theorem Chip.outside_upStack (h : .hbmStacks ∈ parts) (k : Nat) (f : Stack → Stack) : (c.upStack k f).outside parts = c.outside parts := by
  simp [Chip.upStack, h]

@[simp] theorem Chip.outside_upPort (h : .ports ∈ parts) (k : Nat) (f : Port → Port) : (c.upPort k f).outside parts = c.outside parts := by
  simp [Chip.upPort, h]

@[simp] theorem Chip.outside_upLane (h : .lanes ∈ parts) (k : Nat) (f : Lane → Lane) : (c.upLane k f).outside parts = c.outside parts := by
  simp [Chip.upLane, h]

end

end



/-! ## The lists of parts -/

@[simp] theorem faultParts_subset {parts : List Part} : faultParts ⊆ parts ↔
    .jobs ∈ parts ∧ .fleetOut ∈ parts ∧ .saf ∈ parts ∧ .log ∈ parts ∧ .regions ∈ parts ∧ .sch ∈ parts := by
  simp [faultParts]

@[simp] theorem endParts_subset {parts : List Part} : endParts ⊆ parts ↔
    .freeCtr ∈ parts ∧ .host ∈ parts ∧ .jobs ∈ parts ∧ .regions ∈ parts ∧ .cores ∈ parts ∧ .arrays ∈ parts ∧ .tiers ∈ parts
      ∧ .tiles ∈ parts ∧ .ports ∈ parts := by
  simp [endParts]

/-! ## The operations, in the order of the model -/

section
variable {parts : List Part}

@[simp] theorem Chip.outside_upJob (hparts : .jobs ∈ parts) (c : Chip) (id : JobId) (f : Job → Job) :
    (c.upJob id f).outside parts = c.outside parts := by
  simp [Chip.upJob, hparts]

@[simp] theorem Chip.outside_sendOn (hparts : .fleetOut ∈ parts) (c : Chip) (l : List Nat) (m : LinkMsg) :
    (c.sendOn l m).outside parts = c.outside parts := by
  simp [Chip.sendOn, hparts]

@[simp] theorem Chip.outside_event (hparts : [.regions, .saf, .log] ⊆ parts) (c : Chip) (src cls code : Nat) (rerow : Bool) (locus :
    BitVec 32) (detail : Nat) : (c.event src cls code rerow locus detail).outside parts = c.outside parts := by
  simp at hparts
  unfold Chip.event
  dsimp only
  repeat' split
  all_goals simp [hparts]

@[simp] theorem Chip.outside_draw (hparts : .freeCtr ∈ parts) (c : Chip) : c.draw.2.outside parts = c.outside parts := by
  simp [Chip.draw, hparts]

@[simp] theorem Chip.outside_eventOpen (hparts : [.freeCtr, .regions, .saf, .log] ⊆ parts) (c : Chip) (src cls : Nat) (locus : BitVec 32)
    (detail : Nat) : (c.eventOpen src cls locus detail).outside parts = c.outside parts := by
  simp at hparts
  simp [Chip.eventOpen, hparts]

@[simp] theorem Chip.outside_dropJob (hparts : .jobs ∈ parts) (c : Chip) (id : JobId) : (c.dropJob id).outside parts = c.outside parts :=
    by
  simp [Chip.dropJob, hparts]

@[simp] theorem Chip.outside_raiseSignal (hparts : [.sch, .jobs, .fleetOut] ⊆ parts) (c : Chip) (j : Job) (kind : Nat) (x : Nat) (lane
    status : Nat) : (c.raiseSignal j kind x lane status).outside parts = c.outside parts := by
  simp at hparts
  simp [Chip.raiseSignal, hparts]

@[simp] theorem Chip.outside_callJob (hparts : [.sch, .jobs, .fleetOut] ⊆ parts) (c : Chip) (j : Job) (lane : Nat) :
    (c.callJob j lane).outside parts = c.outside parts := by
  simp at hparts
  rcases c.callJob_cases j lane with e | e | e <;> rw [e] <;> simp [hparts]

@[simp] theorem Chip.outside_callRegion (hparts : [.sch, .jobs, .fleetOut] ⊆ parts) (c : Chip) (g : Nat) : (c.callRegion g).outside parts
    = c.outside parts := by
  simp at hparts
  simp [Chip.callRegion, hparts]

@[simp] theorem Chip.outside_callWhere (hparts : [.sch, .jobs, .fleetOut] ⊆ parts) (c : Chip) (p : Job → Bool) : (c.callWhere p).outside
    parts = c.outside parts := by
  simp at hparts
  simp [Chip.callWhere, hparts]

@[simp] theorem Chip.outside_hit (hparts : .saf ∈ parts) (c : Chip) (l : Locus) (need : Nat) : (c.hit l need).1.outside parts = c.outside
    parts := by
  unfold Chip.hit
  dsimp only
  repeat' split
  all_goals simp [hparts]

@[simp] theorem Chip.outside_addRemedy (hparts : .saf ∈ parts) (c : Chip) (r : Remedy) : (c.addRemedy r).outside parts = c.outside parts
    := by
  simp [Chip.addRemedy, hparts]

@[simp] theorem Chip.outside_fault (hparts : [.regions, .saf, .log] ⊆ parts) (c : Chip) (src code : Nat) (locus : BitVec 32) (detail :
    Nat) (l : Locus) (need : Nat) (remedy : Remedy) : (c.fault src code locus detail l need remedy).outside parts = c.outside parts := by
  simp at hparts
  simp [Chip.fault, hparts, apply_ite (Chip.outside parts)]

@[simp] theorem Chip.outside_danger (hparts : faultParts ⊆ parts) (c : Chip) (g src code : Nat) (locus : BitVec 32) (detail : Nat) (l :
    Locus) (need : Nat) (remedy : Remedy) : (c.danger g src code locus detail l need remedy).outside parts = c.outside parts := by
  simp at hparts
  simp [Chip.danger, hparts]

@[simp] theorem Chip.outside_dangerLight (hparts : faultParts ⊆ parts) (c : Chip) (g src code : Nat) (locus : BitVec 32) (detail : Nat)
    (cls : Nat) : (c.dangerLight g src code locus detail cls).outside parts = c.outside parts := by
  simp at hparts
  simp [Chip.dangerLight, hparts]

@[simp] theorem Chip.outside_residue (hparts : faultParts ⊆ parts) (c : Chip) (unit g core array plot : Nat) : (c.residue unit g core
    array plot).outside parts = c.outside parts := by
  simp at hparts
  simp [Chip.residue, hparts, apply_ite (Chip.outside parts)]

@[simp] theorem Chip.outside_residues (hparts : faultParts ⊆ parts) (c : Chip) (rs : List Residue) (g core array : Nat) (plot : Nat → Nat)
    : (c.residues rs g core array plot).outside parts = c.outside parts := by
  simp at hparts
  simp [Chip.residues, hparts]

@[simp] theorem Chip.outside_badRead (hparts : .jobs ∈ parts) (c : Chip) (id : JobId) (loc : Nat) : (c.badRead id loc).outside parts =
    c.outside parts := by
  simp [Chip.badRead, hparts]

@[simp] theorem Chip.outside_coreCode (hparts : faultParts ⊆ parts) (c : Chip) (core kind : Nat) : (c.coreCode core kind).outside parts =
    c.outside parts := by
  simp at hparts
  simp [Chip.coreCode, hparts]

@[simp] theorem Chip.outside_regionCode (hparts : faultParts ⊆ parts) (c : Chip) (g kind : Nat) : (c.regionCode g kind).outside parts =
    c.outside parts := by
  simp at hparts
  simp [Chip.regionCode, hparts]

@[simp] theorem Chip.outside_scheduleFault (hparts : faultParts ⊆ parts) (c : Chip) (j : Job) (g src : Nat) (locus : BitVec 32) (index :
    Nat) : (c.scheduleFault j g src locus index).outside parts = c.outside parts := by
  simp at hparts
  simp [Chip.scheduleFault, hparts, apply_ite (Chip.outside parts)]

@[simp] theorem Chip.outside_onCore (c : Chip) (st : Site) (f : Chip → Job → Nat → Nat → Chip)
    (hf : ∀ d j g k, (f d j g k).outside parts = d.outside parts) : (c.onCore st f).outside parts = c.outside parts := by
  unfold Chip.onCore
  split <;> simp [hf]

@[simp] theorem Chip.outside_onSeq (c : Chip) (st : Site) (f : Chip → Job → Nat → Chip)
    (hf : ∀ d j g, (f d j g).outside parts = d.outside parts) : (c.onSeq st f).outside parts = c.outside parts := by
  unfold Chip.onSeq
  split <;> simp [hf]

@[simp] theorem Chip.outside_badFetch (hparts : faultParts ⊆ parts) (c : Chip) (st : Site) (g : Nat) : (c.badFetch st g).outside parts =
    c.outside parts := by
  simp at hparts
  simp [Chip.badFetch]
  split <;> simp [hparts]

@[simp] theorem Chip.outside_lockstep (hparts : faultParts ⊆ parts) (c : Chip) (st : Site) (g : Nat) : (c.lockstep st g).outside parts =
    c.outside parts := by
  simp at hparts
  simp [Chip.lockstep]
  split <;> simp [hparts]

@[simp] theorem Chip.outside_fetched (h : faultParts ⊆ parts) (c : Chip) (st : Site) (g : Nat) (w : Fetch) (f : Chip → Chip)
    (hf : ∀ d, (f d).outside parts = d.outside parts) : (c.fetched st g w f).outside parts = c.outside parts := by
  unfold Chip.fetched
  split <;> simp only [Chip.outside_badFetch h, Chip.outside_lockstep h, hf]

@[simp] theorem Chip.outside_onStream (h : faultParts ⊆ parts) (c : Chip) (st : Site) (w : Fetch) (f : Chip → Job → Nat → Chip)
    (hf : ∀ d j g, (f d j g).outside parts = d.outside parts) : (c.onStream st w f).outside parts = c.outside parts := by
  unfold Chip.onStream
  split
  · exact Chip.outside_fetched h _ _ _ _ _ fun d => hf d _ _
  · rfl

@[simp] theorem Chip.outside_onSeqWord (h : faultParts ⊆ parts) (c : Chip) (st : Site) (w : Fetch) (f : Chip → Job → Nat → Chip)
    (hf : ∀ d j g, (f d j g).outside parts = d.outside parts) : (c.onSeqWord st w f).outside parts = c.outside parts :=
  Chip.outside_onSeq _ _ _ fun _ j g => Chip.outside_fetched h _ _ _ _ _ fun e => hf e j g

@[simp] theorem Chip.outside_datumNote (hparts : [.regions, .cores, .saf, .log] ⊆ parts) (c : Chip) (core opByte g : Nat) (cn : Cnt) :
    (c.datumNote core opByte g cn).outside parts = c.outside parts := by
  simp at hparts
  simp [Chip.datumNote, hparts, apply_ite (Chip.outside parts)]

@[simp] theorem Chip.outside_streamFaultCore (hparts : faultParts ++ [.cores] ⊆ parts) (c : Chip) (core : Nat) (t : TagMiss) :
    (c.streamFaultCore core t).outside parts = c.outside parts := by
  simp at hparts
  simp [Chip.streamFaultCore, hparts]

@[simp] theorem Chip.outside_corePath (hparts : faultParts ++ [.cores] ⊆ parts) (c : Chip) (id : JobId) (core array : Nat) (p : Path) :
    (c.corePath id core array p).outside parts = c.outside parts := by
  simp at hparts
  simp [Chip.corePath, hparts]

@[simp] theorem Chip.outside_accFault (hparts : faultParts ⊆ parts) (c : Chip) (core peri : Nat) : (c.accFault core peri).outside parts =
    c.outside parts := by
  simp at hparts
  simp [Chip.accFault, hparts]

@[simp] theorem Chip.outside_accFaults (h : faultParts ⊆ parts) (c : Chip) (core peri n : Nat) :
    (c.accFaults core peri n).outside parts = c.outside parts := by
  induction n generalizing c with
  | zero => rfl
  | succ n ih => simp [Chip.accFaults, ih, h]

@[simp] theorem Chip.outside_accPath (hparts : faultParts ++ [.cores] ⊆ parts) (c : Chip) (core peri : Nat) (p : Path) : (c.accPath core
    peri p).outside parts = c.outside parts := by
  simp at hparts
  simp [Chip.accPath, hparts]

@[simp] theorem Chip.outside_vecIssue (hparts : faultParts ++ [.cores, .tiles, .cstg] ⊆ parts) (c : Chip) (st : Site) (j : Job) (g lc core
    o : Nat) (op : VecOp) (p : Path) : (c.vecIssue st j g lc core o op p).outside parts = c.outside parts := by
  simp at hparts
  unfold Chip.vecIssue
  dsimp only
  repeat' split
  all_goals simp [hparts]

@[simp] theorem Chip.outside_diagnose (hparts : [.regions, .arrays, .saf, .log] ⊆ parts) (c : Chip) (core cells tier : Nat) (int4 : Bool)
    (im : Nat × Nat) (k : Cand) : (c.diagnose core cells tier int4 im k).outside parts = c.outside parts := by
  simp at hparts
  unfold Chip.diagnose
  dsimp only
  repeat' split
  all_goals simp [hparts]

@[simp] theorem Chip.outside_senseFail (hparts : faultParts ++ [.cores] ⊆ parts) (c : Chip) (core cells peri tier : Nat) (diagnosed : List
    (Nat × Nat)) (v : Mismatch) : (c.senseFail core cells peri tier diagnosed v).outside parts = c.outside parts := by
  simp at hparts
  simp [Chip.senseFail, hparts, apply_ite (Chip.outside parts)]

@[simp] theorem Chip.outside_heldFail (hparts : faultParts ++ [.cores, .arrays] ⊆ parts) (core : Nat) (c : Chip) (h : HeldCheck) :
    (c.heldFail core h).outside parts = c.outside parts := by
  simp at hparts
  unfold Chip.heldFail
  dsimp only
  repeat' split
  all_goals simp [hparts]

end

end Sys2Proof.Machine

/-! Frames of the operations, continued: benchmarks, the cox, optical work, staging and seats. -/

namespace Sys2Proof.Machine

section
variable {parts : List Part}

@[simp] theorem Chip.outside_benchFail (hparts : faultParts ++ [.cores, .arrays] ⊆ parts) (core cells peri tier : Nat) (c : Chip) (b :
    BenchMiss) : (c.benchFail core cells peri tier b).outside parts = c.outside parts := by
  simp at hparts
  simp [Chip.benchFail, hparts, apply_ite (Chip.outside parts)]

@[simp] theorem Chip.outside_coxOverflow (hparts : [.sch, .jobs, .cores, .fleetOut] ⊆ parts) (c : Chip) (core kind tick key : Nat) :
    (c.coxOverflow core kind tick key).outside parts = c.outside parts := by
  simp at hparts
  simp [Chip.coxOverflow, hparts]

@[simp] theorem Chip.outside_postItem (hparts : [.cores, .arrays] ⊆ parts) (x : TileCtx) (core cells peri issue E v0 : Nat) (c : Chip) (v
    : Conv) : (c.postItem x core cells peri issue E v0 v).outside parts = c.outside parts := by
  simp at hparts
  simp [Chip.postItem, hparts]

@[simp] theorem Chip.outside_tileIssue (hparts : faultParts ++ [.cores, .arrays, .tiles, .accs] ⊆ parts) (c : Chip) (st : Site) (j : Job)
    (g lc core : Nat) (op : TileOp) (rds : List Reading) (bench : List BenchMiss) (p : Path) : (c.tileIssue st j g lc core op rds bench
    p).outside parts = c.outside parts := by
  simp at hparts
  simp [Chip.tileIssue, hparts, apply_ite (Chip.outside parts)]

@[simp] theorem Chip.outside_drainIssue (hparts : faultParts ++ [.cores, .tiles, .cstg] ⊆ parts) (c : Chip) (st : Site) (j : Job) (g lc
    core : Nat) (op : DrainOp) (p : Path) : (c.drainIssue st j g lc core op p).outside parts = c.outside parts := by
  simp at hparts
  simp [Chip.drainIssue, hparts, apply_ite (Chip.outside parts)]

@[simp] theorem Chip.outside_serveItem (hparts : faultParts ++ [.cores, .arrays, .accs] ⊆ parts) (c : Chip) (core : Nat) (x : CoxItem) :
    (c.serveItem core x).outside parts = c.outside parts := by
  simp at hparts
  simp [Chip.serveItem, hparts]

@[simp] theorem Chip.outside_dropItem (hparts : .cores ∈ parts) (c : Chip) (core : Nat) (x : CoxItem) : (c.dropItem core x).outside parts
    = c.outside parts := by
  simp [Chip.dropItem, hparts]

@[simp] theorem Chip.outside_arriveItem (hparts : [.sch, .jobs, .cores, .fleetOut] ⊆ parts) (core : Nat) (c : Chip) (x : CoxItem) :
    (c.arriveItem core x).outside parts = c.outside parts := by
  simp at hparts
  simp [Chip.arriveItem, hparts, apply_ite (Chip.outside parts)]

@[simp] theorem Chip.outside_arrivals (hparts : [.sch, .jobs, .cores, .fleetOut] ⊆ parts) (c : Chip) (core tick : Nat) : (c.arrivals core
    tick).outside parts = c.outside parts := by
  simp at hparts
  simp [Chip.arrivals, hparts]

@[simp] theorem Chip.outside_escape (hparts : faultParts ++ [.cores, .accs] ⊆ parts) (c : Chip) (j : Job) (g lc core s : Nat) : (c.escape
    j g lc core s).outside parts = c.outside parts := by
  simp at hparts
  unfold Chip.escape
  dsimp only
  repeat' split
  all_goals simp [hparts]

@[simp] theorem Chip.outside_escapes (h : faultParts ++ [.cores, .accs] ⊆ parts) (c : Chip) (j : Job) (g lc core s n : Nat) :
    (c.escapes j g lc core s n).outside parts = c.outside parts := by
  induction n generalizing c with
  | zero => rfl
  | succ n ih => exact (ih _).trans (Chip.outside_escape h ..)

@[simp] theorem Chip.outside_missed (hparts : [.sch, .jobs, .cores, .fleetOut] ⊆ parts) (c : Chip) (core start : Nat) : (c.missed core
    start).outside parts = c.outside parts := by
  simp at hparts
  simp [Chip.missed, hparts]

@[simp] theorem Chip.outside_coxOffend (hparts : [.regions, .saf, .log] ⊆ parts) (core : Nat) (c : Chip) (o : Nat × Nat × Nat) :
    (c.coxOffend core o).outside parts = c.outside parts := by
  simp at hparts
  simp [Chip.coxOffend, hparts]

@[simp] theorem Chip.outside_coxStroke (hparts : faultParts ++ [.cores] ⊆ parts) (c : Chip) (core tick : Nat) : (c.coxStroke core
    tick).outside parts = c.outside parts := by
  simp at hparts
  simp [Chip.coxStroke, hparts]

@[simp] theorem Chip.outside_groupMismatch (hparts : faultParts ++ [.plots] ⊆ parts) (c : Chip) (g k group : Nat) : (c.groupMismatch g k
    group).outside parts = c.outside parts := by
  simp at hparts
  simp [Chip.groupMismatch, hparts]

@[simp] theorem Chip.outside_optGroupPosted (hparts : faultParts ++ [.plots] ⊆ parts) (g : Nat) (c : Chip) (d : OptDue) (before : Nat) :
    (c.optGroupPosted g d before).outside parts = c.outside parts := by
  simp at hparts
  simp [Chip.optGroupPosted, hparts]

@[simp] theorem Chip.outside_optGroups (h : faultParts ++ [.plots] ⊆ parts) (g : Nat) (l : List OptDue) (n : Nat) (c : Chip) :
    (Chip.optGroups g l n c).outside parts = c.outside parts := by
  induction l generalizing c n with
  | nil => rfl
  | cons d l ih => exact (ih ..).trans (Chip.outside_optGroupPosted h ..)

@[simp] theorem Chip.outside_optStroke (hparts : faultParts ++ [.plots] ⊆ parts) (c : Chip) (g : Nat) : (c.optStroke g).outside parts =
    c.outside parts := by
  simp at hparts
  simp [Chip.optStroke, hparts, apply_ite (Chip.outside parts)]

@[simp] theorem Chip.outside_endSwitching (hparts : .plots ∈ parts) (c : Chip) (g : Nat) (on : List Nat) :
    (c.endSwitching g on).outside parts = c.outside parts := by
  refine Chip.outside_overAll _ _ _ fun d lp => ?_
  split <;> simp [hparts]

@[simp] theorem Chip.outside_addDuty (hparts : .regions ∈ parts) (c : Chip) (g issue first last : Nat) (plots : List Nat) : (c.addDuty g
    issue first last plots).outside parts = c.outside parts := by
  simp [Chip.addDuty, hparts]

@[simp] theorem Chip.outside_regionPath (hparts : faultParts ⊆ parts) (c : Chip) (id : JobId) (g : Nat) (plot : Nat → Nat) (p : Path) :
    (c.regionPath id g plot p).outside parts = c.outside parts := by
  simp at hparts
  simp [Chip.regionPath, hparts]

@[simp] theorem Chip.outside_optIssue (hparts : faultParts ++ [.rstg] ⊆ parts) (c : Chip) (st : Site) (j : Job) (g : Nat) (op : OptOp)
    (rds : List OptReading) (p : Path) : (c.optIssue st j g op rds p).outside parts = c.outside parts := by
  simp at hparts
  simp [Chip.optIssue, hparts, apply_ite (Chip.outside parts)]

@[simp] theorem Chip.outside_channelFault (hparts : [.regions, .hbmStacks, .saf, .log] ⊆ parts) (c : Chip) (L : Nat) (rerow : Bool) :
    (c.channelFault L rerow).outside parts = c.outside parts := by
  simp at hparts
  simp [Chip.channelFault, hparts]

@[simp] theorem Chip.outside_stackCounts (hparts : .hbmStacks ∈ parts) (c : Chip) (s corrected ondie : Nat) (parity : Bool) :
    (c.stackCounts s corrected ondie parity).outside parts = c.outside parts := by
  simp [Chip.stackCounts, hparts]

@[simp] theorem Chip.outside_slotFault (hparts : faultParts ++ [.hbmStacks] ⊆ parts) (c : Chip) (id : JobId) (g L : Nat) : (c.slotFault id
    g L).outside parts = c.outside parts := by
  simp at hparts
  simp [Chip.slotFault, hparts]

@[simp] theorem Chip.outside_hbmPath (hparts : faultParts ++ [.hbmStacks] ⊆ parts) (c : Chip) (id : JobId) (g stack : Nat) (p : Path) :
    (c.hbmPath id g stack p).outside parts = c.outside parts := by
  simp at hparts
  simp [Chip.hbmPath, hparts]

@[simp] theorem Chip.outside_hbmWritePath (hparts : faultParts ++ [.hbmStacks] ⊆ parts) (c : Chip) (id : JobId) (g L : Nat) (p : Path) :
    (c.hbmWritePath id g L p).outside parts = c.outside parts := by
  simp at hparts
  simp [Chip.hbmWritePath, hparts]

@[simp] theorem Chip.outside_hbmCode (hparts : [.regions, .hbmStacks, .saf, .log] ⊆ parts) (c : Chip) (s : Nat) (code : HbmCode) :
    (c.hbmCode s code).outside parts = c.outside parts := by
  simp at hparts
  unfold Chip.hbmCode
  dsimp only
  repeat' split
  all_goals simp [hparts]

@[simp] theorem Chip.outside_h2r (hparts : faultParts ++ [.hbmStacks, .rstg] ⊆ parts) (c : Chip) (st : Site) (j : Job) (g : Nat) (op :
    HbmMove) (p : Path) : (c.h2r st j g op p).outside parts = c.outside parts := by
  simp at hparts
  unfold Chip.h2r
  dsimp only
  repeat' split
  all_goals simp [hparts]

@[simp] theorem Chip.outside_r2h (hparts : faultParts ++ [.hbmStacks, .hbm] ⊆ parts) (c : Chip) (st : Site) (j : Job) (g : Nat) (op :
    HbmMove) (p : Path) : (c.r2h st j g op p).outside parts = c.outside parts := by
  simp at hparts
  unfold Chip.r2h
  dsimp only
  repeat' split
  all_goals simp [hparts]

@[simp] theorem Chip.outside_r2c (hparts : faultParts ++ [.cstg] ⊆ parts) (c : Chip) (st : Site) (j : Job) (g core : Nat) (op : CopyMove)
    (p : Path) : (c.r2c st j g core op p).outside parts = c.outside parts := by
  simp at hparts
  simp [Chip.r2c, hparts]

@[simp] theorem Chip.outside_c2r (hparts : faultParts ++ [.cores, .rstg] ⊆ parts) (c : Chip) (st : Site) (j : Job) (g core : Nat) (op :
    CopyMove) (p : Path) : (c.c2r st j g core op p).outside parts = c.outside parts := by
  simp at hparts
  simp [Chip.c2r, hparts]

@[simp] theorem Chip.outside_c2c (hparts : faultParts ++ [.cores, .cstg] ⊆ parts) (c : Chip) (st : Site) (core : Nat) (op : CopyMove) (p :
    Path) : (c.c2c st core op p).outside parts = c.outside parts := by
  simp at hparts
  simp [Chip.c2c, hparts]

@[simp] theorem Chip.outside_r2r (hparts : faultParts ++ [.rstg] ⊆ parts) (c : Chip) (st : Site) (j : Job) (g : Nat) (op : CopyMove) (p :
    Path) : (c.r2r st j g op p).outside parts = c.outside parts := by
  simp at hparts
  simp [Chip.r2r, hparts]

@[simp] theorem Chip.outside_upHport (hparts : .host ∈ parts) (c : Chip) (p : Fin 2) (f : HPort → HPort) : (c.upHport p f).outside parts =
    c.outside parts := by
  simp [Chip.upHport, hparts]

@[simp] theorem Chip.outside_wire (hparts : .host ∈ parts) (c : Chip) (p : Packet) : (c.wire p).outside parts = c.outside parts := by
  simp [Chip.wire, hparts, apply_ite (Chip.outside parts)]

@[simp] theorem Chip.outside_upQueue (hparts : .host ∈ parts) (c : Chip) (q : Nat) (f : QState → QState) : (c.upQueue q f).outside parts =
    c.outside parts := by
  simp [Chip.upQueue, hparts]

@[simp] theorem Chip.outside_emit (hparts : .host ∈ parts) (c : Chip) (q : Nat) (w : Waiting) : (c.emit q w).outside parts = c.outside
    parts := by
  simp [Chip.emit, hparts]

@[simp] theorem Chip.outside_post (hparts : .host ∈ parts) (c : Chip) (q : Nat) (w : Waiting) : (c.post q w).outside parts = c.outside
    parts := by
  simp [Chip.post, hparts, apply_ite (Chip.outside parts)]

@[simp] theorem Chip.outside_send (hparts : .host ∈ parts) (c : Chip) (q : Nat) (tag : BitVec 32) (answers : Option (BitVec 32)) (b :
    ResultBody) : (c.send q tag answers b).outside parts = c.outside parts := by
  simp [Chip.send, hparts]

@[simp] theorem Chip.outside_flush (h : .host ∈ parts) (q n : Nat) (c : Chip) : (Chip.flush q n c).outside parts = c.outside parts := by
  induction n generalizing c with
  | zero => rfl
  | succ n ih =>
    unfold Chip.flush
    split
    · rfl
    · split
      · simp [ih, h]
      · rfl

@[simp] theorem Chip.outside_sendAck (hparts : .host ∈ parts) (c : Chip) (q : Nat) : (c.sendAck q).outside parts = c.outside parts := by
  simp [Chip.sendAck, hparts]

@[simp] theorem Chip.outside_jobEnd (hparts : [.freeCtr, .host] ⊆ parts) (c : Chip) (j : Job) (status sub flags : Nat) : (c.jobEnd j
    status sub flags).outside parts = c.outside parts := by
  simp at hparts
  unfold Chip.jobEnd
  dsimp only
  repeat' split
  all_goals simp [hparts]

@[simp] theorem Chip.outside_jobState (hparts : .host ∈ parts) (c : Chip) (j : Job) (state reason stroke : Nat) : (c.jobState j state
    reason stroke).outside parts = c.outside parts := by
  simp [Chip.jobState, hparts]

@[simp] theorem Chip.outside_jobRecord (hparts : [.freeCtr, .regions, .saf, .log] ⊆ parts) (c : Chip) (j : Job) : (c.jobRecord j).outside
    parts = c.outside parts := by
  simp at hparts
  simp [Chip.jobRecord, hparts]

@[simp] theorem Chip.outside_sendStream (h : .host ∈ parts) (j : Job) (port : Option (Fin 2)) (e n k : Nat) (c : Chip) :
    (Chip.sendStream j port e n k c).outside parts = c.outside parts := by
  induction n generalizing c k with
  | zero => rfl
  | succ n ih =>
    unfold Chip.sendStream
    split
    · rfl
    · simp [ih, h]

@[simp] theorem Chip.outside_clearWork (hparts : [.regions, .cores, .arrays, .tiles] ⊆ parts) (c : Chip) (j : Job) : (c.clearWork
    j).outside parts = c.outside parts := by
  simp at hparts
  simp [Chip.clearWork, hparts]

@[simp] theorem Chip.outside_releaseRegion (hparts : .regions ∈ parts) (c : Chip) (j : Job) (g : Nat) : (c.releaseRegion j g).outside
    parts = c.outside parts := by
  simp [Chip.releaseRegion, hparts]

@[simp] theorem Chip.outside_release (hparts : [.regions, .cores, .arrays, .tiles, .ports] ⊆ parts) (c : Chip) (j : Job) : (c.release
    j).outside parts = c.outside parts := by
  simp at hparts
  simp [Chip.release, hparts, apply_ite (Chip.outside parts)]

@[simp] theorem Chip.outside_settleTier (hparts : .tiers ∈ parts) (rest : List SwapDone) (w : SwapDone) (T : Nat) (c : Chip) :
    (c.settleTier rest w T).outside parts = c.outside parts := by
  simp [Chip.settleTier, hparts, apply_ite (Chip.outside parts)]

@[simp] theorem Chip.outside_settle (hparts : .tiers ∈ parts) (rest : List SwapDone) (c : Chip) (w : SwapDone) : (c.settle rest w).outside
    parts = c.outside parts := by
  simp [Chip.settle, hparts]

@[simp] theorem Chip.outside_endJob (hparts : endParts ⊆ parts) (c : Chip) (j : Job) (status sub flags : Nat) : (c.endJob j status sub
    flags).outside parts = c.outside parts := by
  simp at hparts
  simp [Chip.endJob, hparts]

@[simp] theorem Chip.outside_abortJob (hparts : endParts ⊆ parts) (c : Chip) (id : JobId) (status flags : Nat) : (c.abortJob id status
    flags).outside parts = c.outside parts := by
  simp at hparts
  simp [Chip.abortJob]
  split <;> simp [hparts]

@[simp] theorem Chip.outside_loseJob (hparts : endParts ++ [.sch, .fleetOut] ⊆ parts) (c : Chip) (j : Job) : (c.loseJob j).outside parts =
    c.outside parts := by
  simp at hparts
  simp [Chip.loseJob, hparts, apply_ite (Chip.outside parts)]

@[simp] theorem Chip.outside_loseWhere (hparts : endParts ++ [.sch, .fleetOut] ⊆ parts) (c : Chip) (p : Job → Bool) : (c.loseWhere
    p).outside parts = c.outside parts := by
  simp at hparts
  simp [Chip.loseWhere, hparts]

@[simp] theorem Chip.outside_takeSeat (hparts : .plots ∈ parts) (c : Chip) (q lp : Nat) : (c.takeSeat q lp).outside parts = c.outside
    parts := by
  simp [Chip.takeSeat, hparts]

@[simp] theorem Chip.outside_abandonSurvey (hparts : .mon ∈ parts) (c : Chip) (u : SurveyUnit) : (c.abandonSurvey u).outside parts =
    c.outside parts := by
  simp [Chip.abandonSurvey, hparts]

@[simp] theorem Chip.outside_abandonUnit (hparts : [.arrays, .mon] ⊆ parts) (c : Chip) (u : SurveyUnit) : (c.abandonUnit u).outside parts
    = c.outside parts := by
  simp at hparts
  unfold Chip.abandonUnit
  dsimp only
  repeat' split
  all_goals simp [hparts]

@[simp] theorem Chip.outside_substituted (hparts : [.regions, .saf, .log] ⊆ parts) (c : Chip) (src : Nat) (locus : BitVec 32) (kind : Nat)
    (perm last : Bool) : (c.substituted src locus kind perm last).outside parts = c.outside parts := by
  simp at hparts
  simp [Chip.substituted, hparts, apply_ite (Chip.outside parts)]

@[simp] theorem Chip.outside_plotAbsent (hparts : endParts ++ [.sch, .plots, .fleetOut, .saf, .log] ⊆ parts) (c : Chip) (k lp : Nat) :
    (c.plotAbsent k lp).outside parts = c.outside parts := by
  simp at hparts
  simp [Chip.plotAbsent, hparts]

@[simp] theorem Chip.outside_noteHolds (hparts : .regions ∈ parts) (c : Chip) : c.noteHolds.outside parts = c.outside parts := by
  simp [Chip.noteHolds, hparts, apply_ite (Chip.outside parts)]

@[simp] theorem Chip.outside_holdJobs (hparts : faultParts ⊆ parts) (c : Chip) (g k : Nat) (names : Job → Bool) : (c.holdJobs g k
    names).outside parts = c.outside parts := by
  simp at hparts
  simp [Chip.holdJobs, hparts, apply_ite (Chip.outside parts)]

@[simp] theorem Chip.outside_leaveSeat (hparts : endParts ++ [.sch, .plots, .fleetOut, .mon, .saf, .log] ⊆ parts) (c : Chip) (k reason :
    Nat) (retire perm : Bool) : (c.leaveSeat k reason retire perm).outside parts = c.outside parts := by
  simp at hparts
  unfold Chip.leaveSeat
  dsimp only
  repeat' split
  all_goals simp [hparts]

end

end Sys2Proof.Machine

/-! Frames of the operations, continued: lasers, the ledger and exchanges. -/

namespace Sys2Proof.Machine

section
variable {parts : List Part}

@[simp] theorem Chip.outside_endPlotHolds (hparts : [.jobs, .regions] ⊆ parts) (c : Chip) : c.endPlotHolds.outside parts = c.outside parts
    := by
  simp at hparts
  simp [Chip.endPlotHolds, hparts]

@[simp] theorem Chip.outside_retireGroup (hparts : endParts ++ [.sch, .plots, .fleetOut, .mon, .saf, .log] ⊆ parts) (c : Chip) (g k : Nat)
    : (c.retireGroup g k).outside parts = c.outside parts := by
  simp at hparts
  simp [Chip.retireGroup, hparts, apply_ite (Chip.outside parts)]

@[simp] theorem Chip.outside_holdGroup (hparts : endParts ++ [.sch, .plots, .fleetOut, .mon, .saf, .log] ⊆ parts) (c : Chip) (g k : Nat) :
    (c.holdGroup g k).outside parts = c.outside parts := by
  simp at hparts
  unfold Chip.holdGroup
  dsimp only
  repeat' split
  all_goals simp [hparts]

@[simp] theorem Chip.outside_impair (hparts : endParts ++ [.sch, .fleetOut, .saf, .log] ⊆ parts) (c : Chip) (a : Nat) : (c.impair
    a).outside parts = c.outside parts := by
  simp at hparts
  unfold Chip.impair
  dsimp only
  repeat' split
  all_goals simp [hparts]

@[simp] theorem Chip.outside_beginPlot (hparts : .arrays ∈ parts) (a : Nat) (c : Chip) (i : Nat) : (c.beginPlot a i).outside parts =
    c.outside parts := by
  simp [Chip.beginPlot, hparts, apply_ite (Chip.outside parts)]

@[simp] theorem Chip.outside_beginCells (hparts : .arrays ∈ parts) (c : Chip) (a : Nat) : (c.beginCells a).outside parts = c.outside parts
    := by
  unfold Chip.beginCells
  repeat' split
  all_goals simp [hparts]

@[simp] theorem Chip.outside_beginCopies (hparts : .arrays ∈ parts) (c : Chip) (core : Nat) :
    (c.beginCopies core).outside parts = c.outside parts :=
  (Chip.outside_overAll _ _ _ fun d a => Chip.outside_beginCells hparts d a).trans
    (Chip.outside_overAll _ _ _ fun _ a => Chip.outside_overAll _ _ _ fun e i => Chip.outside_beginPlot hparts a e i)

@[simp] theorem Chip.outside_startMove (hparts : [.freeCtr, .regions, .arrays, .saf, .log] ⊆ parts) (c : Chip) (a : Nat) : (c.startMove
    a).outside parts = c.outside parts := by
  simp at hparts
  unfold Chip.startMove
  dsimp only
  repeat' split
  all_goals simp [hparts]

@[simp] theorem Chip.outside_startPlotCopy (hparts : [.freeCtr, .regions, .arrays, .saf, .log] ⊆ parts) (c : Chip) (a i j : Nat) :
    (c.startPlotCopy a i j).outside parts = c.outside parts := by
  simp at hparts
  simp [Chip.startPlotCopy, hparts, apply_ite (Chip.outside parts)]

@[simp] theorem Chip.outside_addStuck (hparts : endParts ++ [.sch, .fleetOut, .saf, .log] ⊆ parts) (c : Chip) (a : Nat) (e : Stuck) :
    (c.addStuck a e).outside parts = c.outside parts := by
  simp at hparts
  simp [Chip.addStuck, hparts, apply_ite (Chip.outside parts)]

@[simp] theorem Chip.outside_endRotation (hparts : [.arrays, .peri, .mon] ⊆ parts) (c : Chip) (a : Nat) : (c.endRotation a).outside parts
    = c.outside parts := by
  simp at hparts
  unfold Chip.endRotation
  dsimp only
  repeat' split
  all_goals simp [hparts]

@[simp] theorem Chip.outside_retirePeri (hparts : endParts ++ [.sch, .peri, .fleetOut, .mon, .saf, .log] ⊆ parts) (c : Chip) (p : Nat) :
    (c.retirePeri p).outside parts = c.outside parts := by
  simp at hparts
  unfold Chip.retirePeri
  dsimp only
  repeat' split
  all_goals simp [hparts]

@[simp] theorem Chip.outside_loseRegion (hparts : endParts ++ [.sch, .fleetOut, .saf, .log] ⊆ parts) (c : Chip) (g : Nat) : (c.loseRegion
    g).outside parts = c.outside parts := by
  simp at hparts
  simp [Chip.loseRegion, hparts, apply_ite (Chip.outside parts)]

@[simp] theorem Chip.outside_replaceCore (hparts : endParts ++ [.sch, .seats, .fleetOut, .saf, .log, .cstg] ⊆ parts) (c : Chip) (core :
    Nat) : (c.replaceCore core).outside parts = c.outside parts := by
  simp at hparts
  unfold Chip.replaceCore
  dsimp only
  repeat' split
  all_goals simp [hparts]

@[simp] theorem Chip.outside_benchRestart (hparts : faultParts ++ [.cores, .arrays] ⊆ parts) (c : Chip) (g : Nat) : (c.benchRestart
    g).outside parts = c.outside parts := by
  simp at hparts
  simp [Chip.benchRestart, hparts]

@[simp] theorem Chip.outside_remedy (hparts : endParts ++ [.sch, .seats, .peri, .plots, .fleetOut, .mon, .saf, .log, .cstg] ⊆ parts) (c :
    Chip) (r : Remedy) : (c.remedy r).outside parts = c.outside parts := by
  simp at hparts
  unfold Chip.remedy
  dsimp only
  repeat' split
  all_goals simp [hparts]

@[simp] theorem Chip.outside_applyWhere (hparts : endParts ++ [.sch, .seats, .peri, .plots, .fleetOut, .mon, .saf, .log, .cstg] ⊆ parts)
    (c : Chip) (mine : Remedy → Bool) : (c.applyWhere mine).outside parts = c.outside parts := by
  simp at hparts
  simp [Chip.applyWhere, hparts]

@[simp] theorem Chip.outside_applyRemedies (hparts : endParts ++ [.sch, .seats, .peri, .plots, .fleetOut, .mon, .saf, .log, .cstg] ⊆
    parts) (c : Chip) (gs : List Nat) : (c.applyRemedies gs).outside parts = c.outside parts := by
  simp at hparts
  simp [Chip.applyRemedies, hparts]

@[simp] theorem Chip.outside_moveParked (hparts : endParts ++ [.sch, .seats, .peri, .plots, .fleetOut, .mon, .saf, .log, .cstg] ⊆ parts)
    (c : Chip) (g : Nat) : (c.moveParked g).outside parts = c.outside parts := by
  simp at hparts
  simp [Chip.moveParked, hparts, apply_ite (Chip.outside parts)]

@[simp] theorem Chip.outside_upLaserAt (hparts : [.lasers, .linkLasers] ⊆ parts) (c : Chip) (r : LaserRef) (f : Laser → Laser) :
    (c.upLaserAt r f).outside parts = c.outside parts := by
  simp at hparts
  simp [Chip.upLaserAt]
  split <;> simp [hparts]

@[simp] theorem Chip.outside_trackGains (hparts : .groups ∈ parts) (c : Chip) (g : Nat) : (c.trackGains g).outside parts = c.outside parts
    := by
  simp [Chip.trackGains, hparts]

@[simp] theorem Chip.outside_putCopy (hparts : .hbm ∈ parts) (c : Chip) (T n : Nat) (image header : List Byte) : (c.putCopy T n image
    header).outside parts = c.outside parts := by
  simp [Chip.putCopy, hparts]

@[simp] theorem Chip.outside_repairCopy (hparts : [.freeCtr, .regions, .saf, .log, .hbm] ⊆ parts) (c : Chip) (T n : Nat) (image header :
    List Byte) : (c.repairCopy T n image header).outside parts = c.outside parts := by
  simp at hparts
  simp [Chip.repairCopy, hparts]

@[simp] theorem Chip.outside_entryLost (hparts : [.freeCtr, .regions, .saf, .log] ⊆ parts) (c : Chip) (T : Nat) : (c.entryLost T).outside
    parts = c.outside parts := by
  simp at hparts
  simp [Chip.entryLost, hparts]

@[simp] theorem Chip.outside_readCopy (hparts : [.regions, .hbmStacks, .saf, .log] ⊆ parts) (c : Chip) (bad : List LedgerMiss) (T n : Nat)
    : (c.readCopy bad T n).1.outside parts = c.outside parts := by
  simp at hparts
  unfold Chip.readCopy
  repeat' split
  all_goals simp [hparts]

@[simp] theorem Chip.outside_readLedger (hparts : [.freeCtr, .regions, .hbmStacks, .saf, .log, .hbm] ⊆ parts) (c : Chip) (bad : List
    LedgerMiss) (T : Nat) : (c.readLedger bad T).1.outside parts = c.outside parts := by
  simp at hparts
  unfold Chip.readLedger
  dsimp only
  repeat' split
  all_goals simp [hparts]

@[simp] theorem Chip.outside_readTiers (h : [.freeCtr, .regions, .hbmStacks, .saf, .log, .hbm] ⊆ parts) (c : Chip) (bad : List LedgerMiss) (a : Nat) (l : List (Fin 64)) :
    (c.readTiers bad a l).1.outside parts = c.outside parts := by
  induction l generalizing c with
  | nil => rfl
  | cons t l ih =>
    have hread := Chip.outside_readLedger h c bad (tierKey a t.val)
    unfold Chip.readTiers
    dsimp only
    split
    · exact hread
    · exact (ih _).trans hread

@[simp] theorem Chip.outside_repairFrom (hparts : [.freeCtr, .regions, .saf, .log, .hbm] ⊆ parts) (c : Chip) (T n : Nat) : (c.repairFrom T
    n).outside parts = c.outside parts := by
  simp at hparts
  simp [Chip.repairFrom, hparts, apply_ite (Chip.outside parts)]

@[simp] theorem Chip.outside_rebuildCopies (hparts : [.freeCtr, .regions, .saf, .log, .hbm] ⊆ parts) (c : Chip) (s : Nat) (tiers : List Nat) :
    (c.rebuildCopies s tiers).outside parts = c.outside parts :=
  Chip.outside_overAll _ _ _ fun _ T => Chip.outside_overAll _ _ _ fun e n => Chip.outside_repairFrom hparts e T n

@[simp] theorem Chip.outside_fillShadow (hparts : [.freeCtr, .regions, .cores, .hbmStacks, .saf, .log, .hbm] ⊆ parts) (c : Chip) (bad :
    List LedgerMiss) (core base n : Nat) : (c.fillShadow bad core base n).outside parts = c.outside parts := by
  simp at hparts
  unfold Chip.fillShadow
  dsimp only
  repeat' split
  all_goals simp [hparts]

@[simp] theorem Chip.outside_fillShadows (hparts : [.freeCtr, .regions, .cores, .hbmStacks, .saf, .log, .hbm] ⊆ parts) (c : Chip) (bad :
    List LedgerMiss) (core : Nat) : (c.fillShadows bad core).outside parts = c.outside parts := by
  simp at hparts
  simp [Chip.fillShadows]
  split <;> simp [hparts]

@[simp] theorem Chip.outside_dropShadows (hparts : .cores ∈ parts) (c : Chip) (s : Nat) : (c.dropShadows s).outside parts = c.outside
    parts := by
  simp [Chip.dropShadows, hparts]

@[simp] theorem Chip.outside_exchange (hparts : faultParts ++ [.cores, .cstg] ⊆ parts) (c : Chip) (opByte : Nat) (st : Site) (g core dcore
    : Nat) (op : XchOp) (p : Path) : (c.exchange opByte st g core dcore op p).outside parts = c.outside parts := by
  simp at hparts
  simp [Chip.exchange, hparts]

end

end Sys2Proof.Machine

/-! Frames of the operations, continued: links, strokes and pressure. -/

namespace Sys2Proof.Machine

section
variable {parts : List Part}

@[simp] theorem Chip.outside_endLaneSurvey (hparts : [.lanes, .mon] ⊆ parts) (c : Chip) (p l : Nat) : (c.endLaneSurvey p l).outside parts
    = c.outside parts := by
  simp at hparts
  simp [Chip.endLaneSurvey, hparts, apply_ite (Chip.outside parts)]

@[simp] theorem Chip.outside_endLaneSurveys (hparts : [.lanes, .mon] ⊆ parts) (c : Chip) (p : Nat) : (c.endLaneSurveys p).outside parts =
    c.outside parts := by
  simp at hparts
  simp [Chip.endLaneSurveys, hparts]

@[simp] theorem Chip.outside_portOut (hparts : endParts ++ [.sch, .lanes, .fleetOut, .mon, .saf, .log] ⊆ parts) (c : Chip) (p : Nat) :
    (c.portOut p).outside parts = c.outside parts := by
  simp at hparts
  simp [Chip.portOut, hparts, apply_ite (Chip.outside parts)]

@[simp] theorem Chip.outside_quarantine (hparts : [.regions, .ports, .saf, .log] ⊆ parts) (c : Chip) (p reason : Nat) : (c.quarantine p
    reason).outside parts = c.outside parts := by
  simp at hparts
  simp [Chip.quarantine, hparts]

@[simp] theorem Chip.outside_awaitLaser (hparts : [.ports, .lanes, .mon] ⊆ parts) (c : Chip) (p : Nat) : (c.awaitLaser p).outside parts =
    c.outside parts := by
  simp at hparts
  simp [Chip.awaitLaser, hparts, apply_ite (Chip.outside parts)]

@[simp] theorem Chip.outside_linkFault (hparts : faultParts ++ [.ports] ⊆ parts) (c : Chip) (p l kind : Nat) : (c.linkFault p l
    kind).outside parts = c.outside parts := by
  simp at hparts
  unfold Chip.linkFault
  dsimp only
  repeat' split
  all_goals simp [hparts]

@[simp] theorem Chip.outside_sendLane (hparts : .fleetOut ∈ parts) (c : Chip) (p : Nat) (m : LaneMsg) : (c.sendLane p m).outside parts =
    c.outside parts := by
  simp [Chip.sendLane, hparts]

@[simp] theorem Chip.outside_askLane (hparts : [.ports, .fleetOut] ⊆ parts) (c : Chip) (p : Nat) (action : Fin 4) (l : Nat) : (c.askLane p
    action l).outside parts = c.outside parts := by
  simp at hparts
  simp [Chip.askLane, hparts]

@[simp] theorem Chip.outside_retireLane (hparts : endParts ++ [.sch, .lanes, .fleetOut, .mon, .saf, .log] ⊆ parts) (c : Chip) (p l reason
    : Nat) : (c.retireLane p l reason).outside parts = c.outside parts := by
  simp at hparts
  unfold Chip.retireLane
  dsimp only
  repeat' split
  all_goals simp [hparts]

@[simp] theorem Chip.outside_retireFar (hparts : endParts ++ [.sch, .lanes, .fleetOut, .mon, .saf, .log] ⊆ parts) (c : Chip) (p l : Nat) :
    (c.retireFar p l).outside parts = c.outside parts := by
  simp at hparts
  simp [Chip.retireFar, hparts]

@[simp] theorem Chip.outside_streamFaultLane (hparts : faultParts ++ [.ports, .lanes] ⊆ parts) (c : Chip) (p l expected found : Nat) :
    (c.streamFaultLane p l expected found).outside parts = c.outside parts := by
  simp at hparts
  simp [Chip.streamFaultLane, hparts]

@[simp] theorem Chip.outside_applyLinkRemedies (hparts : endParts ++ [.sch, .lanes, .fleetOut, .mon, .saf, .log] ⊆ parts) (c : Chip) (ports : List Nat) :
    (c.applyLinkRemedies ports).outside parts = c.outside parts := by
  simp at hparts
  refine (Chip.outside_overAll _ _ _ fun d r => ?_).trans (by simp [hparts])
  split
  · split <;> simp [hparts]
  · simp [hparts]
  · rfl

@[simp] theorem Chip.outside_lsend (hparts : faultParts ⊆ parts) (c : Chip) (st : Site) (j : Job) (g : Nat) (op : LinkOp) (p : Path) :
    (c.lsend st j g op p).outside parts = c.outside parts := by
  simp at hparts
  unfold Chip.lsend
  dsimp only
  repeat' split
  all_goals simp [hparts]

@[simp] theorem Chip.outside_lrecv (hparts : faultParts ++ [.freeCtr, .ports, .lanes, .rstg] ⊆ parts) (c : Chip) (st : Site) (j : Job) (g : Nat) (op : LinkOp) (p : Path) :
    (c.lrecv st j g op p).outside parts = c.outside parts := by
  simp at hparts
  unfold Chip.lrecv
  split
  · split
    · rfl
    · refine (Chip.outside_regionPath (by simp [hparts]) ..).trans ?_
      split <;> split <;> simp [hparts, Chip.draw]
  · rfl

@[simp] theorem Chip.outside_headerFault (hparts : faultParts ++ [.ports] ⊆ parts) (c : Chip) (p l : Nat) (h : FrameHdr) : (c.headerFault
    p l h).outside parts = c.outside parts := by
  simp at hparts
  simp [Chip.headerFault, hparts, apply_ite (Chip.outside parts)]

@[simp] theorem Chip.outside_codeFails (hparts : .lanes ∈ parts) (c : Chip) (p l : Nat) : (c.codeFails p l).outside parts = c.outside
    parts := by
  simp [Chip.codeFails, hparts]

@[simp] theorem Chip.outside_takeFrame (h : faultParts ++ [.ports, .lanes] ⊆ parts) (c : Chip) (p : Fin 16) (l : Fin 9) (x : FrameHdr) (code : CodeResult)
    (lost f : Chip → Chip) (hlost : ∀ d, (lost d).outside parts = d.outside parts) (hf : ∀ d, (f d).outside parts = d.outside parts) :
    (c.takeFrame p l x code lost f).outside parts = c.outside parts := by
  simp at h
  simp [Chip.takeFrame, h, hlost, hf, apply_ite (Chip.outside parts)]

@[simp] theorem Chip.outside_dataArrives (hparts : faultParts ++ [.ports] ⊆ parts) (c : Chip) (p l : Nat) (j : Job) (i : Image) (f :
    Frame) : (c.dataArrives p l j i f).outside parts = c.outside parts := by
  simp at hparts
  simp [Chip.dataArrives, hparts, apply_ite (Chip.outside parts)]

@[simp] theorem Chip.outside_sendMeasure (hparts : [.freeCtr, .fleetOut] ⊆ parts) (c : Chip) (p : Nat) : (c.sendMeasure p).outside parts =
    c.outside parts := by
  simp at hparts
  simp [Chip.sendMeasure, hparts]

@[simp] theorem Chip.outside_askAgain (hparts : [.ports, .fleetOut] ⊆ parts) (c : Chip) (p : Nat) (m : LaneMsg) : (c.askAgain p m).outside
    parts = c.outside parts := by
  simp at hparts
  simp [Chip.askAgain, hparts]

@[simp] theorem Chip.outside_askAgainDue (hparts : [.ports, .fleetOut] ⊆ parts) (c : Chip) (p : Nat) (action : Fin 4) : (c.askAgainDue p
    action).outside parts = c.outside parts := by
  simp at hparts
  simp [Chip.askAgainDue, hparts]

@[simp] theorem Chip.outside_laneRetireApply (hparts : endParts ++ [.sch, .lanes, .fleetOut, .mon, .saf, .log] ⊆ parts) (c : Chip) (p :
    Nat) : (c.laneRetireApply p).outside parts = c.outside parts := by
  simp at hparts
  simp [Chip.laneRetireApply, hparts]

@[simp] theorem Chip.outside_rotationOut (hparts : [.ports, .lanes, .fleetOut, .mon] ⊆ parts) (c : Chip) (p l : Nat) : (c.rotationOut p
    l).outside parts = c.outside parts := by
  simp at hparts
  simp [Chip.rotationOut, hparts, apply_ite (Chip.outside parts)]

@[simp] theorem Chip.outside_rotationReturn (hparts : [.ports, .fleetOut] ⊆ parts) (c : Chip) (p l : Nat) : (c.rotationReturn p l).outside
    parts = c.outside parts := by
  simp at hparts
  simp [Chip.rotationReturn, hparts]

@[simp] theorem Chip.outside_cmdRetireLane (hparts : [.ports, .lanes, .fleetOut] ⊆ parts) (c : Chip) (p : Nat) : (c.cmdRetireLane
    p).outside parts = c.outside parts := by
  simp at hparts
  simp [Chip.cmdRetireLane, hparts, apply_ite (Chip.outside parts)]

@[simp] theorem Chip.outside_cmdBringUp (hparts : [.ports, .lanes, .mon] ⊆ parts) (c : Chip) (p : Nat) : (c.cmdBringUp p).outside parts =
    c.outside parts := by
  simp at hparts
  simp [Chip.cmdBringUp, hparts, apply_ite (Chip.outside parts)]

@[simp] theorem Chip.outside_bringUpLane (hparts : .lanes ∈ parts) (p : Nat) (r : BringUp) (c : Chip) (l : Nat) : (c.bringUpLane p r
    l).outside parts = c.outside parts := by
  simp [Chip.bringUpLane, hparts]

@[simp] theorem Chip.outside_hopStep (hparts : endParts ++ [.sch, .lanes, .fleetOut, .mon, .saf, .log] ⊆ parts) (c : Chip) (p : Nat) (r :
    BringUp) : (c.hopStep p r).outside parts = c.outside parts := by
  simp at hparts
  simp [Chip.hopStep, hparts, apply_ite (Chip.outside parts)]

@[simp] theorem Chip.outside_bringUpDone (hparts : endParts ++ [.sch, .lanes, .fleetOut, .mon, .saf, .log] ⊆ parts) (c : Chip) (p : Nat)
    (r : BringUp) : (c.bringUpDone p r).outside parts = c.outside parts := by
  simp at hparts
  unfold Chip.bringUpDone
  dsimp only
  repeat' split
  all_goals simp [hparts]

@[simp] theorem Chip.outside_lightUp (hparts : .lasers ∈ parts) (c : Chip) (g : Nat) : (c.lightUp g).outside parts = c.outside parts := by
  simp [Chip.lightUp, hparts, apply_ite (Chip.outside parts)]

@[simp] theorem Chip.outside_wakeRegion (hparts : [.regions, .lasers] ⊆ parts) (c : Chip) (g : Nat) (at_ : Option Nat) : (c.wakeRegion g
    at_).outside parts = c.outside parts := by
  simp at hparts
  simp [Chip.wakeRegion, hparts]

@[simp] theorem Chip.outside_sleepRegion (hparts : .regions ∈ parts) (c : Chip) (g : Nat) : (c.sleepRegion g).outside parts = c.outside
    parts := by
  simp [Chip.sleepRegion, hparts]

@[simp] theorem Chip.outside_feedForward (hparts : .banks ∈ parts) (c : Chip) (g : Nat) :
    (c.feedForward g).outside parts = c.outside parts := by
  refine Chip.outside_overAll _ _ _ fun d o => ite_keep (Chip.outside parts) rfl ?_
  exact Chip.outside_overAll _ _ _ fun e b => Chip.outside_upBank _ hparts ..

@[simp] theorem Chip.outside_startPiece (hparts : [.jobs, .cores, .arrays, .tiles] ⊆ parts) (c : Chip) (j : Job) : (c.startPiece
    j).outside parts = c.outside parts := by
  simp at hparts
  simp [Chip.startPiece, hparts]

@[simp] theorem Chip.outside_reachPause (hparts : [.jobs, .regions, .arrays] ⊆ parts) (c : Chip) (j : Job) (b : Nat) : (c.reachPause j
    b).outside parts = c.outside parts := by
  simp at hparts
  simp [Chip.reachPause, hparts, apply_ite (Chip.outside parts)]

@[simp] theorem Chip.outside_jobStroke (hparts : endParts ⊆ parts) (c : Chip) (id : JobId) (halved : Bool) : (c.jobStroke id
    halved).outside parts = c.outside parts := by
  simp at hparts
  unfold Chip.jobStroke
  dsimp only
  repeat' split
  all_goals simp [hparts]

@[simp] theorem Chip.outside_trimPosted (hparts : .cores ∈ parts) (c : Chip) (g : Nat) : (c.trimPosted g).outside parts = c.outside parts
    := by
  simp [Chip.trimPosted, hparts]

@[simp] theorem Chip.outside_coxStrokes (hparts : faultParts ++ [.cores] ⊆ parts) (c : Chip) (g : Nat) : (c.coxStrokes g).outside parts =
    c.outside parts := by
  simp at hparts
  simp [Chip.coxStrokes, hparts]

@[simp] theorem Chip.outside_fillMiss (hparts : faultParts ++ [.plots] ⊆ parts) (g : Nat) (on : List Nat) (c : Chip) (m : Fin 136 × Nat) :
    (c.fillMiss g on m).outside parts = c.outside parts := by
  simp at hparts
  simp [Chip.fillMiss, hparts, apply_ite (Chip.outside parts)]

@[simp] theorem Chip.outside_strokeBoundary (hparts : endParts ++ [.sch, .seats, .peri, .plots, .groups, .banks, .hbmStacks, .fleetOut, .mon, .saf, .log, .hbm, .cstg] ⊆ parts) (c : Chip)
    (g : Nat) (misses : List (Fin 136 × Nat)) (bad : List LedgerMiss) : (c.strokeBoundary g misses bad).outside parts = c.outside parts := by
  simp at hparts
  unfold Chip.strokeBoundary
  dsimp only
  refine (Chip.outside_feedForward (by simp [hparts]) ..).trans ?_
  refine (ite_keep (Chip.outside parts) (Chip.outside_moveParked (by simp [hparts]) ..) (Chip.outside_applyRemedies (by simp [hparts]) ..)).trans ?_
  refine (Chip.outside_when _ _ _ fun d => Chip.outside_trimPosted (by simp [hparts]) ..).trans ?_
  refine (Chip.outside_when _ _ _ fun d => Chip.outside_overAll _ _ _ fun e id => Chip.outside_jobStroke (by simp [hparts]) ..).trans ?_
  refine (Chip.outside_when _ _ _ fun d => ?_).trans ?_
  · refine (Chip.outside_trackGains (by simp [hparts]) ..).trans ?_
    refine (Chip.outside_overAll _ _ _ fun e x => Chip.outside_fillShadows (by simp [hparts]) ..).trans ?_
    simp [hparts]
  refine (Chip.outside_callWhere (by simp [hparts]) ..).trans ?_
  refine Chip.outside_when _ _ _ fun d => ?_
  refine (Chip.outside_coxStrokes (by simp [hparts]) ..).trans ?_
  simp [hparts]

end

end Sys2Proof.Machine

/-! Frames of the operations, continued: light, the easy state, codes and commits. -/

namespace Sys2Proof.Machine

section
variable {parts : List Part}

@[simp] theorem Chip.outside_warmOther (hparts : [.lasers, .linkLasers] ⊆ parts) (c : Chip) (r : LaserRef) : (c.warmOther r).outside parts
    = c.outside parts := by
  simp at hparts
  unfold Chip.warmOther
  dsimp only
  repeat' split
  all_goals simp [hparts]

@[simp] theorem Chip.outside_orderEnds (hparts : .regions ∈ parts) (c : Chip) (r : LaserRef) (result : BitVec 8) : (c.orderEnds r
    result).outside parts = c.outside parts := by
  unfold Chip.orderEnds
  repeat' split
  all_goals simp [hparts]

@[simp] theorem Chip.outside_startHandover (hparts : [.regions, .lasers, .linkLasers] ⊆ parts) (c : Chip) (r : LaserRef) (why : BitVec 2)
    : (c.startHandover r why).outside parts = c.outside parts := by
  simp at hparts
  unfold Chip.startHandover
  dsimp only
  repeat' split
  all_goals simp [hparts]

@[simp] theorem Chip.outside_spareFails (hparts : [.regions, .lasers, .linkLasers, .saf, .log] ⊆ parts) (c : Chip) (r : LaserRef) (line :
    Nat) (reason : BitVec 4) : (c.spareFails r line reason).outside parts = c.outside parts := by
  simp at hparts
  unfold Chip.spareFails
  dsimp only
  repeat' split
  all_goals simp [hparts]

@[simp] theorem Chip.outside_orderDone (hparts : .regions ∈ parts) (c : Chip) (r : LaserRef) : (c.orderDone r).outside parts = c.outside
    parts := by
  unfold Chip.orderDone
  repeat' split
  all_goals simp [hparts]

@[simp] theorem Chip.outside_laserTakesOver (hparts : [.regions, .groups, .saf, .log] ⊆ parts) (c : Chip) (r : LaserRef) (failed : Bool) :
    (c.laserTakesOver r failed).outside parts = c.outside parts := by
  simp at hparts
  unfold Chip.laserTakesOver
  dsimp only
  repeat' split
  all_goals simp [hparts]

@[simp] theorem Chip.outside_afterFailure (hparts : endParts ++ [.sch, .lasers, .linkLasers, .groups, .lanes, .fleetOut, .mon, .saf, .log]
    ⊆ parts) (c : Chip) (group : BitVec 4) (other : Option LaserRef) (key : Option Nat) : (c.afterFailure group other key).outside parts =
    c.outside parts := by
  simp at hparts
  unfold Chip.afterFailure
  dsimp only
  repeat' split
  all_goals simp [hparts]

@[simp] theorem Chip.outside_laserFails (hparts : endParts ++ [.sch, .lasers, .linkLasers, .groups, .lanes, .fleetOut, .mon, .saf, .log] ⊆
    parts) (c : Chip) (r : LaserRef) (line : Nat) (reason : BitVec 4) : (c.laserFails r line reason).outside parts = c.outside parts := by
  simp at hparts
  unfold Chip.laserFails
  dsimp only
  repeat' split
  all_goals simp [hparts]

@[simp] theorem Chip.outside_lineMeasure (hparts : endParts ++ [.sch, .lasers, .linkLasers, .groups, .lanes, .fleetOut, .mon, .saf, .log]
    ⊆ parts) (c : Chip) (r : LaserRef) (powers : List Nat) (readbackBad : Bool) : (c.lineMeasure r powers readbackBad).outside parts =
    c.outside parts := by
  simp at hparts
  unfold Chip.lineMeasure
  dsimp only
  repeat' split
  all_goals simp [hparts]

@[simp] theorem Chip.outside_fadeCross (hparts : [.regions, .lasers, .linkLasers, .saf, .log] ⊆ parts) (c : Chip) (r : LaserRef) (p : Nat
    × Nat) : (c.fadeCross r p).outside parts = c.outside parts := by
  simp at hparts
  simp [Chip.fadeCross, hparts, apply_ite (Chip.outside parts)]

@[simp] theorem Chip.outside_orderHandover (hparts : [.regions, .lasers, .linkLasers] ⊆ parts) (c : Chip) (g action : Nat) :
    (c.orderHandover g action).outside parts = c.outside parts := by
  simp at hparts
  simp [Chip.orderHandover, hparts, apply_ite (Chip.outside parts)]

@[simp] theorem Chip.outside_handoverStart (hparts : endParts ++ [.sch, .plots, .lasers, .linkLasers, .lanes, .fleetOut, .mon, .saf, .log]
    ⊆ parts) (c : Chip) (r : LaserRef) : (c.handoverStart r).outside parts = c.outside parts := by
  simp at hparts
  unfold Chip.handoverStart
  dsimp only
  repeat' split
  all_goals simp [hparts]

@[simp] theorem Chip.outside_handoverComplete (hparts : [.regions, .lasers, .linkLasers, .groups, .saf, .log] ⊆ parts) (c : Chip) (r :
    LaserRef) : (c.handoverComplete r).outside parts = c.outside parts := by
  simp at hparts
  unfold Chip.handoverComplete
  dsimp only
  repeat' split
  all_goals simp [hparts]

@[simp] theorem Chip.outside_standbyReached (hparts : [.regions, .lasers, .linkLasers] ⊆ parts) (c : Chip) (r : LaserRef) :
    (c.standbyReached r).outside parts = c.outside parts := by
  simp at hparts
  unfold Chip.standbyReached
  dsimp only
  repeat' split
  all_goals simp [hparts]

@[simp] theorem Chip.outside_relight (hparts : [.jobs, .regions, .plots, .saf, .log] ⊆ parts) (c : Chip) (g k : Nat) :
    (c.relight g k).outside parts = c.outside parts := by
  simp at hparts
  refine (Chip.outside_endPlotHolds (by simp [hparts]) _).trans ?_
  refine (Chip.outside_overAll _ _ _ fun d q => ?_).trans (Chip.outside_overAll _ _ _ fun d q => Chip.outside_upPlot _ hparts.2.2.1 ..)
  split <;> simp [hparts]

@[simp] theorem Chip.outside_spareActive (hparts : [.jobs, .regions, .plots, .lasers, .linkLasers, .groups, .saf, .log] ⊆ parts) (c :
    Chip) (r : LaserRef) : (c.spareActive r).outside parts = c.outside parts := by
  simp at hparts
  unfold Chip.spareActive
  dsimp only
  repeat' split
  all_goals simp [hparts]

@[simp] theorem Chip.outside_startSweep (hparts : .banks ∈ parts) (c : Chip) (b : BankRef) : (c.startSweep b).outside parts = c.outside
    parts := by
  simp [Chip.startSweep, hparts]

@[simp] theorem Chip.outside_lineLost (hparts : endParts ++ [.sch, .plots, .banks, .fleetOut, .mon, .saf, .log] ⊆ parts) (c : Chip) (b :
    BankRef) (code : Nat) : (c.lineLost b code).outside parts = c.outside parts := by
  simp at hparts
  simp [Chip.lineLost, hparts, apply_ite (Chip.outside parts)]

@[simp] theorem Chip.outside_lockUpdate (hparts : endParts ++ [.sch, .plots, .banks, .fleetOut, .mon, .saf, .log] ⊆ parts) (c : Chip) (b :
    BankRef) (err : Int) : (c.lockUpdate b err).outside parts = c.outside parts := by
  simp at hparts
  simp [Chip.lockUpdate, hparts, apply_ite (Chip.outside parts)]

@[simp] theorem Chip.outside_heaterStrobe (hparts : [.regions, .plots, .banks] ⊆ parts) (c : Chip) (g : Nat) : (c.heaterStrobe g).outside
    parts = c.outside parts := by
  simp at hparts
  simp [Chip.heaterStrobe, hparts, apply_ite (Chip.outside parts)]

@[simp] theorem Chip.outside_heaterCheck (hparts : endParts ++ [.sch, .plots, .banks, .fleetOut, .mon, .saf, .log] ⊆ parts) (c : Chip) (b
    : BankRef) (measured : Nat) : (c.heaterCheck b measured).outside parts = c.outside parts := by
  simp at hparts
  simp [Chip.heaterCheck, hparts, apply_ite (Chip.outside parts)]

@[simp] theorem Chip.outside_pilotFrame (hparts : endParts ++ [.sch, .plots, .lasers, .linkLasers, .groups, .banks, .lanes, .fleetOut,
    .mon, .saf, .log] ⊆ parts) (c : Chip) (b : BankRef) (chips : BitVec 32) : (c.pilotFrame b chips).outside parts = c.outside parts := by
  simp at hparts
  unfold Chip.pilotFrame
  dsimp only
  repeat' split
  all_goals simp [hparts]

@[simp] theorem Chip.outside_resweepDone (hparts : endParts ++ [.sch, .plots, .banks, .fleetOut, .mon, .saf, .log] ⊆ parts) (c : Chip) (b
    : BankRef) (peaks : List SweepPeak) : (c.resweepDone b peaks).outside parts = c.outside parts := by
  simp at hparts
  unfold Chip.resweepDone
  dsimp only
  repeat' split
  all_goals simp [hparts]

@[simp] theorem Chip.outside_easySignals (hparts : [.sch, .jobs, .fleetOut] ⊆ parts) (c : Chip) (on : Bool) : (c.easySignals on).outside
    parts = c.outside parts := by
  simp at hparts
  simp [Chip.easySignals, hparts]

@[simp] theorem Chip.outside_watchSample (hparts : faultParts ++ [.clk] ⊆ parts) (c : Chip) (reading : BitVec 13) : (c.watchSample
    reading).outside parts = c.outside parts := by
  simp at hparts
  simp [Chip.watchSample, hparts, apply_ite (Chip.outside parts)]

@[simp] theorem Chip.outside_setHalved (hparts : [.regions, .banks] ⊆ parts) (c : Chip) (g : Nat) (b : Bool) : (c.setHalved g b).outside
    parts = c.outside parts := by
  simp at hparts
  simp [Chip.setHalved, hparts]

@[simp] theorem Chip.outside_thermalStop (hparts : endParts ++ [.lasers, .banks, .saf, .log] ⊆ parts) (c : Chip) : c.thermalStop.outside
    parts = c.outside parts := by
  simp at hparts
  simp [Chip.thermalStop, hparts, apply_ite (Chip.outside parts)]

@[simp] theorem Chip.outside_pieceCommit (hparts : endParts ⊆ parts) (c : Chip) (id : JobId) : (c.pieceCommit id).outside parts =
    c.outside parts := by
  simp at hparts
  unfold Chip.pieceCommit
  dsimp only
  repeat' split
  all_goals simp [hparts]

@[simp] theorem Chip.outside_swapMaps (hparts : .arrays ∈ parts) (c : Chip) (array : Nat) (a b : Fin 64) : (c.swapMaps array a b).outside
    parts = c.outside parts := by
  simp [Chip.swapMaps, hparts]

@[simp] theorem Chip.outside_undoSwap (hparts : [.arrays, .tiers] ⊆ parts) (rest : List SwapDone) (c : Chip) (w : SwapDone) : (c.undoSwap
    rest w).outside parts = c.outside parts := by
  simp at hparts
  simp [Chip.undoSwap, hparts]

end

end Sys2Proof.Machine

/-! Frames of the operations, continued: tiers, memory, transport, jobs and admission. -/

namespace Sys2Proof.Machine

section
variable {parts : List Part}

@[simp] theorem Chip.outside_scheduleEvent (hparts : [.regions, .saf, .log] ⊆ parts) (c : Chip) (j : Job) (cls code detail : Nat) :
    (c.scheduleEvent j cls code detail).outside parts = c.outside parts := by
  simp at hparts
  simp [Chip.scheduleEvent, hparts]

@[simp] theorem Chip.outside_discard (hparts : [.jobs, .regions, .cores, .arrays, .tiers, .tiles, .lasers, .ports] ⊆ parts) (c : Chip) (j
    : Job) : (c.discard j).outside parts = c.outside parts := by
  simp at hparts
  simp [Chip.discard, hparts, apply_ite (Chip.outside parts)]

@[simp] theorem Chip.outside_deferPause (hparts : .jobs ∈ parts) (c : Chip) (j : Job) : (c.deferPause j).outside parts = c.outside parts
    := by
  unfold Chip.deferPause
  dsimp only
  repeat' split
  all_goals simp [hparts]

@[simp] theorem Chip.outside_jobRemedies (hparts : endParts ++ [.sch, .seats, .peri, .plots, .lanes, .fleetOut, .mon, .saf, .log, .cstg] ⊆
    parts) (c : Chip) (j : Job) : (c.jobRemedies j).outside parts = c.outside parts := by
  simp at hparts
  simp [Chip.jobRemedies, hparts]

@[simp] theorem Chip.outside_rerowLimit (hparts : endParts ++ [.sch, .seats, .peri, .plots, .lanes, .fleetOut, .mon, .saf, .log, .cstg] ⊆
    parts) (c : Chip) (j : Job) : (c.rerowLimit j).outside parts = c.outside parts := by
  simp at hparts
  simp [Chip.rerowLimit, hparts]

@[simp] theorem Chip.outside_rerowJob (hparts : endParts ++ [.sch, .seats, .peri, .plots, .lasers, .lanes, .fleetOut, .mon, .saf, .log,
    .cstg] ⊆ parts) (c : Chip) (j : Job) : (c.rerowJob j).outside parts = c.outside parts := by
  simp at hparts
  unfold Chip.rerowJob
  dsimp only
  repeat' split
  all_goals simp [hparts]

@[simp] theorem Chip.outside_progAnswer (hparts : .arrays ∈ parts) (c : Chip) (a : Nat) (tier : Fin 64) (code : Nat) : (c.progAnswer a
    tier code).outside parts = c.outside parts := by
  simp [Chip.progAnswer, hparts]

@[simp] theorem Chip.outside_progRefused (hparts : [.freeCtr, .arrays] ⊆ parts) (c : Chip) (a : Nat) (tier : Fin 64) (code : Option Nat) :
    (c.progRefused a tier code).outside parts = c.outside parts := by
  simp at hparts
  unfold Chip.progRefused
  repeat' split
  all_goals simp [hparts]

@[simp] theorem Chip.outside_clearTier (hparts : [.arrays, .dev] ⊆ parts) (c : Chip) (a : Nat) (tier : Fin 64) : (c.clearTier a
    tier).outside parts = c.outside parts := by
  simp at hparts
  simp [Chip.clearTier, hparts]

@[simp] theorem Chip.outside_cmdProgram (hparts : [.freeCtr, .arrays, .tiers, .dev, .hbm, .tierImages, .ledger] ⊆ parts) (c : Chip) (a :
    Nat) (tier : Fin 64) (int4 sourceBad : Bool) : (c.cmdProgram a tier int4 sourceBad).outside parts = c.outside parts := by
  simp at hparts
  unfold Chip.cmdProgram
  dsimp only
  repeat' split
  all_goals simp [hparts]

@[simp] theorem Chip.outside_cmdErase (hparts : [.freeCtr, .arrays, .tiers] ⊆ parts) (c : Chip) (a : Nat) (tier : Fin 64) : (c.cmdErase a
    tier).outside parts = c.outside parts := by
  simp at hparts
  unfold Chip.cmdErase
  dsimp only
  repeat' split
  all_goals simp [hparts]

theorem Chip.outside_verifyCell (hparts : endParts ++ [.sch, .fleetOut, .saf, .log] ⊆ parts) (a : Nat) (tier : Fin 64) (int4 : Bool) (v : Verify)
    (f : FailedCell) : (Verify.cell a tier int4 v f).chip.outside parts = v.chip.outside parts := by
  simp at hparts
  unfold Verify.cell
  dsimp only
  repeat' split
  all_goals simp [hparts]

theorem Chip.outside_verifyCells (hparts : endParts ++ [.sch, .fleetOut, .saf, .log] ⊆ parts) (a : Nat) (tier : Fin 64) (int4 : Bool)
    (l : List FailedCell) (v : Verify) : (l.foldl (Verify.cell a tier int4) v).chip.outside parts = v.chip.outside parts := by
  induction l generalizing v with
  | nil => rfl
  | cons f l ih => exact (ih _).trans (Chip.outside_verifyCell hparts ..)

@[simp] theorem Chip.outside_programDone (hparts : endParts ++ [.sch, .dev, .fleetOut, .saf, .log, .hbm, .ledger] ⊆ parts)
    (c : Chip) (a : Nat) (failed : List FailedCell) : (c.programDone a failed).outside parts = c.outside parts := by
  simp at hparts
  unfold Chip.programDone
  split
  · rfl
  · split
    · rfl
    · refine (Chip.outside_beginCopies (by simp [hparts]) ..).trans ?_
      refine (Chip.outside_when _ _ _ fun d => Chip.outside_startMove (by simp [hparts]) ..).trans ?_
      refine (Chip.outside_eventOpen (by simp [hparts]) ..).trans ?_
      refine (Chip.outside_progAnswer (by simp [hparts]) ..).trans ?_
      refine (Chip.outside_upArr _ (by simp [hparts]) ..).trans ?_
      refine (Chip.outside_upTier _ (by simp [hparts]) ..).trans ?_
      refine (Chip.outside_verifyCells (by simp [hparts]) ..).trans ?_
      simp [hparts]

@[simp] theorem Chip.outside_eraseDone (hparts : [.arrays, .tiers, .dev] ⊆ parts) (c : Chip) (a : Nat) : (c.eraseDone a).outside parts =
    c.outside parts := by
  simp at hparts
  unfold Chip.eraseDone
  dsimp only
  repeat' split
  all_goals simp [hparts]

@[simp] theorem Chip.outside_swapAnswer (hparts : .arrays ∈ parts) (c : Chip) (a code : Nat) : (c.swapAnswer a code).outside parts =
    c.outside parts := by
  simp [Chip.swapAnswer, hparts]

@[simp] theorem Chip.outside_writeSwapTiers (hparts : .arrays ∈ parts) (c : Chip) (a : Nat) (tierA tierB : Fin 64) : (c.writeSwapTiers a
    tierA tierB).outside parts = c.outside parts := by
  simp [Chip.writeSwapTiers, hparts]

@[simp] theorem Chip.outside_cmdStage (hparts : .arrays ∈ parts) (c : Chip) (a : Nat) (tierA tierB : Fin 64) : (c.cmdStage a tierA
    tierB).outside parts = c.outside parts := by
  simp [Chip.cmdStage, hparts, apply_ite (Chip.outside parts)]

@[simp] theorem Chip.outside_cmdCancel (hparts : .arrays ∈ parts) (c : Chip) (a : Nat) : (c.cmdCancel a).outside parts = c.outside parts
    := by
  simp [Chip.cmdCancel, hparts, apply_ite (Chip.outside parts)]

@[simp] theorem Chip.outside_applySwap (hparts : [.arrays, .tiers] ⊆ parts) (c : Chip) (w : SwapDone) : (c.applySwap w).1.outside parts =
    c.outside parts := by
  simp at hparts
  simp [Chip.applySwap, hparts, apply_ite (Chip.outside parts)]

@[simp] theorem Chip.outside_applySwaps (h : [.arrays, .tiers] ⊆ parts) (c : Chip) (l : List SwapDone) :
    (c.applySwaps l).1.outside parts = c.outside parts := by
  induction l generalizing c with
  | nil => rfl
  | cons w l ih => exact (ih _).trans (Chip.outside_applySwap h ..)

@[simp] theorem Chip.outside_applyStaged (hparts : [.arrays, .tiers] ⊆ parts) (c : Chip) (g boundary : Nat) : (c.applyStaged g
    boundary).1.outside parts = c.outside parts := by
  simp at hparts
  simp [Chip.applyStaged, hparts]

@[simp] theorem Chip.outside_cmdArm (hparts : [.regions, .arrays, .tiers] ⊆ parts) (c : Chip) (g : Nat) : (c.cmdArm g).outside parts =
    c.outside parts := by
  simp at hparts
  unfold Chip.cmdArm
  dsimp only
  repeat' split
  all_goals simp [hparts]

@[simp] theorem Chip.outside_cmdWithdraw (hparts : .regions ∈ parts) (c : Chip) (g : Nat) : (c.cmdWithdraw g).outside parts = c.outside
    parts := by
  simp [Chip.cmdWithdraw, hparts]

@[simp] theorem Chip.outside_swapApply (hparts : [.jobs, .regions, .arrays, .tiers] ⊆ parts) (c : Chip) (g : Nat) : (c.swapApply
    g).outside parts = c.outside parts := by
  simp at hparts
  unfold Chip.swapApply
  dsimp only
  repeat' split
  all_goals simp [hparts]

@[simp] theorem Chip.outside_clearSpare (hparts : .dev ∈ parts) (c : Chip) (a i : Nat) : (c.clearSpare a i).outside parts = c.outside
    parts := by
  simp [Chip.clearSpare, hparts]

@[simp] theorem Chip.outside_failWaiting (hparts : [.freeCtr, .regions, .arrays, .tiers, .saf, .log] ⊆ parts) (c : Chip) (a : Nat) :
    (c.failWaiting a).outside parts = c.outside parts := by
  simp at hparts
  simp [Chip.failWaiting, hparts]

@[simp] theorem Chip.outside_plotCopyDone (hparts : [.freeCtr, .regions, .arrays, .tiers, .dev, .hbmStacks, .saf, .log, .hbm] ⊆ parts) (c
    : Chip) (bad : List LedgerMiss) (a i : Nat) : (c.plotCopyDone bad a i).outside parts = c.outside parts := by
  simp at hparts
  simp [Chip.plotCopyDone, hparts, apply_ite (Chip.outside parts)]

@[simp] theorem Chip.outside_plotSwitch (hparts : [.regions, .cores, .arrays, .saf, .log] ⊆ parts) (c : Chip) (a i : Nat) : (c.plotSwitch
    a i).outside parts = c.outside parts := by
  simp at hparts
  simp [Chip.plotSwitch, hparts, apply_ite (Chip.outside parts)]

@[simp] theorem Chip.outside_cellCopyDone (hparts : [.freeCtr, .regions, .arrays, .tiers, .dev, .hbmStacks, .saf, .log, .hbm, .tierImages]
    ⊆ parts) (c : Chip) (bad : List LedgerMiss) (a : Nat) : (c.cellCopyDone bad a).outside parts = c.outside parts := by
  simp at hparts
  unfold Chip.cellCopyDone
  dsimp only
  repeat' split
  all_goals simp [hparts]

@[simp] theorem Chip.outside_cellSwitch (hparts : [.regions, .cores, .arrays, .tiers, .peri, .cells, .mon, .saf, .log] ⊆ parts) (c : Chip)
    (a q : Nat) : (c.cellSwitch a q).outside parts = c.outside parts := by
  simp at hparts
  unfold Chip.cellSwitch
  dsimp only
  repeat' split
  all_goals simp [hparts]

@[simp] theorem Chip.outside_cellBlockSwitch (hparts : [.regions, .cores, .arrays, .tiers, .peri, .cells, .mon, .saf, .log] ⊆ parts) (c :
    Chip) (a : Nat) : (c.cellBlockSwitch a).outside parts = c.outside parts := by
  simp at hparts
  unfold Chip.cellBlockSwitch
  repeat' split
  all_goals simp [hparts]

@[simp] theorem Chip.outside_spareCoreSwitch (hparts : [.regions, .cores, .arrays, .tiers, .peri, .cells, .mon, .saf, .log] ⊆ parts) (c :
    Chip) (a : Nat) : (c.spareCoreSwitch a).outside parts = c.outside parts := by
  simp at hparts
  unfold Chip.spareCoreSwitch
  repeat' split
  all_goals simp [hparts]

@[simp] theorem Chip.outside_plotTimeout (hparts : endParts ++ [.sch, .plots, .fleetOut, .saf, .log] ⊆ parts) (c : Chip) (k : Nat) :
    (c.plotTimeout k).outside parts = c.outside parts := by
  simp at hparts
  unfold Chip.plotTimeout
  dsimp only
  repeat' split
  all_goals simp [hparts]

@[simp] theorem Chip.outside_plotReturn (hparts : [.jobs, .regions, .plots] ⊆ parts) (c : Chip) (k : Nat) : (c.plotReturn k).outside parts
    = c.outside parts := by
  simp at hparts
  simp [Chip.plotReturn, hparts, apply_ite (Chip.outside parts)]

@[simp] theorem Chip.outside_scrub (hparts : [.regions, .hbmStacks, .saf, .log] ⊆ parts) (c : Chip) (s line : Nat) (outcome : CodeResult)
    (ondie : Nat) (parity : Bool) (progress : BitVec 8) : (c.scrub s line outcome ondie parity progress).outside parts = c.outside parts :=
    by
  simp at hparts
  unfold Chip.scrub
  dsimp only
  repeat' split
  all_goals simp [hparts]

@[simp] theorem Chip.outside_dropChannels (hparts : endParts ++ [.hbmStacks, .saf, .log, .hbm] ⊆ parts) (c : Chip) (s : Nat) :
    (c.dropChannels s).outside parts = c.outside parts := by
  simp at hparts
  simp [Chip.dropChannels, hparts, apply_ite (Chip.outside parts)]

@[simp] theorem Chip.outside_degrade (hparts : endParts ++ [.hbmStacks, .saf, .log, .hbm] ⊆ parts) (c : Chip) (s : Nat) : (c.degrade
    s).outside parts = c.outside parts := by
  simp at hparts
  simp [Chip.degrade, hparts, apply_ite (Chip.outside parts)]

@[simp] theorem Chip.outside_streamAcked (hparts : .jobs ∈ parts) (c : Chip) (p : Packet) : (c.streamAcked p).outside parts = c.outside
    parts := by
  unfold Chip.streamAcked
  repeat' split
  all_goals simp [hparts]

@[simp] theorem Chip.outside_flushAll (hparts : .host ∈ parts) (c : Chip) : c.flushAll.outside parts = c.outside parts := by
  simp [Chip.flushAll, hparts]

@[simp] theorem Chip.outside_ackQueue (hparts : [.host, .jobs] ⊆ parts) (c : Chip) (q : Nat) (a : BitVec 32) : (c.ackQueue q a).outside
    parts = c.outside parts := by
  simp at hparts
  simp [Chip.ackQueue, hparts, apply_ite (Chip.outside parts)]

@[simp] theorem Chip.outside_resend (hparts : .host ∈ parts) (q : Nat) (c : Chip) (p : Packet) : (c.resend q p).outside parts = c.outside
    parts := by
  simp [Chip.resend, hparts]

@[simp] theorem Chip.outside_answer (hparts : .host ∈ parts) (c : Chip) (h : Hdr) (b : ResultBody) : (c.answer h b).outside parts =
    c.outside parts := by
  simp [Chip.answer, hparts]

@[simp] theorem Chip.outside_receipt (hparts : .host ∈ parts) (c : Chip) (h : Hdr) (status : Nat) : (c.receipt h status).outside parts =
    c.outside parts := by
  simp [Chip.receipt, hparts]

@[simp] theorem Chip.outside_outOfSequence (hparts : .host ∈ parts) (c : Chip) (h : Hdr) : (c.outOfSequence h).outside parts = c.outside
    parts := by
  unfold Chip.outOfSequence
  dsimp only
  repeat' split
  all_goals simp [hparts]

@[simp] theorem Chip.outside_treat (h : [.host, .jobs] ⊆ parts) (c : Chip) (x : Hdr) (lengths open_ : Bool) (f : Chip → Chip)
    (hf : ∀ d, (f d).outside parts = d.outside parts) : (c.treat x lengths open_ f).outside parts = c.outside parts := by
  simp at h
  simp [Chip.treat, h, hf, apply_ite (Chip.outside parts)]

@[simp] theorem Chip.outside_foreign (hparts : .host ∈ parts) (c : Chip) (p : Fin 2) : (c.foreign p).outside parts = c.outside parts := by
  simp [Chip.foreign, hparts]

@[simp] theorem Chip.outside_reply (hparts : .host ∈ parts) (c : Chip) (r : Reply) : (c.reply r).outside parts = c.outside parts := by
  simp [Chip.reply, hparts]

@[simp] theorem Chip.outside_releaseWaiting (hparts : .host ∈ parts) (c : Chip) (port : Fin 2) : (c.releaseWaiting port).outside parts =
    c.outside parts := by
  simp [Chip.releaseWaiting, hparts]

@[simp] theorem Chip.outside_queueReset (hparts : .host ∈ parts) (c : Chip) : c.queueReset.outside parts = c.outside parts := by
  simp [Chip.queueReset, hparts, apply_ite (Chip.outside parts)]

@[simp] theorem Chip.outside_enqueue (hparts : [.jobs, .nextOrder] ⊆ parts) (c : Chip) (j : Job) : (c.enqueue j).outside parts = c.outside
    parts := by
  simp at hparts
  simp [Chip.enqueue, hparts]

@[simp] theorem Chip.outside_submit (hparts : [.host, .jobs, .nextOrder] ⊆ parts) (c : Chip) (h : Hdr) (b : JobBody) : (c.submit h
    b).outside parts = c.outside parts := by
  simp at hparts
  unfold Chip.submit
  dsimp only
  repeat' split
  all_goals simp [hparts]

@[simp] theorem Chip.outside_writeData (hparts : .hbm ∈ parts) (c : Chip) (off : Nat) (bytes : List Byte) : (c.writeData off
    bytes).outside parts = c.outside parts := by
  simp [Chip.writeData, hparts]

@[simp] theorem Chip.outside_resume (hparts : [.host, .jobs, .nextOrder] ⊆ parts) (c : Chip) (h : Hdr) (b : JobBody) : (c.resume h
    b).outside parts = c.outside parts := by
  simp at hparts
  unfold Chip.resume
  dsimp only
  repeat' split
  all_goals simp [hparts]

@[simp] theorem Chip.outside_askPause (hparts : .jobs ∈ parts) (c : Chip) (j : Job) (boundary : Nat) (reason : BitVec 8) (area : BitVec
    64) : (c.askPause j boundary reason area).outside parts = c.outside parts := by
  simp [Chip.askPause, hparts, apply_ite (Chip.outside parts)]

@[simp] theorem Chip.outside_askFleetPause (hparts : [.sch, .jobs, .fleetOut] ⊆ parts) (c : Chip) (j : Job) (reason : BitVec 8) (area :
    BitVec 64) : (c.askFleetPause j reason area).outside parts = c.outside parts := by
  simp at hparts
  simp [Chip.askFleetPause, hparts, apply_ite (Chip.outside parts)]

@[simp] theorem Chip.outside_pausePacket (hparts : [.host, .sch, .jobs, .fleetOut] ⊆ parts) (c : Chip) (h : Hdr) (b : JobBody) :
    (c.pausePacket h b).outside parts = c.outside parts := by
  simp at hparts
  unfold Chip.pausePacket
  dsimp only
  repeat' split
  all_goals simp [hparts]

@[simp] theorem Chip.outside_abortPacket (hparts : endParts ++ [.sch, .fleetOut] ⊆ parts) (c : Chip) (h : Hdr) (b : JobBody) :
    (c.abortPacket h b).outside parts = c.outside parts := by
  simp at hparts
  unfold Chip.abortPacket
  dsimp only
  repeat' split
  all_goals simp [hparts]

@[simp] theorem Chip.outside_pressurePacket (hparts : [.host, .jobs] ⊆ parts) (c : Chip) (h : Hdr) (b : JobBody) : (c.pressurePacket h
    b).outside parts = c.outside parts := by
  simp at hparts
  unfold Chip.pressurePacket
  dsimp only
  repeat' split
  all_goals simp [hparts]

@[simp] theorem Chip.outside_setMode (hparts : [.regions, .plots] ⊆ parts) (c : Chip) (g : Nat) (m : Mode) : (c.setMode g m).outside parts
    = c.outside parts := by
  simp at hparts
  simp [Chip.setMode, hparts, apply_ite (Chip.outside parts)]

@[simp] theorem Chip.outside_putTiles (hparts : .accs ∈ parts) (c : Chip) (g lc : Nat) (b : List Byte) : (c.putTiles g lc b).outside parts
    = c.outside parts := by
  simp [Chip.putTiles, hparts]

@[simp] theorem Chip.outside_putCore (hparts : [.accs, .cstg] ⊆ parts) (c : Chip) (g lc staging : Nat) (b : List Byte) : (c.putCore g lc
    staging b).outside parts = c.outside parts := by
  simp at hparts
  simp [Chip.putCore, hparts]

/-- A list of steps on a block with more keeps what every step keeps of the block. -/
theorem foldl_fst_keep {α β γ : Type} (F : Chip → γ) (f : Chip × β → α → Chip × β) (l : List α) (a : Chip × β)
    (h : ∀ a x, F (f a x).1 = F a.1) : F (l.foldl f a).1 = F a.1 := by
  induction l generalizing a with
  | nil => rfl
  | cons x l ih => exact (ih _).trans (h a x)

@[simp] theorem Chip.outside_restore (hparts : [.accs, .rstg, .cstg] ⊆ parts) (c : Chip) (j : Job) (i : Image) (r : List Byte) :
    (c.restore j i r).outside parts = c.outside parts := by
  simp at hparts
  unfold Chip.restore
  dsimp only
  refine (foldl_fst_keep (Chip.outside parts) _ _ _ fun a e => foldl_fst_keep (Chip.outside parts) _ _ _ fun b lc => ?_).trans
    (foldl_fst_keep (Chip.outside parts) _ _ _ fun a e => ?_)
  · split
    · rfl
    · split <;> simp [hparts]
  · split <;> simp [hparts]

@[simp] theorem Chip.outside_place (hparts : [.freeCtr, .jobs, .regions, .accs, .plots, .lasers, .ports, .saf, .log, .rstg, .cstg] ⊆ parts) (c : Chip) (j : Job) (i : Image) (m : List (Nat × Nat)) (mode : Mode)
    (r : Option (List Byte)) : (c.place j i m mode r).outside parts = c.outside parts := by
  simp at hparts
  unfold Chip.place
  dsimp only
  split
  · refine (Chip.outside_upJob (by simp [hparts]) ..).trans ?_
    split
    · refine (Chip.outside_restore (by simp [hparts]) ..).trans ?_
      simp [hparts, apply_ite (Chip.outside parts)]
    · simp [hparts, apply_ite (Chip.outside parts)]
  · simp [hparts, apply_ite (Chip.outside parts)]

@[simp] theorem Chip.outside_consider (hparts : endParts ++ [.accs, .plots, .lasers, .saf, .log, .rstg, .cstg] ⊆ parts) (c : Chip) (j :
    Job) : (c.consider j).outside parts = c.outside parts := by
  simp at hparts
  unfold Chip.consider
  dsimp only
  repeat' split
  all_goals simp [hparts]

@[simp] theorem Chip.outside_startJob (hparts : [.freeCtr, .host, .jobs, .regions, .cores, .arrays, .tiles, .plots, .banks, .saf, .log] ⊆ parts)
    (c : Chip) (j : Job) (i : Image) : (c.startJob j i).outside parts = c.outside parts := by
  simp at hparts
  unfold Chip.startJob
  dsimp only
  split
  · refine (Chip.outside_jobState (by simp [hparts]) ..).trans ?_
    refine (Chip.outside_overAll _ _ _ fun d g => Chip.outside_feedForward (by simp [hparts]) ..).trans ?_
    refine (Chip.outside_startPiece (by simp [hparts]) ..).trans ?_
    simp [hparts, apply_ite (Chip.outside parts)]
  · simp [hparts, apply_ite (Chip.outside parts)]

@[simp] theorem Chip.outside_saveJob (hparts : [.freeCtr, .host, .jobs, .regions, .cores, .arrays, .tiles, .ports, .saf, .log, .hbm] ⊆
    parts) (c : Chip) (j : Job) (i : Image) (p : PauseReq) : (c.saveJob j i p).outside parts = c.outside parts := by
  simp at hparts
  simp [Chip.saveJob, hparts]

@[simp] theorem Chip.outside_deadline (hparts : [.freeCtr, .host, .sch, .jobs, .fleetOut] ⊆ parts) (c : Chip) (j : Job) (i : Image) :
    (c.deadline j i).outside parts = c.outside parts := by
  simp at hparts
  unfold Chip.deadline
  dsimp only
  repeat' split
  all_goals simp [hparts]

@[simp] theorem Chip.outside_changeMode (hparts : [.jobs, .regions, .plots, .lasers, .banks] ⊆ parts) (c : Chip) (j : Job) (m : Mode) :
    (c.changeMode j m).outside parts = c.outside parts := by
  simp at hparts
  refine (Chip.outside_overAll _ _ _ fun d id => by simp [hparts]).trans (Chip.outside_overAll _ _ _ fun d g => ?_)
  refine (Chip.outside_feedForward (by simp [hparts]) ..).trans ?_
  refine (ite_keep (Chip.outside parts) (Chip.outside_overAll _ _ _ fun e n => ?_) rfl).trans (Chip.outside_setMode (by simp [hparts]) ..)
  exact ite_keep (Chip.outside parts) (by simp [hparts]) rfl

@[simp] theorem Chip.outside_pressureApply (hparts : [.freeCtr, .host, .jobs, .regions, .plots, .lasers, .banks, .saf, .log] ⊆ parts) (c :
    Chip) (j : Job) (i : Image) : (c.pressureApply j i).outside parts = c.outside parts := by
  simp at hparts
  unfold Chip.pressureApply
  dsimp only
  repeat' split
  all_goals simp [hparts]

@[simp] theorem Chip.outside_zeroCores (hparts : .cstg ∈ parts) (c : Chip) (g : Nat) (express other : Bool) : (c.zeroCores g express
    other).outside parts = c.outside parts := by
  simp [Chip.zeroCores, hparts]

@[simp] theorem Chip.outside_zeroDone (hparts : [.regions, .plots, .banks, .rstg, .cstg] ⊆ parts) (c : Chip) (g : Nat) : (c.zeroDone
    g).outside parts = c.outside parts := by
  simp at hparts
  simp [Chip.zeroDone, hparts, apply_ite (Chip.outside parts)]

end

end Sys2Proof.Machine

/-! Frames of the operations, continued: occupancy, loads, bulk data, the fleet and the level. -/

namespace Sys2Proof.Machine

section
variable {parts : List Part}

@[simp] theorem Chip.outside_dropLoad (hparts : .sch ∈ parts) (c : Chip) (l : Load) : (c.dropLoad l).outside parts = c.outside parts := by
  simp [Chip.dropLoad, hparts]

@[simp] theorem Chip.outside_putSegment (hparts : [.host, .sch, .hbm] ⊆ parts) (c : Chip) (h : Hdr) (l : Load) (data : List Byte) :
    (c.putSegment h l data).outside parts = c.outside parts := by
  simp at hparts
  simp [Chip.putSegment, hparts, apply_ite (Chip.outside parts)]

@[simp] theorem Chip.outside_segment (hparts : [.host, .sch, .jobs, .hbm] ⊆ parts) (c : Chip) (h : Hdr) (segLen base off : Nat) (data :
    List Byte) : (c.segment h segLen base off data).outside parts = c.outside parts := by
  simp at hparts
  unfold Chip.segment
  dsimp only
  repeat' split
  all_goals simp [hparts]

@[simp] theorem Chip.outside_unload (hparts : [.host, .sch] ⊆ parts) (c : Chip) (h : Hdr) (id : BitVec 256) : (c.unload h id).outside
    parts = c.outside parts := by
  simp at hparts
  unfold Chip.unload
  dsimp only
  repeat' split
  all_goals simp [hparts]

@[simp] theorem Chip.outside_loadDone (hparts : [.host, .sch] ⊆ parts) (c : Chip) (l : Load) (f : LoadFail) (id : Nat) : (c.loadDone l f
    id).outside parts = c.outside parts := by
  simp at hparts
  simp [Chip.loadDone, hparts]

@[simp] theorem Chip.outside_checkComplete (hparts : [.freeCtr, .host, .sch, .regions, .hbmStacks, .saf, .log] ⊆ parts) (c : Chip) (q :
    BitVec 15) (readBad : Bool) : (c.checkComplete q readBad).outside parts = c.outside parts := by
  simp at hparts
  unfold Chip.checkComplete
  dsimp only
  repeat' split
  all_goals simp [hparts]

@[simp] theorem Chip.outside_imageReplace (hparts : [.sch, .jobs] ⊆ parts) (c : Chip) (id : BitVec 256) : (c.imageReplace id).outside
    parts = c.outside parts := by
  simp at hparts
  unfold Chip.imageReplace
  dsimp only
  repeat' split
  all_goals simp [hparts]

@[simp] theorem Chip.outside_writeInput (hparts : [.host, .jobs, .regions, .hbmStacks, .saf, .log, .hbm] ⊆ parts) (c : Chip) (h : Hdr)
    (len off : Nat) (data : List Byte) (code : HbmCode) : (c.writeInput h len off data code).outside parts = c.outside parts := by
  simp at hparts
  unfold Chip.writeInput
  dsimp only
  repeat' split
  all_goals simp [hparts]

@[simp] theorem Chip.outside_setFleetStroke (hparts : [.clk, .ports] ⊆ parts) (c : Chip) (n : BitVec 48) : (c.setFleetStroke n).outside
    parts = c.outside parts := by
  simp at hparts
  simp [Chip.setFleetStroke, hparts]

@[simp] theorem Chip.outside_fillPorts (hparts : .fleetOut ∈ parts) (c : Chip) : c.fillPorts.outside parts = c.outside parts := by
  simp [Chip.fillPorts, hparts]

@[simp] theorem Chip.outside_fleetStroke (hparts : [.clk, .jobs, .fleetOut] ⊆ parts) (c : Chip) : c.fleetStroke.outside parts = c.outside
    parts := by
  simp at hparts
  simp [Chip.fleetStroke, hparts, apply_ite (Chip.outside parts)]

@[simp] theorem Chip.outside_fsyncEdge (hparts : [.clk, .ports] ⊆ parts) (c : Chip) (position : Int) : (c.fsyncEdge position).outside
    parts = c.outside parts := by
  simp at hparts
  simp [Chip.fsyncEdge, hparts, apply_ite (Chip.outside parts)]

@[simp] theorem Chip.outside_weighIn (hparts : faultParts ++ [.clk, .ports, .lanes] ⊆ parts) (c : Chip) (p : Nat) (n : BitVec 48) (w :
    WeighMsg) : (c.weighIn p n w).outside parts = c.outside parts := by
  simp at hparts
  simp [Chip.weighIn, hparts, apply_ite (Chip.outside parts)]

@[simp] theorem Chip.outside_linkExclude (hparts : endParts ++ [.sch, .lanes, .fleetOut, .mon, .saf, .log] ⊆ parts) (c : Chip) (p : Nat) :
    (c.linkExclude p).outside parts = c.outside parts := by
  simp at hparts
  simp [Chip.linkExclude, hparts, apply_ite (Chip.outside parts)]

@[simp] theorem Chip.outside_runCatch (hparts : faultParts ++ [.ports] ⊆ parts) (c : Chip) (p l : Nat) (j : Job) (m : CatchMsg) (offset :
    Int) : (c.runCatch p l j m offset).outside parts = c.outside parts := by
  simp at hparts
  simp [Chip.runCatch, hparts, apply_ite (Chip.outside parts)]

@[simp] theorem Chip.outside_fleetStart (hparts : endParts ++ [.sch, .plots, .banks, .fleetOut, .saf, .log] ⊆ parts) (c : Chip) (j : Job)
    (i : Image) : (c.fleetStart j i).outside parts = c.outside parts := by
  simp at hparts
  simp [Chip.fleetStart, hparts, apply_ite (Chip.outside parts)]

@[simp] theorem Chip.outside_forward (hparts : [.sch, .fleetOut] ⊆ parts) (c : Chip) (j : Job) (p : Nat) (m : SignalMsg) : (c.forward j p
    m).outside parts = c.outside parts := by
  simp at hparts
  simp [Chip.forward, hparts]

@[simp] theorem Chip.outside_takeSignal (hparts : [.sch, .jobs, .fleetOut] ⊆ parts) (c : Chip) (j : Job) (p : Nat) (m : SignalMsg) :
    (c.takeSignal j p m).outside parts = c.outside parts := by
  simp at hparts
  simp [Chip.takeSignal, hparts, apply_ite (Chip.outside parts)]

@[simp] theorem Chip.outside_farLane (hparts : .saf ∈ parts) (c : Chip) (p : Nat) (m : SignalMsg) : (c.farLane p m).outside parts =
    c.outside parts := by
  simp [Chip.farLane, hparts, apply_ite (Chip.outside parts)]

@[simp] theorem Chip.outside_fleetRerow (hparts : endParts ++ [.sch, .seats, .peri, .plots, .lasers, .lanes, .fleetOut, .mon, .saf, .log,
    .cstg] ⊆ parts) (c : Chip) (j : Job) (x : Nat) : (c.fleetRerow j x).outside parts = c.outside parts := by
  simp at hparts
  simp [Chip.fleetRerow, hparts, apply_ite (Chip.outside parts)]

@[simp] theorem Chip.outside_fleetEasy (hparts : [.jobs, .regions, .banks] ⊆ parts) (c : Chip) (j : Job) : (c.fleetEasy j).outside parts =
    c.outside parts := by
  simp at hparts
  simp [Chip.fleetEasy, hparts, apply_ite (Chip.outside parts)]

@[simp] theorem Chip.outside_fleetPause (hparts : [.jobs, .regions, .arrays] ⊆ parts) (c : Chip) (j : Job) : (c.fleetPause j).outside
    parts = c.outside parts := by
  simp at hparts
  simp [Chip.fleetPause, hparts, apply_ite (Chip.outside parts)]

@[simp] theorem Chip.outside_salvageJob (hparts : endParts ++ [.sch, .seats, .peri, .plots, .lasers, .lanes, .fleetOut, .mon, .saf, .log,
    .hbm, .cstg] ⊆ parts) (c : Chip) (j : Job) (i : Image) : (c.salvageJob j i).outside parts = c.outside parts := by
  simp at hparts
  unfold Chip.salvageJob
  dsimp only
  repeat' split
  all_goals simp [hparts]

@[simp] theorem Chip.outside_cmdInject (hparts : .lvl ∈ parts) (c : Chip) (channel : Nat) : (c.cmdInject channel).outside parts =
    c.outside parts := by
  simp [Chip.cmdInject, hparts, apply_ite (Chip.outside parts)]

@[simp] theorem Chip.outside_cmdCalibrate (hparts : .lvl ∈ parts) (c : Chip) : c.cmdCalibrate.outside parts = c.outside parts := by
  simp [Chip.cmdCalibrate, hparts, apply_ite (Chip.outside parts)]

@[simp] theorem Chip.outside_queuePop (hparts : .lvl ∈ parts) (c : Chip) : c.queuePop.outside parts = c.outside parts := by
  simp [Chip.queuePop, hparts]

end

end Sys2Proof.Machine

/-! Frames of the operations, continued: surveys, registers and identity. -/

namespace Sys2Proof.Machine

section
variable {parts : List Part}

@[simp] theorem Chip.outside_upSurvey (hparts : [.arrays, .plots, .lanes] ⊆ parts) (c : Chip) (u : SurveyUnit) (f : SurveySt → SurveySt) :
    (c.upSurvey u f).outside parts = c.outside parts := by
  simp at hparts
  unfold Chip.upSurvey
  repeat' split
  all_goals simp [hparts]

@[simp] theorem Chip.outside_deferSurvey (hparts : [.regions, .arrays, .plots, .lanes, .saf, .log] ⊆ parts) (c : Chip) (u : SurveyUnit) :
    (c.deferSurvey u).outside parts = c.outside parts := by
  simp at hparts
  simp [Chip.deferSurvey, hparts, apply_ite (Chip.outside parts)]

@[simp] theorem Chip.outside_surveyTest (hparts : [.regions, .arrays, .plots, .lanes, .saf, .log] ⊆ parts) (c : Chip) (u : SurveyUnit)
    (temp : BitVec 12) (drift : Bool) : (c.surveyTest u temp drift).outside parts = c.outside parts := by
  simp at hparts
  simp [Chip.surveyTest, hparts, apply_ite (Chip.outside parts)]

@[simp] theorem Chip.outside_beginSurvey (hparts : [.arrays, .plots, .lanes, .mon] ⊆ parts) (c : Chip) (u : SurveyUnit) : (c.beginSurvey
    u).outside parts = c.outside parts := by
  simp at hparts
  simp [Chip.beginSurvey, hparts]

@[simp] theorem Chip.outside_surveyStart (hparts : [.regions, .arrays, .peri, .plots, .ports, .lanes, .fleetOut, .mon, .saf, .log] ⊆
    parts) (c : Chip) (u : SurveyUnit) : (c.surveyStart u).outside parts = c.outside parts := by
  simp at hparts
  unfold Chip.surveyStart
  dsimp only
  repeat' split
  all_goals simp [hparts]

@[simp] theorem Chip.outside_holdWeak (hparts : .cores ∈ parts) (c : Chip) (core a : Nat) (v : PlotSurvey) : (c.holdWeak core a
    v).1.outside parts = c.outside parts := by
  unfold Chip.holdWeak
  dsimp only
  repeat' split
  all_goals simp [hparts]

@[simp] theorem Chip.outside_holdAll (h : .cores ∈ parts) (c : Chip) (core a : Nat) (l : List PlotSurvey) :
    (c.holdAll core a l).1.outside parts = c.outside parts := by
  induction l generalizing c with
  | nil => rfl
  | cons v l ih => exact (ih _).trans (Chip.outside_holdWeak h ..)

@[simp] theorem Chip.outside_arrayPlots (hparts : [.freeCtr, .regions, .cores, .arrays, .saf, .log] ⊆ parts) (c : Chip) (a : Nat) (vs :
    List PlotSurvey) : (c.arrayPlots a vs).outside parts = c.outside parts := by
  simp at hparts
  simp [Chip.arrayPlots, hparts]

@[simp] theorem Chip.outside_endSurvey (hparts : [.arrays, .plots, .lanes, .mon] ⊆ parts) (c : Chip) (u : SurveyUnit) (ok : Bool) (temp :
    BitVec 12) : (c.endSurvey u ok temp).outside parts = c.outside parts := by
  simp at hparts
  simp [Chip.endSurvey, hparts]

@[simp] theorem Chip.outside_bankSurvey (hparts : [.banks, .trims] ⊆ parts) (k : Nat) (c : Chip) (v : BankSurvey) : (c.bankSurvey k
    v).outside parts = c.outside parts := by
  simp at hparts
  simp [Chip.bankSurvey, hparts]

@[simp] theorem Chip.outside_endPeriphery (hparts : [.freeCtr, .regions, .cores, .arrays, .peri, .plots, .lanes, .mon, .saf, .log] ⊆ parts) (c : Chip) (u : SurveyUnit) (g : Nat) (r : SurveyResult) :
    (c.endPeriphery u g r).outside parts = c.outside parts := by
  simp at hparts
  unfold Chip.endPeriphery
  dsimp only
  split
  · rfl
  · cases (c.arr (unitKey u)).away <;> split <;> simp [hparts]

@[simp] theorem Chip.outside_endPlot (hparts : endParts ++ [.sch, .plots, .banks, .trims, .lanes, .fleetOut, .mon, .saf, .log] ⊆ parts) (c
    : Chip) (u : SurveyUnit) (r : SurveyResult) : (c.endPlot u r).outside parts = c.outside parts := by
  simp at hparts
  simp [Chip.endPlot, hparts, apply_ite (Chip.outside parts)]

@[simp] theorem Chip.outside_endLane (hparts : [.arrays, .plots, .ports, .lanes, .fleetOut, .mon] ⊆ parts) (c : Chip) (u : SurveyUnit) (p
    l : Nat) (r : SurveyResult) : (c.endLane u p l r).outside parts = c.outside parts := by
  simp at hparts
  simp [Chip.endLane, hparts, apply_ite (Chip.outside parts)]

@[simp] theorem Chip.outside_surveyEnd (hparts : endParts ++ [.sch, .peri, .plots, .banks, .trims, .lanes, .fleetOut, .mon, .saf, .log] ⊆
    parts) (c : Chip) (u : SurveyUnit) (r : SurveyResult) : (c.surveyEnd u r).outside parts = c.outside parts := by
  simp at hparts
  unfold Chip.surveyEnd
  repeat' split
  all_goals simp [hparts]

@[simp] theorem Chip.outside_latchRead (hparts : [.clk, .lvl] ⊆ parts) (c : Chip) (a : Nat) : (c.latchRead a).outside parts = c.outside
    parts := by
  simp at hparts
  simp [Chip.latchRead, hparts, apply_ite (Chip.outside parts)]

@[simp] theorem Chip.outside_clearRegion (hparts : [.regions, .cores, .banks] ⊆ parts) (c : Chip) (g o : Nat) : (c.clearRegion g
    o).outside parts = c.outside parts := by
  simp at hparts
  simp [Chip.clearRegion, hparts, apply_ite (Chip.outside parts)]

@[simp] theorem Chip.outside_clearRead (hparts : [.regions, .cores, .banks, .ports, .lvl] ⊆ parts) (c : Chip) (a : Nat) : (c.clearRead
    a).outside parts = c.outside parts := by
  simp at hparts
  simp [Chip.clearRead, hparts, apply_ite (Chip.outside parts)]

@[simp] theorem Chip.outside_afterRead (hparts : [.freeCtr, .clk, .regions, .cores, .banks, .ports, .lvl] ⊆ parts) (c : Chip) (a : Nat) :
    (c.afterRead a).outside parts = c.outside parts := by
  simp at hparts
  simp [Chip.afterRead, hparts, apply_ite (Chip.outside parts)]

@[simp] theorem Chip.outside_readRegs (h : [.freeCtr, .clk, .regions, .cores, .banks, .ports, .lvl] ⊆ parts) (c : Chip) (a n : Nat) :
    (c.readRegs a n).2.outside parts = c.outside parts := by
  induction n generalizing c a with
  | zero => rfl
  | succ n ih => exact (ih ..).trans (Chip.outside_afterRead h ..)

@[simp] theorem Chip.outside_fabric (hparts : [.freeCtr, .regions, .hbmStacks, .saf, .log] ⊆ parts) (c : Chip) (n : Nat) (f : Fabric) :
    (c.fabric n f).1.outside parts = c.outside parts := by
  simp at hparts
  unfold Chip.fabric
  dsimp only
  repeat' split
  all_goals simp [hparts]

@[simp] theorem Chip.outside_access (h : [.freeCtr, .regions, .hbmStacks, .saf, .log] ⊆ parts) (c : Chip) (fabric : Fabric) (f : Chip → Chip)
    (hf : ∀ d, (f d).outside parts = d.outside parts) : (c.access fabric f).outside parts = c.outside parts := by
  simp at h
  simp [Chip.access, h, hf]

@[simp] theorem Chip.outside_cmdConfigWrite (hparts : [.cfg, .flash] ⊆ parts) (c : Chip) : c.cmdConfigWrite.outside parts = c.outside
    parts := by
  simp at hparts
  simp [Chip.cmdConfigWrite, hparts, apply_ite (Chip.outside parts)]

@[simp] theorem Chip.outside_accessResult (hparts : .acc ∈ parts) (c : Chip) (r : Nat) : (c.accessResult r).outside parts = c.outside
    parts := by
  simp [Chip.accessResult, hparts]

@[simp] theorem Chip.outside_cmdPassword (hparts : .acc ∈ parts) (c : Chip) (length : Nat) : (c.cmdPassword length).outside parts =
    c.outside parts := by
  simp [Chip.cmdPassword, hparts, apply_ite (Chip.outside parts)]

@[simp] theorem Chip.outside_cmdChallenge (hparts : [.freeCtr, .acc] ⊆ parts) (c : Chip) : c.cmdChallenge.outside parts = c.outside parts
    := by
  simp at hparts
  simp [Chip.cmdChallenge, hparts]

@[simp] theorem Chip.outside_cmdRequest (hparts : .acc ∈ parts) (c : Chip) : c.cmdRequest.outside parts = c.outside parts := by
  unfold Chip.cmdRequest
  dsimp only
  repeat' split
  all_goals simp [hparts]

@[simp] theorem Chip.outside_cmdLevel0 (hparts : .acc ∈ parts) (c : Chip) : c.cmdLevel0.outside parts = c.outside parts := by
  simp [Chip.cmdLevel0, hparts]

@[simp] theorem Chip.outside_keyAnswer (hparts : .acc ∈ parts) (c : Chip) (r : Nat) : (c.keyAnswer r).outside parts = c.outside parts :=
    by
  simp [Chip.keyAnswer, hparts]

@[simp] theorem Chip.outside_cmdAttest (hparts : .acc ∈ parts) (c : Chip) : c.cmdAttest.outside parts = c.outside parts := by
  simp [Chip.cmdAttest, hparts, apply_ite (Chip.outside parts)]

@[simp] theorem Chip.outside_attestDone (hparts : [.freeCtr, .acc, .hbm] ⊆ parts) (c : Chip) : c.attestDone.outside parts = c.outside
    parts := by
  simp at hparts
  unfold Chip.attestDone
  dsimp only
  repeat' split
  all_goals simp [hparts]

@[simp] theorem Chip.outside_cmdOwner (hparts : [.vault, .acc] ⊆ parts) (c : Chip) : c.cmdOwner.outside parts = c.outside parts := by
  simp at hparts
  unfold Chip.cmdOwner
  dsimp only
  repeat' split
  all_goals simp [hparts]

@[simp] theorem Chip.outside_diagRead (hparts : .acc ∈ parts) (c : Chip) : c.diagRead.outside parts = c.outside parts := by
  simp [Chip.diagRead, hparts, apply_ite (Chip.outside parts)]

@[simp] theorem Chip.outside_tapSelect (hparts : .acc ∈ parts) (c : Chip) (t : Tap) (scan : List Bool) : (c.tapSelect t scan).outside
    parts = c.outside parts := by
  simp [Chip.tapSelect, hparts, apply_ite (Chip.outside parts)]

end

end Sys2Proof.Machine

/-! Frames of the operations, continued: power, start-up and register writes. -/

namespace Sys2Proof.Machine

section
variable {parts : List Part}

@[simp] theorem Chip.outside_stopSurvey (hparts : [.arrays, .peri, .plots, .lanes, .mon] ⊆ parts) (c : Chip) (u : SurveyUnit) :
    (c.stopSurvey u).outside parts = c.outside parts := by
  simp at hparts
  unfold Chip.stopSurvey
  dsimp only
  repeat' split
  all_goals simp [hparts]

/-- What a halt empties and resets once the jobs are ended and the regions asleep. -/
def Chip.cleared (c : Chip) : Chip :=
  { c with
    sch := { c.sch with images := [], replacing := [], loads := c.sch.loads.filter (·.complete) }
    tiles := [], accs := []
    cores := adjust {} (fun _ => true) (fun k => { k with
      coming := [], items := [], heldChecks := [], posted := [], lost := [], seed := none }) c.cores
    arrays := adjust {} (fun _ => true) Arr.halt c.arrays
    ports := adjust {} (fun _ => true) Port.halt c.ports
    mem := { c.mem with hbm := [] }
    start := { c.start with ready := false, memory := false }
    clk := { c.clk with masterLock := false } }

@[simp] theorem Chip.outside_cleared (hparts : [.sch, .tiles, .accs, .cores, .arrays, .ports, .hbm, .start, .clk] ⊆ parts) (c : Chip) :
    c.cleared.outside parts = c.outside parts := by
  simp at hparts
  simp [Chip.cleared, hparts]

@[simp] theorem Chip.outside_halt (hparts : endParts ++ [.clk, .start, .sch, .peri, .accs, .plots, .banks, .lanes, .mon, .hbm] ⊆ parts)
    (c : Chip) : c.halt.outside parts = c.outside parts := by
  simp at hparts
  unfold Chip.halt
  refine (Chip.outside_cleared (by simp [hparts]) _).trans ?_
  refine (Chip.outside_overAll _ _ _ fun d g => by simp [hparts]).trans ?_
  refine (Chip.outside_overAll _ _ _ fun d u => Chip.outside_stopSurvey (by simp [hparts]) ..).trans ?_
  exact Chip.outside_overAll _ _ _ fun d id => Chip.outside_abortJob (by simp [hparts]) ..

@[simp] theorem Chip.outside_refclkLost (hparts : endParts ++ [.clk, .start, .sch, .peri, .accs, .plots, .banks, .lanes, .mon, .saf, .log,
    .hbm] ⊆ parts) (c : Chip) : c.refclkLost.outside parts = c.outside parts := by
  simp at hparts
  simp [Chip.refclkLost, hparts, apply_ite (Chip.outside parts)]

@[simp] theorem Chip.outside_stackOut (hparts : endParts ++ [.sch, .hbmStacks, .fleetOut, .saf, .log] ⊆ parts) (c : Chip) (s : Nat) :
    (c.stackOut s).outside parts = c.outside parts := by
  simp at hparts
  simp [Chip.stackOut, hparts, apply_ite (Chip.outside parts)]

@[simp] theorem Chip.outside_regulatorLost (hparts : endParts ++ [.sch, .hbmStacks, .lanes, .fleetOut, .mon, .saf, .log] ⊆ parts) (c :
    Chip) (r : Rail) : (c.regulatorLost r).outside parts = c.outside parts := by
  simp at hparts
  unfold Chip.regulatorLost
  repeat' split
  all_goals simp [hparts]

@[simp] theorem Chip.outside_railOut (hparts : endParts ++ [.sch, .hbmStacks, .lanes, .fleetOut, .mon, .saf, .log] ⊆ parts) (c : Chip) (r
    : Rail) : (c.railOut r).outside parts = c.outside parts := by
  simp at hparts
  unfold Chip.railOut
  dsimp only
  repeat' split
  all_goals simp [hparts]

@[simp] theorem Chip.outside_railAbort (hparts : endParts ++ [.sch, .fleetOut, .saf] ⊆ parts) (c : Chip) (r : Rail) : (c.railAbort
    r).outside parts = c.outside parts := by
  simp at hparts
  simp [Chip.railAbort, hparts, apply_ite (Chip.outside parts)]

@[simp] theorem Chip.outside_railReturn (hparts : .saf ∈ parts) (c : Chip) (r : Rail) : (c.railReturn r).outside parts = c.outside parts
    := by
  simp [Chip.railReturn, hparts, apply_ite (Chip.outside parts)]

/-- What a loss of main power takes from a halted block. -/
def Chip.unpowered (c : Chip) : Chip :=
  { c with
    start := { c.start with powerGood := false, restored := false }
    clk := { c.clk with fleetRunning := false, fsyncOk := false, strayCount := 0 }
    cfg := { c.cfg with loaded := false, writing := none }
    vault := { c.vault with read := false }
    host := { c.host with port0 := { c.host.port0 with speed := 0 }, port1 := { c.host.port1 with speed := 0 } }
    mon := c.mon.cut
    saf := { c.saf with railsOk := false }
    acc := { c.acc with attesting := none }
    mem := { c.mem with rstg := [], cstg := [], flash := c.flashAfterLoss } }

@[simp] theorem Chip.outside_unpowered (hparts : [.start, .clk, .cfg, .vault, .host, .mon, .saf, .acc, .rstg, .cstg, .flash] ⊆ parts) (c : Chip) :
    c.unpowered.outside parts = c.outside parts := by
  simp at hparts
  simp [Chip.unpowered, hparts]

@[simp] theorem Chip.outside_mainLoss (hparts : endParts ++ [.clk, .start, .cfg, .vault, .acc, .sch, .peri, .accs, .plots, .banks, .lanes, .mon, .saf, .hbm, .rstg, .cstg, .flash] ⊆ parts)
    (c : Chip) : c.mainLoss.outside parts = c.outside parts := by
  simp at hparts
  unfold Chip.mainLoss
  split
  · rfl
  · exact (Chip.outside_unpowered (by simp [hparts]) _).trans (Chip.outside_halt (by simp [hparts]) c)

@[simp] theorem Chip.outside_powerOff (hparts : [.clk, .start, .cfg, .vault, .acc, .host, .sch, .jobs, .nextOrder, .regions, .cores,
    .seats, .arrays, .tiers, .peri, .cells, .tiles, .accs, .plots, .lasers, .linkLasers, .linkSel, .groups, .banks, .trims, .hbmStacks,
    .ports, .lanes, .mon, .lvl, .saf, .log, .hbm, .rstg, .cstg, .flash] ⊆ parts) (c : Chip) : c.powerOff.outside parts = c.outside parts :=
    by
  simp at hparts
  simp [Chip.powerOff, hparts]

@[simp] theorem Chip.outside_powerIsGood (hparts : [.clk, .start, .saf] ⊆ parts) (c : Chip) : c.powerIsGood.outside parts = c.outside
    parts := by
  simp at hparts
  simp [Chip.powerIsGood, hparts, apply_ite (Chip.outside parts)]

@[simp] theorem Chip.outside_nextPhase (hparts : .start ∈ parts) (c : Chip) (n : Nat) : (c.nextPhase n).outside parts = c.outside parts :=
    by
  simp [Chip.nextPhase, hparts]

@[simp] theorem Chip.outside_recover (hparts : .start ∈ parts) (c : Chip) (reason : Nat) : (c.recover reason).outside parts = c.outside
    parts := by
  simp [Chip.recover, hparts]

@[simp] theorem Chip.outside_configPhase (hparts : [.start, .cfg] ⊆ parts) (c : Chip) (bad0 bad1 : Bool) : (c.configPhase bad0
    bad1).outside parts = c.outside parts := by
  simp at hparts
  unfold Chip.configPhase
  dsimp only
  repeat' split
  all_goals simp [hparts]

@[simp] theorem Chip.outside_restoreKept (hparts : [.regions, .cores, .seats, .arrays, .tiers, .peri, .cells, .plots, .lasers,
    .linkLasers, .banks, .trims, .hbmStacks, .ports, .lanes, .log] ⊆ parts) (c : Chip) (k : Kept) : (c.restoreKept k).outside parts =
    c.outside parts := by
  simp at hparts
  simp [Chip.restoreKept, hparts]

@[simp] theorem Chip.outside_restoreCopies (hparts : .hbm ∈ parts) (c : Chip) (T : Nat) : (c.restoreCopies T).outside parts = c.outside
    parts := by
  simp [Chip.restoreCopies, hparts]

@[simp] theorem Chip.outside_failBadEntry (hparts : [.freeCtr, .regions, .tiers, .saf, .log] ⊆ parts) (c : Chip) (T : Nat) :
    (c.failBadEntry T).outside parts = c.outside parts := by
  simp at hparts
  simp [Chip.failBadEntry, hparts, apply_ite (Chip.outside parts)]

@[simp] theorem Chip.outside_rebuildTable (hparts : [.freeCtr, .regions, .tiers, .hbmStacks, .saf, .log, .hbm, .tierImages] ⊆ parts) (bad
    : List LedgerMiss) (c : Chip) (T : Nat) : (c.rebuildTable bad T).outside parts = c.outside parts := by
  simp at hparts
  unfold Chip.rebuildTable
  dsimp only
  repeat' split
  all_goals simp [hparts]

@[simp] theorem Chip.outside_factoryStart (hparts : [.freeCtr, .regions, .cores, .seats, .arrays, .tiers, .peri, .cells, .plots, .lasers,
    .linkLasers, .banks, .trims, .hbmStacks, .ports, .lanes, .mon, .saf, .log] ⊆ parts) (c : Chip) (stored : List Nat) : (c.factoryStart
    stored).outside parts = c.outside parts := by
  simp at hparts
  simp [Chip.factoryStart, hparts]

@[simp] theorem Chip.outside_readStore (hparts : [.freeCtr, .regions, .cores, .seats, .arrays, .tiers, .peri, .cells, .plots, .lasers,
    .linkLasers, .banks, .trims, .hbmStacks, .ports, .lanes, .mon, .saf, .log] ⊆ parts) (c : Chip) (bank0 bank1 : BankState) (stored : List
    Nat) : (c.readStore bank0 bank1 stored).outside parts = c.outside parts := by
  simp at hparts
  unfold Chip.readStore
  dsimp only
  repeat' split
  all_goals simp [hparts]

@[simp] theorem Chip.outside_restartMoves (hparts : [.freeCtr, .regions, .arrays, .tiers, .saf, .log] ⊆ parts) (c : Chip) :
    c.restartMoves.outside parts = c.outside parts := by
  simp at hparts
  simp [Chip.restartMoves, hparts]

@[simp] theorem Chip.outside_memoryPhase (hparts : endParts ++ [.start, .seats, .peri, .cells, .plots, .lasers, .linkLasers, .banks,
    .trims, .hbmStacks, .lanes, .mon, .saf, .log, .hbm, .tierImages] ⊆ parts) (c : Chip) (failed : List (Fin 8 × Fin 32)) (bank0 bank1 :
    BankState) (bad : List LedgerMiss) : (c.memoryPhase failed bank0 bank1 bad).outside parts = c.outside parts := by
  simp at hparts
  simp [Chip.memoryPhase, hparts, apply_ite (Chip.outside parts)]

@[simp] theorem Chip.outside_standBy (hparts : [.lasers, .linkLasers] ⊆ parts) (c : Chip) (r : LaserRef) : (c.standBy r).outside parts =
    c.outside parts := by
  simp at hparts
  unfold Chip.standBy
  repeat' split
  all_goals simp [hparts]

@[simp] theorem Chip.outside_levelGroup (hparts : .groups ∈ parts) (c : Chip) (n : Nat) : (c.levelGroup n).outside parts = c.outside parts
    := by
  simp [Chip.levelGroup, hparts, apply_ite (Chip.outside parts)]

@[simp] theorem Chip.outside_lightPhase (hparts : endParts ++ [.start, .sch, .seats, .peri, .plots, .lasers, .linkLasers, .groups, .banks,
    .lanes, .fleetOut, .mon, .saf, .log, .cstg] ⊆ parts) (c : Chip) (failedLasers : List LaserRef) (failedBanks : List BankRef) :
    (c.lightPhase failedLasers failedBanks).outside parts = c.outside parts := by
  simp at hparts
  simp [Chip.lightPhase, hparts]

@[simp] theorem Chip.outside_startSurvey (hparts : endParts ++ [.sch, .plots, .banks, .trims, .lanes, .fleetOut, .mon, .saf, .log] ⊆
    parts) (c : Chip) (v : SurveyUnit × SurveyResult) : (c.startSurvey v).outside parts = c.outside parts := by
  simp at hparts
  unfold Chip.startSurvey
  dsimp only
  repeat' split
  all_goals simp [hparts]

@[simp] theorem Chip.outside_seatAbsent (hparts : [.regions, .plots, .saf, .log] ⊆ parts) (c : Chip) (g : Nat) :
    (c.seatAbsent g).outside parts = c.outside parts := by
  simp at hparts
  refine Chip.outside_overAll _ _ _ fun d lp => ?_
  split <;> simp [hparts]

@[simp] theorem Chip.outside_linksPhase (hparts : endParts ++ [.start, .sch, .plots, .lanes, .fleetOut, .mon, .saf, .log] ⊆ parts)
    (c : Chip) (results : List (Fin 16 × BringUp)) : (c.linksPhase results).outside parts = c.outside parts := by
  simp at hparts
  have hports : (overAll results (fun c r => c.when (c.portLit r.1.val && (c.port r.1.val).state != 5)
      (fun c => c.bringUpDone r.1.val r.2)) c).outside parts = c.outside parts :=
    Chip.outside_overAll _ _ _ fun e x => Chip.outside_when _ _ _ fun f => Chip.outside_bringUpDone (by simp [hparts]) ..
  unfold Chip.linksPhase
  dsimp only
  split
  · exact Eq.trans (by simp [hparts]) hports
  · exact Eq.trans (by simp [hparts]) hports

@[simp] theorem Chip.outside_writeChip (hparts : [.clk, .cfg, .acc, .host, .lvl, .saf, .log] ⊆ parts) (c : Chip) (a : Nat) (v : Word) :
    (c.writeChip a v).outside parts = c.outside parts := by
  simp at hparts
  simp [Chip.writeChip, hparts, apply_ite (Chip.outside parts)]

@[simp] theorem Chip.outside_writePort (hparts : [.linkSel, .ports] ⊆ parts) (c : Chip) (p o : Nat) (v : Word) : (c.writePort p o
    v).outside parts = c.outside parts := by
  simp at hparts
  simp [Chip.writePort, hparts, apply_ite (Chip.outside parts)]

@[simp] theorem Chip.outside_writeArr (hparts : .arrays ∈ parts) (c : Chip) (a o : Nat) (v : Word) : (c.writeArr a o v).outside parts =
    c.outside parts := by
  simp [Chip.writeArr, hparts, apply_ite (Chip.outside parts)]

@[simp] theorem Chip.outside_writeRegion (hparts : [.regions, .cores, .arrays] ⊆ parts) (c : Chip) (g o : Nat) (v : Word) : (c.writeRegion
    g o v).outside parts = c.outside parts := by
  simp at hparts
  unfold Chip.writeRegion
  dsimp only
  repeat' split
  all_goals simp [hparts]

@[simp] theorem Chip.outside_writePlain (hparts : [.clk, .cfg, .acc, .host, .regions, .cores, .arrays, .linkSel, .ports, .lvl, .saf, .log]
    ⊆ parts) (c : Chip) (a : Nat) (v : Word) : (c.writePlain a v).outside parts = c.outside parts := by
  simp at hparts
  simp [Chip.writePlain, hparts, apply_ite (Chip.outside parts)]

/-- What holds of the values of both branches holds of a value of the choice. -/
theorem forall_mem_ite {α : Type} {P : α → Prop} {p : Prop} [Decidable p] {x y : Option α} (hx : ∀ d ∈ x, P d) (hy : ∀ d ∈ y, P d) :
    ∀ d ∈ (if p then x else y), P d := by
  split
  · exact hx
  · exact hy

theorem Chip.outside_commandChip (hparts : [.freeCtr, .cfg, .vault, .acc, .host, .lvl, .flash] ⊆ parts) (c : Chip)
    (a : Nat) (v : Word) : ∀ d ∈ c.commandChip a v, d.outside parts = c.outside parts := by
  simp at hparts
  unfold Chip.commandChip
  dsimp only
  repeat' refine forall_mem_ite ?_ ?_
  all_goals simp [hparts, apply_ite (Chip.outside parts)]

theorem Chip.outside_commandPort (hparts : endParts ++ [.sch, .lanes, .fleetOut, .mon, .saf, .log] ⊆ parts) (c : Chip)
    (p o : Nat) (v : Word) : ∀ d ∈ c.commandPort p o v, d.outside parts = c.outside parts := by
  simp at hparts
  unfold Chip.commandPort
  dsimp only
  repeat' refine forall_mem_ite ?_ ?_
  all_goals simp [hparts, apply_ite (Chip.outside parts)]

theorem Chip.outside_commandRegion (hparts : [.freeCtr, .regions, .arrays, .tiers, .dev, .lasers, .linkLasers, .hbm, .tierImages, .ledger] ⊆ parts) (c : Chip)
    (g o : Nat) (v : Word) : ∀ d ∈ c.commandRegion g o v, d.outside parts = c.outside parts := by
  simp at hparts
  unfold Chip.commandRegion
  dsimp only
  refine forall_mem_ite (by simp [hparts, apply_ite (Chip.outside parts)]) (forall_mem_ite (by simp [hparts, apply_ite (Chip.outside parts)]) ?_)
  split
  · refine forall_mem_ite (by simp [hparts, apply_ite (Chip.outside parts)]) (forall_mem_ite ?_ (by simp))
    simp [hparts, apply_ite (Chip.outside parts)]
  · simp

@[simp] theorem Chip.outside_writeReg (hparts : endParts ++ [.clk, .cfg, .vault, .acc, .sch, .dev, .lasers, .linkLasers, .linkSel, .lanes, .fleetOut, .mon, .lvl, .saf, .log, .hbm, .tierImages, .ledger, .flash] ⊆ parts)
    (c : Chip) (a : Nat) (v : Word) : (c.writeReg a v).outside parts = c.outside parts := by
  simp at hparts
  have hplain := Chip.outside_writePlain (parts := parts) (by simp [hparts]) c a v
  unfold Chip.writeReg
  dsimp only
  split_ifs
  · exact hplain
  · cases hd : c.commandChip a v with
    | none => exact hplain
    | some d => exact Chip.outside_commandChip (by simp [hparts]) _ _ _ _ hd
  · cases hd : c.commandPort (a / 0x10000 % 16) (a % 0x10000) v with
    | none => exact hplain
    | some d => exact Chip.outside_commandPort (by simp [hparts]) _ _ _ _ _ hd
  · cases hd : c.commandRegion (a / 0x100000 % 16) (a % 0x100000) v with
    | none => exact hplain
    | some d => exact Chip.outside_commandRegion (by simp [hparts]) _ _ _ _ _ hd
  · exact hplain

@[simp] theorem Chip.outside_writeRegs (h : endParts ++ [.clk, .cfg, .vault, .acc, .sch, .dev, .lasers, .linkLasers, .linkSel, .lanes, .fleetOut, .mon, .lvl, .saf, .log, .hbm, .tierImages, .ledger, .flash] ⊆ parts) (c : Chip) (a : Nat) (l : List Word) :
    (c.writeRegs a l).outside parts = c.outside parts := by
  induction l generalizing c a with
  | nil => rfl
  | cons v l ih => exact (ih ..).trans (Chip.outside_writeReg h ..)

end

end Sys2Proof.Machine

/-! Frames: what each command leaves alone, and the four frame statements. -/

namespace Sys2Proof.Machine

/-- A command that goes on leaves the block outside some parts as it was. -/
def Leaves (parts : List Part) (s : State) (o : Host.Outcome State Fault Refusal) : Prop :=
  Leads (fun d => d.outside parts = s.toChip.outside parts) s o

theorem framed_of_leaves {i : Instr} {s : State} (h : Leaves (mayChange i) s (exec i s)) : framed i s :=
  fun t ht _ hp => Chip.same_of_outside (h t ht).2 hp

theorem exec_leaves_host (i : Instr) {s : State} (hi : commandFamily i = .host) : Leaves (mayChange i) s (exec i s) := by
  cases i <;> cases hi <;> unfold exec <;> dsimp only
  all_goals
    refine leads_act ?_
    simp only [mayChange, endParts, List.cons_append, List.nil_append]
    repeat'
      first
      | with_reducible rfl
      | with_reducible refine Chip.outside_treat (by simp) _ _ _ _ _ fun _ => ?_
      | with_reducible refine Chip.outside_access (by simp) _ _ _ fun _ => ?_
      | split
      | simp

theorem exec_leaves_unit (i : Instr) {s : State} (hi : commandFamily i = .unit) : Leaves (mayChange i) s (exec i s) := by
  cases i <;> cases hi <;> unfold exec <;> dsimp only
  case' levelCalibrationDone => refine leads_ite (fun _ => leads_refused _) fun _ => ?_
  all_goals
    refine leads_act ?_
    simp only [mayChange, faultParts, endParts, List.cons_append, List.nil_append]
    repeat'
      first
      | with_reducible rfl
      | split
      | simp

/-! Frames of a Lamni lane: what is done with one changes the port, its lanes, and what a fault changes. -/

theorem catchFrame_leaves (p : Fin 16) (l : Fin 9) (hdr : FrameHdr) (msg : CatchMsg) (offset : Int) (code : CodeResult) (s : State) :
    Leaves (mayChange (.catchFrame p l hdr msg offset code)) s (execCatchFrame p l hdr msg offset code s) := by
  refine leads_act ?_
  simp only [mayChange, faultParts, List.cons_append, List.nil_append]
  split
  · rfl
  · refine Chip.outside_takeFrame (by simp) _ _ _ _ _ _ _ (fun _ => by simp) fun d => ?_
    repeat' split
    all_goals simp

theorem weighFrame_leaves (p : Fin 16) (l : Fin 9) (hdr : FrameHdr) (msg : WeighMsg) (behind : Nat) (nearBoundary : Bool)
    (code : CodeResult) (s : State) : Leaves (mayChange (.weighFrame p l hdr msg behind nearBoundary code)) s
      (execWeighFrame p l hdr msg behind nearBoundary code s) := by
  refine leads_act ?_
  simp only [mayChange, faultParts, List.cons_append, List.nil_append]
  split
  · rfl
  · refine Chip.outside_takeFrame (by simp) _ _ _ _ _ _ _ (fun _ => by simp) fun d => ?_
    repeat' split
    all_goals simp

theorem laneCtrlFrame_leaves (p : Fin 16) (l : Fin 9) (hdr : FrameHdr) (msg : LaneMsg) (code : CodeResult) (s : State) :
    Leaves (mayChange (.laneCtrlFrame p l hdr msg code)) s (execLaneCtrlFrame p l hdr msg code s) := by
  refine leads_act ?_
  simp only [mayChange, faultParts, List.cons_append, List.nil_append]
  refine Chip.outside_takeFrame (by simp) _ _ _ _ _ _ _ (fun _ => by simp) fun d => ?_
  repeat' split
  all_goals simp

theorem faultFrame_leaves (p : Fin 16) (l : Fin 9) (hdr : FrameHdr) (msg : SignalMsg) (code : CodeResult) (s : State) :
    Leaves (mayChange (.faultFrame p l hdr msg code)) s (execFaultFrame p l hdr msg code s) := by
  refine leads_act ?_
  simp only [mayChange, faultParts, List.cons_append, List.nil_append]
  split
  · rfl
  · refine Chip.outside_takeFrame (by simp) _ _ _ _ _ _ _ (fun _ => by simp) fun d => ?_
    repeat' split
    all_goals simp

/-- The commands of the fleet, of power and of the start-up. -/
def fleetOrPower : Instr → Bool
  | .fleetStroke .. | .fsyncEdge .. | .fsyncLost .. | .fleetJobStart .. | .fleetRerow .. | .fleetEasy .. | .fleetPause .. |
    .fleetAbort .. | .salvage .. | .refclkLost .. | .refclkRestored .. | .railOutOfWindow .. | .railBreachAbort .. | .railReturn .. |
    .mainPowerLoss .. | .powerOff .. | .powerGood .. | .resetRelease .. | .identityPhase .. | .configurationPhase .. | .memoryPhase .. |
    .benchmarkSelfTest .. | .levelCalibrationPhase .. | .lightPhase .. | .surveyPhase .. | .linksPhase .. => true
  | _ => false

theorem exec_leaves_fleetOrPower (i : Instr) {s : State} (hi : fleetOrPower i = true) : Leaves (mayChange i) s (exec i s) := by
  cases i <;> cases hi <;> unfold exec <;> dsimp only
  case' levelCalibrationPhase => refine leads_ite (fun _ => leads_refused _) fun _ => ?_
  all_goals
    refine leads_act ?_
    simp only [mayChange, endParts, List.cons_append, List.nil_append]
    repeat'
      first
      | with_reducible rfl
      | split
      | simp

theorem exec_leaves_lamniOrAccess (i : Instr) {s : State} (hi : commandFamily i = .link) (hp : fleetOrPower i = false) :
    Leaves (mayChange i) s (exec i s) := by
  cases i <;> cases hi <;> cases hp
  case catchFrame => exact catchFrame_leaves _ _ _ _ _ _ _
  case weighFrame => exact weighFrame_leaves _ _ _ _ _ _ _ _
  case laneCtrlFrame => exact laneCtrlFrame_leaves _ _ _ _ _ _
  case faultFrame => exact faultFrame_leaves _ _ _ _ _ _
  all_goals
    unfold exec
    refine leads_act ?_
    simp only [mayChange, faultParts, endParts, List.cons_append, List.nil_append]
    repeat'
      first
      | with_reducible rfl
      | with_reducible refine Chip.outside_takeFrame (by simp) _ _ _ _ _ _ _ (fun _ => ?_) fun _ => ?_
      | with_reducible refine Chip.outside_overAll _ _ _ fun _ _ => ?_
      | split
      | simp

theorem exec_leaves_link (i : Instr) {s : State} (hi : commandFamily i = .link) : Leaves (mayChange i) s (exec i s) := by
  cases hp : fleetOrPower i
  case true => exact exec_leaves_fleetOrPower i hp
  case false => exact exec_leaves_lamniOrAccess i hi hp

theorem exec_leaves_stream (i : Instr) {s : State} (hi : commandFamily i = .stream) : Leaves (mayChange i) s (exec i s) := by
  cases i <;> cases hi <;> unfold exec <;> dsimp only
  case vecAdd | vecMul | vecFma | vecMax | vecMin | vecCvt | vecQuant | vecDeq | vecReq | vecDatum | vecUndatum |
      vecRadd | vecRrow | vecExp2 | vecLog2 | vecRcp | vecRsqrt | vecAct | vecSoftmax | vecNorm | vecRmax =>
    exact leads_vecWord rfl (fun _ => Chip.outside_coreCode (by simp [mayChange, faultParts]) ..) fun _ _ _ _ =>
      Chip.outside_vecIssue (by simp [mayChange, faultParts]) ..
  case arrTile | arrDrain =>
    simp only [mayChange, faultParts, List.cons_append, List.nil_append]
    refine leads_checked ?_
    split
    · exact leads_ite (fun _ => leads_act (by simp)) fun _ => leads_act (by simp)
    · exact leads_next rfl
  case optTile st op rds p =>
    simp only [mayChange, faultParts, List.cons_append, List.nil_append]
    refine leads_ite (fun _ => leads_refused _) fun _ => leads_ite (fun _ => leads_act ?_) fun _ =>
      leads_ite (fun _ => leads_fault _) fun _ => leads_act ?_
    all_goals
      refine Chip.outside_onSeq _ _ _ fun _ _ _ => ?_
      split <;> simp
  case synChange =>
    unfold execSynChange
    split
    · refine leads_ite (fun _ => leads_act ?_) fun _ => leads_refused _
      exact Chip.outside_fetched (by simp [mayChange, faultParts]) _ _ _ _ _ fun _ => rfl
    · exact leads_next rfl
  case stgH2r | stgR2h | stgR2r | xchLsend | xchLrecv =>
    simp only [mayChange, faultParts, List.cons_append, List.nil_append]
    refine leads_checked (leads_act (Chip.outside_onSeq _ _ _ fun _ _ _ => ?_))
    repeat' split
    all_goals simp
  case stgR2c | stgC2r | stgC2c | xchCore | xchRegion =>
    simp only [mayChange, faultParts, List.cons_append, List.nil_append]
    refine leads_checked (leads_act (Chip.outside_onCore _ _ _ fun _ _ _ _ => ?_))
    dsimp only
    repeat' split
    all_goals simp
  case' synCatch | synWake | synSleep | vecSeed | stgStride | optDummy => refine leads_ite (fun _ => leads_refused _) fun _ => ?_
  all_goals
    refine leads_act ?_
    simp only [mayChange, faultParts, List.cons_append, List.nil_append]
    repeat'
      first
      | with_reducible rfl
      | with_reducible refine Chip.outside_onCore _ _ _ fun _ _ _ _ => ?_
      | with_reducible refine Chip.outside_onSeq _ _ _ fun _ _ _ => ?_
      | with_reducible refine Chip.outside_onSeqWord (by simp) _ _ _ _ fun _ _ _ => ?_
      | with_reducible refine Chip.outside_onStream (by simp) _ _ _ _ fun _ _ _ => ?_
      | with_reducible refine Chip.outside_fetched (by simp) _ _ _ _ _ fun _ => ?_
      | split
      | simp

/-- Settles O55: each stream command leads to a block that is the former one outside its parts. -/
theorem streamCommandFrames : Obligations.StreamCommandFrames := fun i _ hi => framed_of_leaves (exec_leaves_stream i hi)

/-- Settles O56, likewise for the commands of strokes, jobs, loads, registers, bulk data and host ports. -/
theorem hostCommandFrames : Obligations.HostCommandFrames := fun i _ hi => framed_of_leaves (exec_leaves_host i hi)

/-- Settles O57, likewise for the commands of tiers, surveys, the level, light and HBM. -/
theorem unitCommandFrames : Obligations.UnitCommandFrames := fun i _ hi => framed_of_leaves (exec_leaves_unit i hi)

/-- Settles O58, likewise for the commands of links, the fleet, power, start-up, configuration and identity. -/
theorem linkAndPlantCommandFrames : Obligations.LinkAndPlantCommandFrames := fun i _ hi => framed_of_leaves (exec_leaves_link i hi)

end Sys2Proof.Machine

/-! The correction path of a core: a slot serves its item (R125 to R128), a filled table entry becomes valid (R129): the obligation O8. -/

namespace Sys2Proof.Machine

/-! ## What an operation keeps of a core -/

theorem Chip.cores_of_outside {parts : List Part} {c d : Chip} (h : d.outside parts = c.outside parts) (hp : .cores ∉ parts) :
    d.cores = c.cores := (Chip.same_of_outside h hp).symm

section
variable {β : Type} (F : CoreSt → β)

theorem Chip.core_keep_of_outside {parts : List Part} {c d : Chip} (h : d.outside parts = c.outside parts) (hp : .cores ∉ parts) (n : Nat) :
    F (d.core n) = F (c.core n) := by
  simp only [Chip.core, Chip.cores_of_outside h hp]

/-- What changes nothing but what a fault changes leaves the cores. -/
theorem Chip.core_keep_of_fault {c d : Chip} (h : d.outside faultParts = c.outside faultParts) (n : Nat) : F (d.core n) = F (c.core n) :=
  Chip.core_keep_of_outside F h (by simp [faultParts]) n

theorem Chip.core_keep_upCore (c : Chip) (n k : Nat) (f : CoreSt → CoreSt) (hf : ∀ q, F (f q) = F q) : F ((c.upCore k f).core n) = F (c.core n) := by
  by_cases h : n = k
  · subst h
    rw [Chip.core_upCore, hf]
  · rw [Chip.core_upCore_ne _ _ _ _ h]

theorem Chip.core_keep_accPath (c : Chip) (core peri n : Nat) (p : Path) (hF : ∀ k x y, F { k with accCorr := x, accUncorr := y } = F k) :
    F ((c.accPath core peri p).core n) = F (c.core n) := by
  unfold Chip.accPath
  refine (Chip.when_keep (fun d => F (d.core n)) _ _ _ fun d => Chip.core_keep_of_fault F (Chip.outside_accFault (List.Subset.refl _) ..) n).trans ?_
  refine Chip.core_keep_upCore _ _ _ _ _ ?_
  exact fun _ => hF _ _ _

theorem Chip.core_keep_corePath (c : Chip) (id : JobId) (core array n : Nat) (p : Path)
    (hF : ∀ k x y, F { k with stgCorrected := x, stgUncorr := y } = F k) : F ((c.corePath id core array p).core n) = F (c.core n) := by
  unfold Chip.corePath
  refine (Chip.core_keep_of_fault F (Chip.outside_residues (List.Subset.refl _) ..) n).trans ?_
  refine (overAll_keep (fun d => F (d.core n)) _ _ _ fun d a => Chip.core_keep_of_fault F ?_ n).trans ?_
  · exact (Chip.outside_badRead (by simp [faultParts]) ..).trans (Chip.outside_coreCode (List.Subset.refl _) ..)
  refine Chip.core_keep_upCore _ _ _ _ _ ?_
  exact fun _ => hF _ _ _

theorem Chip.core_keep_senseFail (c : Chip) (core n cells peri tier : Nat) (l : List (Nat × Nat)) (v : Mismatch)
    (hF : ∀ k x, F { k with senseFails := x } = F k) : F ((c.senseFail core cells peri tier l v).core n) = F (c.core n) := by
  unfold Chip.senseFail
  have h := c.core_keep_upCore F n core (fun k => { k with senseFails := satAdd k.senseFails 1 }) fun _ => hF _ _
  generalize c.upCore core _ = d at h ⊢
  refine (Chip.core_keep_of_fault F ?_ n).trans h
  refine ite_keep (Chip.outside faultParts) ?_ (Chip.outside_danger (List.Subset.refl _) ..)
  simp [faultParts]

theorem Chip.core_keep_heldFail (core n : Nat) (c : Chip) (h : HeldCheck) (hF : ∀ k x, F { k with senseFails := x } = F k) :
    F ((c.heldFail core h).core n) = F (c.core n) := by
  unfold Chip.heldFail
  split
  · exact (Chip.core_keep_of_outside F (Chip.outside_diagnose (List.Subset.refl _) ..) (by simp) n).trans (Chip.core_keep_senseFail F _ _ _ _ _ _ _ _ hF)
  · exact Chip.core_keep_senseFail F _ _ _ _ _ _ _ _ hF

end

/-! ## A cox slot -/

/-- The pending items of a core, the items served and those of the stroke. -/
def CoreSt.coxWork (k : CoreSt) : List CoxItem × BitVec 32 × Nat := (k.items, k.served, k.itemsNow)

/-- An item served leaves the list and is counted; a fault on the way changes nothing of that. -/
theorem Chip.serveItem_coxWork (c : Chip) (core : Nat) (x : CoxItem) : ((c.serveItem core x).core core).coxWork
    = ((c.core core).items.filter (fun y => decide (y ≠ x)), satAdd (c.core core).served 1, (c.core core).itemsNow + 1) := by
  unfold Chip.serveItem
  refine (overAll_keep (fun d => (d.core core).coxWork) _ _ _ fun d h => d.core_keep_heldFail CoreSt.coxWork core core h fun _ _ => rfl).trans ?_
  refine (Chip.core_keep_upCore CoreSt.coxWork _ _ _ _ ?_).trans ?_
  · exact fun _ => rfl
  refine (Chip.when_keep (fun d => (d.core core).coxWork) _ _ _ fun d =>
    Chip.core_keep_of_fault CoreSt.coxWork (Chip.outside_accFault (List.Subset.refl _) ..) core).trans ?_
  rw [Chip.core_upCore]
  rfl

/-- No item arrives before its posting tick. -/
theorem Chip.arrivals_of_none (c : Chip) (core tick : Nat) (h : ∀ y ∈ (c.core core).coming, tick < y.posted) : c.arrivals core tick = c := by
  unfold Chip.arrivals
  rw [List.filter_eq_nil_iff.mpr fun y hy => by simpa using h y hy]
  rfl

/-- No item is lost whose last slot is still to come. -/
theorem Chip.missed_of_none (c : Chip) (core start : Nat) (h : ∀ y ∈ (c.core core).items, start + 256 ≤ y.deadline) : c.missed core start = c := by
  unfold Chip.missed
  rw [List.filter_eq_nil_iff.mpr fun y hy => by simpa using h y hy]
  rfl

/-- A slot in which one item is chosen, no other loses its last slot and none arrives serves that item. -/
theorem exec_coxSlot {job : JobId} {region : Fin 16} {lc : Fin 32} {start : Nat} {s : State} {j : Job} {g : Nat} {i : Image} {q : Pos}
    {x : CoxItem} (hsite : s.toChip.atSite { job := job, region := region, core := some lc, tick := start } = some (j, g))
    (himage : s.toChip.imageOf j = some i) (hpos : s.toChip.pos j = some q)
    (hbooked : bookedEscapes i q.phase region.val lc.val (start % 4096) = 0) (hstart : start % 128 = 0)
    (hx : chooseItem (s.toChip.core (s.toChip.seat g lc.val)).items start = some x)
    (hlast : ∀ y ∈ (s.toChip.core (s.toChip.seat g lc.val)).items, y ≠ x → start + 256 ≤ y.deadline)
    (hcoming : ∀ y ∈ (s.toChip.core (s.toChip.seat g lc.val)).coming, start < y.posted) (p : Path) :
    let core := s.toChip.seat g lc.val
    exec (.coxSlot job region lc start p) s = .next { s with
      toChip := ((s.toChip.serveItem core x).accPath core x.array p).corePath j.id core (core * 17) p } := by
  intro core
  have hitems : ∀ y ∈ ((s.toChip.serveItem core x).core core).items, start + 256 ≤ y.deadline := by
    have h : ((s.toChip.serveItem core x).core core).items = _ := congrArg Prod.fst (s.toChip.serveItem_coxWork core x)
    rw [h]
    intro y hy
    obtain ⟨hy, hne⟩ := List.mem_filter.mp hy
    exact hlast y hy (by simpa using hne)
  change execCoxSlot job region lc start p s = _
  simp only [execCoxSlot, act_next, Chip.onCore, hsite, himage, hpos, hbooked, Chip.arrivals_of_none _ _ _ hcoming, slotPeri, hx]
  simp only [core] at hitems
  simp [core, hstart, Chip.missed_of_none _ _ _ hitems]

/-! ## The weak-plot table -/

theorem le_of_keysRise {V : Type} {lo : Nat} {m : SMap V} (h : keysRise lo m = true) {e : Nat × V} (he : e ∈ m) : lo ≤ e.1 := by
  induction m generalizing lo with
  | nil => simp at he
  | cons x m ih =>
    simp only [keysRise, Bool.and_eq_true, decide_eq_true_eq] at h
    rcases List.mem_cons.mp he with rfl | he
    · exact h.1
    · exact Nat.le_trans (Nat.le_succ_of_le h.1) (ih h.2 he)

/-- A table in canonical form shows each of its entries. -/
theorem look_of_mem {V : Type} (d : V) {lo : Nat} {m : SMap V} (h : keysRise lo m = true) {e : Nat × V} (he : e ∈ m) : look d m e.1 = e.2 := by
  induction m generalizing lo with
  | nil => simp at he
  | cons x m ih =>
    simp only [keysRise, Bool.and_eq_true, decide_eq_true_eq] at h
    rcases List.mem_cons.mp he with rfl | he
    · simp [look]
    · have := le_of_keysRise h.2 he
      rw [look, if_neg (by omega)]
      exact ih h.2 he

/-- A choice along a list is a member of it. -/
theorem foldl_choice_mem {α : Type} (f : Option α → α → Option α) (hf : ∀ b x, f b x = b ∨ f b x = some x) (l : List α) (b : Option α) {x : α}
    (h : l.foldl f b = some x) : x ∈ l ∨ b = some x := by
  induction l generalizing b with
  | nil => exact .inr h
  | cons y l ih =>
    rcases ih (f b y) h with h | h
    · exact .inl (List.mem_cons_of_mem _ h)
    · rcases hf b y with e | e <;> rw [e] at h
      · exact .inr h
      · exact .inl (by simp_all)

/-- The entry that has waited longest is one of the table that waits. -/
theorem mem_of_longestWaiting {t : SMap TableEntry} {e : Nat × TableEntry} (h : longestWaiting t = some e) : e ∈ t ∧ e.2.state = 1 := by
  have hmem := (foldl_choice_mem _ (fun b x => ?_) _ _ h).resolve_right (by simp)
  · simpa using hmem
  · cases b with
    | none => exact .inr rfl
    | some b =>
      dsimp only
      split
      · exact .inr rfl
      · exact .inl rfl

/-- The next entry begins to fill; a valid one of a canonical table stays as it is. -/
theorem CoreSt.look_startFill {k : CoreSt} {lo n : Nat} (h : keysRise lo k.table = true) (hn : (look ({} : TableEntry) k.table n).state = 3) :
    look ({} : TableEntry) k.startFill.table n = look ({} : TableEntry) k.table n := by
  unfold CoreSt.startFill
  split
  · rfl
  · split
    next m e hm =>
      obtain ⟨hmem, hstate⟩ := mem_of_longestWaiting hm
      have hlook := look_of_mem ({} : TableEntry) h hmem
      dsimp only
      rw [look_put_ne ({} : TableEntry)]
      intro hnm
      subst hnm
      rw [hlook, hstate] at hn
      exact absurd hn (by decide)
    · rfl

/-- Settles O8: the item chosen is served, whatever is on the way of it; the entry that has filled stays valid while the next one begins. -/
theorem coxSlotServesTheItem : Obligations.CoxSlotServesTheItem := by
  unfold Obligations.CoxSlotServesTheItem
  refine ⟨fun job region lc start s j g i q x => ?slot, fun g k entry s => ?table⟩
  case slot =>
    intro core hsite himage hpos hbooked hstart hx hlast hcoming
    refine ⟨_, exec_coxSlot hsite himage hpos hbooked hstart hx hlast hcoming _, ?_⟩
    have hwork := ((Chip.core_keep_corePath CoreSt.coxWork _ j.id core (core * 17) core .clean fun _ _ _ => rfl).trans
      (Chip.core_keep_accPath CoreSt.coxWork _ core x.array core .clean fun _ _ _ => rfl)).trans (s.toChip.serveItem_coxWork core x)
    refine ⟨congrArg Prod.fst hwork, congrArg (Prod.fst ∘ Prod.snd) hwork, congrArg (Prod.snd ∘ Prod.snd) hwork, ?_⟩
    exact congrArg Prod.snd (Chip.serveItem_vaultMem ..)
  case table =>
    intro core e hrise hstate hstrokes
    have hput : keysRise 0 (put ({} : TableEntry) (s.toChip.core core).table entry.val { e with state := 3 }) = true := by
      rw [put, if_neg (by rw [TableEntry.mk.injEq]; simp)]
      exact keysRise_insertAt 0 _ _ _ (Nat.zero_le _) hrise
    have hvalid := look_put_same ({} : TableEntry) (s.toChip.core core).table entry.val { e with state := 3 }
    refine ⟨_, rfl, ?_, rfl⟩
    dsimp only
    have hfilled : (decide (e.state = 2) && decide (16 ≤ e.strokes)) = true := by simp [hstate, hstrokes]
    rw [Chip.core_upCore, if_pos hfilled]
    rw [CoreSt.look_startFill hput (by rw [hvalid]), hvalid]

end Sys2Proof.Machine

/-! The optical commands (R66 to R69, R143): the obligation O9. -/

namespace Sys2Proof.Machine

/-! ## Tables of numbers in row order -/

/-- A table written row by row is one list. -/
theorem flatMap_range_flatMap_range {α : Type} (a b : Nat) (f : Nat → Nat → List α) :
    ((List.range a).flatMap fun r => (List.range b).flatMap (f r)) = (List.range (a * b)).flatMap fun i => f (i / b) (i % b) := by
  induction a with
  | zero => simp
  | succ a ih =>
    rw [List.range_succ, List.flatMap_append, ih, Nat.succ_mul, List.range_add, List.flatMap_append]
    congr 1
    rw [List.flatMap_cons, List.flatMap_nil, List.append_nil, List.flatMap_map]
    refine List.flatMap_congr fun i hi => ?_
    have hi : i < b := by simpa using hi
    rw [Nat.mul_comm a b, Nat.mul_add_div (by omega), Nat.mul_add_mod, Nat.div_eq_of_lt hi, Nat.mod_eq_of_lt hi, Nat.add_zero]

/-! ## The bytes of a result -/

section
variable (m : Mem) (a b : Nat) (op : OptOp)

/-- The exact results of an OPT.TILE in the order of its bytes (R68): row, run position, column. -/
def optValue (i : Nat) : Nat := trunc 64 (optDot m a b op (i / 16 / op.count) (i / 16 % op.count) (i % 16))

def optBytes : List Byte := (List.range (op.rows * op.count * 16)).flatMap fun i => leBytes 8 (optValue m a b op i)

theorem length_optBytes : (optBytes m a b op).length = optResBytes op := by
  rw [optBytes, length_flatMap_range _ 8 _ (fun _ => length_leBytes ..), optResBytes]
  omega

theorem optBytes_eq : ((List.range op.rows).flatMap fun r => (List.range op.count).flatMap fun q =>
    (List.range 16).flatMap fun col => leBytes 8 (trunc 64 (optDot m a b op r q col))) = optBytes m a b op := by
  rw [flatMap_range_flatMap_range op.rows op.count fun r q =>
    (List.range 16).flatMap fun col => leBytes 8 (trunc 64 (optDot m a b op r q col))]
  exact flatMap_range_flatMap_range (op.rows * op.count) 16 fun i col =>
    leBytes 8 (trunc 64 (optDot m a b op (i / op.count) (i % op.count) col))

theorem readLE_optBytes (m' : Mem) (dst : Nat) {r q col : Nat} (hr : r < op.rows) (hq : q < op.count) (hcol : col < 16) :
    readLE (writeBytes m' dst (optBytes m a b op)) (dst + 8 * ((r * op.count + q) * 16 + col)) 8 = trunc 64 (optDot m a b op r q col) := by
  have hi : (r * op.count + q) * 16 + col < op.rows * op.count * 16 := by nlinarith
  rw [optBytes, readLE_writeBytes_flatMap _ _ 8 _ (optValue m a b op) hi (trunc_lt 64 _), optValue]
  have h16 : ((r * op.count + q) * 16 + col) / 16 = r * op.count + q := by omega
  have hdiv : (r * op.count + q) / op.count = r := by
    rw [Nat.mul_comm, Nat.mul_add_div (by omega), Nat.div_eq_of_lt hq, Nat.add_zero]
  have hmod : (r * op.count + q) % op.count = q := by rw [Nat.mul_comm, Nat.mul_add_mod, Nat.mod_eq_of_lt hq]
  rw [h16, hdiv, hmod, show ((r * op.count + q) * 16 + col) % 16 = col by omega]

end

/-- An OPT.TILE with no wrong reading leaves its exact results at the destination (R143). -/
theorem Chip.optIssue_mem (c : Chip) (st : Site) (j : Job) (g : Nat) (op : OptOp) (p : Path) :
    (c.optIssue st j g op [] p).mem = { c.mem with rstg := (writeBytes c.mem.rstg (c.regionAt j g op.dst.toNat)
      (optBytes c.mem.rstg (c.regionAt j g op.aAddr.toNat) (c.regionAt j g op.bAddr.toNat) op)) } := by
  unfold Chip.optIssue
  dsimp only
  refine (congrArg Prod.snd (Chip.regionPath_vaultMem ..)).trans ((congrArg Prod.snd (Chip.addDuty_vaultMem ..)).trans ?_)
  rw [← optBytes_eq]
  split <;> rfl

theorem exec_optTile {st : Site} {op : OptOp} {p : Path} {s : State} {j : Job} {g : Nat} (hsite : s.toChip.atSite st = some (j, g))
    (hseq : st.onSeq = true) (hlegal : op.legal = true) (hcount : 0 < op.count) (hrows : 0 < op.rows) (hkblk : 0 < op.kblk)
    (ha : s.toChip.fitsRegion st op.aAddr.toNat (optABytes op) = true) (hb : s.toChip.fitsRegion st op.bAddr.toNat (optBBytes op) = true)
    (hdst : s.toChip.fitsRegion st op.dst.toNat (optResBytes op) = true) (hfetch : p.fetchBad = false) (rds : List OptReading) :
    exec (.optTile st op rds p) s = .next { s with toChip := (s.toChip.optIssue st j g op rds p) } := by
  change execOptTile st op rds p s = _
  simp [execOptTile, act_next, Chip.onSeq, hsite, hseq, hlegal, hcount.ne', hrows.ne', hkblk.ne', ha, hb, hdst, hfetch]

theorem exec_optDummy {st : Site} {first : Fin 128} {count : Nat} {span : BitVec 16} {even : Bool} {s : State} {j : Job} {g : Nat}
    (hsite : s.toChip.atSite st = some (j, g)) (hseq : st.onSeq = true) (hlegal : dummyLegal first count even = true) (hspan : span ≠ 0) :
    exec (.optDummy st first count span even .good) s = .next { s with
      toChip := (s.toChip.addDuty g st.tick st.tick (st.tick + span.toNat - 1) (runPlots first.val count even)) } := by
  change execOptDummy st first count span even .good s = _
  simp only [execOptDummy, act_next, Chip.onSeqWord, Chip.onSeq, Chip.fetched, hsite, hseq, hlegal, if_neg hspan, Bool.not_true,
    Bool.or_self, Bool.false_eq_true, if_false]

/-- Settles O9: without a wrong reading the results are the exact dot products, written in row order. -/
theorem opticalCommandsComplete : Obligations.OpticalCommandsComplete := by
  unfold Obligations.OpticalCommandsComplete
  intro st s j g hsite hseq
  refine ⟨fun op p hlegal hcount hrows hkblk ha hb hdst hfetch => ?tile, fun first count span even hlegal hspan => ?dummy⟩
  case tile =>
    refine ⟨_, exec_optTile hsite hseq hlegal hcount hrows hkblk ha hb hdst hfetch [], ?_⟩
    simp only [Chip.optIssue_mem]
    exact ⟨fun r q col hr hq hcol => readLE_optBytes _ _ _ _ _ _ hr hq hcol, sameOutside_writeBytes _ _ _ _ (length_optBytes ..).le, trivial⟩
  case dummy =>
    refine ⟨_, exec_optDummy hsite hseq hlegal hspan, ?_, rfl⟩
    simp [Chip.addDuty]

end Sys2Proof.Machine

/-! Moves of bytes (R54, R70 to R73, R80): windows, slot entries, chunks; the obligations O10 and O11. -/

namespace Sys2Proof.Machine

/-! ## Slot entries -/

theorem foldl_min_occurrences (per bytes start first n : Nat) :
    ((List.range n).map (fun k => (start + 4096 * (first + k), min per (bytes - k * per)))).foldl (fun n o => n + o.2) 0 = min (n * per) bytes := by
  induction n with
  | zero => simp
  | succ n ih =>
    rw [List.range_succ, List.map_append, List.foldl_append, ih]
    rw [List.map_cons, List.map_nil, List.foldl_cons, List.foldl_nil, Nat.add_one_mul n per]
    dsimp only
    omega

/-- An entry that carries any bytes carries all of a move (R71). -/
theorem carried_eq {e : Slot} (he : 0 < e.bytes) (bytes from_ : Nat) : carried e bytes from_ = bytes := by
  rw [carried, occurrences, if_neg he.ne']
  refine (foldl_min_occurrences ..).trans (Nat.min_eq_right ?_)
  have := Nat.div_add_mod (bytes + e.bytes - 1) e.bytes
  have := Nat.mod_lt (bytes + e.bytes - 1) he
  rw [ceilDiv, Nat.mul_comm]
  omega

/-! ## Chunks -/

/-- Waiting writes carried out in order. -/
def applyWrites (m : Mem) (l : List (Nat × List Byte)) : Mem := l.foldl (fun m p => writeBytes m p.1 p.2) m

/-- No waiting write is of this address. -/
def untouched (l : List (Nat × List Byte)) (x : Nat) : Prop := ∀ p ∈ l, x < p.1 ∨ p.1 + p.2.length ≤ x

theorem getByte_applyWrites (m : Mem) (l : List (Nat × List Byte)) {x : Nat} (h : untouched l x) : getByte (applyWrites m l) x = getByte m x := by
  induction l generalizing m with
  | nil => rfl
  | cons p l ih =>
    exact (ih _ fun q hq => h q (List.mem_cons_of_mem _ hq)).trans (getByte_writeBytes_outside _ _ _ _ (h p List.mem_cons_self))

theorem writeBytes_append (m : Mem) (a : Nat) (l l' : List Byte) : writeBytes m a (l ++ l') = writeBytes (writeBytes m a l) (a + l.length) l' := by
  induction l generalizing m a with
  | nil => rfl
  | cons b l ih => rw [List.cons_append, writeBytes, writeBytes, ih, List.length_cons, Nat.add_assoc, Nat.add_comm 1]

theorem readBytes_append (m : Mem) (a n n' : Nat) : readBytes m a (n + n') = readBytes m a n ++ readBytes m (a + n) n' := by
  induction n generalizing a with
  | zero => simp [readBytes]
  | succ n ih => rw [Nat.succ_add, readBytes, readBytes, ih, List.cons_append, Nat.add_assoc, Nat.add_comm 1]

theorem readBytes_congr {m m' : Mem} {a n : Nat} (h : ∀ x, a ≤ x → x < a + n → getByte m' x = getByte m x) : readBytes m' a n = readBytes m a n := by
  induction n generalizing a with
  | zero => rfl
  | succ n ih => rw [readBytes, readBytes, h a (by omega) (by omega), ih fun x hx hx' => h x (by omega) (by omega)]

/-- The chunks of a move, each with the bytes that stood at its source. -/
def chunkWrites (m : Mem) : Nat → Nat → Nat → Nat → List (Nat × List Byte)
  | _, _, 0, _ => []
  | src, dst, n + 1, left => (dst, readBytes m src (min 256 left)) :: chunkWrites m (src + 256) (dst + 256) n (left - min 256 left)

theorem chunkWrites_congr {m m' : Mem} {src : Nat} (dst n left : Nat) (h : ∀ x, src ≤ x → x < src + left → getByte m' x = getByte m x) :
    chunkWrites m' src dst n left = chunkWrites m src dst n left := by
  induction n generalizing src dst left with
  | zero => rfl
  | succ n ih =>
    rw [chunkWrites, chunkWrites, readBytes_congr fun x hx hx' => h x hx (by omega), ih _ _ fun x hx hx' => h x (by omega) (by omega)]

/-- The chunks together write the bytes that stood at the source. -/
theorem applyWrites_chunkWrites (m m' : Mem) (src dst n left : Nat) (h : left ≤ 256 * n) :
    applyWrites m' (chunkWrites m src dst n left) = writeBytes m' dst (readBytes m src left) := by
  induction n generalizing src dst left m' with
  | zero =>
    obtain rfl : left = 0 := by omega
    rfl
  | succ n ih =>
    rw [chunkWrites, applyWrites, List.foldl_cons]
    refine (ih _ _ _ _ (by omega)).trans ?_
    by_cases hl : left ≤ 256
    · rw [Nat.min_eq_right hl, Nat.sub_self]
      rfl
    · obtain ⟨k, rfl⟩ : ∃ k, left = 256 + k := ⟨left - 256, by omega⟩
      rw [Nat.min_eq_left (by omega), Nat.add_sub_cancel_left, readBytes_append, writeBytes_append, length_readBytes]

/-- The oldest waiting write, if it is ready, carried out. -/
def oldestWritten (ready : Bool) (m : Mem) (pend : List (Nat × List Byte)) : Mem :=
  if ready then (match pend with | p :: _ => writeBytes m p.1 p.2 | [] => m) else m

/-- The writes that wait on. -/
def stillWaiting {α : Type} (ready : Bool) (pend : List α) : List α := if ready then pend.drop 1 else pend

/-- One chunk of a move. -/
theorem moveChunks_succ (lat src dst n left : Nat) (m : Mem) (pend : List (Nat × List Byte)) :
    moveChunks lat src dst (n + 1) left m pend = moveChunks lat (src + 256) (dst + 256) n (left - min 256 left)
      (oldestWritten (decide (lat + 1 ≤ pend.length)) m pend)
      (stillWaiting (decide (lat + 1 ≤ pend.length)) pend
        ++ [(dst, readBytes (oldestWritten (decide (lat + 1 ≤ pend.length)) m pend) src (min 256 left))]) := rfl

theorem applyWrites_oldestWritten (m : Mem) (pend l : List (Nat × List Byte)) (ready : Bool) :
    applyWrites (oldestWritten ready m pend) (stillWaiting ready pend ++ l) = applyWrites m (pend ++ l) := by
  cases ready
  · rfl
  · cases pend <;> rfl

theorem mem_of_mem_stillWaiting {α : Type} {ready : Bool} {pend : List α} {p : α} (h : p ∈ stillWaiting ready pend) : p ∈ pend := by
  cases ready
  · exact h
  · exact List.mem_of_mem_drop h

theorem untouched_stillWaiting {pend : List (Nat × List Byte)} {x : Nat} (ready : Bool) (h : untouched pend x) :
    untouched (stillWaiting ready pend) x := fun p hp => h p (mem_of_mem_stillWaiting hp)

theorem getByte_oldestWritten {pend : List (Nat × List Byte)} {x : Nat} (m : Mem) (ready : Bool) (h : untouched pend x) :
    getByte (oldestWritten ready m pend) x = getByte m x := by
  cases ready
  · rfl
  · cases pend with
    | nil => rfl
    | cons p l => exact getByte_writeBytes_outside _ _ _ _ (h p List.mem_cons_self)

theorem untouched_append_chunk {pend : List (Nat × List Byte)} {x : Nat} (h : untouched pend x) {m : Mem} {src dst b : Nat}
    (hx : x < dst ∨ dst + b ≤ x) : untouched (pend ++ [(dst, readBytes m src b)]) x := by
  intro p hp
  rcases List.mem_append.mp hp with hp | hp
  · exact h p hp
  · obtain rfl := List.mem_singleton.mp hp
    rwa [length_readBytes]

/-- A move that no write of its own disturbs carries out the waiting writes and then its chunks, with the bytes as they stood (R73). -/
theorem moveChunks_eq (lat src dst n left : Nat) (m : Mem) (pend : List (Nat × List Byte))
    (hpend : ∀ x, src ≤ x → x < src + left → untouched pend x) (hdst : src + left ≤ dst ∨ dst + left ≤ src) :
    moveChunks lat src dst n left m pend = applyWrites m (pend ++ chunkWrites m src dst n left) := by
  induction n generalizing src dst left m pend with
  | zero => rw [chunkWrites, List.append_nil]; rfl
  | succ n ih =>
    rw [moveChunks_succ]
    generalize decide (lat + 1 ≤ pend.length) = ready
    have hm : ∀ x, src ≤ x → x < src + left → getByte (oldestWritten ready m pend) x = getByte m x :=
      fun x hx hx' => getByte_oldestWritten m ready (hpend x hx hx')
    have hwait : ∀ x, src + 256 ≤ x → x < src + 256 + (left - min 256 left) →
        untouched (stillWaiting ready pend ++ [(dst, readBytes (oldestWritten ready m pend) src (min 256 left))]) x := fun x hx hx' =>
      untouched_append_chunk (untouched_stillWaiting ready (hpend x (by omega) (by omega))) (by omega)
    rw [ih _ _ _ _ _ hwait (by omega), chunkWrites_congr _ _ _ fun x hx hx' => hm x (by omega) (by omega),
      readBytes_congr fun x hx hx' => hm x hx (by omega), List.append_assoc, List.singleton_append, applyWrites_oldestWritten]
    rfl

/-- A move writes to its destination and to nothing else. -/
theorem getByte_moveChunks_outside (lat src dst n left : Nat) (m : Mem) (pend : List (Nat × List Byte)) {x : Nat} (hpend : untouched pend x)
    (hx : x < dst ∨ dst + left ≤ x) : getByte (moveChunks lat src dst n left m pend) x = getByte m x := by
  induction n generalizing src dst left m pend with
  | zero => exact getByte_applyWrites m pend hpend
  | succ n ih =>
    rw [moveChunks_succ]
    exact (ih _ _ _ _ _ (untouched_append_chunk (untouched_stillWaiting _ hpend) (by omega)) (by omega)).trans
      (getByte_oldestWritten m _ hpend)

section
variable (m : Mem) (src dst bytes : Nat)

/-- All the chunks of a move. -/
def moved : Mem := moveChunks 4 src dst (ceilDiv bytes 256) bytes m []

theorem sameOutside_moved : sameOutside m (moved m src dst bytes) dst bytes :=
  fun _ hx => getByte_moveChunks_outside _ _ _ _ _ _ _ (fun _ h => absurd h List.not_mem_nil) hx

/-- A move between ranges that do not overlap brings the bytes of the source. -/
theorem moved_eq (h : src + bytes ≤ dst ∨ dst + bytes ≤ src) : moved m src dst bytes = writeBytes m dst (readBytes m src bytes) := by
  rw [moved, moveChunks_eq _ _ _ _ _ _ _ (fun _ _ _ _ hp => absurd hp List.not_mem_nil) h, List.nil_append,
    applyWrites_chunkWrites _ _ _ _ _ _ (by rw [ceilDiv]; omega)]

theorem getByte_copied (m' : Mem) {k : Nat} (hk : k < bytes) : getByte (writeBytes m' dst (readBytes m src bytes)) (dst + k) = getByte m (src + k) :=
  getByte_writeBytes_inside _ _ _ _ _ (getElem?_readBytes m src bytes k hk)

theorem getByte_moved (h : src + bytes ≤ dst ∨ dst + bytes ≤ src) {k : Nat} (hk : k < bytes) :
    getByte (moved m src dst bytes) (dst + k) = getByte m (src + k) := by
  rw [moved_eq _ _ _ _ h, getByte_copied _ _ _ _ _ hk]

theorem sameOutside_copied (m' : Mem) : sameOutside m' (writeBytes m' dst (readBytes m src bytes)) dst bytes :=
  sameOutside_writeBytes _ _ _ _ (length_readBytes ..).le

end

/-! ## The moves -/

section
variable {s : State} {st : Site} {j : Job} {g : Nat} (hsite : s.toChip.atSite st = some (j, g)) {p : Path} (hfetch : p.fetchBad = false)
  (hmoves : s.toChip.moves j = true) {n : Nat} (hn : 0 < n)
include hsite hfetch hmoves hn

theorem seqMove_issued (f : Chip → Job → Nat → Chip) : seqMove st p n f s = .next { s with toChip := (f s.toChip j g) } := by
  simp [seqMove, act_next, Chip.onSeq, hsite, hfetch, hmoves, hn.ne']

theorem coreMove_issued {lc : Fin 32} (hcore : st.core = some lc) (f : Chip → Job → Nat → Nat → Chip) :
    coreMove st p n f s = .next { s with toChip := (f s.toChip j g (s.toChip.seat g lc.val)) } := by
  simp [coreMove, act_next, Chip.onCore, hsite, hcore, hfetch, hmoves, hn.ne']

end

/-- H2R through an entry that carries bytes brings the window's bytes to region staging (R71). -/
theorem Chip.h2r_mem {c : Chip} {st : Site} {j : Job} {op : HbmMove} {i : Image} {e : Slot} (himage : c.imageOf j = some i)
    (hslot : c.slotOf j i.memSlots op.slotRef.toNat st.region.val false = some e) (he : 0 < e.bytes) (g : Nat) (p : Path) :
    (c.h2r st j g op p).mem = { c.mem with rstg := (writeBytes c.mem.rstg (c.regionAt j g op.addr.toNat)
      (readWindow c.mem.hbm j.body.windowBase.toNat (c.moveOffset j st.region.val op.hbm) (hbmBytes op))) } := by
  simp only [Chip.h2r, himage, hslot, carried_eq he]
  exact congrArg Prod.snd ((Chip.residues_vaultMem ..).trans (Chip.hbmPath_vaultMem ..))

/-- R2H through an entry that carries bytes takes region staging's bytes to the window (R71). -/
theorem Chip.r2h_mem {c : Chip} {st : Site} {j : Job} {op : HbmMove} {i : Image} {e : Slot} (himage : c.imageOf j = some i)
    (hslot : c.slotOf j i.memSlots op.slotRef.toNat st.region.val true = some e) (he : 0 < e.bytes) (g : Nat) (p : Path) :
    (c.r2h st j g op p).mem = { c.mem with hbm := (writeWindow c.mem.hbm j.body.windowBase.toNat (c.moveOffset j st.region.val op.hbm)
      (readBytes c.mem.rstg (c.regionAt j g op.addr.toNat) (hbmBytes op))) } := by
  simp only [Chip.r2h, himage, hslot, carried_eq he]
  exact congrArg Prod.snd ((Chip.hbmWritePath_vaultMem ..).trans (Chip.regionPath_vaultMem ..))

section
variable (c : Chip) (st : Site) (j : Job) (g core : Nat) (op : CopyMove) (p : Path)

theorem Chip.r2c_mem : (c.r2c st j g core op p).mem = { c.mem with cstg := (writeBytes c.mem.cstg (coreByte core op.addrB.toNat)
    (readBytes c.mem.rstg (c.regionAt j g op.addrA.toNat) (copyBytes op))) } := congrArg Prod.snd (Chip.regionPath_vaultMem ..)

theorem Chip.c2r_mem : (c.c2r st j g core op p).mem = { c.mem with rstg := (writeBytes c.mem.rstg (c.regionAt j g op.addrA.toNat)
    (readBytes c.mem.cstg (coreByte core op.addrB.toNat) (copyBytes op))) } := congrArg Prod.snd (Chip.corePath_vaultMem ..)

theorem Chip.c2c_mem : (c.c2c st core op p).mem = { c.mem with
    cstg := (moved c.mem.cstg (coreByte core op.addrB.toNat) (coreByte core op.addrA.toNat) (copyBytes op)) } :=
  congrArg Prod.snd (Chip.corePath_vaultMem ..)

theorem Chip.r2r_mem : (c.r2r st j g op p).mem = { c.mem with
    rstg := (moved c.mem.rstg (c.regionAt j g op.addrB.toNat) (c.regionAt j g op.addrA.toNat) (copyBytes op)) } :=
  congrArg Prod.snd (Chip.regionPath_vaultMem ..)

end

/-- Settles O10: each move by the memory it leaves; two offsets of a window are two addresses. -/
theorem hbmMovesComplete : Obligations.HbmMovesComplete := by
  unfold Obligations.HbmMovesComplete
  intro st s j g hsite hseq
  refine ⟨fun op p i e hlegal hfetch hlen hfits hmoves himage hslot he => ?h2r,
    fun op p i e hlegal hfetch hlen hfits hmoves himage hslot he => ?r2h, fun a b => ?stride⟩
  case h2r =>
    refine ⟨{ s with toChip := (s.toChip.h2r st j g op p) }, ?_, ?_⟩
    · change execStgH2r st op p s = _
      simp only [execStgH2r, hlegal, hseq, hfits, Bool.not_true, Bool.or_self, Bool.false_eq_true, if_false]
      exact seqMove_issued hsite hfetch hmoves hlen _
    · simp only [Chip.h2r_mem himage hslot he]
      exact ⟨holdsAt_writeBytes _ _ _, sameOutside_writeBytes _ _ _ _ (length_readWindow ..).le, trivial⟩
  case r2h =>
    refine ⟨{ s with toChip := (s.toChip.r2h st j g op p) }, ?_, ?_⟩
    · change execStgR2h st op p s = _
      simp only [execStgR2h, hlegal, hseq, hfits, Bool.not_true, Bool.or_self, Bool.false_eq_true, if_false]
      exact seqMove_issued hsite hfetch hmoves hlen _
    · simp only [Chip.r2h_mem himage hslot he]
      refine ⟨fun k hk => getByte_writeWindow_inside _ _ _ _ _ _ (getElem?_readBytes _ _ _ _ hk), fun a ha => ?_, trivial⟩
      exact getByte_writeWindow_outside _ _ _ _ _ fun k hk => ha k (by simpa using hk)
  case stride =>
    have hjob := Chip.job?_of_atSite hsite
    refine ⟨{ s with toChip := (s.toChip.upJob st.job fun j => { j with
      strides := put {} j.strides st.region.val { repStride := a, repMod := b } }) }, ?_, ?_, rfl⟩
    · change execStgStride st a b .good s = _
      simp [execStgStride, hseq, act_next, Chip.onSeqWord, Chip.onSeq, hsite, Chip.fetched]
    · refine (congrArg _ (Chip.job?_upJob_same _ ?_ hjob)).trans ?_
      · exact fun _ => rfl
      · rw [Option.map_some, look_put_same]

/-- Settles O11: the bytes read are written whole, and a move of chunks between ranges that do not overlap is such a write. -/
theorem stagingCopiesComplete : Obligations.StagingCopiesComplete := by
  unfold Obligations.StagingCopiesComplete
  intro st s j g op p hsite hfetch hlen hmoves
  refine ⟨fun lc hcore => ⟨fun hlegal ha hb => ?r2c, fun hlegal ha hb => ?c2r, fun hlegal ha hb => ?c2c⟩, fun hseq hlegal ha hb => ?r2r⟩
  case r2c =>
    refine ⟨{ s with toChip := (s.toChip.r2c st j g (s.toChip.seat g lc.val) op p) }, ?_, ?_⟩
    · change execStgR2c st op p s = _
      simp only [execStgR2c, Site.onCore, hcore, hlegal, ha, hb, Option.isSome_some, Bool.not_true, Bool.or_self, Bool.and_self, Bool.false_eq_true,
        if_false]
      exact coreMove_issued hsite hfetch hmoves hlen hcore _
    · simp only [Chip.r2c_mem]
      exact ⟨fun k hk => getByte_copied _ _ _ _ _ hk, sameOutside_copied _ _ _ _ _, trivial⟩
  case c2r =>
    refine ⟨{ s with toChip := (s.toChip.c2r st j g (s.toChip.seat g lc.val) op p) }, ?_, ?_⟩
    · change execStgC2r st op p s = _
      simp only [execStgC2r, Site.onCore, hcore, hlegal, ha, hb, Option.isSome_some, Bool.not_true, Bool.or_self, Bool.and_self, Bool.false_eq_true,
        if_false]
      exact coreMove_issued hsite hfetch hmoves hlen hcore _
    · simp only [Chip.c2r_mem]
      exact ⟨fun k hk => getByte_copied _ _ _ _ _ hk, sameOutside_copied _ _ _ _ _, trivial⟩
  case c2c =>
    refine ⟨{ s with toChip := (s.toChip.c2c st (s.toChip.seat g lc.val) op p) }, ?_, ?_⟩
    · change execStgC2c st op p s = _
      simp only [execStgC2c, Site.onCore, hcore, hlegal, ha, hb, Option.isSome_some, Bool.not_true, Bool.or_self, Bool.and_self, Bool.false_eq_true,
        if_false]
      exact coreMove_issued hsite hfetch hmoves hlen hcore _
    · simp only [Chip.c2c_mem]
      refine ⟨fun hapart k hk => getByte_moved _ _ _ _ ?_ hk, sameOutside_moved _ _ _ _, trivial⟩
      simp only [coreByte, copyBytes]
      omega
  case r2r =>
    refine ⟨{ s with toChip := (s.toChip.r2r st j g op p) }, ?_, ?_⟩
    · change execStgR2r st op p s = _
      simp only [execStgR2r, hlegal, hseq, ha, hb, Bool.not_true, Bool.or_self, Bool.and_self, Bool.false_eq_true, if_false]
      exact seqMove_issued hsite hfetch hmoves hlen _
    · simp only [Chip.r2r_mem]
      refine ⟨fun hapart k hk => getByte_moved _ _ _ _ ?_ hk, sameOutside_moved _ _ _ _, trivial⟩
      simp only [Chip.regionAt, regionByte, copyBytes]
      omega

end Sys2Proof.Machine

/-! The exchanges between cores (R79, R80, R188, R193): the obligation O12. -/

namespace Sys2Proof.Machine

theorem readLE_writeBytes (m : Mem) (a w v : Nat) (hv : v < 256 ^ w) : readLE (writeBytes m a (leBytes w v)) a w = v := by
  have h := readBytes_eq_of_getByte _ a (leBytes w v) (holdsAt_writeBytes m a (leBytes w v))
  rw [length_leBytes] at h
  rw [readLE, h, leNat_leBytes _ _ hv]

/-! ## Records added -/

theorem clampRecord_lt (x : Int) : (clampRecord x).1 < 256 ^ 16 :=
  (trunc_lt 128 (clampInt (-(2 ^ 127)) (2 ^ 127 - 1) x)).trans_le (by norm_num)

theorem addRecords_nil (m : Mem) (dst n : Nat) : addRecords m dst [] n = (m, 0) := by cases n <;> rfl

/-- One record more of those that arrive. -/
theorem addRecords_succ (m : Mem) (dst : Nat) {bytes : List Byte} (hb : bytes ≠ []) (n : Nat) :
    (addRecords m dst bytes (n + 1)).1 = (addRecords (writeBytes m dst (leBytes 16
      (clampRecord (sext 128 (leNat (bytes.take 16)) + sext 128 (readLE m dst 16))).1)) (dst + 16) (bytes.drop 16) n).1 := by
  cases bytes with
  | nil => exact absurd rfl hb
  | cons b l => rfl

/-- Records are added where they arrive and nowhere else. -/
theorem getByte_addRecords_outside (m : Mem) (dst : Nat) (bytes : List Byte) (n : Nat) (hlen : 16 ∣ bytes.length) {x : Nat}
    (hx : x < dst ∨ dst + bytes.length ≤ x) : getByte (addRecords m dst bytes n).1 x = getByte m x := by
  induction n generalizing m dst bytes with
  | zero => cases bytes <;> rfl
  | succ n ih =>
    by_cases hb : bytes = []
    · rw [hb, addRecords_nil]
    have hpos : bytes.length ≠ 0 := fun h => hb (List.length_eq_zero_iff.mp h)
    have hdrop : (bytes.drop 16).length = bytes.length - 16 := List.length_drop
    rw [addRecords_succ _ _ hb, ih _ _ _ (by omega) (by omega)]
    exact getByte_writeBytes_outside _ _ _ _ (by rw [length_leBytes]; omega)

/-! ## Chunks of records -/

/-- The memory after waiting chunks of records. -/
def applyAdds (m : Mem) (l : List (Nat × List Byte)) : Mem := l.foldl (fun m p => (addRecords m p.1 p.2 16).1) m

/-- Every waiting chunk is of whole records. -/
def wholeRecords (l : List (Nat × List Byte)) : Prop := ∀ p ∈ l, 16 ∣ p.2.length

theorem getByte_applyAdds (m : Mem) (l : List (Nat × List Byte)) {x : Nat} (h : untouched l x) (hl : wholeRecords l) :
    getByte (applyAdds m l) x = getByte m x := by
  induction l generalizing m with
  | nil => rfl
  | cons p l ih =>
    exact (ih _ (fun q hq => h q (List.mem_cons_of_mem _ hq)) fun q hq => hl q (List.mem_cons_of_mem _ hq)).trans
      (getByte_addRecords_outside _ _ _ _ (hl p List.mem_cons_self) (h p List.mem_cons_self))

theorem foldl_addRecords_fst (l : List (Nat × List Byte)) (s : Mem × Nat) :
    (l.foldl (fun (s : Mem × Nat) p => let (m, n) := addRecords s.1 p.1 p.2 16; (m, s.2 + n)) s).1 = applyAdds s.1 l := by
  induction l generalizing s with
  | nil => rfl
  | cons p l ih => exact ih _

/-- The oldest waiting chunk, if it is ready, added. -/
def oldestAdded (ready : Bool) (m : Mem) (pend : List (Nat × List Byte)) : Mem :=
  if ready then (match pend with | p :: _ => (addRecords m p.1 p.2 16).1 | [] => m) else m

theorem addChunks_zero (lat src dst left : Nat) (m : Mem) (pend : List (Nat × List Byte)) (k : Nat) :
    (addChunks lat src dst 0 left m pend k).1 = applyAdds m pend := foldl_addRecords_fst ..

theorem addChunks_succ (lat src dst n left : Nat) (m : Mem) (pend : List (Nat × List Byte)) (k : Nat) :
    ∃ k', addChunks lat src dst (n + 1) left m pend k = addChunks lat (src + 256) (dst + 256) n (left - min 256 left)
      (oldestAdded (decide (lat + 1 ≤ pend.length)) m pend)
      (stillWaiting (decide (lat + 1 ≤ pend.length)) pend
        ++ [(dst, readBytes (oldestAdded (decide (lat + 1 ≤ pend.length)) m pend) src (min 256 left))]) k' := by
  conv => enter [1, k', 1]; unfold addChunks
  cases decide (lat + 1 ≤ pend.length) with
  | false => exact ⟨_, rfl⟩
  | true => cases pend <;> exact ⟨_, rfl⟩

theorem getByte_oldestAdded {pend : List (Nat × List Byte)} {x : Nat} (m : Mem) (ready : Bool) (h : untouched pend x) (hl : wholeRecords pend) :
    getByte (oldestAdded ready m pend) x = getByte m x := by
  cases ready
  · rfl
  · cases pend with
    | nil => rfl
    | cons p l => exact getByte_addRecords_outside _ _ _ _ (hl p List.mem_cons_self) (h p List.mem_cons_self)

theorem wholeRecords_append_chunk {pend : List (Nat × List Byte)} (ready : Bool) (h : wholeRecords pend) {m : Mem} {src dst b : Nat}
    (hb : 16 ∣ b) : wholeRecords (stillWaiting ready pend ++ [(dst, readBytes m src b)]) := by
  intro p hp
  rcases List.mem_append.mp hp with hp | hp
  · exact h p (mem_of_mem_stillWaiting hp)
  · obtain rfl := List.mem_singleton.mp hp
    rwa [length_readBytes]

/-- An exchange with add writes to its destination and to nothing else. -/
theorem getByte_addChunks_outside (lat src dst n left : Nat) (m : Mem) (pend : List (Nat × List Byte)) (k : Nat) (hleft : 16 ∣ left) {x : Nat}
    (hpend : untouched pend x) (hwhole : wholeRecords pend) (hx : x < dst ∨ dst + left ≤ x) :
    getByte (addChunks lat src dst n left m pend k).1 x = getByte m x := by
  induction n generalizing src dst left m pend k with
  | zero => rw [addChunks_zero, getByte_applyAdds _ _ hpend hwhole]
  | succ n ih =>
    obtain ⟨k', h⟩ := addChunks_succ lat src dst n left m pend k
    rw [h]
    exact (ih _ _ _ _ _ _ (by omega) (untouched_append_chunk (untouched_stillWaiting _ hpend) (by omega))
      (wholeRecords_append_chunk _ hwhole (by omega)) (by omega)).trans (getByte_oldestAdded m _ hpend hwhole)

/-- One record added (R188, R193). -/
theorem addChunks_one (lat src dst : Nat) (m : Mem) : (addChunks lat src dst 1 16 m [] 0).1
    = writeBytes m dst (leBytes 16 (clampRecord (sext 128 (readLE m src 16) + sext 128 (readLE m dst 16))).1) := by
  obtain ⟨k', h⟩ := addChunks_succ lat src dst 0 16 m [] 0
  have hbytes : readBytes m src 16 ≠ [] := by simp [readBytes]
  have htake : (readBytes m src 16).take 16 = readBytes m src 16 := List.take_of_length_le (length_readBytes ..).le
  have hdrop : (readBytes m src 16).drop 16 = [] := List.drop_of_length_le (length_readBytes ..).le
  rw [h, addChunks_zero]
  change (addRecords m dst (readBytes m src 16) (15 + 1)).1 = _
  rw [addRecords_succ _ _ hbytes, htake, hdrop, addRecords_nil]
  rfl

/-! ## The exchange -/

/-- Core staging after an exchange of `n` bytes. -/
def exchanged (m : Mem) (add : Bool) (src dst n : Nat) : Mem :=
  if add then (addChunks 4 src dst (ceilDiv n 256) n m [] 0).1 else moved m src dst n

theorem Chip.exchange_mem (c : Chip) (opByte : Nat) (st : Site) (g core dcore : Nat) (op : XchOp) (p : Path) :
    (c.exchange opByte st g core dcore op p).mem = { c.mem with
      cstg := (exchanged c.mem.cstg op.add (coreByte core op.src.toNat) (coreByte dcore op.dst.toNat) (xchBytes op)) } := by
  unfold Chip.exchange exchanged
  cases op.add
  all_goals
    refine (congrArg Prod.snd (Chip.residues_vaultMem ..)).trans ((congrArg Prod.snd (Chip.corePath_vaultMem ..)).trans ?_)
    exact congrArg Prod.snd (Chip.datumNote_vaultMem ..)

theorem sameOutside_exchanged (m : Mem) (add : Bool) (src dst n : Nat) (hn : 16 ∣ n) : sameOutside m (exchanged m add src dst n) dst n := by
  cases add
  · exact sameOutside_moved m src dst n
  · exact fun x hx => getByte_addChunks_outside _ _ _ _ _ _ _ _ hn (fun _ h => absurd h List.not_mem_nil)
      (fun _ h => absurd h List.not_mem_nil) hx

/-- Settles O12: an exchange without add is a move of chunks, one with add adds record by record. -/
theorem exchangesComplete : Obligations.ExchangesComplete := by
  unfold Obligations.ExchangesComplete
  intro st s j g h lc op p hsite hcore hfetch hlen hmoves hfits src dst n after
  have hafter : ∀ opByte, after { s with toChip := (s.toChip.exchange opByte st g (s.toChip.seat g lc.val) (s.toChip.seat h op.dstCore.val) op p) } := by
    intro opByte
    simp only [after, Chip.exchange_mem]
    refine ⟨fun hadd hapart k hk => ?_, fun hadd hone => ?_, sameOutside_exchanged _ _ _ _ _ (by simp [xchBytes]), trivial⟩
    · rw [hadd]
      exact getByte_moved _ _ _ _ hapart hk
    · have hn : xchBytes op = 16 := by simp [xchBytes, hone]
      rw [hadd, hn]
      simp only [exchanged, if_true]
      rw [show ceilDiv 16 256 = 1 by decide, addChunks_one]
      exact readLE_writeBytes _ _ _ _ (clampRecord_lt _)
  refine ⟨fun hregion hg => ⟨_, ?_, hafter 0xA0⟩, fun hregion hphys => ⟨_, ?_, hafter 0xA1⟩⟩
  · change execXchCore st op p s = _
    subst hg
    simp only [execXchCore, Site.onCore, hcore, hregion, hfits, Option.isSome_some, bne_self_eq_false, Bool.not_true, Bool.or_self,
      Bool.false_eq_true, if_false]
    exact coreMove_issued hsite hfetch hmoves hlen hcore _
  · change execXchRegion st op p s = _
    simp only [execXchRegion, Site.onCore, hcore, beq_eq_false_iff_ne.mpr hregion, hfits, Option.isSome_some, Bool.not_true, Bool.or_self,
      Bool.false_eq_true, if_false]
    refine (coreMove_issued hsite hfetch hmoves hlen hcore _).trans ?_
    simp only [hphys]

end Sys2Proof.Machine

/-! The vector engine (R74 to R78, R218, R222, R236): what an issued word does to the block; the obligation O13. -/

namespace Sys2Proof.Machine

/-! ## What a word counts -/

/-- Invalid operations and overflows of a core (R238). -/
def CoreSt.vecCounts (k : CoreSt) : BitVec 16 × BitVec 16 := (k.vecInvalid, k.vecOverflow)

section
variable {β : Type} (F : CoreSt → β)

theorem Chip.core_keep_datumNote (c : Chip) (core opByte g n : Nat) (cn : Cnt)
    (hlast : ∀ k x y z, F { k with datumOp := x, datumG := y, datumStroke := z } = F k) (hlogged : ∀ k x, F { k with datumLogged := x } = F k) :
    F ((c.datumNote core opByte g cn).core n) = F (c.core n) := by
  unfold Chip.datumNote
  have hnote := Chip.when_keep (fun d => F (d.core n)) c (cn.dconv + cn.dadd + cn.dinv != 0)
    (fun d => d.upCore core (fun k => { k with
      datumOp := BitVec.ofNat 8 opByte, datumG := BitVec.ofNat 8 g, datumStroke := (c.region (core / 34)).stroke.setWidth 16 }))
    fun d => Chip.core_keep_upCore F d _ _ _ fun _ => hlast ..
  dsimp only at hnote ⊢
  generalize Chip.when c _ _ = d at hnote ⊢
  split
  · exact hnote
  · refine (Chip.core_keep_upCore F _ _ _ _ ?_).trans ((Chip.core_keep_of_fault F (Chip.outside_event (by simp [faultParts]) ..) n).trans hnote)
    exact fun _ => hlogged ..

theorem Chip.core_keep_streamFaultCore (c : Chip) (core n : Nat) (t : TagMiss)
    (hF : ∀ k x y z, F { k with tagExpected := x, tagFound := y, streamFaults := z } = F k) :
    F ((c.streamFaultCore core t).core n) = F (c.core n) := by
  unfold Chip.streamFaultCore
  refine (Chip.core_keep_of_fault F ((Chip.outside_callRegion (by simp [faultParts]) ..).trans (Chip.outside_fault (by simp [faultParts]) ..)) n).trans ?_
  refine Chip.core_keep_upCore F _ _ _ _ ?_
  exact fun _ => hF ..

end

/-! ## An issued word -/

section
variable (c : Chip) (st : Site) (j : Job) (g lc o : Nat) (op : VecOp) (p : Path)

/-- A word's reads reported (R252, R236): what happens before its effect. -/
def Chip.vecRead : Chip :=
  let core := c.seat g lc
  (c.corePath j.id core (c.accPeri g lc op.srcA) p).upCore core
    (fun k => { k with tableCorr := satAdd k.tableCorr (if usesTables o op then p.tableCorrected else 0) })

/-- The stream of draws moves on by the word's elements (R78). -/
def Chip.vecDraws (core : Nat) : Chip :=
  if op.sr then c.upCore core (fun k => { k with seed := k.seed.map (fun s => (s.1 + op.length.setWidth 48, s.2)) }) else c

/-- An accumulator source read, and released where the word says so (R77, R186). -/
def Chip.vecSource (peri core : Nat) : Chip :=
  match op.srcA with
  | .acc _ t =>
    (c.accPath core peri p).when op.release (fun c => c.upTile (tileKey peri t) (fun x =>
      { x with st := .draining, since := st.tick + ceilDiv op.length.toNat (max 1 (vecRate o op)) }))
  | _ => c

/-- The stream fault of a word whose tags differ (R218). -/
def Chip.vecTags (core : Nat) : Chip :=
  match tagMiss o op p with
  | some t => c.streamFaultCore core t
  | none => c

/-- What happens after a word's effect: its counts, its draws, its notes, its source (R77, R78, R198, R218). -/
def Chip.vecSettle (peri core : Nat) (cn : Cnt) : Chip :=
  ((((c.upCore core (fun k => (k.count cn))).vecDraws op core).datumNote core (0x80 + o) op.mode.toNat cn).vecSource st o op p peri core).vecTags
    o op p core

theorem Chip.vecRead_vaultMem : (c.vecRead j g lc o op p).vaultMem = c.vaultMem := Chip.corePath_vaultMem ..

theorem Chip.core_vecRead {β : Type} (F : CoreSt → β) (n : Nat) (hstg : ∀ k x y, F { k with stgCorrected := x, stgUncorr := y } = F k)
    (htable : ∀ k x, F { k with tableCorr := x } = F k) : F ((c.vecRead j g lc o op p).core n) = F (c.core n) := by
  refine (Chip.core_keep_upCore F _ _ _ _ ?_).trans (Chip.core_keep_corePath F _ _ _ _ _ _ hstg)
  exact fun _ => htable ..

theorem Chip.vecRead_accs : (c.vecRead j g lc o op p).accs = c.accs :=
  (Chip.same_of_outside (parts := faultParts ++ [.cores]) (p := .accs) (by simp [Chip.vecRead]) (by simp [faultParts])).symm

/-- The word works on the operands as they stand when it issues. -/
theorem Chip.vecCtx_vecRead : { c.vecCtx j g lc op with
    accs := (c.vecRead j g lc o op p).accs
    stream := ((c.vecRead j g lc o op p).core (c.seat g lc)).seed } = c.vecCtx j g lc op := by
  rw [Chip.vecRead_accs, Chip.core_vecRead c j g lc o op p CoreSt.seed _ (fun _ _ _ => rfl) fun _ _ => rfl]
  rfl

theorem Chip.vecSettle_vaultMem (peri core : Nat) (cn : Cnt) : (c.vecSettle st o op p peri core cn).vaultMem = c.vaultMem := by
  have hdraws (c : Chip) : (c.vecDraws op core).vaultMem = c.vaultMem := by unfold Chip.vecDraws; split <;> rfl
  have hsource (c : Chip) : (c.vecSource st o op p peri core).vaultMem = c.vaultMem := by
    unfold Chip.vecSource
    split
    · refine (Chip.when_keep Chip.vaultMem _ _ _ ?_).trans (Chip.accPath_vaultMem ..)
      exact fun _ => rfl
    · rfl
  have htags (c : Chip) : (c.vecTags o op p core).vaultMem = c.vaultMem := by unfold Chip.vecTags; split <;> simp
  rw [Chip.vecSettle, htags, hsource, Chip.datumNote_vaultMem, hdraws, Chip.upCore_vaultMem]

theorem Chip.vecCounts_vecSettle (peri core : Nat) (cn : Cnt) : ((c.vecSettle st o op p peri core cn).core core).vecCounts
    = (satAdd (c.core core).vecInvalid cn.inv, satAdd (c.core core).vecOverflow cn.ovf) := by
  have hdraws (c : Chip) : ((c.vecDraws op core).core core).vecCounts = (c.core core).vecCounts := by
    unfold Chip.vecDraws
    split
    · exact Chip.core_keep_upCore CoreSt.vecCounts _ _ _ _ fun _ => rfl
    · rfl
  have hsource (c : Chip) : ((c.vecSource st o op p peri core).core core).vecCounts = (c.core core).vecCounts := by
    unfold Chip.vecSource
    split
    · refine (Chip.when_keep (fun d => (d.core core).vecCounts) _ _ _ ?_).trans ?_
      · exact fun _ => rfl
      exact (Chip.core_keep_accPath CoreSt.vecCounts _ _ _ _ _ fun _ _ _ => rfl)
    · rfl
  have htags (c : Chip) : ((c.vecTags o op p core).core core).vecCounts = (c.core core).vecCounts := by
    unfold Chip.vecTags
    split
    · exact Chip.core_keep_streamFaultCore CoreSt.vecCounts _ _ _ _ fun _ _ _ _ => rfl
    · rfl
  rw [Chip.vecSettle, htags, hsource, Chip.core_keep_datumNote CoreSt.vecCounts _ _ _ _ _ _ (fun _ _ _ _ => rfl) fun _ _ => rfl, hdraws,
    Chip.core_upCore]
  rfl

/-- A word whose source is ready and whose tables read has its effect on core staging, and then settles. -/
theorem Chip.vecIssue_eq (hready : c.accReady (c.accPeri g lc op.srcA) op.srcA = true) (htable : (usesTables o op && p.tableBad) = false) :
    let r := vecEffect (c.vecCtx j g lc op) o (usedLength o op p) c.mem.cstg
    c.vecIssue st j g lc (c.seat g lc) o op p = ({ c.vecRead j g lc o op p with mem := { c.mem with cstg := r.1 } }).vecSettle st o op p
      (c.accPeri g lc op.srcA) (c.seat g lc) r.2.cnt := by
  have hmem : (c.vecRead j g lc o op p).mem = c.mem := congrArg Prod.snd (c.vecRead_vaultMem j g lc o op p)
  rw [← c.vecCtx_vecRead j g lc o op p, ← hmem]
  simp only [Chip.vecIssue, hready, htable, Bool.not_true, Bool.false_eq_true, if_false]
  rfl

theorem Chip.vecIssue_mem (hready : c.accReady (c.accPeri g lc op.srcA) op.srcA = true) (htable : (usesTables o op && p.tableBad) = false) :
    (c.vecIssue st j g lc (c.seat g lc) o op p).mem
      = { c.mem with cstg := (vecEffect (c.vecCtx j g lc op) o (usedLength o op p) c.mem.cstg).1 } := by
  rw [c.vecIssue_eq st j g lc o op p hready htable]
  exact congrArg Prod.snd (Chip.vecSettle_vaultMem ..)

theorem Chip.vecIssue_accs (core : Nat) : (c.vecIssue st j g lc core o op p).accs = c.accs :=
  (Chip.same_of_outside (p := .accs) (Chip.outside_vecIssue (List.Subset.refl _) ..) (by simp [faultParts])).symm

theorem Chip.vecCounts_vecIssue (hready : c.accReady (c.accPeri g lc op.srcA) op.srcA = true) (htable : (usesTables o op && p.tableBad) = false) :
    let cn := (vecEffect (c.vecCtx j g lc op) o (usedLength o op p) c.mem.cstg).2.cnt
    ((c.vecIssue st j g lc (c.seat g lc) o op p).core (c.seat g lc)).vecCounts
      = (satAdd (c.core (c.seat g lc)).vecInvalid cn.inv, satAdd (c.core (c.seat g lc)).vecOverflow cn.ovf) := by
  have hread : ((c.vecRead j g lc o op p).core (c.seat g lc)).vecCounts = (c.core (c.seat g lc)).vecCounts :=
    Chip.core_vecRead c j g lc o op p CoreSt.vecCounts _ (fun _ _ _ => rfl) fun _ _ => rfl
  have hinv : ((c.vecRead j g lc o op p).core (c.seat g lc)).vecInvalid = _ := congrArg Prod.fst hread
  have hovf : ((c.vecRead j g lc o op p).core (c.seat g lc)).vecOverflow = _ := congrArg Prod.snd hread
  intro cn
  rw [c.vecIssue_eq st j g lc o op p hready htable, Chip.vecCounts_vecSettle]
  change (satAdd ((c.vecRead j g lc o op p).core (c.seat g lc)).vecInvalid _, satAdd ((c.vecRead j g lc o op p).core (c.seat g lc)).vecOverflow _) = _
  rw [hinv, hovf]
  rfl

end

/-- Each VEC operation is the one VEC word of its number. -/
theorem exec_of_vecInstr {o : Nat} {i : Site → VecOp → Path → Instr} (h : vecInstr o = some i) (st : Site) (op : VecOp) (p : Path) (s : State) :
    exec (i st op p) s = vecWord o st op p s := by
  unfold vecInstr at h
  split at h
  all_goals cases h <;> rfl

theorem exec_vecSeed {st : Site} {s : State} {j : Job} {g : Nat} {lc : Fin 32} (hsite : s.toChip.atSite st = some (j, g))
    (hcore : st.core = some lc) (base : BitVec 48) (tensor : BitVec 16) :
    exec (.vecSeed st base tensor .good) s
      = .next { s with toChip := (s.toChip.upCore (s.toChip.seat g lc.val) (fun k => { k with seed := some (base, tensor) })) } := by
  change execVecSeed st base tensor .good s = _
  simp [execVecSeed, act_next, Site.onCore, Chip.onCore, hcore, hsite, Chip.fetched]

/-- Settles O13: SEED sets the stream; any other word is its effect on core staging between its reads and its counts. -/
theorem vecOperationsComplete : Obligations.VecOperationsComplete := by
  unfold Obligations.VecOperationsComplete
  refine ⟨fun st base tensor s j g lc hsite hcore => ?seed, ?word⟩
  case seed =>
    refine ⟨_, exec_vecSeed hsite hcore base tensor, ?_, rfl⟩
    simp
  case word =>
    intro o i st op p s j g lc core hinstr hsite hcore hlegal hrange hfetch htable hdraws hready
    refine ⟨{ s with toChip := (s.toChip.vecIssue st j g lc.val core o op p) }, ?_, ?_⟩
    · have hseed : (op.sr && (s.toChip.core core).seed.isNone) = false := by
        cases hsr : op.sr
        · rfl
        · simp [hdraws hsr]
      simp only [core] at hseed
      rw [exec_of_vecInstr hinstr]
      simp [vecWord, Site.onCore, hcore, hlegal, hrange, hsite, hfetch, hseed, act_next, core]
    · have hcounts := s.toChip.vecCounts_vecIssue st j g lc.val o op p hready htable
      exact ⟨s.toChip.vecIssue_mem st j g lc.val o op p hready htable, s.toChip.vecIssue_accs .., congrArg Prod.fst hcounts,
        congrArg Prod.snd hcounts⟩

end Sys2Proof.Machine

/-! Elements in memory and the pipe of chunks of a VEC word (R54, R76, R199). -/

namespace Sys2Proof.Machine

theorem leNat_leBytes_mod (n v : Nat) : leNat (leBytes n v) = v % 256 ^ n := by
  induction n generalizing v with
  | zero => simp [leBytes, leNat, Nat.mod_one]
  | succ n ih =>
    rw [leBytes, leNat, ih, BitVec.toNat_ofNat, pow_succ' 256 n, Nat.mod_mul]

/-! ## Elements -/

section
variable (m : Mem) (base : Nat) (f : Fmt) (i raw : Nat)

theorem two_pow_fmtBits (h : f ≠ .int4) : 256 ^ (fmtBits f / 8) = 2 ^ fmtBits f := by
  cases f <;> first | exact absurd rfl h | rfl

theorem readElem_congr {m m' : Mem} {base : Nat} {f : Fmt} {i : Nat}
    (h : ∀ x, elemStart base f i ≤ x → x < elemStart base f i + elemLen f → getByte m' x = getByte m x) : readElem m' base f i = readElem m base f i := by
  unfold readElem
  unfold elemStart elemLen at h
  split
  next hf => rw [h _ (by simp [hf]) (by simp [hf])]
  next hf =>
    simp only [hf, if_false] at h
    rw [readLE, readLE, readBytes_congr h]

/-- A write of an element changes its own bytes alone. -/
theorem getByte_writeElem_outside {x : Nat} (h : x < elemStart base f i ∨ elemStart base f i + elemLen f ≤ x) :
    getByte (writeElem m base f i raw) x = getByte m x := by
  unfold writeElem
  unfold elemStart elemLen at h
  split
  next hf =>
    simp only [hf, if_true] at h
    exact getByte_setByte_ne _ _ _ _ (by omega)
  next hf =>
    simp only [hf, if_false] at h
    exact getByte_writeBytes_outside _ _ _ _ (by rwa [length_leBytes])

/-- The half of a byte that an INT4 element is written to, and the other half. -/
theorem nibble_written (old raw k : Nat) (_hold : old < 256) :
    bitsOf (BitVec.ofNat 8 (if i % 2 = 0 then old / 16 * 16 + raw % 16 else old % 16 + (raw % 16) * 16)).toNat (4 * (k % 2) + 3) (4 * (k % 2))
      = if k % 2 = i % 2 then raw % 16 else bitsOf old (4 * (k % 2) + 3) (4 * (k % 2)) := by
  rcases Nat.mod_two_eq_zero_or_one i with hi | hi <;> rcases Nat.mod_two_eq_zero_or_one k with hk | hk
  all_goals
    simp only [bitsOf, hi, hk, Nat.shiftRight_eq_div_pow, BitVec.toNat_ofNat, if_true]
    simp
    try omega

/-- An element written reads back. -/
theorem readElem_writeElem_same : readElem (writeElem m base f i raw) base f i = raw % 2 ^ fmtBits f := by
  unfold readElem writeElem
  split
  next hf =>
    subst hf
    rw [getByte_setByte_same]
    exact (nibble_written _ _ _ _ (getByte m (base + i / 2)).isLt).trans (if_pos rfl)
  next hf =>
    have h := readBytes_eq_of_getByte _ (base + i * (fmtBits f / 8)) _ (holdsAt_writeBytes m (base + i * (fmtBits f / 8)) (leBytes (fmtBits f / 8) raw))
    rw [length_leBytes] at h
    rw [readLE, h, leNat_leBytes_mod, two_pow_fmtBits _ hf]

/-- A write of another element leaves an element. -/
theorem readElem_writeElem_ne {k : Nat} (h : k ≠ i) : readElem (writeElem m base f i raw) base f k = readElem m base f k := by
  by_cases hf : f = .int4
  · subst hf
    unfold readElem writeElem
    simp only [if_true]
    by_cases hb : k / 2 = i / 2
    · rw [hb, getByte_setByte_same]
      exact (nibble_written _ _ _ _ (getByte m (base + i / 2)).isLt).trans (if_neg (by omega))
    · rw [getByte_setByte_ne _ _ _ _ (by omega)]
  · refine readElem_congr fun x hx hx' => getByte_writeElem_outside _ _ _ _ _ ?_
    simp only [elemStart, elemLen, hf, if_false] at hx hx' ⊢
    rcases Nat.lt_or_gt_of_ne h with h | h
    · have := Nat.mul_le_mul_right (fmtBits f / 8) h
      rw [Nat.succ_mul] at this
      omega
    · have := Nat.mul_le_mul_right (fmtBits f / 8) h
      rw [Nat.succ_mul] at this
      omega

end

/-! ## Rows of elements -/

/-- Elements written one after another from an index up. -/
def writeElems (base : Nat) (f : Fmt) : Mem → Nat → List Nat → Mem
  | m, _, [] => m
  | m, i, r :: rs => writeElems base f (writeElem m base f i r) (i + 1) rs

theorem Pend.apply_eq (p : Pend) (base : Nat) (f : Fmt) (m : Mem) : p.apply base f m = writeElems base f m p.first p.raws := by
  obtain ⟨first, raws⟩ := p
  rw [Pend.apply]
  dsimp only
  induction raws generalizing m first with
  | nil => rfl
  | cons r rs ih => exact ih ..

section
variable (base : Nat) (f : Fmt) (m : Mem) (first : Nat) (raws : List Nat)

theorem getByte_writeElems_outside {x : Nat}
    (h : ∀ i, first ≤ i → i < first + raws.length → x < elemStart base f i ∨ elemStart base f i + elemLen f ≤ x) :
    getByte (writeElems base f m first raws) x = getByte m x := by
  induction raws generalizing m first with
  | nil => rfl
  | cons r rs ih =>
    rw [List.length_cons] at h
    exact (ih _ _ fun i hi hi' => h i (by omega) (by omega)).trans (getByte_writeElem_outside _ _ _ _ _ (h first (by omega) (by omega)))

theorem readElem_writeElems_outside {i : Nat} (h : i < first ∨ first + raws.length ≤ i) :
    readElem (writeElems base f m first raws) base f i = readElem m base f i := by
  induction raws generalizing m first with
  | nil => rfl
  | cons r rs ih =>
    rw [List.length_cons] at h
    exact (ih _ _ (by omega)).trans (readElem_writeElem_ne _ _ _ _ _ (by omega))

theorem readElem_writeElems_inside {k r : Nat} (h : raws[k]? = some r) :
    readElem (writeElems base f m first raws) base f (first + k) = r % 2 ^ fmtBits f := by
  induction raws generalizing m first k with
  | nil => simp at h
  | cons a rs ih =>
    cases k with
    | zero =>
      obtain rfl : a = r := by simpa using h
      rw [Nat.add_zero, writeElems, readElem_writeElems_outside _ _ _ _ _ (by omega)]
      exact readElem_writeElem_same ..
    | succ k =>
      have := ih (writeElem m base f first a) (first + 1) (k := k) (by simpa using h)
      rwa [Nat.add_assoc, Nat.add_comm 1 k] at this

end

/-! ## The pipe -/

/-- Waiting results written in order. -/
def applyPends (base : Nat) (f : Fmt) (m : Mem) (l : List Pend) : Mem := l.foldl (fun m p => p.apply base f m) m

/-- The oldest waiting results, if they are ready, written. -/
def oldestApplied (base : Nat) (f : Fmt) (ready : Bool) (m : Mem) (pend : List Pend) : Mem :=
  if ready then (match pend with | p :: _ => p.apply base f m | [] => m) else m

section
variable {σ : Type} (lat base : Nat) (f : Fmt) (chunk : Mem → σ → Nat → Pend × σ)

/-- One chunk of a pipe. -/
theorem runPipe_succ (n k : Nat) (m : Mem) (pend : List Pend) (st : σ) : runPipe lat base f chunk (n + 1) k m pend st
    = runPipe lat base f chunk n (k + 1) (oldestApplied base f (decide (lat + 1 ≤ pend.length)) m pend)
      (stillWaiting (decide (lat + 1 ≤ pend.length)) pend
        ++ [(chunk (oldestApplied base f (decide (lat + 1 ≤ pend.length)) m pend) st k).1])
      (chunk (oldestApplied base f (decide (lat + 1 ≤ pend.length)) m pend) st k).2 := rfl

theorem applyPends_oldestApplied (m : Mem) (pend l : List Pend) (ready : Bool) :
    applyPends base f (oldestApplied base f ready m pend) (stillWaiting ready pend ++ l) = applyPends base f m (pend ++ l) := by
  cases ready
  · rfl
  · cases pend <;> rfl

/-- What every waiting write keeps, the oldest keeps. -/
theorem oldestApplied_keep {P : Mem → Prop} {pend : List Pend} (hpend : ∀ p ∈ pend, ∀ m, P m → P (p.apply base f m)) (ready : Bool) {m : Mem}
    (h : P m) : P (oldestApplied base f ready m pend) := by
  cases ready
  · exact h
  · cases pend with
    | nil => exact h
    | cons p l => exact hpend p List.mem_cons_self m h

/-- A pipe whose chunks see nothing of what was written before carries out its chunks in order, each as the first memory gives it.
`Q k` says that chunk `k` and those after it see what they saw at first. -/
theorem runPipe_fst {w : Nat → Pend} {Q : Nat → Mem → Prop} {N : Nat} (hchunk : ∀ k m st, k < N → Q k m → (chunk m st k).1 = w k)
    (hmono : ∀ k m, Q k m → Q (k + 1) m) (hwrite : ∀ k k' m, k' < k → Q k m → Q k ((w k').apply base f m))
    (n k : Nat) (m : Mem) (pend : List Pend) (st : σ) (hk : k + n ≤ N) (hm : Q k m) (hpend : ∀ p ∈ pend, ∃ k', k' < k ∧ p = w k') :
    (runPipe lat base f chunk n k m pend st).1 = applyPends base f m (pend ++ (List.range' k n).map w) := by
  induction n generalizing k m pend st with
  | zero => rw [List.range'_zero, List.map_nil, List.append_nil]; rfl
  | succ n ih =>
    rw [runPipe_succ]
    generalize decide (lat + 1 ≤ pend.length) = ready
    have hm' : Q k (oldestApplied base f ready m pend) := oldestApplied_keep base f (fun p hp m h => by
      obtain ⟨k', hk', rfl⟩ := hpend p hp
      exact hwrite k k' m hk' h) ready hm
    rw [hchunk k _ st (by omega) hm', ih (k + 1) _ _ _ (by omega) (hmono k _ hm') fun p hp => ?_, List.range'_succ, List.map_cons,
      List.append_assoc, List.singleton_append, applyPends_oldestApplied]
    rcases List.mem_append.mp hp with hp | hp
    · obtain ⟨k', hk', rfl⟩ := hpend p (mem_of_mem_stillWaiting hp)
      exact ⟨k', by omega, rfl⟩
    · exact ⟨k, by omega, List.mem_singleton.mp hp⟩

/-- What every chunk's results keep, the pipe keeps. -/
theorem runPipe_keep {P : Mem → Prop} {N : Nat} (hchunk : ∀ k m' st, k < N → ∀ m, P m → P ((chunk m' st k).1.apply base f m))
    (n k : Nat) (m : Mem) (pend : List Pend) (st : σ) (hk : k + n ≤ N) (hm : P m) (hpend : ∀ p ∈ pend, ∀ m, P m → P (p.apply base f m)) :
    P (runPipe lat base f chunk n k m pend st).1 := by
  induction n generalizing k m pend st with
  | zero =>
    change P (applyPends base f m pend)
    induction pend generalizing m with
    | nil => exact hm
    | cons p l ih => exact ih _ (hpend p List.mem_cons_self m hm) fun q hq => hpend q (List.mem_cons_of_mem _ hq)
  | succ n ih =>
    rw [runPipe_succ]
    refine ih (k + 1) _ _ _ (by omega) (oldestApplied_keep base f hpend _ hm) fun p hp => ?_
    rcases List.mem_append.mp hp with hp | hp
    · exact hpend p (mem_of_mem_stillWaiting hp)
    · obtain rfl := List.mem_singleton.mp hp
      exact hchunk k _ st (by omega)

/-- What the state of a pipe has after each chunk, it has at the end. -/
theorem runPipe_snd {R : Nat → σ → Prop} {N : Nat} (hchunk : ∀ k m st, k < N → R k st → R (k + 1) (chunk m st k).2)
    (n k : Nat) (m : Mem) (pend : List Pend) (st : σ) (hk : k + n ≤ N) (h : R k st) : R (k + n) (runPipe lat base f chunk n k m pend st).2 := by
  induction n generalizing k m pend st with
  | zero => exact h
  | succ n ih =>
    rw [runPipe_succ, Nat.add_comm n 1, ← Nat.add_assoc]
    exact ih (k + 1) _ _ _ (by omega) (hchunk k _ st (by omega) h)

end

end Sys2Proof.Machine

/-! What a VEC operation leaves in core staging (R76, R193, R199, R200, R223 to R230): the obligation O14. -/

namespace Sys2Proof.Machine

/-! ## Chunks of elements -/

theorem vecRate_pos (o : Nat) (op : VecOp) : 0 < vecRate o op := by
  have hbits (f : Fmt) : 4 ≤ fmtBits f ∧ fmtBits f ≤ 128 := by cases f <;> decide
  have hwide : 16 ≤ 2048 / max (fmtBits op.fmtIn) (fmtBits op.fmtOut) :=
    (Nat.le_div_iff_mul_le (lt_max_of_lt_left (by have := (hbits op.fmtIn).1; omega))).mpr (by
      have := (hbits op.fmtIn).2
      have := (hbits op.fmtOut).2
      omega)
  unfold vecRate
  dsimp only
  split_ifs <;> omega

theorem le_ceilDiv_mul (n : Nat) {d : Nat} (hd : 0 < d) : n ≤ ceilDiv n d * d := by
  have := Nat.div_add_mod (n + d - 1) d
  have := Nat.mod_lt (n + d - 1) hd
  rw [ceilDiv, Nat.mul_comm]
  omega

@[simp] theorem length_vecElems (f : Mem → VecAcc → Nat → Nat × VecAcc) (m : Mem) (n i : Nat) (st : VecAcc) :
    (vecElems f m n i st).1.length = n := by
  induction n generalizing i st with
  | zero => rfl
  | succ n ih => exact congrArg (· + 1) (ih (i + 1) (f m st i).2)

theorem vecElems_pureElem (f : Mem → Nat → Nat × Cnt) (m : Mem) (n i : Nat) (st : VecAcc) :
    (vecElems (pureElem f) m n i st).1 = (List.range n).map (fun e => (f m (i + e)).1) := by
  induction n generalizing i st with
  | zero => rfl
  | succ n ih =>
    rw [List.range_succ_eq_map, List.map_cons, List.map_map]
    refine congrArg ((f m i).1 :: ·) ((ih (i + 1) _).trans (List.map_congr_left fun e _ => ?_))
    simp [Nat.add_assoc, Nat.add_comm 1 e]

/-! ## The values of an element operation -/

/-- The results of chunk `k` of `len` elements with given values. -/
def elemChunk (rate len : Nat) (v : Nat → Nat) (k : Nat) : Pend :=
  { first := k * rate, raws := (List.range (min rate (len - k * rate))).map (fun e => v (k * rate + e)) }

/-- Chunks written in order leave each element's value at its index. -/
theorem readElem_elemChunks (base : Nat) (f : Fmt) (m : Mem) (rate len : Nat) (v : Nat → Nat) (N i : Nat) :
    readElem (applyPends base f m ((List.range N).map (elemChunk rate len v))) base f i
      = if i < min (N * rate) len then v i % 2 ^ fmtBits f else readElem m base f i := by
  induction N with
  | zero => simp [applyPends]
  | succ N ih =>
    rw [List.range_succ, List.map_append, applyPends, List.foldl_append]
    change readElem ((elemChunk rate len v N).apply base f (applyPends base f m ((List.range N).map (elemChunk rate len v)))) base f i = _
    rw [Pend.apply_eq]
    have hlen : (elemChunk rate len v N).raws.length = min rate (len - N * rate) := by simp [elemChunk]
    have hsucc := Nat.add_one_mul N rate
    by_cases hi : N * rate ≤ i ∧ i < N * rate + min rate (len - N * rate)
    · obtain ⟨e, rfl⟩ : ∃ e, i = N * rate + e := ⟨i - N * rate, by omega⟩
      rw [if_pos (by omega)]
      refine readElem_writeElems_inside _ _ _ (N * rate) _ ?_
      simp only [elemChunk, List.getElem?_map, List.getElem?_range (show e < min rate (len - N * rate) by omega), Option.map_some]
    · rw [readElem_writeElems_outside _ _ _ _ _ (by rw [hlen]; change i < N * rate ∨ N * rate + _ ≤ i; omega), ih]
      exact if_congr (by omega) rfl rfl

section
variable {x : VecCtx} {o : Nat} {f : Mem → Nat → Nat × Cnt}

/-- An element's value depends on its sources, and for FMA on its destination, at its index. -/
theorem elemOf_congr (h : elemOf x o = some f) {m m' : Mem} {i : Nat} (ha : x.a m' i = x.a m i)
    (hb : opTwoSource.contains o = true → x.b m' i = x.b m i)
    (hd : readElem m' (coreByte x.core x.op.dst.toNat) x.op.fmtOut i = readElem m (coreByte x.core x.op.dst.toNat) x.op.fmtOut i) :
    f m' i = f m i := by
  unfold elemOf at h
  split at h
  case h_1 => cases h; simp only [addElem, VecCtx.va, VecCtx.vb, ha, hb rfl]
  case h_2 => cases h; simp only [mulElem, VecCtx.va, VecCtx.vb, ha, hb rfl]
  case h_3 => cases h; simp only [fmaElem, VecCtx.va, VecCtx.vb, VecCtx.vd, ha, hb rfl, hd]
  case h_4 => cases h; simp only [chooseElem, VecCtx.va, VecCtx.vb, ha, hb rfl]
  case h_5 => cases h; simp only [chooseElem, VecCtx.va, VecCtx.vb, ha, hb rfl]; rfl
  case h_6 => cases h; simp only [cvtElem, VecCtx.va, ha]
  case h_7 => cases h; simp only [raddElem, ha, hb rfl]
  case h_8 => cases h; simp only [exp2Elem, VecCtx.va, ha]
  case h_9 => cases h; simp only [log2Elem, VecCtx.va, ha]
  case h_10 => cases h; simp only [rcpElem, VecCtx.va, ha]
  case h_11 => cases h; simp only [rsqrtElem, VecCtx.va, ha]
  case h_12 => cases h; simp only [actElem, VecCtx.va, ha]
  case h_13 => simp at h

theorem vecEffect_of_elemOf (h : elemOf x o = some f) (len : Nat) (m : Mem) : vecEffect x o len m = vecRun x o len (pureElem f) m := by
  unfold elemOf at h
  split at h
  all_goals cases h <;> rfl

theorem VecOp.legal_sources {op : VecOp} (h : op.legal o = true) :
    op.srcA.isNone = false ∧ (opTwoSource.contains o = true → op.srcB.isStaging = true) := by
  simp only [VecOp.legal, Bool.and_eq_true, Bool.not_eq_true'] at h
  refine ⟨h.1.1.1.1.1.1.1.1.1.1.2, fun h2 => ?_⟩
  have := h.1.1.1.1.1.1.1.1.2
  rwa [if_pos h2] at this

variable {len : Nat} (hhaz : x.noHazard len)
include hhaz

/-- Results written at earlier elements leave a source element as it was. -/
theorem VecCtx.readElem_source {src : Src} (hsrc : src = x.op.srcA ∨ src = x.op.srcB) (hstaging : src.isStaging = true) (m : Mem) (first : Nat)
    (raws : List Nat) {i : Nat} (hi : first + raws.length ≤ i) (hlen : i < len) :
    readElem (writeElems (coreByte x.core x.op.dst.toNat) x.op.fmtOut m first raws) (x.addr src) x.op.fmtIn i = readElem m (x.addr src) x.op.fmtIn i :=
  readElem_congr fun y hy hy' => getByte_writeElems_outside _ _ _ _ _ fun i' _ hi'' => by
    have h := hhaz src hsrc hstaging i' i (by omega) hlen
    dsimp only at h
    omega

/-- An element's value is the same after results of earlier elements were written. -/
theorem elemOf_writeElems (h : elemOf x o = some f) (hlegal : x.op.legal o = true) (m : Mem) (first : Nat) (raws : List Nat) {i : Nat}
    (hi : first + raws.length ≤ i) (hlen : i < len) :
    f (writeElems (coreByte x.core x.op.dst.toNat) x.op.fmtOut m first raws) i = f m i := by
  obtain ⟨hA, hB⟩ := VecOp.legal_sources hlegal
  refine elemOf_congr h ?_ (fun h2 => VecCtx.readElem_source hhaz (.inr rfl) (hB h2) m first raws hi hlen) ?_
  · have hsrc := fun hstaging => VecCtx.readElem_source hhaz (.inl rfl) hstaging m first raws hi hlen
    unfold VecCtx.a
    cases hs : x.op.srcA with
    | acc a t => rfl
    | none => rw [hs] at hA; cases hA
    | staging a => rw [hs] at hsrc; exact hsrc rfl
  · exact readElem_writeElems_outside _ _ _ _ _ (.inr hi)

/-- An element operation leaves each element's value at its index. -/
theorem readElem_vecRun (h : elemOf x o = some f) (hlegal : x.op.legal o = true) (m : Mem) {i : Nat} (hi : i < len) :
    readElem (vecRun x o len (pureElem f) m).1 (coreByte x.core x.op.dst.toNat) x.op.fmtOut i = (f m i).1 % 2 ^ fmtBits x.op.fmtOut := by
  have hrate := vecRate_pos o x.op
  have hall := le_ceilDiv_mul len hrate
  unfold vecRun
  dsimp only
  rw [runPipe_fst (w := elemChunk (vecRate o x.op) len fun i => (f m i).1)
    (Q := fun k m' => ∀ i, k * vecRate o x.op ≤ i → i < len → f m' i = f m i) (N := ceilDiv len (vecRate o x.op)) (hk := by omega)
    (hm := fun _ _ _ => rfl) (hpend := fun _ hp => absurd hp List.not_mem_nil)]
  · rw [List.nil_append, ← List.range_eq_range', readElem_elemChunks, if_pos (by omega)]
  · intro k m' st hk hQ
    refine congrArg (Pend.mk _) ((vecElems_pureElem ..).trans (List.map_congr_left fun e he => ?_))
    rw [hQ _ (by omega) (by have := List.mem_range.mp he; omega)]
  · intro k m' hQ i hi
    exact hQ i (by rw [Nat.add_one_mul] at hi; omega)
  · intro k k' m' hk hQ i hi hlen
    have hnext := Nat.mul_le_mul_right (vecRate o x.op) hk
    rw [Nat.succ_mul] at hnext
    rw [Pend.apply_eq, elemOf_writeElems hhaz h hlegal _ _ _ (by simp only [elemChunk, List.length_map, List.length_range]; omega) hlen]
    exact hQ i hi hlen

end

/-! ## The bytes a word writes -/

/-- An element below `n` lies in the bytes of `n` elements. -/
theorem elem_inside (base : Nat) (f : Fmt) {i n : Nat} (hi : i < n) :
    base ≤ elemStart base f i ∧ elemStart base f i + elemLen f ≤ base + fmtSpan f n := by
  cases f
  all_goals
    simp [elemStart, elemLen, fmtSpan, fmtBits, ceilDiv]
    omega

/-- A byte outside the range of `n` elements. -/
def outsideElems (base : Nat) (f : Fmt) (n y : Nat) : Prop := y < base ∨ base + fmtSpan f n ≤ y

theorem getByte_apply_outside {p : Pend} {base : Nat} {f : Fmt} {n y : Nat} (hp : p.first + p.raws.length ≤ n) (hy : outsideElems base f n y)
    (m : Mem) : getByte (p.apply base f m) y = getByte m y := by
  rw [Pend.apply_eq]
  refine getByte_writeElems_outside _ _ _ _ _ fun i _ hi => ?_
  have := elem_inside base f (show i < n by omega)
  unfold outsideElems at hy
  omega

/-- A pipe whose chunks write below `n` elements changes no byte outside them. -/
theorem getByte_runPipe_outside {σ : Type} {lat base : Nat} {f : Fmt} {chunk : Mem → σ → Nat → Pend × σ} {N n y : Nat}
    (hchunk : ∀ k m st, k < N → (chunk m st k).1.first + (chunk m st k).1.raws.length ≤ n) (hy : outsideElems base f n y) (m : Mem) (st : σ) :
    getByte (runPipe lat base f chunk N 0 m [] st).1 y = getByte m y :=
  runPipe_keep lat base f chunk (P := fun m' => getByte m' y = getByte m y)
    (fun k _ st hk _ h => (getByte_apply_outside (hchunk k _ st hk) hy _).trans h) N 0 m [] st (by omega) rfl
    (fun _ hp => absurd hp List.not_mem_nil)

/-- A chunk of `len` elements ends by the last. -/
theorem chunk_inside {rate len k : Nat} (hk : k < ceilDiv len rate) : k * rate + min rate (len - k * rate) ≤ len := by
  by_cases hrate : rate = 0
  · simp [hrate]
  · have hdiv := Nat.div_add_mod (len + rate - 1) rate
    have hmul := Nat.mul_le_mul_right rate (show k + 1 ≤ (len + rate - 1) / rate from hk)
    rw [Nat.add_one_mul, Nat.mul_comm ((len + rate - 1) / rate)] at hmul
    omega

section
variable (x : VecCtx) (len : Nat) (m : Mem) {y : Nat} (hy : outsideElems (coreByte x.core x.op.dst.toNat) x.op.fmtOut len y)

theorem vecRun_outside (hy : outsideElems (coreByte x.core x.op.dst.toNat) x.op.fmtOut len y) (o : Nat)
    (f : Mem → VecAcc → Nat → Nat × VecAcc) : getByte (vecRun x o len f m).1 y = getByte m y := by
  unfold vecRun
  refine getByte_runPipe_outside (fun k m st hk => ?_) hy m ({} : VecAcc)
  simpa using chunk_inside hk

theorem vecTwice_outside (hy : outsideElems (coreByte x.core x.op.dst.toNat) x.op.fmtOut len y) {ρ : Type} (o : Nat) (row : Mem → Nat → ρ × Cnt)
    (elem : List ρ → Mem → Nat → Nat × Cnt) : getByte (vecTwice x o len row elem m).1 y = getByte m y := vecRun_outside x len m hy o _

/-- A row operation of one result a row writes one element a row. -/
theorem vecRows_outside (hy : outsideElems (coreByte x.core x.op.dst.toNat) x.op.fmtOut (len / x.op.row) y) (f : Mem → Nat → List Nat × Cnt)
    (hf : ∀ j, (f m j).1.length = 1) : getByte (vecRows x len f m).1 y = getByte m y := by
  refine getByte_apply_outside ?_ hy m
  simp [List.flatMap_map, length_flatMap_range _ 1 _ hf]

end

/-! ## Quantised blocks -/

theorem length_codes_quantInt (w q : Nat) (e : Int) (xs : List (Val × Rnd)) (acc : EscAcc) :
    (xs.foldl (quantIntElem w q e) acc).codes.length = acc.codes.length + xs.length := by
  induction xs generalizing acc with
  | nil => rfl
  | cons x xs ih =>
    have hstep : (quantIntElem w q e acc x).codes.length = acc.codes.length + 1 := by
      unfold quantIntElem
      dsimp only
      split_ifs <;> simp
    rw [List.foldl_cons, ih, hstep, List.length_cons]
    omega

theorem length_flatMap_of_forall {α β : Type} {l : List α} {f : α → List β} {n : Nat} (h : ∀ a ∈ l, (f a).length = n) :
    (l.flatMap f).length = n * l.length := by
  induction l with
  | nil => rfl
  | cons a l ih =>
    rw [List.flatMap_cons, List.length_append, h a List.mem_cons_self, ih fun b hb => h b (List.mem_cons_of_mem _ hb), List.length_cons,
      Nat.mul_succ, Nat.add_comm]

theorem length_area_quantInt (side : List Int) : (((side ++ [0, 0, 0, 0]).take 4).flatMap (fun s => leBytes 2 (trunc 16 s))).length = 8 := by
  have h4 : ((side ++ [0, 0, 0, 0]).take 4).length = 4 := by simp
  rw [length_flatMap_of_forall fun _ _ => length_leBytes 2 _, h4]

/-- A block has one code an element and an area of eight bytes (R200). -/
theorem quantBlock_lengths (f : Fmt) (xs : List (Val × Rnd)) : (quantBlock f xs).codes.length = xs.length ∧ (quantBlock f xs).area.length = 8 := by
  have hint (w : Nat) : (quantInt w xs).codes.length = xs.length ∧ (quantInt w xs).area.length = 8 :=
    ⟨(length_codes_quantInt ..).trans (Nat.zero_add _), length_area_quantInt _⟩
  have hfp8 (g : FloatFmt) (n : Nat) : (quantFp8 g n xs).codes.length = xs.length ∧ (quantFp8 g n xs).area.length = 8 := by simp [quantFp8]
  have huint : (quantUint8 xs).codes.length = xs.length ∧ (quantUint8 xs).area.length = 8 := by
    unfold quantUint8
    dsimp only
    split_ifs <;> simp
  unfold quantBlock
  split
  · exact hint 8
  · exact hint 4
  · exact hfp8 ..
  · exact hfp8 ..
  · exact huint

/-- The blocks of a chunk of QUANT. -/
def quantBlocks (x : VecCtx) (m : Mem) (rate k n : Nat) : List QBlock :=
  (List.range (n / 32)).map (fun b =>
    quantBlock x.op.fmtOut ((List.range 32).map (fun e => let i := k * rate + 32 * b + e; (x.va m i, x.rnd i))))

theorem length_codes_quantBlocks (x : VecCtx) (m : Mem) (rate k n : Nat) : ((quantBlocks x m rate k n).flatMap (·.codes)).length = n / 32 * 32 := by
  rw [quantBlocks, List.flatMap_map]
  exact length_flatMap_range _ 32 _ fun b => by simp [(quantBlock_lengths ..).1]

/-- The sections of the blocks so far: no more than the elements so far hold, each area of eight bytes. -/
def sectionsBelow (n : Nat) (st : VecAcc) : Prop := st.secs.length ≤ n / 32 ∧ ∀ s ∈ st.secs, s.2.length = 8

/-- One chunk of QUANT. -/
def quantChunk (x : VecCtx) (len : Nat) (m : Mem) (st : VecAcc) (k : Nat) : Pend × VecAcc :=
  let rate := vecRate 0x06 x.op
  let blocks := quantBlocks x m rate k (min rate (len - k * rate))
  ({ first := k * rate, raws := blocks.flatMap (·.codes) },
    { st with cnt := blocks.foldl (fun s b => s.add b.cnt) st.cnt, secs := st.secs ++ blocks.map (fun b => (b.scale, b.area)) })

theorem quantChunk_inside (x : VecCtx) {len k : Nat} (hk : k < ceilDiv len (vecRate 0x06 x.op)) (m : Mem) (st : VecAcc) :
    (quantChunk x len m st k).1.first + (quantChunk x len m st k).1.raws.length ≤ len := by
  have := chunk_inside hk
  simp only [quantChunk, length_codes_quantBlocks]
  omega

theorem quantChunk_sections (x : VecCtx) {len k : Nat} (hk : k < ceilDiv len (vecRate 0x06 x.op)) (m : Mem) {st : VecAcc}
    (h : sectionsBelow (min (k * vecRate 0x06 x.op) len) st) : sectionsBelow (min ((k + 1) * vecRate 0x06 x.op) len) (quantChunk x len m st k).2 := by
  obtain ⟨hlen, harea⟩ := h
  have hinside := chunk_inside hk
  refine ⟨?_, fun s hs => ?_⟩
  · simp only [quantChunk, quantBlocks, List.length_append, List.length_map, List.length_range]
    rw [Nat.add_one_mul]
    omega
  · rcases List.mem_append.mp hs with hs | hs
    · exact harea s hs
    · obtain ⟨b, hb, rfl⟩ := List.mem_map.mp hs
      obtain ⟨i, -, rfl⟩ := List.mem_map.mp hb
      exact (quantBlock_lengths ..).2

/-- The codes of QUANT in memory, and the sections that go behind them. -/
def quantCodes (x : VecCtx) (len : Nat) (m : Mem) : Mem × VecAcc :=
  runPipe (vecLat 0x06) (coreByte x.core x.op.dst.toNat) x.op.fmtOut (quantChunk x len) (ceilDiv len (vecRate 0x06 x.op)) 0 m [] {}

theorem quantRun_fst (x : VecCtx) (len : Nat) (m : Mem) :
    let sec := coreByte x.core x.op.dst.toNat + fmtSpan x.op.fmtOut len
    (quantRun x len m).1 = writeBytes (writeBytes (quantCodes x len m).1 sec ((quantCodes x len m).2.secs.map (fun s => BitVec.ofNat 8 s.1)))
      (sec + len / 32) ((quantCodes x len m).2.secs.flatMap (·.2)) := rfl

theorem quantCodes_outside (x : VecCtx) (len : Nat) (m : Mem) {y : Nat} (hy : outsideElems (coreByte x.core x.op.dst.toNat) x.op.fmtOut len y) :
    getByte (quantCodes x len m).1 y = getByte m y :=
  getByte_runPipe_outside (fun _ m st hk => quantChunk_inside x hk m st) hy m {}

theorem quantCodes_sections (x : VecCtx) (len : Nat) (m : Mem) : sectionsBelow len (quantCodes x len m).2 := by
  obtain ⟨hcount, harea⟩ := runPipe_snd (vecLat 0x06) (coreByte x.core x.op.dst.toNat) x.op.fmtOut (quantChunk x len)
    (R := fun k st => sectionsBelow (min (k * vecRate 0x06 x.op) len) st) (fun k m st hk h => quantChunk_sections x hk m h)
    (ceilDiv len (vecRate 0x06 x.op)) 0 m [] {} (by omega) ⟨by simp, fun s hs => absurd hs List.not_mem_nil⟩
  exact ⟨hcount.trans (Nat.div_le_div_right (Nat.min_le_right ..)), harea⟩

/-- QUANT writes its codes, its scale bytes and its areas (R200). -/
theorem quantRun_outside (x : VecCtx) (len : Nat) (m : Mem) {y : Nat} (hy : y < coreByte x.core x.op.dst.toNat
      ∨ coreByte x.core x.op.dst.toNat + (fmtSpan x.op.fmtOut len + 9 * (len / 32)) ≤ y) : getByte (quantRun x len m).1 y = getByte m y := by
  have hcodes := quantCodes_outside x len m (y := y) (by unfold outsideElems; omega)
  obtain ⟨hcount, harea⟩ := quantCodes_sections x len m
  rw [quantRun_fst]
  refine (getByte_writeBytes_outside _ _ _ _ (hy.imp (fun hy => ?_) fun hy => ?_)).trans
    ((getByte_writeBytes_outside _ _ _ _ (hy.imp (fun hy => ?_) fun hy => ?_)).trans hcodes)
  · omega
  · rw [length_flatMap_of_forall harea]
    omega
  · omega
  · rw [List.length_map]
    omega

/-! ## The obligation -/

theorem length_rrowOf (x : VecCtx) (m : Mem) (j : Nat) : (rrowOf x m j).1.length = 1 := rfl

theorem length_rmaxOf (x : VecCtx) (m : Mem) (j : Nat) : (rmaxOf x m j).1.length = 1 := by
  unfold rmaxOf
  dsimp only
  split <;> rfl

/-- Whatever the operation, it writes its destination's bytes and no others. -/
theorem vecEffect_outside (x : VecCtx) (o : Nat) (m : Mem) :
    sameOutside m (vecEffect x o x.op.length.toNat m).1 (coreByte x.core x.op.dst.toNat) (vecDstBytes o x.op) := by
  intro y hy
  have hrun (hd : vecDstBytes o x.op = fmtSpan x.op.fmtOut x.op.length.toNat) :
      outsideElems (coreByte x.core x.op.dst.toNat) x.op.fmtOut x.op.length.toNat y := by rwa [hd] at hy
  unfold vecEffect
  dsimp only
  split
  case h_7 => exact quantRun_outside x _ m hy
  case h_13 => exact vecRows_outside x _ m hy _ (length_rrowOf x m)
  case h_21 => exact vecRows_outside x _ m hy _ (length_rmaxOf x m)
  case h_19 => exact vecTwice_outside x _ m (hrun rfl) _ _ _
  case h_20 => exact vecTwice_outside x _ m (hrun rfl) _ _ _
  case h_22 => rfl
  all_goals exact vecRun_outside x _ m (hrun rfl) _ _

/-- Settles O14: an element operation's chunks see their sources as they stood, and write their own elements alone. -/
theorem vecElementResults : Obligations.VecElementResults := by
  unfold Obligations.VecElementResults
  refine ⟨fun o x f len m h hlegal hhaz i hi => ?_, fun o x m _ => vecEffect_outside x o m⟩
  rw [vecEffect_of_elemOf h]
  exact readElem_vecRun hhaz h hlegal m hi

end Sys2Proof.Machine

/-! The boundary of a stroke, the chip stroke (R19, R134, R148, R358): the obligation O15. A region that no job holds ends its stroke on its own
clock: the faults of its plots and cores, and the remedies they call for, touch neither its pace nor any memory. -/

namespace Sys2Proof.Machine

theorem mem_of_mem_insertBy {α : Type} {rank : α → Nat} {x y : α} {l : List α} (h : y ∈ insertBy rank x l) : y = x ∨ y ∈ l := by
  induction l with
  | nil => simpa [insertBy] using h
  | cons z l ih =>
    unfold insertBy at h
    split at h
    · simpa using h
    · rcases List.mem_cons.mp h with rfl | h
      · simp
      · exact (ih h).imp_right (List.mem_cons_of_mem _)

theorem mem_of_mem_sortBy {α : Type} {rank : α → Nat} {l : List α} {y : α} (h : y ∈ sortBy rank l) : y ∈ l := by
  have hrest (l m : List α) (h : y ∈ l.foldl (fun m x => insertBy rank x m) m) : y ∈ m ∨ y ∈ l := by
    induction l generalizing m with
    | nil => exact .inl h
    | cons x l ih =>
      rcases ih _ h with h | h
      · rcases mem_of_mem_insertBy h with rfl | h
        · simp
        · exact .inl h
      · exact .inr (List.mem_cons_of_mem _ h)
  simpa using hrest l [] h

theorem Chip.mem_of_vaultMem {c d : Chip} (h : d.vaultMem = c.vaultMem) : d.mem = c.mem := congrArg Prod.snd h

/-! ## What the end of a stroke turns on -/

/-- The part of a region that the end of a stroke reads and moves on. -/
def Region.pace (r : Region) : BitVec 48 × List OptDue × BitVec 8 × BitVec 2 × Bool × Option Nat :=
  (r.stroke, r.optDue, r.optLast, r.power, r.sleepAtEnd, r.rewake)

/-- Whether a remedy is one of those that a stroke's checks of plots and cores call for. -/
def Remedy.ofStroke : Remedy → Prop
  | .plot _ _ | .plotHeld _ | .coxEntry _ _ _ _ => True
  | _ => False

/-- No job holds region `g`, the regions' paces and the memory are as given, only remedies of a stroke's checks wait. -/
def Chip.Resting (g : Nat) (pace : Nat → BitVec 48 × List OptDue × BitVec 8 × BitVec 2 × Bool × Option Nat) (m : Mems) (c : Chip) : Prop :=
  (∀ j ∈ c.jobs, j.inRegion g = false) ∧ (∀ n, (c.region n).pace = pace n) ∧ c.mem = m ∧ ∀ r ∈ c.saf.remedies, r.ofStroke

section
variable {g : Nat} {pace : Nat → BitVec 48 × List OptDue × BitVec 8 × BitVec 2 × Bool × Option Nat} {m : Mems} {c : Chip}

theorem Chip.Resting.congr (h : c.Resting g pace m) {d : Chip} (hjobs : d.jobs = c.jobs) (hregions : d.regions = c.regions)
    (hmem : d.mem = c.mem) (hsaf : d.saf.remedies = c.saf.remedies) : d.Resting g pace m := by
  unfold Chip.Resting Chip.region at *
  rwa [hjobs, hregions, hmem, hsaf]

/-- An operation that changes neither jobs nor regions, memory or the remedies leaves a resting region resting. -/
theorem Chip.Resting.of_outside (h : c.Resting g pace m) {d : Chip} {parts : List Part} (hd : d.outside parts = c.outside parts)
    (hp : Part.jobs ∉ parts ∧ Part.regions ∉ parts ∧ Part.saf ∉ parts) (hmem : d.mem = c.mem) : d.Resting g pace m := by
  have hsaf : c.saf = d.saf := Chip.same_of_outside hd hp.2.2
  exact h.congr (Chip.same_of_outside hd hp.1).symm (Chip.same_of_outside hd hp.2.1).symm hmem (by rw [hsaf])

theorem Chip.Resting.overAll {α : Type} (h : c.Resting g pace m) {l : List α} {f : Chip → α → Chip}
    (hf : ∀ d x, d.Resting g pace m → (f d x).Resting g pace m) : (overAll l f c).Resting g pace m :=
  overAll_invariant (Chip.Resting g pace m) f hf l c h

theorem Chip.Resting.when (h : c.Resting g pace m) {b : Bool} {f : Chip → Chip} (hf : b = true → (f c).Resting g pace m) :
    (c.when b f).Resting g pace m := by
  cases b
  · exact h
  · exact hf rfl

theorem Chip.Resting.upRegion (h : c.Resting g pace m) (k : Nat) {f : Region → Region} (hf : ∀ r, (f r).pace = r.pace) :
    (c.upRegion k f).Resting g pace m := by
  obtain ⟨hjobs, hpace, hmem, hsaf⟩ := h
  refine ⟨hjobs, fun n => ?_, hmem, hsaf⟩
  by_cases hn : n = k
  · subst hn
    rw [Chip.region_upRegion, hf, hpace]
  · rw [Chip.region_upRegion_ne _ _ _ _ hn, hpace]

theorem Chip.Resting.upPlot (h : c.Resting g pace m) (k : Nat) (f : Plot → Plot) : (c.upPlot k f).Resting g pace m := h.congr rfl rfl rfl rfl

theorem Chip.Resting.upCore (h : c.Resting g pace m) (k : Nat) (f : CoreSt → CoreSt) : (c.upCore k f).Resting g pace m := h.congr rfl rfl rfl rfl

theorem Chip.Resting.upArr (h : c.Resting g pace m) (k : Nat) (f : Arr → Arr) : (c.upArr k f).Resting g pace m := h.congr rfl rfl rfl rfl

/-! ## Faults -/

theorem Chip.Resting.event (h : c.Resting g pace m) (src cls code : Nat) (rerow : Bool) (locus : BitVec 32) (detail : Nat) :
    (c.event src cls code rerow locus detail).Resting g pace m := by
  have hlog (full : Bool) : ({ c with
      log := c.log.write full src (c.record src cls code rerow locus detail)
      saf := { c.saf with
        transient := satIf (cls == 1) c.saf.transient
        permanent := satIf (cls == 2) c.saf.permanent } } : Chip).Resting g pace m := h.congr rfl rfl rfl rfl
  unfold Chip.event
  dsimp only
  split
  · split
    · exact hlog _
    · exact (hlog _).upRegion _ fun _ => rfl
  · exact hlog _

theorem Chip.Resting.eventOpen (h : c.Resting g pace m) (src cls : Nat) (locus : BitVec 32) (detail : Nat) :
    (c.eventOpen src cls locus detail).Resting g pace m :=
  (h.congr rfl rfl rfl rfl : c.draw.2.Resting g pace m).event ..

theorem Chip.Resting.addRemedy (h : c.Resting g pace m) {r : Remedy} (hr : r.ofStroke) : (c.addRemedy r).Resting g pace m := by
  obtain ⟨hjobs, hpace, hmem, hsaf⟩ := h
  refine ⟨hjobs, hpace, hmem, fun q hq => ?_⟩
  simp only [Chip.addRemedy] at hq
  split at hq
  · exact hsaf q hq
  · rcases List.mem_append.mp hq with hq | hq
    · exact hsaf q hq
    · rwa [List.mem_singleton.mp hq]

theorem Chip.Resting.hit (h : c.Resting g pace m) (l : Locus) (need : Nat) : (c.hit l need).1.Resting g pace m := by
  unfold Chip.hit
  dsimp only
  repeat' split
  all_goals exact h.congr rfl rfl rfl rfl

theorem Chip.Resting.fault (h : c.Resting g pace m) (src code : Nat) (locus : BitVec 32) (detail : Nat) (l : Locus) (need : Nat) {r : Remedy}
    (hr : r.ofStroke) : (c.fault src code locus detail l need r).Resting g pace m := by
  unfold Chip.fault
  dsimp only
  split
  · exact ((h.hit l need).event ..).addRemedy hr
  · exact (h.hit l need).event ..

/-- There is no job of the region to call. -/
theorem Chip.Resting.callRegion (h : c.Resting g pace m) : c.callRegion g = c := by
  unfold Chip.callRegion
  rw [List.filter_eq_nil_iff.mpr fun j hj => by simp [h.1 j hj]]
  rfl

theorem Chip.Resting.loseWhere (h : c.Resting g pace m) (p : Job → Bool) : c.loseWhere (fun j => j.inRegion g && p j) = c := by
  unfold Chip.loseWhere
  rw [List.filter_eq_nil_iff.mpr fun j hj => by simp [h.1 j hj]]
  rfl

theorem Chip.Resting.callWhere (h : c.Resting g pace m) (p : Job → Bool) : c.callWhere (fun j => j.inRegion g && p j) = c := by
  unfold Chip.callWhere
  rw [List.filter_eq_nil_iff.mpr fun j hj => by simp [h.1 j hj]]
  rfl

/-! ## The checks of a stroke -/

theorem Chip.Resting.groupMismatch (h : c.Resting g pace m) (k group : Nat) : (c.groupMismatch g k group).Resting g pace m := by
  unfold Chip.groupMismatch Chip.danger
  have hd := (h.upPlot k fun x => { x with checkFails := satAdd x.checkFails 1 })
  have hf := Chip.Resting.fault (g := g) (pace := pace) (m := m) (hd.congr (d := { c.upPlot k fun x => { x with checkFails := satAdd x.checkFails 1 } with
    saf := { c.saf with dangCompute := satAdd c.saf.dangCompute 1 } }) rfl rfl rfl rfl) (srcRgn g) 0x106 (plotLocus k) group (.plot k) 3
    (r := .plot k 4) trivial
  exact (Chip.Resting.callRegion hf).symm ▸ hf

theorem Chip.Resting.optGroupPosted (h : c.Resting g pace m) (d : OptDue) (before : Nat) : (c.optGroupPosted g d before).Resting g pace m := by
  unfold Chip.optGroupPosted
  refine Chip.Resting.when (h.when fun _ => h.upPlot _ _) fun _ => ?_
  exact (h.when fun _ => h.upPlot _ _).groupMismatch _ _

theorem Chip.Resting.optGroups (h : c.Resting g pace m) (l : List OptDue) (n : Nat) : (Chip.optGroups g l n c).Resting g pace m := by
  induction l generalizing n c with
  | nil => exact h
  | cons d l ih => exact ih (h.optGroupPosted d n) _

theorem Chip.Resting.optStroke (h : c.Resting g pace m) : (c.optStroke g).Resting g pace m := by
  unfold Chip.optStroke
  have hs := (h.optGroups (sortBy (fun (d : OptDue) => d.tick) ((c.region g).optDue.filter (fun d => decide (d.tick < 4096)))) 0).upRegion g
    (f := fun r => { r with
      optServed := satAdd r.optServed (min 32 (c.region g).optCount)
      optPeak := if r.optPeak.toNat < min 33 (c.region g).optCount then BitVec.ofNat 8 (min 33 (c.region g).optCount) else r.optPeak })
    fun _ => rfl
  dsimp only
  split
  · exact hs
  · have hover := ((hs.upRegion g (f := fun r => { r with optOverflows := satAdd r.optOverflows 1 }) fun _ => rfl).event (srcRgn g) 1 0x107 true
      (plotLocus (busiest (((sortBy (fun (d : OptDue) => d.tick) ((c.region g).optDue.filter (fun d => decide (d.tick < 4096)))).flatMap
        (fun d => List.replicate d.items d.plot)).take 33))) 3).addRemedy
      (r := .plotHeld (busiest (((sortBy (fun (d : OptDue) => d.tick) ((c.region g).optDue.filter (fun d => decide (d.tick < 4096)))).flatMap
        (fun d => List.replicate d.items d.plot)).take 33))) trivial
    rw [Chip.Resting.callRegion hover]
    exact hover

theorem Chip.Resting.endSwitching (h : c.Resting g pace m) (on : List Nat) : (c.endSwitching g on).Resting g pace m := by
  refine h.overAll fun d lp hd => ?_
  split
  · exact hd.upPlot _ _
  · exact hd

theorem Chip.Resting.coxOverflow (h : c.Resting g pace m) {core : Nat} (hcore : core / 34 = g) (kind tick key : Nat) :
    (c.coxOverflow core kind tick key).Resting g pace m := by
  unfold Chip.coxOverflow
  rw [hcore]
  have hu := h.upCore core fun k => { k with
    noEntry := satIf (kind == 2) k.noEntry, slotsLost := satIf (kind == 1) k.slotsLost, lost := k.lost ++ [(kind, tick, key)] }
  exact (Chip.Resting.callRegion hu).symm ▸ hu

theorem Chip.Resting.coxStroke (h : c.Resting g pace m) {core : Nat} (hcore : core / 34 = g) (tick : Nat) : (c.coxStroke core tick).Resting g pace m := by
  unfold Chip.coxStroke
  refine (Chip.Resting.overAll (h.overAll fun d x hd => ?_) fun d o hd => ?_).upCore _ _
  · unfold Chip.arriveItem
    dsimp only
    split
    · exact (hd.upCore _ _).upCore _ _
    · exact ((hd.upCore _ _).upCore _ _).coxOverflow hcore _ _ _
  · exact (hd.event ..).addRemedy trivial

theorem Chip.Resting.coxStrokes (h : c.Resting g pace m) : (c.coxStrokes g).Resting g pace m := by
  have hcores : ∀ k ∈ (c.cores.filter (fun e => e.1 / 34 == g)).map (·.1), k / 34 = g := by
    intro k hk
    obtain ⟨e, he, rfl⟩ := List.mem_map.mp hk
    simpa using (List.mem_filter.mp he).2
  unfold Chip.coxStrokes
  generalize (c.cores.filter (fun e => e.1 / 34 == g)).map (·.1) = l at hcores ⊢
  induction l generalizing c with
  | nil => exact h
  | cons k l ih => exact ih (h.coxStroke (hcores k (by simp)) _) fun q hq => hcores q (by simp [hq])

/-! ## The remedies of a stroke's checks -/

theorem Chip.Resting.substituted (h : c.Resting g pace m) (src : Nat) (locus : BitVec 32) (kind : Nat) (perm last : Bool) :
    (c.substituted src locus kind perm last).Resting g pace m := by
  unfold Chip.substituted
  dsimp only
  split
  · exact (h.event ..).event ..
  · exact h.event ..

theorem Chip.Resting.noteHolds (h : c.Resting g pace m) : c.noteHolds.Resting g pace m := by
  refine h.overAll fun d n hd => ?_
  dsimp only
  split
  · exact hd
  · exact hd.upRegion _ fun _ => rfl

theorem Chip.Resting.holdJobs (h : c.Resting g pace m) (k : Nat) (names : Job → Bool) : (c.holdJobs g k names).Resting g pace m := by
  unfold Chip.holdJobs
  rw [List.filter_eq_nil_iff.mpr fun j hj => by simp [h.1 j hj]]
  exact Chip.Resting.noteHolds h

theorem Chip.Resting.plotAbsent (h : c.Resting g pace m) {k : Nat} (hk : k / 136 = g) (lp : Nat) : (c.plotAbsent k lp).Resting g pace m := by
  unfold Chip.plotAbsent
  rw [hk]
  have he := (h.upPlot k fun p => { p with seat := 0xFF, parked := false, absentSince := none }).event (srcRgn g) 3 0x403 false (plotLocus k) 2
  dsimp only
  rw [Chip.Resting.loseWhere he]
  exact he

theorem Chip.Resting.leaveSeat (h : c.Resting g pace m) {k : Nat} (hk : k / 136 = g) (reason : Nat) (retire perm : Bool) :
    (c.leaveSeat k reason retire perm).Resting g pace m := by
  have hseat (d : Chip) (hd : d.Resting g pace m) (q lp : Nat) : (d.takeSeat q lp).Resting g pace m := hd.upPlot _ _
  have hsurvey (d : Chip) (hd : d.Resting g pace m) (u : SurveyUnit) : (d.abandonSurvey u).Resting g pace m := hd.congr rfl rfl rfl rfl
  unfold Chip.leaveSeat
  extract_lets p r grp gone
  have hr : r = g := hk
  clear_value gone r
  subst hr
  repeat' split
  · exact Chip.Resting.substituted (hseat _ (hsurvey _ (h.upPlot _ _) _) _ _) ..
  · exact Chip.Resting.substituted (hseat _ (h.upPlot _ _) _ _) ..
  · exact (h.upPlot _ _).plotAbsent hk _
  · exact (h.upPlot _ _).holdJobs _ _
  · exact h
  · exact (h.upPlot _ _).plotAbsent hk _
  · exact (hsurvey _ h _).upPlot _ _
  · exact (hsurvey _ h _).upPlot _ _

theorem Chip.Resting.beginCopies (h : c.Resting g pace m) (core : Nat) : (c.beginCopies core).Resting g pace m :=
  h.of_outside (parts := [.arrays]) (Chip.outside_beginCopies (by simp) ..) (by simp)
    (Chip.mem_of_vaultMem (c.beginCopies_vaultMem core))

theorem Chip.Resting.startMove (h : c.Resting g pace m) (a : Nat) : (c.startMove a).Resting g pace m := by
  unfold Chip.startMove
  split
  · exact h
  · have hnote (d : Chip) (hd : d.Resting g pace m) (b e : Bool) : (d.when b (fun d =>
        if e then d.eventOpen (srcCore (a / 17)) 3 (arrLocus a none) 3 else d.event (srcCore (a / 17)) 3 0x403 false (arrLocus a none) 3)).Resting
        g pace m := hd.when fun _ => by split <;> [exact hd.eventOpen ..; exact hd.event ..]
    dsimp only
    split
    · exact ((hnote _ (h.upArr _ _) _ _).upArr _ _).beginCopies _
    · exact hnote _ (h.upArr _ _) _ _

theorem Chip.Resting.startPlotCopy (h : c.Resting g pace m) (a i j : Nat) : (c.startPlotCopy a i j).Resting g pace m := by
  unfold Chip.startPlotCopy
  dsimp only
  repeat' split
  · exact h
  · exact (h.upArr _ _).beginCopies _
  · exact (h.event ..).startMove _

theorem Chip.Resting.remedy (h : c.Resting g pace m) {r : Remedy} (hr : r.ofStroke) (hg : r.regionOf = some g) : (c.remedy r).Resting g pace m := by
  cases r
  case coxEntry =>
    unfold Chip.remedy
    dsimp only
    repeat' split
    · exact (h.upCore _ _).startPlotCopy ..
    · exact h.upCore _ _
    · exact (h.upCore _ _).startPlotCopy ..
    · exact h.upCore _ _
  case plotHeld k => exact (h.leaveSeat (Option.some.inj hg) ..).upPlot _ _
  case plot k reason => exact h.leaveSeat (Option.some.inj hg) ..
  all_goals exact hr.elim

theorem Chip.Resting.applyRemedies (h : c.Resting g pace m) : (c.applyRemedies [g]).Resting g pace m := by
  have hb : (c.benchRestart g).Resting g pace m := h.congr rfl rfl rfl rfl
  change ((c.benchRestart g).applyWhere _).Resting g pace m
  generalize c.benchRestart g = d at hb
  unfold Chip.applyWhere
  have hall : ∀ r ∈ sortBy d.remedyRank (d.saf.remedies.filter (fun r => match r.regionOf with | some h => [g].contains h | none => false)),
      r.ofStroke ∧ r.regionOf = some g := by
    intro r hr
    have hr := mem_of_mem_sortBy hr
    obtain ⟨hr, hg⟩ := List.mem_filter.mp hr
    refine ⟨hb.2.2.2 r hr, ?_⟩
    split at hg
    · next hreg => rw [hreg]; simpa using hg
    · exact absurd hg (by simp)
  have hdrop : ({ d with saf := { d.saf with remedies := d.saf.remedies.filter (fun r =>
      !(match r.regionOf with | some h => [g].contains h | none => false)) } } : Chip).Resting g pace m :=
    ⟨hb.1, hb.2.1, hb.2.2.1, fun r hr => hb.2.2.2 r (List.mem_filter.mp hr).1⟩
  generalize sortBy d.remedyRank _ = l at hall
  dsimp only
  generalize ({ d with saf := _ } : Chip) = e at hdrop
  induction l generalizing e with
  | nil => exact hdrop
  | cons r l ih => exact ih (fun q hq => hall q (by simp [hq])) _ (hdrop.remedy (hall r (by simp)).1 (hall r (by simp)).2)

/-! ## The boundary -/

/-- A core whose region no job holds has no shadow that its weak-plot table fills from. -/
theorem Chip.Resting.shadowOf (h : c.Resting g pace m) {core : Nat} (hcore : core / 34 = g) : c.shadowOf core = none := by
  unfold Chip.shadowOf
  split
  · rfl
  · refine List.findSome?_eq_none_iff.mpr fun j hj => ?_
    have hidle := h.1 j hj
    split
    · next hlog _ _ =>
      split
      · next hrun =>
        unfold Job.logical at hlog
        obtain ⟨p, hp, -⟩ := Option.map_eq_some_iff.mp hlog
        have hin : j.inRegion g = true := by
          have hmem := List.mem_of_find?_eq_some hp
          have hfound := List.find?_some hp
          simp only [Job.inRegion, Job.holds, hrun, Bool.true_and, List.any_eq_true]
          exact ⟨p, hmem, by rw [← hcore]; exact hfound⟩
        rw [hidle] at hin
        exact absurd hin (by simp)
      · rfl
    · rfl

theorem Chip.Resting.fillShadows (h : c.Resting g pace m) (bad : List LedgerMiss) {core : Nat} (hcore : core / 34 = g) :
    c.fillShadows bad core = c := by
  unfold Chip.fillShadows
  rw [h.shadowOf hcore]

theorem Chip.Resting.fillAll (h : c.Resting g pace m) (bad : List LedgerMiss) {l : List (Nat × Option Nat)} (hl : ∀ e ∈ l, e.1 / 34 = g) :
    (Machine.overAll l (fun c e => c.fillShadows bad e.1) c).Resting g pace m := by
  induction l with
  | nil => exact h
  | cons e l ih =>
    rw [Machine.overAll, List.foldl_cons, h.fillShadows bad (hl e (by simp))]
    exact ih fun q hq => hl q (by simp [hq])

/-- No job takes its boundary at a region that none holds. -/
theorem Chip.Resting.leads (h : c.Resting g pace m) (hg : g < 16) : c.jobs.filter (fun j => j.leads g) = [] := by
  have hlow (l : List (Nat × Nat)) (b : Nat) : l.foldl (fun m p => min m p.2) b = b ∨ ∃ p ∈ l, p.2 = l.foldl (fun m p => min m p.2) b := by
    induction l generalizing b with
    | nil => exact .inl rfl
    | cons x l ih =>
      simp only [List.foldl_cons]
      rcases ih (min b x.2) with hb | ⟨p, hp, hb⟩
      · rw [hb]
        rcases min_choice b x.2 with hm | hm
        · exact .inl hm
        · exact .inr ⟨x, by simp, hm.symm⟩
      · exact .inr ⟨p, by simp [hp], hb⟩
  refine List.filter_eq_nil_iff.mpr fun j hj hlead => ?_
  simp only [Job.leads, Job.lowRegion, Bool.and_eq_true, beq_iff_eq] at hlead
  obtain ⟨hholds, hmin⟩ := hlead
  have hidle := h.1 j hj
  rcases hlow j.map 255 with hb | ⟨p, hp, hb⟩
  · omega
  · have hin : j.inRegion g = true := by
      simp only [Job.inRegion, hholds, Bool.true_and, List.any_eq_true]
      exact ⟨p, hp, by simp [hb, hmin]⟩
    rw [hidle] at hin
    exact absurd hin (by simp)

end

/-- The region's own clock: its stroke ends, and nothing else that the paces speak of. -/
theorem Chip.Resting.endStroke {g : Nat} {pace : Nat → BitVec 48 × List OptDue × BitVec 8 × BitVec 2 × Bool × Option Nat} {m : Mems} {c : Chip}
    (h : c.Resting g pace m) :
    (c.upRegion g Region.endStroke).Resting g (fun n => if n = g then (c.region g).endStroke.pace else pace n) m := by
  obtain ⟨hjobs, hpace, hmem, hsaf⟩ := h
  refine ⟨hjobs, fun n => ?_, hmem, hsaf⟩
  by_cases hn : n = g
  · subst hn
    simp
  · simp only [Chip.region_upRegion_ne _ _ _ _ hn, hpace, if_neg hn]

/-- The boundary of a region that no job holds: its pace is that of its stroke's end, every other pace and the memory are as they were. -/
theorem Chip.strokeBoundary_resting (c : Chip) {g : Nat} (hg : g < 16) (hlock : c.clk.masterLock = true) (hpower : (c.region g).power ≠ 0)
    (hjobs : ∀ j ∈ c.jobs, j.inRegion g = false) (hrem : c.saf.remedies = []) :
    ∃ r : Region, r.pace = (c.region g).pace ∧ (c.strokeBoundary g [] []).Resting g
      (fun n => if n = g then r.endStroke.pace else (c.region n).pace) c.mem := by
  have h0 : c.Resting g (fun n => (c.region n).pace) c.mem := ⟨hjobs, fun _ => rfl, rfl, by simp [hrem]⟩
  unfold Chip.strokeBoundary
  extract_lets on runs c1 c2 halved c3 led c4 c5 c6
  have hruns : runs = true := by simpa [runs, hlock] using hpower
  have h1 : c1.Resting g (fun n => (c.region n).pace) c.mem := h0.when fun _ => (h0.optStroke.endSwitching on).coxStrokes
  have h2 : c2 = c1 := h1.callWhere _
  refine ⟨c1.region g, h1.2.1 g, ?_⟩
  have h3 : c3.Resting g (fun n => if n = g then (c1.region g).endStroke.pace else (c.region n).pace) c.mem := by
    simp only [c3, h2, hruns, Chip.when, if_true]
    refine Chip.Resting.congr (Chip.Resting.fillAll (h1.endStroke.congr ?_ ?_ ?_ ?_) [] fun q hq => ?_) rfl rfl rfl rfl
    case refine_5 =>
      obtain ⟨x, hx, rfl⟩ := List.mem_map.mp hq
      have hx := (List.mem_filter.mp hx).2
      simp only [Bool.and_eq_true, beq_iff_eq] at hx
      exact hx.1
    all_goals rfl
  have h4 : c4 = c3 := by
    simp only [c4, led, h3.leads hg, List.map_nil]
    cases c3.clk.masterLock <;> rfl
  have h5 : c5.Resting g (fun n => if n = g then (c1.region g).endStroke.pace else (c.region n).pace) c.mem := by
    simp only [c5, h4, hruns, Chip.when, if_true]
    exact h3.congr rfl rfl rfl rfl
  have h6 : c6 = c5.applyRemedies [g] := if_neg (by simpa using h5.1)
  have h7 := h6 ▸ h5.applyRemedies
  clear_value c6
  exact h7.of_outside (parts := [.banks]) (Chip.outside_feedForward (by simp) ..) (by simp)
    (Chip.mem_of_vaultMem (Chip.feedForward_vaultMem ..))

/-! ## The chip stroke -/

/-- An address below a table's first is not listed. -/
theorem look_of_keysRise_lt {V : Type} (d : V) {lo : Nat} {m : SMap V} (h : keysRise lo m = true) {n : Nat} (hn : n < lo) : look d m n = d := by
  induction m generalizing lo with
  | nil => rfl
  | cons e m ih =>
    simp only [keysRise, Bool.and_eq_true, decide_eq_true_eq] at h
    rw [look, if_neg (by omega)]
    exact ih h.2 (by omega)

/-- A change of every entry of a table in order, which the default survives, is a change of what the table shows. -/
theorem look_adjust_all {V : Type} [DecidableEq V] (d : V) (f : V → V) (hf : f d = d) {lo : Nat} {m : SMap V} (h : keysRise lo m = true) (n : Nat) :
    look d (adjust d (fun _ => true) f m) n = f (look d m n) := by
  induction m generalizing lo with
  | nil => exact hf.symm
  | cons e m ih =>
    obtain ⟨k, v⟩ := e
    simp only [keysRise, Bool.and_eq_true] at h
    have hrest := ih h.2
    by_cases hn : n = k
    · subst hn
      rw [look_of_keysRise_lt d h.2 (Nat.lt_succ_self n), hf] at hrest
      by_cases hd : f v = d <;> simp [adjust, look, hd] at hrest ⊢
      exact hrest
    · by_cases hd : f v = d <;> simp [adjust, look, hd, hn] at hrest ⊢ <;> exact hrest

/-- Settles O15: a region that no job holds ends its stroke by its own clock, whatever its plots and cores call for. -/
theorem strokesAdvance : Obligations.StrokesAdvance := by
  refine ⟨?_, fun s hlock => ?_, fun s hlock => ?_⟩
  · intro g s r hlock hpower hjobs hrem
    obtain ⟨q, hq, -, hpace, hmem, -⟩ := Chip.strokeBoundary_resting s.toChip g.isLt hlock hpower hjobs hrem
    refine ⟨{ s with toChip := s.toChip.strokeBoundary g.val [] [] }, rfl, ?_⟩
    generalize s.toChip.strokeBoundary g.val [] [] = d at hpace hmem
    have hg := (hpace g.val).trans (if_pos rfl)
    simp only [Region.pace, Region.endStroke, Prod.mk.injEq] at hq hg
    obtain ⟨hstroke, hdue, -, -, hsleep, hrewake⟩ := hq
    obtain ⟨gstroke, gdue, glast, gpower, -, -⟩ := hg
    have hcount : q.optCount = r.optCount := by simp only [Region.optCount, hdue, r]
    refine ⟨?_, ?_, ?_, fun hs hr => ?_, hmem, fun h hne => ?_⟩
    · rw [← hstroke]; exact gstroke
    · rw [← hcount]; exact glast
    · rw [← hdue]; exact gdue
    · refine gpower.trans ?_
      simp [hsleep, hrewake, show (s.toChip.region g.val).sleepAtEnd = true from hs, show (s.toChip.region g.val).rewake = none from hr]
    · exact congrArg Prod.fst ((hpace h.val).trans (if_neg fun e => hne (Fin.ext e)))
  · refine ⟨_, rfl, ?_⟩
    simp only [hlock, Bool.not_true, Bool.false_eq_true, if_false, true_and, and_true]
    intro hrise n
    exact congrArg Region.fifo (look_adjust_all _ (fun r : Region => { r with fifo := r.fifo - 16 }) rfl hrise n)
  · change execChipStroke s = _
    simp [execChipStroke, act, hlock]

end Sys2Proof.Machine

/-! The commit of a piece and the re-row (R28, R32, R33, R107, R318, R367): the obligations O16 and O17. -/

namespace Sys2Proof.Machine

/-! ## What an operation keeps of the jobs and the remedies -/

theorem Chip.job?_of_outside {parts : List Part} {c d : Chip} (h : d.outside parts = c.outside parts) (hp : .jobs ∉ parts) (id : JobId) :
    d.job? id = c.job? id := by
  have hjobs : c.jobs = d.jobs := Chip.same_of_outside h hp
  simp only [Chip.job?, hjobs]

theorem Chip.saf_of_outside {parts : List Part} {c d : Chip} (h : d.outside parts = c.outside parts) (hp : .saf ∉ parts) : d.saf = c.saf :=
  (Chip.same_of_outside h hp).symm

theorem Chip.sch_of_outside {parts : List Part} {c d : Chip} (h : d.outside parts = c.outside parts) (hp : .sch ∉ parts) : d.sch = c.sch :=
  (Chip.same_of_outside h hp).symm

/-- A job that is dropped is gone. -/
theorem Chip.job?_dropJob (c : Chip) (id : JobId) : (c.dropJob id).job? id = none := by
  simp [Chip.job?, Chip.dropJob]

theorem Chip.job?_endJob (c : Chip) (j : Job) (status sub flags : Nat) : (c.endJob j status sub flags).job? j.id = none :=
  Chip.job?_dropJob _ _

theorem Chip.id_of_job? {c : Chip} {id : JobId} {j : Job} (h : c.job? id = some j) : j.id = id := by
  simpa using List.find?_some h

/-! ## The commit -/

/-- Settles O16: the output packets and the swaps settled leave the jobs, so the piece counted is the job's own. -/
theorem pieceCommits : Obligations.PieceCommits := by
  intro id s j i hj hi hdue
  refine ⟨{ s with toChip := s.toChip.pieceCommit id }, rfl, ?_⟩
  have hid := Chip.id_of_job? hj
  have hmem : (s.toChip.pieceCommit id).mem = s.mem := Chip.mem_of_vaultMem (Chip.pieceCommit_vaultMem ..)
  suffices h : (j.committed + 1 < i.pieces → ((s.toChip.pieceCommit id).job? id).map (fun k => (k.committed, k.rerowCount, k.st))
      = some (j.committed + 1, 0, j.st)) ∧ (i.pieces ≤ j.committed + 1 → (s.toChip.pieceCommit id).job? id = none) from ⟨h.1, h.2, hmem⟩
  unfold Chip.pieceCommit
  simp -zeta only [hj, hi, hdue, Bool.not_true, Bool.false_eq_true, if_false]
  extract_lets p E o o' input port sent settled committed
  have hsent : sent.job? id = some j := (Chip.job?_of_outside (Chip.outside_sendStream (parts := [.host]) (by simp) ..) (by simp) id).trans hj
  have hsettled : settled.job? id = some j :=
    (overAll_keep (fun d => d.job? id) _ _ _ fun d w =>
      Chip.job?_of_outside (Chip.outside_settle (parts := [.tiers]) (by simp) ..) (by simp) id).trans hsent
  have hcommitted : committed.job? id = some (j.commitPiece E (E + settled.commitLag j) input (o' - o)) :=
    Chip.job?_upJob_same _ (fun _ => rfl) hsettled
  clear_value committed
  simp only [hcommitted]
  by_cases hlast : i.pieces ≤ j.committed + 1
  · rw [if_pos (show i.pieces ≤ (j.commitPiece E (E + settled.commitLag j) input (o' - o)).committed from hlast)]
    have hend := committed.job?_endJob (j.commitPiece E (E + settled.commitLag j) input (o' - o)) statusOk 0 0
    exact ⟨fun h => absurd h (by omega), fun _ => hid ▸ hend⟩
  · rw [if_neg (show ¬ i.pieces ≤ (j.commitPiece E (E + settled.commitLag j) input (o' - o)).committed from hlast), hcommitted]
    exact ⟨fun _ => rfl, fun h => absurd h hlast⟩

/-! ## The re-row -/

/-- Without a remedy that waits there is nothing to filter from the list. -/
theorem Chip.eq_self_of_remedies {c : Chip} (hrem : c.saf.remedies = []) : { c with saf := { c.saf with remedies := [] } } = c := by
  rw [← hrem]

theorem Chip.applyWhere_of_none {c : Chip} (hrem : c.saf.remedies = []) (mine : Remedy → Bool) : c.applyWhere mine = c := by
  unfold Chip.applyWhere
  rw [hrem]
  exact Chip.eq_self_of_remedies hrem

theorem Chip.applyLinkRemedies_of_none {c : Chip} (hrem : c.saf.remedies = []) (ports : List Nat) : c.applyLinkRemedies ports = c := by
  unfold Chip.applyLinkRemedies
  rw [hrem]
  exact Chip.eq_self_of_remedies hrem

/-- The remedies of a job at a re-row where none waits: the bench's tests restart, nothing else. -/
theorem Chip.outside_jobRemedies_of_none {c : Chip} (hrem : c.saf.remedies = []) (j : Job) : (c.jobRemedies j).outside [.arrays] = c.outside [.arrays] := by
  have hb : (overAll (j.map.map (·.2)) Chip.benchRestart c).outside [.arrays] = c.outside [.arrays] :=
    overAll_keep (Chip.outside [.arrays]) _ _ _ fun d g => by simp [Chip.benchRestart]
  have hsaf : (overAll (j.map.map (·.2)) Chip.benchRestart c).saf.remedies = [] := by rw [Chip.saf_of_outside hb (by simp), hrem]
  unfold Chip.jobRemedies Chip.applyRemedies
  rw [Chip.applyWhere_of_none hsaf, Chip.applyLinkRemedies_of_none hsaf]
  exact hb

/-- A view of a job that an operation on jobs leaves. -/
theorem Chip.map_job?_upJob {β : Type} (F : Job → β) (c : Chip) (id id' : JobId) (f : Job → Job) (hid : ∀ k, (f k).id = k.id) (hF : ∀ k, F (f k) = F k) :
    ((c.upJob id f).job? id').map F = (c.job? id').map F := by
  rw [c.job?_upJob id id' f hid]
  cases c.job? id' with
  | none => rfl
  | some k =>
    simp only [Option.map_some]
    split
    · rw [hF]
    · rfl

/-- A re-row puts the job back at the start of its oldest uncommitted piece. -/
theorem Chip.progress_discard {c : Chip} {j : Job} (hj : c.job? j.id = some j) :
    ((c.discard j).job? j.id).map (fun k => (k.stroke, k.rerow, k.rerowCount, k.committed))
      = some (j.committed * (c.lengths j).1, false, j.rerowCount + 1, j.committed) := by
  unfold Chip.discard
  extract_lets start cleared redo undone emptied slept asleep
  have hcleared : cleared.job? j.id = some j :=
    (Chip.job?_of_outside (Chip.outside_clearWork (parts := [.regions, .cores, .arrays, .tiles]) (by simp) ..) (by simp) _).trans hj
  have hundone : undone.job? j.id = some j :=
    (overAll_keep (fun d => d.job? j.id) _ _ _ fun d w =>
      Chip.job?_of_outside (Chip.outside_undoSwap (parts := [.arrays, .tiers]) (by simp) ..) (by simp) _).trans hcleared
  have hemptied : emptied.job? j.id = some j := by
    refine (overAll_keep (fun d => d.job? j.id) _ _ _ fun d w => ?_).trans hundone
    rfl
  have hasleep : asleep.job? j.id = some j := by
    refine (overAll_keep (fun d => d.job? j.id) _ _ _ fun d w => ?_).trans hemptied
    refine Chip.job?_of_outside (parts := [.regions, .lasers]) ?_ (by simp) _
    simp [apply_ite (Chip.outside [.regions, .lasers])]
  refine (congrArg _ (Chip.job?_upJob_same _ ?_ hasleep)).trans rfl
  exact fun _ => rfl

/-- The start of a piece sets the strides of a job, nothing else of it. -/
theorem Chip.map_job?_startPiece {β : Type} (F : Job → β) (hF : ∀ k x, F { k with strides := x } = F k) (c : Chip) (k : Job) (id : JobId) :
    ((c.startPiece k).job? id).map F = (c.job? id).map F := by
  unfold Chip.startPiece
  extract_lets seats blocks cleared
  have hcleared : cleared.job? id = c.job? id := rfl
  clear_value cleared
  refine (Chip.map_job?_upJob F _ _ _ _ ?_ ?_).trans (congrArg _ hcleared)
  · exact fun _ => rfl
  · exact fun _ => hF _ _

theorem Chip.remedies_scheduleEvent (c : Chip) (j : Job) (cls code detail : Nat) :
    (c.scheduleEvent j cls code detail).saf.remedies = c.saf.remedies := by
  unfold Chip.scheduleEvent Chip.event
  rfl

/-- Below the limit the job restarts and the re-row is counted. -/
theorem Chip.rerowJob_restarts {c : Chip} {j : Job} (hj : c.job? j.id = some j) (hlost : j.lostWord = false) (hcount : j.rerowCount < 8)
    (hrem : c.saf.remedies = []) :
    ((c.rerowJob j).job? j.id).map (fun k => (k.stroke, k.rerow, k.rerowCount, k.committed))
        = some (j.committed * (c.lengths j).1, false, j.rerowCount + 1, j.committed)
      ∧ (c.rerowJob j).sch.rerowTotal = satAdd c.sch.rerowTotal 1 := by
  unfold Chip.rerowJob
  rw [if_neg (by simp [hlost]; omega)]
  extract_lets start sch counted noted restarted remedied
  have hnotedout : noted.outside [.regions, .saf, .log] = counted.outside [.regions, .saf, .log] := Chip.outside_scheduleEvent (by simp) ..
  have hnoted : noted.job? j.id = some j := (Chip.job?_of_outside hnotedout (by simp) _).trans hj
  have hsch : noted.sch = counted.sch := Chip.sch_of_outside hnotedout (by simp)
  have hlengths : noted.lengths j = c.lengths j := by simp only [Chip.lengths, Chip.imageOf, hsch, counted, sch]
  have hout : restarted.outside [.jobs, .regions, .cores, .arrays, .tiers, .tiles, .lasers, .ports]
      = noted.outside [.jobs, .regions, .cores, .arrays, .tiers, .tiles, .lasers, .ports] :=
    (Chip.outside_deferPause (by simp) ..).trans (Chip.outside_discard (by simp) ..)
  have hrestarted : restarted.saf.remedies = [] := by
    rw [Chip.saf_of_outside hout (by simp)]
    exact (Chip.remedies_scheduleEvent ..).trans hrem
  have hremout : remedied.outside [.arrays] = restarted.outside [.arrays] := Chip.outside_jobRemedies_of_none hrestarted j
  have hjob : (remedied.job? j.id).map (fun k => (k.stroke, k.rerow, k.rerowCount, k.committed))
      = some (j.committed * (c.lengths j).1, false, j.rerowCount + 1, j.committed) := by
    rw [Chip.job?_of_outside hremout (by simp), ← hlengths, ← Chip.progress_discard hnoted]
    simp only [restarted, Chip.deferPause]
    split
    · rfl
    · exact Chip.map_job?_upJob _ _ _ _ _ (fun _ => rfl) fun _ => rfl
  have hsched : remedied.sch = counted.sch := by
    rw [Chip.sch_of_outside hremout (by simp), Chip.sch_of_outside hout (by simp), hsch]
  split
  · next k hk =>
    refine ⟨(Chip.map_job?_startPiece _ (fun _ _ => rfl) ..).trans hjob, ?_⟩
    rw [Chip.sch_of_outside (Chip.outside_startPiece (parts := [.jobs, .cores, .arrays, .tiles]) (by simp) ..) (by simp), hsched]
  · exact ⟨hjob, by rw [hsched]⟩

/-- At the limit the job ends. -/
theorem Chip.rerowJob_limit {c : Chip} {j : Job} (hj : c.job? j.id = some j) (hcount : 8 ≤ j.rerowCount) (hrem : c.saf.remedies = []) :
    (c.rerowJob j).job? j.id = none := by
  unfold Chip.rerowJob Chip.rerowLimit
  rw [if_pos (by simp [hcount])]
  have hnoted : (c.scheduleEvent j 3 0x111 (j.committed % 2 ^ 32)).job? j.id = some j :=
    (Chip.job?_of_outside (Chip.outside_scheduleEvent (parts := [.regions, .saf, .log]) (by simp) ..) (by simp) _).trans hj
  have hrem' := (Chip.remedies_scheduleEvent c j 3 0x111 (j.committed % 2 ^ 32)).trans hrem
  generalize c.scheduleEvent j 3 0x111 (j.committed % 2 ^ 32) = d at hnoted hrem'
  have habort : d.abortJob j.id statusRerow 0 = d.endJob j statusRerow 0 (0 + if j.started then 0 else 16) := by
    simp only [Chip.abortJob, hnoted]
  rw [habort, Chip.job?_of_outside (Chip.outside_jobRemedies_of_none ?_ j) (by simp)]
  · exact Chip.job?_endJob ..
  · rw [Chip.saf_of_outside (Chip.outside_endJob (List.Subset.refl _) ..) (by simp [endParts]), hrem']

/-- Settles O17. -/
theorem rerowRestartsThePiece : Obligations.RerowRestartsThePiece := by
  refine ⟨fun id s j hj hfleet hrerow habort hst hlost hcount hrem => ?_, fun id s j hj hfleet hrerow habort hst hcount hrem => ?_,
    fun id s j hj hst hhold => ?_⟩
  · obtain rfl := Chip.id_of_job? hj
    refine ⟨{ s with toChip := s.toChip.rerowJob j }, ?_, ?_⟩
    · change execRerow j.id s = _
      simp [execRerow, act, hj, hfleet, hrerow, habort, hst]
    · have h := Chip.rerowJob_restarts hj hlost hcount hrem
      exact h
  · obtain rfl := Chip.id_of_job? hj
    refine ⟨{ s with toChip := s.toChip.rerowJob j }, ?_, ?_⟩
    · change execRerow j.id s = _
      simp [execRerow, act, hj, hfleet, hrerow, habort, hst]
    · exact Chip.rerowJob_limit hj hcount hrem
  · refine ⟨{ s with toChip := s.toChip.upJob id (fun k => { k with st := .running }) }, ?_, ?_, rfl⟩
    · change execCoreCopyHoldEnd id s = _
      simp [execCoreCopyHoldEnd, act, hj, hst, hhold]
    · exact Chip.job?_upJob_same _ (fun _ => rfl) hj

end Sys2Proof.Machine

/-! The job transport (R301 to R303): an accepted packet, what it reports; the queueing of a job and the packets about a job (R41, R43, R308,
R309): the obligations O18 and O19. -/

namespace Sys2Proof.Machine

/-! ## Queues -/

@[simp] theorem Chip.queue_upQueue (c : Chip) (q : Nat) (f : QState → QState) : (c.upQueue q f).queue q = f (c.queue q) := look_put_same ..

theorem Chip.queue_upQueue_ne (c : Chip) (q n : Nat) (f : QState → QState) (h : n ≠ q) : (c.upQueue q f).queue n = c.queue n := look_put_ne _ _ _ h

section
variable {β : Type} (F : QState → β)

theorem Chip.queue_keep_upQueue (c : Chip) (q n : Nat) (f : QState → QState) (hf : ∀ k, F (f k) = F k) :
    F ((c.upQueue q f).queue n) = F (c.queue n) := by
  by_cases h : n = q
  · subst h
    rw [Chip.queue_upQueue, hf]
  · rw [Chip.queue_upQueue_ne _ _ _ _ h]

end

theorem Chip.queue_wire (c : Chip) (p : Packet) (q : Nat) : (c.wire p).queue q = c.queue q := by
  unfold Chip.wire Chip.upHport
  split
  · split <;> rfl
  · rfl

/-- What is sent moves no queue's next expected sequence. -/
theorem Chip.expected_emit (c : Chip) (q n : Nat) (w : Waiting) : ((c.emit q w).queue n).expected = (c.queue n).expected := by
  unfold Chip.emit
  rw [Chip.queue_wire]
  refine Chip.queue_keep_upQueue QState.expected _ _ _ _ ?_
  exact fun _ => rfl

theorem Chip.expected_flush (q m n : Nat) (c : Chip) : ((Chip.flush q m c).queue n).expected = (c.queue n).expected := by
  induction m generalizing c with
  | zero => rfl
  | succ m ih =>
    unfold Chip.flush
    split
    · rfl
    · split
      · rw [ih, Chip.expected_emit]
        refine Chip.queue_keep_upQueue QState.expected _ _ _ _ ?_
        exact fun _ => rfl
      · rfl

theorem Chip.expected_ackQueue (c : Chip) (q n : Nat) (a : BitVec 32) : ((c.ackQueue q a).queue n).expected = (c.queue n).expected := by
  unfold Chip.ackQueue
  extract_lets k
  split
  · rfl
  · next ended acked _ =>
    have hacked : acked.queue n = c.queue n := by
      refine overAll_keep (fun d => d.queue n) _ _ _ fun d p => ?_
      unfold Chip.streamAcked
      split <;> rfl
    unfold Chip.flushAll
    refine (overAll_keep (fun d => (d.queue n).expected) _ _ _ fun d p => Chip.expected_flush ..).trans ?_
    refine (Chip.queue_keep_upQueue QState.expected _ _ _ _ ?_).trans (by rw [hacked])
    exact fun _ => rfl

/-- A packet in sequence of an open queue, whole, of a type that the device takes, is treated as its type says. -/
theorem Chip.treat_of_takes {c : Chip} {h : Hdr} (hc : c.takes h) {lengths open_ : Bool} (hl : lengths = true) (ho : open_ = true) (f : Chip → Chip) :
    c.treat h lengths open_ f = f (c.accept h) := by
  obtain ⟨hseq, hclosed, hlen⟩ := hc
  unfold Chip.treat
  simp only [Chip.expected_ackQueue, hseq, ne_eq, not_true_eq_false, if_false, hl, ho, Bool.not_true, Bool.false_or, Bool.false_eq_true]
  change (if (c.accept h).queueClosed h.queue.toNat = true then _ else _) = _
  rw [hclosed, if_neg (by simp), if_neg (by simp; omega)]
  rfl

theorem Chip.outside_accept (c : Chip) (h : Hdr) : (c.accept h).outside [.host, .jobs] = c.outside [.host, .jobs] := by
  simp [Chip.accept]

/-- An acknowledgement moves no job but for the output it acknowledges. -/
theorem Chip.job?_accept_of_none {c : Chip} {id : JobId} (h : c.job? id = none) (x : Hdr) : (c.accept x).job? id = none := by
  change (c.ackQueue x.queue.toNat x.ack).job? id = none
  unfold Chip.ackQueue
  extract_lets k
  split
  · exact h
  · next ended acked _ =>
    refine (Chip.job?_of_outside (c := acked) (parts := [.host]) (by simp) (by simp) id).trans ?_
    refine overAll_invariant (fun d => d.job? id = none) _ (fun d p hd => ?_) _ _ h
    unfold Chip.streamAcked
    split
    · refine (Chip.job?_upJob _ _ _ _ ?_).trans (by rw [hd]; rfl)
      exact fun _ => rfl
    · exact hd

theorem Chip.nextOrder_accept (c : Chip) (h : Hdr) : (c.accept h).nextOrder = c.nextOrder :=
  (Chip.same_of_outside (p := .nextOrder) (c.outside_accept h) (by simp)).symm

theorem Chip.mem_accept (c : Chip) (h : Hdr) : (c.accept h).mem = c.mem :=
  (Chip.mem_of_vaultMem (Chip.ackQueue_vaultMem ..) :)

/-! ## Reports -/

/-- What is sent is reported, sent or held back at a port. -/
theorem Chip.reports_wire (c : Chip) (p : Packet) {b : ResultBody} (hb : p.body = some b) : (c.wire p).reports p.queue p.tag b := by
  left
  unfold Chip.wire Chip.upHport
  split
  · split <;> exact ⟨p, by simp, rfl, rfl, hb⟩
  · exact ⟨c.dress p, by simp, rfl, rfl, hb⟩

theorem Chip.reports_post (c : Chip) (q : BitVec 15) (w : Waiting) : (c.post q.toNat w).reports q w.tag w.body := by
  unfold Chip.post
  split
  · unfold Chip.emit
    extract_lets k p d
    have h := Chip.reports_wire d p rfl
    rwa [show p.queue = q by simp [p]] at h
  · right
    rw [Chip.queue_upQueue]
    exact ⟨w, by simp, rfl, rfl⟩

theorem Chip.receipted_receipt (c : Chip) (h : Hdr) (status : Nat) : (c.receipt h status).receipted h status := Chip.reports_post ..

section
variable {c : Chip} {q : BitVec 15} {tag : BitVec 32} {b : ResultBody}

/-- A report stands while nothing sent, held back or withheld is lost. -/
theorem Chip.reports_of_host {d : Chip} (h : c.reports q tag b) (hd : d.host = c.host) : d.reports q tag b := by
  unfold Chip.reports Chip.queue at *
  rwa [hd]

theorem Chip.reports_of_outside {d : Chip} {parts : List Part} (h : c.reports q tag b) (hd : d.outside parts = c.outside parts) (hp : .host ∉ parts) :
    d.reports q tag b := Chip.reports_of_host h (Chip.same_of_outside hd hp : c.host = d.host).symm

theorem Chip.reports_upJob (h : c.reports q tag b) (id : JobId) (f : Job → Job) : (c.upJob id f).reports q tag b := Chip.reports_of_host h rfl

theorem Chip.reports_keep_upQueue (h : c.reports q tag b) (n : Nat) (f : QState → QState) (hf : ∀ k, ∀ w ∈ k.withheld, w ∈ (f k).withheld) :
    (c.upQueue n f).reports q tag b := by
  refine h.imp id fun ⟨w, hw, ht, hb⟩ => ⟨w, ?_, ht, hb⟩
  by_cases hn : q.toNat = n
  · subst hn
    rw [Chip.queue_upQueue]
    exact hf _ w hw
  · rwa [Chip.queue_upQueue_ne _ _ _ _ hn]

theorem Chip.reports_keep_wire (h : c.reports q tag b) (p : Packet) : (c.wire p).reports q tag b := by
  refine h.imp (fun ⟨x, hx, hrest⟩ => ⟨x, ?_, hrest⟩) fun ⟨w, hw, hrest⟩ => ⟨w, by rwa [Chip.queue_wire], hrest⟩
  unfold Chip.wire Chip.upHport
  simp only [List.mem_append] at hx ⊢
  split
  · split
    · rcases hx with (hx | hx) | hx <;> simp [hx]
    · rcases hx with (hx | hx) | hx <;> simp [hx]
  · rcases hx with (hx | hx) | hx <;> simp [hx]

theorem Chip.reports_keep_post (h : c.reports q tag b) (n : Nat) (w : Waiting) : (c.post n w).reports q tag b := by
  unfold Chip.post
  split
  · refine Chip.reports_keep_wire (Chip.reports_keep_upQueue h _ _ ?_) _
    exact fun _ _ hw => hw
  · refine Chip.reports_keep_upQueue h _ _ ?_
    exact fun _ _ hw => List.mem_append_left _ hw

theorem Chip.reports_keep_jobEnd (h : c.reports q tag b) (j : Job) (status sub flags : Nat) : (c.jobEnd j status sub flags).reports q tag b := by
  unfold Chip.jobEnd
  extract_lets imageDigest prov w i signed granted
  split
  next n d hd =>
  have hdraw (d : Chip) (hd : d.reports q tag b) : d.draw.2.reports q tag b := Chip.reports_of_host hd rfl
  have hmode : d.reports q tag b := by
    split at hd
    · cases hd; exact h
    · cases hd; exact hdraw _ h
  refine Chip.reports_keep_post ?_ _ _
  split
  · exact hdraw _ hmode
  · exact hmode

theorem Chip.reports_keep_endJob (h : c.reports q tag b) (j : Job) (status sub flags : Nat) : (c.endJob j status sub flags).reports q tag b := by
  unfold Chip.endJob
  refine Chip.reports_of_host (Chip.reports_keep_jobEnd ?_ j status sub flags) rfl
  refine Chip.reports_of_outside (parts := [.regions, .cores, .arrays, .tiles, .ports, .tiers]) h ?_ (by simp)
  simp

end

/-! ## A job in the queue -/

/-- The job taken up is the one of its name. -/
theorem Chip.job?_enqueue (c : Chip) (j : Job) : (c.enqueue j).job? j.id = some { j with order := c.nextOrder } := by
  have hnone : (c.dropJob j.id).jobs.find? (fun k => k.id == j.id) = none := Chip.job?_dropJob c j.id
  simp [Chip.enqueue, Chip.job?, hnone]

theorem Chip.job?_upJob_own {c : Chip} {id : JobId} {j : Job} (hj : c.job? id = some j) (f : Job → Job) (hid : ∀ k, (f k).id = k.id) :
    (c.upJob j.id f).job? id = some (f j) := by
  obtain rfl := Chip.id_of_job? hj
  exact Chip.job?_upJob_same f hid hj

theorem Chip.job?_receipt (c : Chip) (h : Hdr) (status : Nat) (id : JobId) : (c.receipt h status).job? id = c.job? id :=
  Chip.job?_of_outside (Chip.outside_receipt (parts := [.host]) (by simp) ..) (by simp) id

theorem Chip.mem_receipt (c : Chip) (h : Hdr) (status : Nat) : (c.receipt h status).mem = c.mem :=
  Chip.mem_of_vaultMem (Chip.receipt_vaultMem ..)

/-- Settles O18. -/
theorem submitQueuesTheJob : Obligations.SubmitQueuesTheJob := by
  intro h b s i hc hl ho htag hclean hchecks
  refine ⟨fun hj hused himage => ?_, fun r hj hused hrecord => ?_⟩
  · let j : Job := { id := Hdr.jobId h, body := b, order := 0, cls := (s.toChip.accept h).queueClass h.queue.toNat, image := i.id, fleet := i.lamniMask != 0 }
    refine ⟨{ s with toChip := ((s.toChip.accept h).enqueue j).receipt h statusOk }, ?_, ?_, ?_, Chip.receipted_receipt .., ?_⟩
    · change execJobSubmit h b s = _
      simp [execJobSubmit, act, Chip.treat_of_takes hc hl ho, Chip.submit, hclean, show ¬ h.tag = 0#32 from htag, hused, himage, hchecks, j]
    · change ((((s.toChip.accept h).enqueue j).receipt h statusOk).job? j.id).map _ = _
      rw [Chip.job?_receipt, Chip.job?_enqueue, Chip.nextOrder_accept]
      rfl
    · have horder : (((s.toChip.accept h).enqueue j).receipt h statusOk).nextOrder = ((s.toChip.accept h).enqueue j).nextOrder :=
        (Chip.same_of_outside (p := .nextOrder) (Chip.outside_receipt (parts := [.host]) (by simp) ..) (by simp)).symm
      exact horder.trans (congrArg (· + 1) (s.toChip.nextOrder_accept h))
    · exact (Chip.mem_receipt ..).trans (s.toChip.mem_accept h)
  · have hnone := Chip.job?_accept_of_none hj h
    let k := resumed none (Hdr.jobId h) b ((s.toChip.accept h).queueClass h.queue.toNat) i r
    refine ⟨{ s with toChip := ((s.toChip.accept h).enqueue k).receipt h statusOk }, ?_, ?_, Chip.receipted_receipt .., ?_⟩
    · change execJobResume h b s = _
      simp [execJobResume, act, Chip.treat_of_takes hc hl ho, Chip.resume, hclean, show ¬ h.tag = 0#32 from htag, hused, hrecord, hnone, hchecks, k]
    · change ((((s.toChip.accept h).enqueue k).receipt h statusOk).job? k.id).map _ = _
      rw [Chip.job?_receipt, Chip.job?_enqueue]
      rfl
    · exact (Chip.mem_receipt ..).trans (s.toChip.mem_accept h)

/-! ## The packets about a job -/

/-- A pause asked for before the job's end, the first of its kind, stands. -/
theorem Chip.askPause_of_open {c : Chip} {j : Job} {i : Image} (hi : c.imageOf j = some i) (hpause : j.pause = none) (hst : j.st ≠ .draining)
    {boundary : Nat} (htotal : boundary < i.strokes) (reason : BitVec 8) (area : BitVec 64) :
    c.askPause j boundary reason area
      = c.upJob j.id (fun k => { k with pause := some { boundary := boundary, reason := reason, area := area } }) := by
  simp [Chip.askPause, hi, hpause, hst, htotal]

/-- Settles O19. -/
theorem jobPacketsComplete : Obligations.JobPacketsComplete := by
  refine ⟨?_, fun h b s j hc hl ho hclean hj hlive => ?_⟩
  · intro h b s j i c hc hl ho hclean hj hi hlive hfleet
    refine ⟨fun hpause hst hnext harea hbusy => ?_, fun habort => ?_, fun hmode => ?_⟩
    · refine ⟨{ s with toChip := ((c.upJob j.id (fun k => { k with pause := some { boundary := c.nextPiece j, reason := 0, area := b.saveArea } })).receipt h
        statusOk) }, ?_, ?_, Chip.receipted_receipt ..⟩
      · have hask : c.askPause j (c.nextPiece j) 0 b.saveArea
            = c.upJob j.id (fun k => { k with pause := some { boundary := c.nextPiece j, reason := 0, area := b.saveArea } }) :=
          Chip.askPause_of_open hi hpause hst hnext ..
        have hpacket : c.pausePacket h b = (c.askPause j (c.nextPiece j) 0 b.saveArea).receipt h statusOk := by
          simp only [Chip.pausePacket, hj, hi, hclean, hlive, hfleet, hbusy]
          simp [harea]
        rw [← hask, ← hpacket, ← Chip.treat_of_takes hc hl ho fun c => c.pausePacket h b]
        rfl
      · exact (Chip.job?_receipt ..).trans (Chip.job?_upJob_own hj _ fun _ => rfl)
    · refine ⟨{ s with toChip := ((c.receipt h statusOk).upJob j.id (fun k => { k with abortReq := some (statusOk, 2) })) }, ?_, ?_, ?_⟩
      · have hpacket : c.abortPacket h b = (c.receipt h statusOk).upJob j.id (fun k => { k with abortReq := some (statusOk, 2) }) := by
          simp [Chip.abortPacket, hj, hclean, hlive, hfleet, habort]
        rw [← hpacket, ← Chip.treat_of_takes hc hl ho fun c => c.abortPacket h b]
        rfl
      · exact Chip.job?_upJob_own ((Chip.job?_receipt ..).trans hj) _ fun _ => rfl
      · exact Chip.reports_upJob (Chip.receipted_receipt c h statusOk) _ _
    · refine ⟨{ s with toChip := ((c.upJob j.id (fun k => { k with
        modeReq := some (codeMode b.pressure.toNat, (c.region j.lowRegion).stroke.toNat + 3) })).receipt h statusOk) }, ?_, ?_, Chip.receipted_receipt ..⟩
      · have hpacket : c.pressurePacket h b = (c.upJob j.id (fun k => { k with
            modeReq := some (codeMode b.pressure.toNat, (c.region j.lowRegion).stroke.toNat + 3) })).receipt h statusOk := by
          have hfield : (decide (2 < b.pressure.toNat) && decide (b.pressure.toNat ≠ 255)) = false := by
            rcases hmode with h | h <;> simp <;> omega
          have hallows : (decide (b.pressure.toNat ≠ 255) && !c.allows i b.pressure.toNat) = false := by
            rcases hmode with h | h <;> simp [h]
          simp only [Chip.pressurePacket, hj, hi, hclean, hlive, hfleet, hfield, hallows]
          rfl
        rw [← hpacket, ← Chip.treat_of_takes hc hl ho fun c => c.pressurePacket h b]
        rfl
      · have hregion : (c.region j.lowRegion) = s.toChip.region j.lowRegion := by
          have hregions : s.toChip.regions = c.regions := Chip.same_of_outside (p := .regions) (s.toChip.outside_accept h) (by simp)
          simp only [Chip.region, hregions]
        rw [← hregion]
        exact (Chip.job?_receipt ..).trans (Chip.job?_upJob_own hj _ fun _ => rfl)
  · refine ⟨{ s with toChip := (((s.toChip.accept h).receipt h statusOk).endJob j statusOk 0 (2 + if j.started then 0 else 16)) }, ?_, ?_, ?_⟩
    · have hreceipt := (Chip.job?_receipt (s.toChip.accept h) h statusOk j.id).trans (Chip.id_of_job? hj ▸ hj)
      have hpacket : (s.toChip.accept h).abortPacket h b
          = ((s.toChip.accept h).receipt h statusOk).endJob j statusOk 0 (2 + if j.started then 0 else 16) := by
        simp only [Chip.abortPacket, hj, hclean, hlive, Chip.abortJob, hreceipt]
        rfl
      rw [← hpacket, ← Chip.treat_of_takes hc hl ho fun c => c.abortPacket h b]
      rfl
    · exact Chip.id_of_job? hj ▸ Chip.job?_endJob ..
    · exact Chip.reports_keep_endJob (Chip.receipted_receipt (s.toChip.accept h) h statusOk) ..

end Sys2Proof.Machine

/-! Admission, start, pause, a change of pressure, the zeroing of staging (R16, R36, R38, R41, R246, R305, R317, R332): the obligations O20 to
O23. -/

namespace Sys2Proof.Machine

/-! ## What an operation keeps of a job and the memory -/

/-- Whether parts leave the memory out. -/
def noMemory (parts : List Part) : Prop :=
  .hbm ∉ parts ∧ .rstg ∉ parts ∧ .cstg ∉ parts ∧ .tierImages ∉ parts ∧ .ledger ∉ parts ∧ .flash ∉ parts

theorem Chip.mem_of_outside {parts : List Part} {c d : Chip} (h : d.outside parts = c.outside parts) (hp : noMemory parts) : d.mem = c.mem := by
  obtain ⟨hhbm, hrstg, hcstg, htiers, hledger, hflash⟩ := hp
  have h1 : c.mem.hbm = d.mem.hbm := Chip.same_of_outside h hhbm
  have h2 : c.mem.rstg = d.mem.rstg := Chip.same_of_outside h hrstg
  have h3 : c.mem.cstg = d.mem.cstg := Chip.same_of_outside h hcstg
  have h4 : c.mem.tiers = d.mem.tiers := Chip.same_of_outside h htiers
  have h5 : c.mem.ledger = d.mem.ledger := Chip.same_of_outside h hledger
  have h6 : c.mem.flash = d.mem.flash := Chip.same_of_outside h hflash
  cases hc : c.mem
  cases hd : d.mem
  simp_all

/-- A job and the memory. -/
def Chip.jobMem (id : JobId) (c : Chip) : Option Job × Mems := (c.job? id, c.mem)

theorem Chip.jobMem_of_outside {parts : List Part} {c d : Chip} (h : d.outside parts = c.outside parts) (hj : .jobs ∉ parts) (hp : noMemory parts)
    (id : JobId) : d.jobMem id = c.jobMem id := Prod.ext (Chip.job?_of_outside h hj id) (Chip.mem_of_outside h hp)

/-! ## What an operation keeps of a region -/

section
variable {β : Type} (F : Region → β)

theorem Chip.region_view_upRegion (c : Chip) (k n : Nat) (f : Region → Region) (hf : ∀ r, F (f r) = F r) :
    F ((c.upRegion k f).region n) = F (c.region n) := by
  by_cases h : n = k
  · subst h
    rw [Chip.region_upRegion, hf]
  · rw [Chip.region_upRegion_ne _ _ _ _ h]

theorem Chip.region_view_of_outside {parts : List Part} {c d : Chip} (h : d.outside parts = c.outside parts) (hp : .regions ∉ parts) (n : Nat) :
    F (d.region n) = F (c.region n) := by
  have hregions : c.regions = d.regions := Chip.same_of_outside h hp
  simp only [Chip.region, hregions]

theorem Chip.region_view_event (hF : ∀ r x, F { r with fifo := x } = F r) (c : Chip) (src cls code : Nat) (rerow : Bool) (locus : BitVec 32)
    (detail n : Nat) : F ((c.event src cls code rerow locus detail).region n) = F (c.region n) := by
  unfold Chip.event
  extract_lets full saf c1
  split
  · split
    · rfl
    · exact Chip.region_view_upRegion F c1 _ _ _ fun r => hF r _
  · rfl

theorem Chip.region_view_jobRecord (hF : ∀ r x, F { r with fifo := x } = F r) (c : Chip) (j : Job) (n : Nat) :
    F ((c.jobRecord j).region n) = F (c.region n) :=
  Chip.region_view_event F hF c.draw.2 ..

end

/-- The plots that park as a region comes to a mode change no region. -/
theorem Chip.setMode_outside_upRegion {parts : List Part} (hparts : .plots ∈ parts) (c : Chip) (g : Nat) (m : Mode) :
    (c.setMode g m).outside parts = (c.upRegion g (fun r => { r with mode := BitVec.ofNat 2 (modeCode m) })).outside parts := by
  unfold Chip.setMode
  refine overAll_keep (Chip.outside parts) _ _ _ fun d o => ?_
  exact ite_keep (Chip.outside parts) rfl (by simp [hparts])

/-! ## Admission -/

/-- An admission without a record gives the job its regions and its mode, and writes no memory. -/
theorem Chip.place_fresh {c : Chip} {j : Job} (hj : c.job? j.id = some j) (i : Image) (m : List (Nat × Nat)) (mode : Mode) :
    ((c.place j i m mode none).job? j.id).map (fun k => (k.st, k.map, k.mode)) = some (.admitted, i.holding m, mode)
      ∧ (c.place j i m mode none).mem = c.mem := by
  unfold Chip.place
  extract_lets held woken logged placed linked
  have hwoken : woken.jobMem j.id = (some j, c.mem) := by
    refine (foldl_keep (Chip.jobMem j.id) _ _ _ fun d p => ?_).trans (Prod.ext hj rfl)
    split
    · exact Chip.jobMem_of_outside (parts := [.regions, .plots, .lasers]) (by simp) (by simp) (by simp [noMemory]) _
    · rfl
  have hlogged : logged.jobMem j.id = (some j, c.mem) := by
    refine (Chip.when_keep (Chip.jobMem j.id) _ _ _ fun d => ?_).trans hwoken
    exact Chip.jobMem_of_outside (parts := [.freeCtr, .regions, .saf, .log]) (by simp) (by simp) (by simp [noMemory]) _
  have hplaced : placed.jobMem j.id = (some { j with map := held, mode := mode, st := .admitted, origin := logged.cfg.member, distance := 0 }, c.mem) := by
    obtain ⟨hjob, hmem⟩ := Prod.mk.inj hlogged
    exact Prod.ext (Chip.job?_upJob_same _ (fun _ => rfl) hjob) hmem
  have hlinked : linked.jobMem j.id = (some { j with map := held, mode := mode, st := .admitted, origin := logged.cfg.member, distance := 0 }, c.mem) := by
    refine (overAll_keep (Chip.jobMem j.id) _ _ _ fun d p => ?_).trans hplaced
    rfl
  clear_value linked
  obtain ⟨hjob, hmem⟩ := Prod.mk.inj hlinked
  simp only [hjob]
  have hdigests (k : Job) : (linked.beginDigests k i none).id = k.id
      ∧ (fun q : Job => (q.st, q.map, q.mode)) (linked.beginDigests k i none) = (k.st, k.map, k.mode) := by
    unfold Chip.beginDigests
    dsimp only
    split <;> exact ⟨rfl, rfl⟩
  refine ⟨?_, hmem⟩
  refine (Chip.map_job?_upJob (fun q : Job => (q.st, q.map, q.mode)) _ _ _ _ (fun k => (hdigests k).1) fun k => (hdigests k).2).trans ?_
  rw [hjob]
  rfl

/-- Nothing refuses the pending head: it is placed. -/
theorem Chip.consider_of_admitted {c : Chip} {j : Job} {i : Image} {mode : Mode} (hi : c.imageOf j = some i) (hlate : c.tooLate j = false)
    (hstart : c.canStart j = true) (hst : c.admitStatus j i (c.placement j i) = (statusOk, 0)) (hmode : c.grantMode j i (c.placement j i) = some mode)
    (hresume : j.isResume = false) : c.consider j = c.place j i (c.placement j i) mode none := by
  simp [Chip.consider, hi, hlate, hstart, hst, hmode, hresume]

/-! ## Start -/

/-- Every region of the list is awake once each has been set running, whatever else is set of it. -/
theorem foldl_power (f : Chip → Nat × Nat → Chip) (hself : ∀ d p, ((f d p).region p.2).power = 2)
    (hother : ∀ d p n, n ≠ p.2 → ((f d p).region n).power = (d.region n).power) (l : List (Nat × Nat)) (c : Chip) :
    ∀ p ∈ l, ((l.foldl f c).region p.2).power = 2 := by
  have hstay (l : List (Nat × Nat)) (c : Chip) (n : Nat) (h : (c.region n).power = 2) : ((l.foldl f c).region n).power = 2 := by
    induction l generalizing c with
    | nil => exact h
    | cons q l ih =>
      refine ih _ ?_
      by_cases hn : n = q.2
      · rw [hn]; exact hself c q
      · rw [hother c q n hn, h]
  induction l generalizing c with
  | nil => simp
  | cons q l ih =>
    intro p hp
    rcases List.mem_cons.mp hp with rfl | hp
    · exact hstay l _ _ (hself c p)
    · exact ih _ p hp

theorem Chip.startJob_running {c : Chip} {j : Job} (hj : c.job? j.id = some j) (i : Image) :
    ((c.startJob j i).job? j.id).map (fun k => (k.st, k.stroke, k.map)) = some (.running, j.stroke, j.map)
      ∧ ∀ p ∈ j.map, ((c.startJob j i).region p.2).power = 2 := by
  unfold Chip.startJob
  extract_lets runs awake logged away running
  have hawake : awake.job? j.id = some j := by
    refine (foldl_keep (fun d => d.job? j.id) _ _ _ fun d p => ?_).trans hj
    split
    · rfl
    · exact Chip.job?_of_outside (parts := [.regions, .plots]) (by simp) (by simp) _
  have hpower : ∀ p ∈ j.map, (awake.region p.2).power = 2 := by
    refine foldl_power _ (fun d p => ?_) (fun d p n hn => ?_) _ _
    · dsimp only
      rw [Chip.region_upRegion]
    · dsimp only
      rw [Chip.region_upRegion_ne _ _ _ _ hn]
      split
      · rfl
      · rw [Chip.region_upRegion_ne _ _ _ _ hn, Chip.region_view_of_outside Region.power (Chip.setMode_outside_upRegion (parts := [.plots]) (by simp) ..) (by simp),
          Chip.region_upRegion_ne _ _ _ _ hn]
  have hlogged : logged.job? j.id = some j := by
    refine (Chip.when_keep (fun d => d.job? j.id) _ _ _ fun d => ?_).trans hawake
    exact Chip.job?_of_outside (parts := [.freeCtr, .regions, .saf, .log]) (by simp) (by simp) _
  have hlogpower : ∀ n, (logged.region n).power = (awake.region n).power := fun n =>
    Chip.when_keep (fun d => (d.region n).power) _ _ _ fun d => Chip.region_view_jobRecord Region.power (fun _ _ => rfl) ..
  have hrunning : (running.job? j.id).map (fun k => (k.st, k.stroke, k.map)) = some (.running, j.stroke, j.map) := by
    refine (congrArg _ (Chip.job?_upJob_same _ ?_ hlogged)).trans rfl
    exact fun _ => rfl
  have hrunpower : ∀ n, (running.region n).power = (awake.region n).power := hlogpower
  clear_value running
  split
  · next k hk =>
    have hfed (d : Chip) : ((overAll (k.map.map (·.2)) Chip.feedForward d).jobState k (if k.isResume then 3 else 1) 0 k.stroke).outside [.host, .banks]
        = d.outside [.host, .banks] := by simp
    refine ⟨?_, fun p hp => ?_⟩
    · dsimp only
      rw [Chip.job?_of_outside (hfed _) (by simp)]
      exact (Chip.map_job?_startPiece _ (fun _ _ => rfl) ..).trans hrunning
    · dsimp only
      rw [Chip.region_view_of_outside Region.power (hfed _) (by simp), Chip.region_view_of_outside Region.power
        (Chip.outside_startPiece (parts := [.jobs, .cores, .arrays, .tiles]) (by simp) ..) (by simp), hrunpower]
      exact hpower p hp
  · next hnone =>
    rw [hnone] at hrunning
    exact absurd hrunning (by simp)

/-- Settles O20. -/
theorem admitAndStart : Obligations.AdmitAndStart := by
  refine ⟨?_, fun id s j i hj hi hst hfleet => ?_⟩
  · intro id s j i mode c hj hi hadmits hst hlate hstart hstatus hmode hresume after
    obtain rfl := Chip.id_of_job? hj
    have hplace := Chip.consider_of_admitted hi hlate hstart hstatus hmode hresume
    have hafter : after { s with toChip := c.consider j } := by
      rw [hplace]
      exact Chip.place_fresh hj i _ mode
    refine ⟨fun hcls hfirst => ⟨_, ?_, hafter⟩, fun hcls => ⟨_, ?_, hafter⟩⟩
    · change execJobAdmit j.id s = _
      simp only [execJobAdmit, act, hj, hadmits, hst, hcls, hfirst, decide_true, Bool.and_true, Bool.not_false, if_true, c]
    · change execClass0Admit j.id s = _
      simp [execClass0Admit, act, c, hj, hadmits, hst, hcls]
  · obtain rfl := Chip.id_of_job? hj
    obtain ⟨hjob, hpower⟩ := Chip.startJob_running hj i
    refine ⟨{ s with toChip := s.toChip.startJob j i }, ?_, hjob, hpower, Chip.mem_of_vaultMem (Chip.startJob_vaultMem ..)⟩
    change execJobStart j.id s = _
    simp [execJobStart, act, hj, hi, hst, hfleet]

end Sys2Proof.Machine

/-! The end of a pause, a change of pressure, the zeroing of staging (R16, R41, R42, R246, R317): the obligations O21 to O23. -/

namespace Sys2Proof.Machine

/-! ## Pauses -/

theorem Chip.job?_writeData (c : Chip) (off : Nat) (bytes : List Byte) (id : JobId) : (c.writeData off bytes).job? id = c.job? id := rfl

theorem Chip.hbm_writeData (c : Chip) (off : Nat) (bytes : List Byte) : (c.writeData off bytes).mem.hbm = writeWindow c.mem.hbm 0 off bytes := rfl

/-- A job saved is paused, its record in the data space. -/
theorem Chip.saveJob_saved {c : Chip} {j : Job} (hj : c.job? j.id = some j) (i : Image) (p : PauseReq) :
    ((c.saveJob j i p).job? j.id).map (fun k => (k.st, k.map, k.stroke, k.pause)) = some (.paused, [], p.boundary, none)
      ∧ (c.saveJob j i p).mem.hbm = writeWindow c.mem.hbm 0 p.area.toNat (c.saveRecord j i p.boundary) := by
  unfold Chip.saveJob
  extract_lets written noted released
  have hwritten : written.job? j.id = some j := (Chip.job?_writeData ..).trans hj
  have hhbm : written.mem.hbm = writeWindow c.mem.hbm 0 p.area.toNat (c.saveRecord j i p.boundary) := Chip.hbm_writeData ..
  have hout : released.outside [.freeCtr, .regions, .saf, .log, .host, .cores, .arrays, .tiles, .ports]
      = written.outside [.freeCtr, .regions, .saf, .log, .host, .cores, .arrays, .tiles, .ports] := by
    simp [released, noted]
  clear_value written released
  have hmem : released.mem = written.mem := Chip.mem_of_outside hout (by simp [noMemory])
  have hjob : released.job? j.id = some j := (Chip.job?_of_outside hout (by simp) _).trans hwritten
  refine ⟨?_, (congrArg Mems.hbm hmem).trans hhbm⟩
  refine (congrArg _ (Chip.job?_upJob_same _ ?_ hjob)).trans rfl
  exact fun _ => rfl

/-- A deadline that the input alone misses asks for the pause. -/
theorem Chip.deadline_of_input {c : Chip} {j : Job} {i : Image} (hi : c.imageOf j = some i) (hst : j.st = .running) (hrerow : j.rerow = false)
    (hpause : j.pause = none) (hfleetPause : j.fleetPause = none) (hfleet : j.fleet = false)
    (hat : (j.stroke + c.jobDeltaF j + 1) % max 1 i.L = 0) (hm : (j.stroke + c.jobDeltaF j + 1) / max 1 i.L < i.pieces)
    (htotal : j.stroke + c.jobDeltaF j + 1 < i.strokes) (hin : j.pIn < i.streamAt false ((j.stroke + c.jobDeltaF j + 1) / max 1 i.L + 1))
    (hout : i.streamAt true ((j.stroke + c.jobDeltaF j + 1) / max 1 i.L + 1) ≤ j.aOut + j.body.outBytes.toNat) :
    c.deadline j i = ({ c with host := { c.host with pausesIn := satAdd c.host.pausesIn 1 } }).upJob j.id (fun k => { k with
      pause := some { boundary := j.stroke + c.jobDeltaF j + 1, reason := 1, area := j.body.saveArea } }) := by
  have hout' : ¬ j.aOut + j.body.outBytes.toNat < i.streamAt true ((j.stroke + c.jobDeltaF j + 1) / max 1 i.L + 1) := by omega
  simp only [Chip.deadline, hst, hrerow, hpause, hfleetPause, hfleet, hat, hin, hout', show ¬ i.pieces ≤ _ from Nat.not_le.mpr hm]
  simp only [ne_eq, not_true_eq_false, decide_false, decide_true, Bool.or_self, Option.isSome_none, Bool.not_true, Bool.false_eq_true,
    if_false, if_true, Bool.and_false, Bool.or_false, beq_self_eq_true, bne_self_eq_false, satIf]
  exact Chip.askPause_of_open (c := { c with host := { c.host with pausesIn := satAdd c.host.pausesIn 1 } }) hi hpause (by simp [hst]) htotal _ _

/-- Settles O21. -/
theorem pausesComplete : Obligations.PausesComplete := by
  refine ⟨fun id s j i p hj hi hpause hst hrerow habort hdone => ?_, ?_⟩
  · obtain rfl := Chip.id_of_job? hj
    obtain ⟨hsaved, hhbm⟩ := Chip.saveJob_saved hj i p
    refine ⟨{ s with toChip := s.toChip.saveJob j i p }, ?_, hsaved, fun n b hb => ?_⟩
    · change execPauseDrainEnd j.id s = _
      simp [execPauseDrainEnd, act, hj, hi, hpause, hst, hrerow, habort, hdone]
    · rw [show ({ s with toChip := s.toChip.saveJob j i p } : State).mem.hbm = _ from hhbm]
      exact getByte_writeWindow_inside _ _ _ _ _ _ hb
  · intro id s j i at_ m hj hi hst hrerow hpause hfleetPause hfleet hat hm htotal hin hout
    obtain rfl := Chip.id_of_job? hj
    have hdeadline := Chip.deadline_of_input hi hst hrerow hpause hfleetPause hfleet hat hm htotal hin hout
    refine ⟨{ s with toChip := s.toChip.deadline j i }, ?_, ?_⟩
    · change execDeadlineCheck j.id s = _
      simp [execDeadlineCheck, act, hj, hi]
    · rw [hdeadline]
      exact ⟨Chip.job?_upJob_same _ (fun _ => rfl) hj, rfl, rfl, rfl⟩

/-! ## Pressure -/

/-- A mode that every one of several regions comes to is the mode of each. -/
theorem foldl_mode (f : Chip → Nat → Chip) (v : BitVec 2) (hself : ∀ d g, ((f d g).region g).mode = v)
    (hother : ∀ d g n, n ≠ g → ((f d g).region n).mode = (d.region n).mode) (l : List Nat) (c : Chip) :
    ∀ g ∈ l, ((overAll l f c).region g).mode = v := by
  have hstay (l : List Nat) (c : Chip) (n : Nat) (h : (c.region n).mode = v) : ((overAll l f c).region n).mode = v := by
    refine overAll_invariant (fun d => (d.region n).mode = v) f (fun d g hd => ?_) l c h
    by_cases hn : n = g
    · rw [hn]; exact hself d g
    · rw [hother d g n hn, hd]
  induction l generalizing c with
  | nil => simp
  | cons q l ih =>
    intro g hg
    rcases List.mem_cons.mp hg with rfl | hg
    · exact hstay l _ _ (hself c g)
    · exact ih _ g hg

/-- Every region of the job comes to the mode. -/
theorem Chip.mode_changeMode (c : Chip) (j : Job) (m : Mode) {p : Nat × Nat} (hp : p ∈ j.map) :
    ((c.changeMode j m).region p.2).mode = BitVec.ofNat 2 (modeCode m) := by
  unfold Chip.changeMode
  extract_lets beside gs flips moved
  have hmoved : (moved.region p.2).mode = BitVec.ofNat 2 (modeCode m) := by
    have hstep (d : Chip) (g n : Nat) (relock : Bool) :
        (((if relock then overAll (List.range 10) (fun c n =>
            if (c.laser (g * 10 + n)).state = 3 then c.upLaser (g * 10 + n) (fun l => { l with ready := false }) else c) (d.setMode g m)
          else d.setMode g m).feedForward g).region n).mode
        = ((d.upRegion g (fun r => { r with mode := BitVec.ofNat 2 (modeCode m) })).region n).mode := by
      refine Chip.region_view_of_outside Region.mode (parts := [.plots, .lasers, .banks]) ?_ (by simp) n
      refine (Chip.outside_feedForward (by simp) ..).trans ?_
      refine (ite_keep (Chip.outside [.plots, .lasers, .banks]) ?_ rfl).trans (Chip.setMode_outside_upRegion (by simp) ..)
      exact Chip.outside_overAll _ _ _ fun e k => ite_keep (Chip.outside [.plots, .lasers, .banks]) (by simp) rfl
    refine foldl_mode _ _ (fun d g => ?_) (fun d g n hn => ?_) gs c p.2 ?_
    · refine (hstep d g g _).trans ?_
      rw [Chip.region_upRegion]
    · refine (hstep d g n _).trans ?_
      rw [Chip.region_upRegion_ne _ _ _ _ hn]
    · simp only [gs, List.mem_eraseDups, List.mem_flatMap]
      exact ⟨j, by simp, List.mem_map.mpr ⟨p, hp, rfl⟩⟩
  refine (overAll_keep (fun d => (d.region p.2).mode) _ _ _ fun d id => ?_).trans hmoved
  rfl

/-- The job takes the mode, its request used up stays so. -/
theorem Chip.job?_changeMode {c : Chip} {j : Job} (m : Mode) (hj : (c.job? j.id).map (fun k => k.modeReq) = some none) :
    ((c.changeMode j m).job? j.id).map (fun k => (k.mode, k.modeReq)) = some (m, none) := by
  unfold Chip.changeMode
  extract_lets beside gs flips moved
  have hmoved : moved.job? j.id = c.job? j.id := by
    refine overAll_keep (fun d => d.job? j.id) _ _ _ fun d g => Chip.job?_of_outside (parts := [.regions, .plots, .lasers, .banks]) ?_ (by simp) _
    refine (Chip.outside_feedForward (by simp) ..).trans ?_
    refine (ite_keep (Chip.outside [.regions, .plots, .lasers, .banks]) ?_ rfl).trans (Chip.outside_setMode (by simp) ..)
    exact Chip.outside_overAll _ _ _ fun e k => ite_keep (Chip.outside [.regions, .plots, .lasers, .banks]) (by simp) rfl
  have hown : (((moved.upJob j.id (fun k => { k with mode := m })).job? j.id).map (fun k => (k.mode, k.modeReq))) = some (m, none) := by
    rw [← hmoved] at hj
    obtain ⟨k, hk, hreq⟩ := Option.map_eq_some_iff.mp hj
    refine (congrArg _ (Chip.job?_upJob_same _ ?_ hk)).trans (congrArg (fun r => some (m, r)) hreq)
    exact fun _ => rfl
  clear_value moved
  rw [List.map_cons, overAll, List.foldl_cons]
  refine overAll_invariant (fun d => (d.job? j.id).map (fun k => (k.mode, k.modeReq)) = some (m, none)) _ (fun d id hd => ?_) _ _ hown
  obtain ⟨k, hk, hview⟩ := Option.map_eq_some_iff.mp hd
  obtain ⟨-, hreq⟩ := Prod.mk.inj hview
  by_cases hid : id = j.id
  · subst hid
    refine (congrArg _ (Chip.job?_upJob_same _ ?_ hk)).trans (congrArg (fun r => some (m, r)) hreq)
    exact fun _ => rfl
  · refine (congrArg _ (Chip.job?_upJob_ne _ _ ?_ hid)).trans hd
    exact fun _ => rfl

/-- Settles O22. -/
theorem pressureChangeApplies : Obligations.PressureChangeApplies := by
  intro id s j i m from_ hj hi hreq hpiece hlast hfrom hst hm hgrants
  obtain rfl := Chip.id_of_job? hj
  have hdue : s.toChip.changeDue j i = some (some m) := by
    simp [Chip.changeDue, hreq, hpiece, hlast, hgrants, Job.changesMode, hst, Nat.not_lt.mpr hfrom]
  refine ⟨{ s with toChip := s.toChip.pressureApply j i }, ?_, ?_⟩
  · change execPressureChangeApply j.id s = _
    simp [execPressureChangeApply, act, hj, hi]
  · have hmem : (s.toChip.pressureApply j i).mem = s.mem := Chip.mem_of_vaultMem (Chip.pressureApply_vaultMem ..)
    suffices h : ((s.toChip.pressureApply j i).job? j.id).map (fun k => (k.mode, k.modeReq)) = some (m, none)
        ∧ ∀ p ∈ j.map, ((s.toChip.pressureApply j i).region p.2).mode = BitVec.ofNat 2 (modeCode m) from ⟨h.1, h.2, hmem⟩
    unfold Chip.pressureApply
    simp only [hdue, hm, if_false]
    have hused : (((s.toChip.upJob j.id (fun k => { k with modeReq := none })).job? j.id).map (fun k => k.modeReq)) = some none := by
      refine (congrArg _ (Chip.job?_upJob_same _ ?_ hj)).trans rfl
      exact fun _ => rfl
    generalize s.toChip.upJob j.id (fun k => { k with modeReq := none }) = d at hused
    have hjob := Chip.job?_changeMode m hused
    rw [← Chip.job?_of_outside (Chip.outside_jobRecord (parts := [.freeCtr, .regions, .saf, .log]) (by simp) (d.changeMode j m) j) (by simp)] at hjob
    have hmode (p : Nat × Nat) (hp : p ∈ j.map) : (((d.changeMode j m).jobRecord j).region p.2).mode = BitVec.ofNat 2 (modeCode m) :=
      (Chip.region_view_jobRecord Region.mode (fun _ _ => rfl) ..).trans (d.mode_changeMode j m hp)
    generalize (d.changeMode j m).jobRecord j = e at hjob hmode
    split
    · next k hk =>
      have hout := Chip.outside_jobState (parts := [.host]) (by simp) e k 4 0 k.stroke
      exact ⟨by rw [Chip.job?_of_outside hout (by simp), hjob], fun p hp => (Chip.region_view_of_outside Region.mode hout (by simp) _).trans (hmode p hp)⟩
    · exact ⟨hjob, hmode⟩

/-! ## Zeroing -/

/-- With both parts of a region given up, all its cores' staging is zeros, and no other core's. -/
theorem Chip.getByte_zeroCores (c : Chip) (g x : Nat) :
    getByte (c.zeroCores g true true).mem.cstg x = if x / 2 ^ 20 / 34 = g then 0 else getByte c.mem.cstg x := by
  have h := look_filter (0 : Byte) c.mem.cstg (fun a => !(decide (a / 2 ^ 20 / 34 = g) && true)) x
  simp only [Chip.zeroCores, ite_self]
  refine h.trans ?_
  by_cases hx : x / 2 ^ 20 / 34 = g
  · rw [if_pos hx, if_neg (by simpa using hx)]
  · rw [if_neg hx, if_pos (by simpa using hx), getByte]

/-- The end of the zeroing of both parts: the staging is zeroed, then the region rests; what follows of it writes no memory. -/
theorem Chip.zeroDone_of_both {c : Chip} {g : Nat} (hz : (c.region g).zeroing = 3) :
    ((c.zeroDone g).region g).zeroing = 0
      ∧ (c.zeroDone g).mem = { c.mem with
          rstg := zeroBytes (zeroBytes c.mem.rstg (regionByte g 0) (2 ^ 24 - 2 ^ 21)) (regionByte g 0xE0000) (2 ^ 21)
          cstg := (c.zeroCores g true true).mem.cstg } := by
  unfold Chip.zeroDone
  extract_lets z
  rw [if_neg (show ¬ z = 0 by simp [z, hz])]
  rename_i upper old lower whole mems zeroed cleared given
  have hwhole : whole = zeroBytes (zeroBytes c.mem.rstg (regionByte g 0) (2 ^ 24 - 2 ^ 21)) (regionByte g 0xE0000) (2 ^ 21) := by
    simp [whole, lower, upper, z, hz, old]
  have hgiven : (given.region g).zeroing = 0 := by simp only [given, Chip.region_upRegion]
  have hmem : given.mem = { c.mem with rstg := whole, cstg := (c.zeroCores g true true).mem.cstg } := by
    simp only [given, cleared, z, hz, if_true]
    rfl
  rw [← hwhole, ← hmem]
  clear_value given
  repeat' split
  · exact ⟨hgiven, rfl⟩
  · have hmode := (Chip.region_view_of_outside Region.zeroing (Chip.setMode_outside_upRegion (parts := [.plots]) (by simp) given g .light) (by simp) g).trans
      ((Chip.region_view_upRegion Region.zeroing given g g (fun r => { r with mode := BitVec.ofNat 2 (modeCode .light) }) fun _ => rfl).trans hgiven)
    have hmem := Chip.mem_of_vaultMem (given.setMode_vaultMem g .light)
    generalize given.setMode g .light = d at hmode hmem
    exact ⟨(Chip.region_view_upRegion Region.zeroing _ _ _ (fun r => { r with power := 3 }) fun _ => rfl).trans hmode, hmem⟩
  · refine ⟨?_, Chip.mem_of_vaultMem (Chip.feedForward_vaultMem ..)⟩
    rw [Chip.region_view_of_outside Region.zeroing (Chip.outside_feedForward (parts := [.banks]) (by simp) ..) (by simp), Chip.sleepRegion,
      Chip.region_upRegion]
    exact hgiven

/-- Settles O23. -/
theorem zeroingClearsTheStaging : Obligations.ZeroingClearsTheStaging := by
  intro g s hz
  obtain ⟨hzero, hmem⟩ := Chip.zeroDone_of_both hz
  refine ⟨{ s with toChip := s.toChip.zeroDone g.val }, rfl, hzero, ?_⟩
  have hrstg (x : Nat) : getByte (s.toChip.zeroDone g.val).mem.rstg x
      = if g.val * 2 ^ 24 ≤ x ∧ x < g.val * 2 ^ 24 + 2 ^ 24 then 0 else getByte s.mem.rstg x := by
    rw [hmem, getByte_zeroBytes, getByte_zeroBytes]
    have hlow : regionByte g.val 0 = g.val * 2 ^ 24 := by simp [regionByte]
    have hup : regionByte g.val 0xE0000 = g.val * 2 ^ 24 + 16 * 0xE0000 := rfl
    by_cases hhigh : regionByte g.val 0xE0000 ≤ x ∧ x < regionByte g.val 0xE0000 + 2 ^ 21
    · rw [if_pos hhigh, if_pos (by omega)]
    · rw [if_neg hhigh]
      exact if_congr (by omega) rfl rfl
  have hcstg (x : Nat) : getByte (s.toChip.zeroDone g.val).mem.cstg x
      = if x / 2 ^ 20 / 34 = g.val then 0 else getByte s.mem.cstg x := by
    rw [hmem]
    exact Chip.getByte_zeroCores ..
  generalize s.toChip.zeroDone g.val = d at hmem hrstg hcstg
  refine ⟨fun a ha => ?_, fun k hk a ha => ?_, fun x hx => ?_, fun x hx => ?_, ?_⟩
  · rw [hrstg, if_pos (by omega)]
  · rw [hcstg, if_pos (by omega)]
  · rw [hrstg, if_neg (by omega)]
  · rw [hcstg, if_neg (by omega)]
  · simp [hmem]

end Sys2Proof.Machine

/-! Loading (R46, R47, R252, R310, R311): the obligations O24 and O25. An image that a job waits to take up again, saved on this device and
resumed, is not unloaded, which O24 leaves out: it names held and paused jobs only. -/

namespace Sys2Proof.Machine

/-! ## A job that waits to be taken up again -/

/-- A body that asks for nothing. -/
def blankBody : JobBody :=
  { pressure := 0, flags := 0, res1 := 0, imageId := 0, windowBase := 0, jobSeed := 0, genBase := 0, saveArea := 0, salvageArea := 0, fleetStart := 0
    inOff := 0, inBytes := 0, outOff := 0, outBytes := 0, extOff := 0, extBytes := 0, regionMap := [], portMap := [], res2 := 0 }

/-- An image without a region, of identifier 0. -/
def blankImage : Image :=
  { id := 0, digest := 0, base := 0, length := 0, apid := 0, pressureRange := 0, floating := false, express := 0, L := 1, D := 0, lamniMask := 0
    hostMask := 0, window := 0, regions := [], phases := [], coreStreams := [], seqStreams := [], memSlots := [], linkSlots := [], hostSlots := []
    coxSlots := [], duty := [], power := [] }

/-- A job of that image, paused once, resumed and pending. -/
def resumedJob : Job :=
  { id := { queue := 0, tag := 1 }, body := blankBody, order := 0, cls := 1, image := 0, fleet := false, isResume := true, pauses := 1 }

/-- A device in service that holds the image and the job. -/
def waitingState : State :=
  { State.reset with
    start := { State.reset.start with ready := true }
    cfg := { State.reset.cfg with classMap := [1] }
    sch := { State.reset.sch with images := [blankImage] }
    jobs := [resumedJob] }

/-- The packet that asks to unload it. -/
def unloadHdr : Hdr := { port := 0, queue := 0, seq := 0, ack := 0, tag := 7, length := 56, payload := 88 }

theorem waitingState_takes : waitingState.toChip.takes unloadHdr := by
  simp only [Chip.takes]
  decide

/-- The job keeps its image: the packet is refused. -/
theorem waitingState_unload : exec (.loadUnload unloadHdr 0 32 0 0) waitingState
    = .next { waitingState with toChip := (waitingState.toChip.accept unloadHdr).receipt unloadHdr statusBadField } := by
  have hunload : (waitingState.toChip.accept unloadHdr).unload unloadHdr 0 = (waitingState.toChip.accept unloadHdr).receipt unloadHdr statusBadField := by
    unfold Chip.unload
    have himage : (waitingState.toChip.accept unloadHdr).image? 0 = some blankImage := by
      simp only [Chip.image?, Chip.sch_of_outside (Chip.outside_accept waitingState.toChip unloadHdr) (by simp)]
      rfl
    rw [himage]
    exact if_pos (by decide)
  have htreat := Chip.treat_of_takes waitingState_takes (lengths := decide (24 + 32 ≤ unloadHdr.length)) (open_ := waitingState.toChip.serves)
    (by decide) (by decide) fun c => c.unload unloadHdr 0
  rw [← hunload, ← htreat]
  rfl

/-- Refutes O24: an image whose only job is a resumed one, saved on this device and pending again, neither held nor paused, stays loaded. -/
theorem not_loadPacketsComplete : ¬ Obligations.LoadPacketsComplete := by
  rintro ⟨-, hunload, -⟩
  obtain ⟨t, ht, hgone, -⟩ := hunload unloadHdr 0 waitingState blankImage waitingState_takes (by decide) (by decide) rfl (by decide)
  rw [waitingState_unload] at ht
  obtain rfl := (Host.Outcome.next.inj ht).symm
  have hsch : ((waitingState.toChip.accept unloadHdr).receipt unloadHdr statusBadField).sch = waitingState.sch :=
    (Chip.sch_of_outside (Chip.outside_receipt (parts := [.host]) (by simp) ..) (by simp)).trans
      (Chip.sch_of_outside (Chip.outside_accept ..) (by simp))
  simp only [Chip.image?, hsch] at hgone
  exact absurd hgone (by decide)

/-! ## A load beyond the data space -/

/-- A load whose place lies beyond the eight stacks, of no byte. -/
def distantLoad : Load :=
  { queue := 0, base := 8 * windowStack, length := 0, got := 0, ref := 0, tag := 0, complete := true, replaceOnly := false }

/-- A device whose only load is that one. -/
def distantState : State := { State.reset with sch := { State.reset.sch with loads := [distantLoad] } }

/-- A channel fault counts at the stack of its address and at no other. -/
theorem Chip.stack_channelFault_ne (c : Chip) (L : Nat) (rerow : Bool) {k : Nat} (hk : k ≠ addrStack L) :
    (c.channelFault L rerow).stack k = c.stack k := by
  unfold Chip.channelFault
  extract_lets s pc d
  have hd : d.stack k = c.stack k := Chip.stack_upStack_ne _ _ _ _ hk
  have hhit := Chip.outside_hit (parts := [.saf]) (by simp) d (.pseudo s pc) 3
  clear_value d
  have hstacks (e : Chip) (he : e.outside [.saf] = d.outside [.saf]) (cls : Nat) :
      (e.event (srcStack s) cls 0x10A rerow (stackLocus s pc) 5).stack k = c.stack k := by
    have hout := (Chip.outside_event (parts := [.regions, .saf, .log]) (by simp) e (srcStack s) cls 0x10A rerow (stackLocus s pc) 5)
    have h1 : e.hbmStacks = (e.event (srcStack s) cls 0x10A rerow (stackLocus s pc) 5).hbmStacks := Chip.same_of_outside (p := .hbmStacks) hout (by simp)
    have h2 : d.hbmStacks = e.hbmStacks := Chip.same_of_outside (p := .hbmStacks) he (by simp)
    rw [← hd]
    simp only [Chip.stack, ← h1, ← h2]
  refine (Chip.when_keep (fun e => e.stack k) _ _ _ fun e => Chip.stack_upStack_ne _ _ _ _ hk).trans ?_
  exact hstacks _ hhit _

theorem toChip_of_checkComplete {q : BitVec 15} {bad : Bool} {s t : State} (h : exec (.checkComplete q bad) s = .next t) :
    t.toChip = s.toChip.checkComplete q bad := by
  cases h
  rfl

/-- The check of a load that cannot be read: a channel fault, then the failure. -/
theorem Chip.checkComplete_of_bad {c : Chip} {q : BitVec 15} {l : Load} (h : c.sch.loads.find? (fun l => l.queue == q && l.complete) = some l) :
    c.checkComplete q true = ((c.dropLoad l).draw.2.channelFault
      (windowAddr 0 (l.base + Config.figure (c.dropLoad l).freeCtr % max 1 l.length)) false).loadDone l { status := statusDigest, entry := 0x10 }
      (leAt (readWindow (c.dropLoad l).mem.hbm 0 l.base l.length) 0x10 32) := by
  simp only [Chip.checkComplete, h, if_true]

/-- No stack of the eight counts it. -/
theorem Chip.stack_checkComplete_ne {c : Chip} {q : BitVec 15} {l : Load} (h : c.sch.loads.find? (fun l => l.queue == q && l.complete) = some l)
    {k : Nat} (hk : k ≠ addrStack (windowAddr 0 (l.base + Config.figure (c.dropLoad l).freeCtr % max 1 l.length))) :
    (c.checkComplete q true).stack k = c.stack k := by
  rw [Chip.checkComplete_of_bad h]
  have hout := Chip.outside_loadDone (parts := [.host, .sch]) (by simp)
    ((c.dropLoad l).draw.2.channelFault (windowAddr 0 (l.base + Config.figure (c.dropLoad l).freeCtr % max 1 l.length)) false) l
    { status := statusDigest, entry := 0x10 } (leAt (readWindow (c.dropLoad l).mem.hbm 0 l.base l.length) 0x10 32)
  have h1 := Chip.same_of_outside (p := .hbmStacks) hout (by simp)
  exact (congrArg (fun m => look ({} : Stack) m k) h1.symm).trans (Chip.stack_channelFault_ne _ _ false hk)

/-- Refutes O25: the uncorrectable codeword of a load that lies beyond the eight stacks counts at none of them. -/
theorem not_checkDecidesTheLoad : ¬ Obligations.CheckDecidesTheLoad := by
  rintro ⟨-, hbad, -⟩
  obtain ⟨t, ht, -, -, -, -, -, -, k, hk, hcount⟩ := hbad 0 distantState distantLoad rfl
  have hplace (n : Nat) : addrStack (windowAddr 0 (distantLoad.base + n % max 1 distantLoad.length)) = 8 := by
    rw [show max 1 distantLoad.length = 1 from rfl, Nat.mod_one]
    decide
  have hzero : distantState.toChip.stack k = {} := rfl
  have hstack : (distantState.toChip.checkComplete 0 true).stack k = {} :=
    (Chip.stack_checkComplete_ne (l := distantLoad) rfl (by rw [hplace]; omega)).trans hzero
  rw [toChip_of_checkComplete ht, hstack, hzero] at hcount
  exact absurd hcount (by decide)

end Sys2Proof.Machine

/-! Register writes and reads (R9, R252, R345, R398 to R403, R407): the obligations O26 and O27. -/

namespace Sys2Proof.Machine

/-! ## Plain registers -/

/-- The lowest `k` bits of a word, as its mask keeps them. -/
theorem toNat_and_mask (v : Word) (k : Nat) (hk : k ≤ 32) : (v &&& BitVec.ofNat 32 (2 ^ k - 1)).toNat = v.toNat % 2 ^ k := by
  have hlt : 2 ^ k - 1 < 2 ^ 32 := Nat.lt_of_lt_of_le (Nat.sub_lt (Nat.two_pow_pos k) Nat.one_pos) (Nat.pow_le_pow_right (by omega) hk)
  rw [BitVec.toNat_and, BitVec.toNat_ofNat, Nat.mod_eq_of_lt hlt, Nat.and_two_pow_sub_one_eq_mod]

theorem ofNat_mod_of_mask (v : Word) (k : Nat) (hk : k ≤ 32) : BitVec.ofNat 32 (v.toNat % 2 ^ k) = v &&& BitVec.ofNat 32 (2 ^ k - 1) := by
  rw [← toNat_and_mask v k hk, BitVec.ofNat_toNat, BitVec.setWidth_eq]

theorem word_and_ones (v : Word) : v &&& 0xFFFFFFFF#32 = v := BitVec.and_allOnes

theorem halfSet_low (x : BitVec 64) (v : Word) : (halfSet x false v).toNat % 4294967296 = v.toNat := by
  have hv := v.isLt
  have hx := x.isLt
  simp only [halfSet, Bool.false_eq_true, if_false, BitVec.toNat_ofNat]
  omega

theorem halfSet_high (x : BitVec 64) (v : Word) : (halfSet x true v).toNat / 4294967296 = v.toNat := by
  have hv := v.isLt
  simp only [halfSet, if_true, BitVec.toNat_ofNat]
  omega

theorem maskSet_low (m : BitVec 96) (v : Word) : (maskSet m 0 v).toNat % 4294967296 = v.toNat := by
  have hv := v.isLt
  have hm := m.isLt
  simp only [maskSet, BitVec.toNat_ofNat, Nat.mul_zero, Nat.pow_zero, Nat.div_one, Nat.mul_one]
  omega

theorem maskSet_middle (m : BitVec 96) (v : Word) : (maskSet m 1 v).toNat / 4294967296 % 4294967296 = v.toNat := by
  have hv := v.isLt
  have hm := m.isLt
  simp only [maskSet, BitVec.toNat_ofNat, Nat.mul_one]
  omega

theorem maskSet_high (m : BitVec 96) (v : Word) : (maskSet m 2 v).toNat / 18446744073709551616 % 4294967296 = v.toNat := by
  have hv := v.isLt
  have hm := m.isLt
  simp only [maskSet, BitVec.toNat_ofNat, show 32 * 2 = 64 from rfl]
  omega

theorem crossing_fields (n : Nat) : bits (bitsOf n 12 8 % 32) 12 8 + bits (bitsOf n 7 0 % 256) 7 0 = n % 2 ^ 13 := by
  simp only [bits, bitsOf, field, Nat.shiftRight_eq_div_pow]
  omega

/-- A plain register's write starts no command. -/
theorem Chip.writeReg_plain (c : Chip) {r : BitVec 32 × Word} (hr : r ∈ plainRegisters) (v : Word) : c.writeReg r.1.toNat v = c.writeChip r.1.toNat v := by
  simp only [plainRegisters, List.mem_cons, List.not_mem_nil, or_false] at hr
  rcases hr with rfl | rfl | rfl | rfl | rfl | rfl | rfl | rfl | rfl | rfl | rfl | rfl | rfl | rfl | rfl <;>
    simp [Chip.writeReg, Chip.commandChip, Chip.writePlain]

theorem Chip.outside_writeChip_plain {parts : List Part} (hparts : [.host, .lvl, .clk, .saf, .acc, .cfg] ⊆ parts) (c : Chip) {r : BitVec 32 × Word}
    (hr : r ∈ plainRegisters) (v : Word) : (c.writeChip r.1.toNat v).outside parts = c.outside parts := by
  simp only [List.cons_subset, List.nil_subset, and_true] at hparts
  simp only [plainRegisters, List.mem_cons, List.not_mem_nil, or_false] at hr
  rcases hr with rfl | rfl | rfl | rfl | rfl | rfl | rfl | rfl | rfl | rfl | rfl | rfl | rfl | rfl | rfl <;>
    simp [Chip.writeChip, hparts]

theorem Chip.regValue_writeChip_plain (c : Chip) {r : BitVec 32 × Word} (hr : r ∈ plainRegisters) (v : Word) :
    (c.writeChip r.1.toNat v).regValue r.1.toNat = v &&& r.2 := by
  simp only [plainRegisters, List.mem_cons, List.not_mem_nil, or_false] at hr
  rcases hr with rfl | rfl | rfl | rfl | rfl | rfl | rfl | rfl | rfl | rfl | rfl | rfl | rfl | rfl | rfl <;>
    simp only [Chip.writeChip, Chip.regValue, Chip.hstReg, Chip.monReg, Chip.clkReg, Chip.safReg, Chip.idnReg]
  all_goals simp [halfSet_low, halfSet_high, maskSet_low, maskSet_middle, maskSet_high, crossing_fields, word_and_ones]
  · exact ofNat_mod_of_mask v 15 (by decide)
  · exact ofNat_mod_of_mask v 7 (by decide)
  · exact ofNat_mod_of_mask v 13 (by decide)
  · exact ofNat_mod_of_mask v 4 (by decide)
  · exact ofNat_mod_of_mask v 16 (by decide)

theorem Chip.writeReg_event (c : Chip) (v : Word) :
    c.writeReg 0x40 v = { c with log := { c.log with newChip := c.log.newChip &&& ~~~v } }
      ∧ c.writeReg 0x44 v = { c with log := { c.log with newRgn := c.log.newRgn &&& ~~~v } } := by
  constructor <;> simp [Chip.writeReg, Chip.commandChip, Chip.writePlain, Chip.writeChip]

/-! ## The register fabric -/

/-- A word that is correctable or clean is counted at stack 0, and the access performed. -/
theorem Chip.access_of_good {f : Fabric} (hf : f.bad = none) (c : Chip) (g : Chip → Chip) :
    c.access f g = g (c.stackCounts 0 f.corrected 0 false) := by
  simp [Chip.access, Chip.fabric, hf, Chip.when]

/-- An access whose word is uncorrectable is not performed. -/
theorem Chip.access_of_bad {f : Fabric} (hf : f.bad = some 0) (c : Chip) (g : Chip → Chip) :
    c.access f g = (c.stackCounts 0 f.corrected 0 false).eventOpen (srcStack 0) 1 (locusWord none (some 0) none) 0 := by
  simp [Chip.access, Chip.fabric, hf, Chip.when]

theorem Chip.corrected_stackCounts (c : Chip) (n : Nat) : ((c.stackCounts 0 n 0 false).stack 0).corrected = satAdd (c.stack 0).corrected n := by
  rw [Chip.stackCounts, Chip.stack_upStack]

/-- What a lost access leaves: the event of stack 0, its counts, nothing else. -/
theorem Chip.access_lost {f : Fabric} (hf : f.bad = some 0) (c : Chip) (g : Chip → Chip) :
    (look ({} : Ring) (c.access f g).log.rings (srcStack 0)).next = (look ({} : Ring) c.log.rings (srcStack 0)).next + 1
      ∧ c.access f g = { c with
        freeCtr := (c.access f g).freeCtr, log := (c.access f g).log, saf := (c.access f g).saf, hbmStacks := (c.access f g).hbmStacks } := by
  rw [Chip.access_of_bad hf]
  exact ⟨Chip.event_nextSeq .., rfl⟩

/-- Settles O26. -/
theorem registerWritesComplete : Obligations.RegisterWritesComplete := by
  refine ⟨fun v f s hf => ?_, fun r v f s hr hf => ?_, fun a v f s hf => ?_⟩
  · obtain ⟨hchip, hrgn⟩ := (s.toChip.stackCounts 0 f.corrected 0 false).writeReg_event v
    constructor
    · refine ⟨{ s with toChip := s.toChip.access f (fun c => c.writeReg 0x40 v) }, rfl, ?_⟩
      simp only [Chip.access_of_good hf, hchip]
      exact ⟨rfl, rfl⟩
    · refine ⟨{ s with toChip := s.toChip.access f (fun c => c.writeReg 0x44 v) }, rfl, ?_⟩
      simp only [Chip.access_of_good hf, hrgn]
      exact ⟨rfl, rfl⟩
  · refine ⟨{ s with toChip := s.toChip.access f (fun c => c.writeReg r.1.toNat v) }, rfl, ?_⟩
    simp only [Chip.access_of_good hf, Chip.writeReg_plain _ hr]
    have hcorr := s.toChip.corrected_stackCounts f.corrected
    have hcounts := Chip.outside_stackCounts (parts := [.host, .lvl, .clk, .saf, .acc, .cfg, .hbmStacks]) (by simp) s.toChip 0 f.corrected 0 false
    generalize s.toChip.stackCounts 0 f.corrected 0 false = d at hcorr hcounts
    have hval := d.regValue_writeChip_plain hr v
    have hstacks : d.hbmStacks = (d.writeChip r.1.toNat v).hbmStacks :=
      Chip.same_of_outside (p := .hbmStacks) (Chip.outside_writeChip_plain (List.Subset.refl _) d hr v) (by simp)
    have hout := (Chip.outside_writeChip_plain (by simp) d hr v).trans hcounts
    generalize d.writeChip r.1.toNat v = e at hval hout hstacks
    have hstack : e.stack 0 = d.stack 0 := by simp only [Chip.stack, hstacks]
    exact ⟨hval, by rw [hstack, hcorr], Chip.mem_of_outside hout (by simp [noMemory]),
      (Chip.same_of_outside (p := .jobs) hout (by simp)).symm, (Chip.same_of_outside (p := .log) hout (by simp)).symm⟩
  · exact ⟨{ s with toChip := s.toChip.access f (fun c => c.writeReg a.toNat v) }, rfl, Chip.access_lost hf ..⟩

/-! ## Reads that change state -/

theorem Chip.clearRead_region (c : Chip) (g : Fin 16) : c.clearRead (BitVec.ofNat 32 (0x1000000 + g.val * 0x100000 + 0x200)).toNat
    = c.upRegion g.val (fun r => { r with optPeak := 0 }) := by
  have hg := g.isLt
  have haddr : (BitVec.ofNat 32 (0x1000000 + g.val * 0x100000 + 0x200)).toNat = 0x1000000 + g.val * 0x100000 + 0x200 := by
    rw [BitVec.toNat_ofNat]
    omega
  have hregion : (0x1000000 + g.val * 0x100000 + 0x200) / 0x100000 % 16 = g.val := by omega
  have hoffset : (0x1000000 + g.val * 0x100000 + 0x200) % 0x100000 = 0x200 := by omega
  rw [haddr, Chip.clearRead, if_neg (by omega), if_neg (by omega), if_pos (by omega), hregion, hoffset]
  rfl

theorem Chip.clearRead_port (c : Chip) (p : Fin 16) : c.clearRead (BitVec.ofNat 32 (0x100000 + p.val * 0x10000 + 0x20)).toNat
    = c.upPort p.val (fun q => { q with peak := 0, minLead := 0xFFFF }) := by
  have hp := p.isLt
  have haddr : (BitVec.ofNat 32 (0x100000 + p.val * 0x10000 + 0x20)).toNat = 0x100000 + p.val * 0x10000 + 0x20 := by
    rw [BitVec.toNat_ofNat]
    omega
  have hport : (0x100000 + p.val * 0x10000 + 0x20) / 0x10000 % 16 = p.val := by omega
  rw [haddr, Chip.clearRead, if_neg (by omega), if_pos (by omega), hport]

/-- Settles O27. -/
theorem readsWithEffects : Obligations.ReadsWithEffects := by
  refine ⟨fun f hf => ⟨fun g s => ?_, fun p s => ?_, fun s => ⟨?_, ?_⟩⟩, fun f a s hf => ⟨?_, ?_⟩, fun s => ?_⟩
  · refine ⟨{ s with toChip := s.toChip.access f (fun c => c.clearRead _) }, rfl, ?_⟩
    simp only [Chip.access_of_good hf, Chip.clearRead_region, Chip.region_upRegion]
    exact ⟨trivial, rfl⟩
  · refine ⟨{ s with toChip := s.toChip.access f (fun c => c.clearRead _) }, rfl, ?_⟩
    simp only [Chip.access_of_good hf, Chip.clearRead_port, Chip.port_upPort]
    exact ⟨trivial, trivial, rfl⟩
  · refine ⟨{ s with toChip := s.toChip.access f (fun c => c.latchRead _) }, rfl, ?_⟩
    simp only [Chip.access_of_good hf]
    exact ⟨rfl, rfl⟩
  · refine ⟨{ s with toChip := s.toChip.access f (fun c => c.latchRead _) }, rfl, ?_⟩
    simp only [Chip.access_of_good hf]
    exact ⟨rfl, rfl⟩
  · exact ⟨{ s with toChip := s.toChip.access f (fun c => c.clearRead a.toNat) }, rfl, Chip.access_lost hf ..⟩
  · exact ⟨{ s with toChip := s.toChip.access f (fun c => c.latchRead a.toNat) }, rfl, Chip.access_lost hf ..⟩
  · exact ⟨{ s with toChip := s.toChip.queuePop }, rfl, rfl, rfl⟩

end Sys2Proof.Machine

/-! REG packets (R252, R312, R399): the obligation O28. -/

namespace Sys2Proof.Machine

/-- What the plain registers show. -/
def Chip.plainView (c : Chip) : BitVec 15 × Level × Clk × (BitVec 4 × BitVec 16 × Word) × Access × Cfg :=
  (c.host.queueSel, c.lvl, c.clk, (c.saf.spareSel, c.saf.logSel, c.saf.logIndex), c.acc, c.cfg)

theorem Chip.regValue_plain_congr {c d : Chip} (h : d.plainView = c.plainView) {r : BitVec 32 × Word} (hr : r ∈ plainRegisters) :
    d.regValue r.1.toNat = c.regValue r.1.toNat := by
  simp only [Chip.plainView, Prod.mk.injEq] at h
  obtain ⟨hhost, hlvl, hclk, ⟨hspare, hsel, hindex⟩, hacc, hcfg⟩ := h
  simp only [plainRegisters, List.mem_cons, List.not_mem_nil, or_false] at hr
  rcases hr with rfl | rfl | rfl | rfl | rfl | rfl | rfl | rfl | rfl | rfl | rfl | rfl | rfl | rfl | rfl <;>
    simp [Chip.regValue, Chip.hstReg, Chip.monReg, Chip.clkReg, Chip.safReg, Chip.idnReg, *]

/-! ## What an answer and the fabric leave of the plain registers -/

theorem Chip.plainView_wire (c : Chip) (p : Packet) : (c.wire p).plainView = c.plainView := by
  unfold Chip.wire Chip.upHport
  split
  · split <;> rfl
  · rfl

theorem Chip.plainView_answer (c : Chip) (h : Hdr) (b : ResultBody) : (c.answer h b).plainView = c.plainView := by
  unfold Chip.answer Chip.send Chip.post
  split
  · unfold Chip.emit
    exact Chip.plainView_wire ..
  · rfl

theorem Chip.plainView_fabric (c : Chip) (n : Nat) (f : Fabric) : (c.fabric n f).1.plainView = c.plainView := by
  unfold Chip.fabric
  extract_lets d
  have hevent (src : Nat) (hsrc : srcRegion src = none) (cls : Nat) (locus : BitVec 32) (detail : Nat) :
      (d.eventOpen src cls locus detail).plainView = d.plainView := by
    unfold Chip.eventOpen Chip.event
    simp only [hsrc]
    rfl
  split
  · split
    · exact hevent _ rfl ..
    · rfl
  · rfl

/-! ## A run of reads -/

theorem Chip.mem_answer (c : Chip) (h : Hdr) (b : ResultBody) : (c.answer h b).mem = c.mem := Chip.mem_of_vaultMem (Chip.answer_vaultMem ..)

theorem Chip.mem_fabric (c : Chip) (n : Nat) (f : Fabric) : (c.fabric n f).1.mem = c.mem := Chip.mem_of_vaultMem (Chip.fabric_vaultMem ..)

theorem Chip.mem_readRegs (c : Chip) (a n : Nat) : (c.readRegs a n).2.mem = c.mem := Chip.mem_of_vaultMem (Chip.readRegs_vaultMem ..)

/-! ## A run of writes -/

/-- A WRITE that is accepted, of registers that the access level leaves open, writes those whose accesses are performed. -/
theorem exec_regWrite {h : Hdr} {addr : BitVec 32} {values : List Word} {f : Fabric} {s : State} (hc : s.toChip.takes h)
    (hl : regLengths h addr.toNat values.length (4 * values.length) = true) (ho : s.toChip.serves = true) (ha : addr.toNat % 4 = 0)
    (hclosed : (s.toChip.accept h).closedRun addr.toNat values.length = false) :
    let r := (s.toChip.accept h).fabric values.length f
    exec (.regWrite h 0 addr values f) s = .next { s with
      toChip := (r.1.writeRegs addr.toNat (values.take r.2)).answer h (.regData 0 h.seq (BitVec.ofNat 16 r.2) addr []) } := by
  have hopen : (s.toChip.serves || (s.toChip.start.recovery && h.queue == 0 &&
      (List.range values.length).all (fun k => recoveryRegister (addr.toNat + 4 * k)))) = true := by simp [ho]
  change execRegWrite h 0 addr values f s = _
  simp only [execRegWrite, act, Chip.treat_of_takes hc hl hopen]
  simp [ha, hclosed]

theorem plainRegisters_aligned {r : BitVec 32 × Word} (hr : r ∈ plainRegisters) : r.1.toNat % 4 = 0 := by
  simp only [plainRegisters, List.mem_cons, List.not_mem_nil, or_false] at hr
  rcases hr with rfl | rfl | rfl | rfl | rfl | rfl | rfl | rfl | rfl | rfl | rfl | rfl | rfl | rfl | rfl <;> rfl

/-- A run whose words all pass the register fabric is performed whole. -/
theorem Chip.fabric_count_of_good {c : Chip} {n : Nat} {f : Fabric} (h : f.bad = none) : (c.fabric n f).2 = n := by
  unfold Chip.fabric
  dsimp only
  rw [h]

/-- A run with an uncorrectable word ends before it (R252). -/
theorem Chip.fabric_count_of_bad {c : Chip} {n k : Nat} {f : Fabric} (h : f.bad = some k) : (c.fabric n f).2 = min k n := by
  unfold Chip.fabric
  dsimp only
  rw [h]
  dsimp only
  by_cases hk : k < n
  · rw [if_pos hk, Nat.min_eq_left hk.le]
  · rw [if_neg hk, Nat.min_eq_right (Nat.le_of_not_lt hk)]

/-- Settles O28. -/
theorem registerPacketsComplete : Obligations.RegisterPacketsComplete := by
  refine ⟨?_, ?_⟩
  · intro h a n f s c m hc hl ho ha hclosed
    have hm : ((s.toChip.accept h).fabric n f).2 = m := by
      cases hbad : f.bad with
      | none =>
        rw [Chip.fabric_count_of_good hbad]
        simp only [m, hbad]
      | some k =>
        rw [Chip.fabric_count_of_bad hbad]
        simp only [m, hbad]
    have hopen : (!s.toChip.start.recovery || h.queue == 0) = true := by
      rcases ho with h | h <;> simp [h]
    have hexec : exec (.regRead h 0 a n f) s = .next { s with
        toChip := ((c.readRegs a.toNat m).2.answer h (.regData 0 h.seq (BitVec.ofNat 16 m) a (c.readRegs a.toNat m).1)) } := by
      change execRegRead h 0 a n f s = _
      simp only [execRegRead, act, Chip.treat_of_takes hc hl hopen]
      simp [ha, hclosed, hm, c]
    refine ⟨_, hexec, Chip.reports_post .., ?_, ?_⟩
    · intro h1
      rw [h1]
      rfl
    · exact (Chip.mem_answer ..).trans ((Chip.mem_readRegs ..).trans ((Chip.mem_fabric ..).trans (s.toChip.mem_accept h)))
  · intro h r v f s hr hc hl ho hclosed
    have hexec := exec_regWrite (values := [v]) (f := f) hc hl ho (plainRegisters_aligned hr) hclosed
    have hmem := (Chip.mem_fabric (s.toChip.accept h) 1 f).trans (s.toChip.mem_accept h)
    have hview := (s.toChip.accept h).plainView_fabric 1 f
    refine ⟨fun hf => ⟨_, hexec, ?_⟩, fun hf => ⟨_, hexec, ?_⟩⟩
    · have hperformed : ((s.toChip.accept h).fabric [v].length f).2 = 1 := by simp [Chip.fabric, hf]
      have hone (d : Chip) : d.writeRegs r.1.toNat ([v].take 1) = d.writeReg r.1.toNat v := rfl
      simp only [hperformed, hone]
      rw [show [v].length = 1 from rfl]
      generalize ((s.toChip.accept h).fabric 1 f).1 = d at hmem hview
      have hwritten := d.regValue_writeChip_plain hr v
      have hkeep := Chip.mem_of_outside (Chip.outside_writeChip_plain (List.Subset.refl _) d hr v) (by simp [noMemory])
      rw [d.writeReg_plain hr]
      refine ⟨(Chip.regValue_plain_congr (Chip.plainView_answer ..) hr).trans hwritten, Chip.reports_post .., ?_⟩
      exact (Chip.mem_answer ..).trans (hkeep.trans hmem)
    · have hperformed : ((s.toChip.accept h).fabric [v].length f).2 = 0 := by simp [Chip.fabric, hf]
      simp only [hperformed]
      exact ⟨Chip.regValue_plain_congr ((Chip.plainView_answer ..).trans hview) hr, Chip.reports_post .., (Chip.mem_answer ..).trans hmem⟩

end Sys2Proof.Machine

/-! BULK packets (R252, R313, R315, R316): the obligation O29. -/

namespace Sys2Proof.Machine

theorem Chip.mem_hbmCode (c : Chip) (s : Nat) (code : HbmCode) : (c.hbmCode s code).mem = c.mem := Chip.mem_of_vaultMem (Chip.hbmCode_vaultMem ..)

theorem Chip.mem_writeData (c : Chip) (off : Nat) (bytes : List Byte) :
    (c.writeData off bytes).mem = { c.mem with hbm := writeWindow c.mem.hbm 0 off bytes } := rfl

theorem Chip.length_readData (c : Chip) (addr len : Nat) {code : HbmCode} {L : Nat} (hbad : code.bad = some L) : (c.readData addr len code).length = len := by
  simp [Chip.readData, hbad]

/-- Outside an uncorrectable codeword the bytes read are those there. -/
theorem Chip.getElem?_readData (c : Chip) (addr len : Nat) {code : HbmCode} {L : Nat} (hbad : code.bad = some L) {n : Nat} (hn : n < len)
    (hword : windowAddr 0 (addr + n) / 16 ≠ L / 16) : (c.readData addr len code)[n]? = some (getByte c.mem.hbm (windowAddr 0 (addr + n))) := by
  simp [Chip.readData, hbad, hn, hword]

/-- A write that is accepted stores its bytes. -/
theorem exec_bulkWriteData {h : Hdr} {len : Nat} {addr : BitVec 64} {data : List Byte} {s : State} (hc : s.toChip.takes h)
    (hl : 16 + len ≤ h.length) (ho : s.toChip.takesBulk h = true) (hst : (s.toChip.accept h).bulkStatus addr.toNat len = statusOk)
    (hlen : data.length = len) (code : HbmCode) :
    exec (.bulkWriteData h 0 len addr data code) s = .next { s with
      toChip := ((((s.toChip.accept h).writeData addr.toNat data).hbmCode (dataStack addr.toNat) code).receipt h statusOk) } := by
  change execBulkWriteData h 0 len addr data code s = _
  simp only [execBulkWriteData, act]
  rw [Chip.treat_of_takes hc (by simp; omega) ho]
  simp [hst, List.take_of_length_le (Nat.le_of_eq hlen)]

/-- A read that is accepted answers with the bytes as they are read. -/
theorem exec_bulkReadData {h : Hdr} {len : Nat} {addr : BitVec 64} {s : State} (hc : s.toChip.takes h) (hl : 16 ≤ h.length)
    (ho : s.toChip.serves = true) (hst : (s.toChip.accept h).bulkStatus addr.toNat len = statusOk) (code : HbmCode) :
    ∃ t, exec (.bulkReadData h 0 len addr code) s = .next t
      ∧ t.toChip.reports h.queue h.tag (.bulkData 0 h.seq addr ((s.toChip.accept h).readData addr.toNat len code)) ∧ t.mem = s.mem := by
  let c := s.toChip.accept h
  let d : Chip := ({ c with freeCtr := if code.bad.isSome then c.freeCtr + len else c.freeCtr } : Chip).hbmCode (dataStack addr.toNat) code
  refine ⟨{ s with toChip := d.answer h (.bulkData 0 h.seq addr (c.readData addr.toNat len code)) }, ?_, Chip.reports_post .., ?_⟩
  · change execBulkReadData h 0 len addr code s = _
    simp only [execBulkReadData, act]
    rw [Chip.treat_of_takes hc (by simpa using hl) ho]
    simp [hst, c, d]
  · exact (Chip.mem_answer ..).trans ((Chip.mem_hbmCode ..).trans (s.toChip.mem_accept h))

/-- Settles O29. -/
theorem bulkPacketsComplete : Obligations.BulkPacketsComplete := by
  refine ⟨fun h len addr data code s hc hl ho hst hlen => ?_, fun h len addr code s hc hl ho hst => ?_, ?_⟩
  · refine ⟨_, exec_bulkWriteData hc hl ho hst hlen code, ?_⟩
    have hmem : ((((s.toChip.accept h).writeData addr.toNat data).hbmCode (dataStack addr.toNat) code).receipt h statusOk).mem
        = { s.mem with hbm := writeWindow s.mem.hbm 0 addr.toNat data } := by
      rw [Chip.mem_receipt, Chip.mem_hbmCode, Chip.mem_writeData, Chip.mem_accept]
    have hreceipt := Chip.receipted_receipt (((s.toChip.accept h).writeData addr.toNat data).hbmCode (dataStack addr.toNat) code) h statusOk
    generalize (((s.toChip.accept h).writeData addr.toNat data).hbmCode (dataStack addr.toNat) code).receipt h statusOk = d at hmem hreceipt
    refine ⟨fun n b hb => ?_, fun x hx => ?_, hreceipt, ?_⟩
    · rw [hmem]
      exact getByte_writeWindow_inside _ _ _ _ _ _ hb
    · rw [hmem]
      exact getByte_writeWindow_outside _ _ _ _ _ fun k hk => hx k (hlen ▸ hk)
    · simp [hmem]
  · obtain ⟨t, ht, hreport, hmem⟩ := exec_bulkReadData hc hl ho hst code
    refine ⟨fun hbad => ⟨t, ht, ?_, hmem⟩, fun L hbad => ⟨t, ht, ⟨_, hreport, Chip.length_readData _ _ _ hbad, fun n hn hword => ?_⟩, hmem⟩⟩
    · rwa [Chip.readData, hbad, Chip.mem_accept] at hreport
    · rw [Chip.getElem?_readData _ _ _ hbad hn hword, Chip.mem_accept]
  · intro h len off data code s j i c hc hl ho hlen hdata hj hi hslots hring hbad
    let hbm := writeRing c.mem.hbm j.body.windowBase.toNat j.body.inOff.toNat j.body.inBytes.toNat
      (off.toNat + (i.streamAt false j.committed - off.toNat)) ((data.take len).drop (i.streamAt false j.committed - off.toNat))
    let d : Chip := ({ c with mem := { c.mem with hbm := hbm } } : Chip).hbmCode (addrStack j.body.windowBase.toNat) code
    refine ⟨{ s with toChip := ((d.upJob j.id (fun k => k.written off.toNat (off.toNat + len))).receipt h statusOk) }, ?_, ?_, Chip.receipted_receipt ..,
      ?_⟩
    · change execBulkWriteInputStream h 0 len off data code s = _
      simp only [execBulkWriteInputStream, act]
      rw [Chip.treat_of_takes hc (by simp; omega) ho]
      have hwrite : c.writeInput h len off.toNat data code = (d.upJob j.id (fun k => k.written off.toNat (off.toNat + len))).receipt h statusOk := by
        simp only [Chip.writeInput, hlen, hj, hi, hslots, Bool.not_true, Bool.false_eq_true, if_false, if_neg (Nat.not_lt.mpr hring)]
        rfl
      simpa [c] using hwrite
    · have hout : d.outside [.hbm, .regions, .hbmStacks, .saf, .log] = c.outside [.hbm, .regions, .hbmStacks, .saf, .log] :=
        (Chip.outside_hbmCode (by simp) ..).trans (by simp)
      exact (Chip.job?_receipt ..).trans (Chip.job?_upJob_own ((Chip.job?_of_outside hout (by simp) _).trans hj) _ fun _ => rfl)
    · have hmem : ((d.upJob j.id (fun k => k.written off.toNat (off.toNat + len))).receipt h statusOk).mem = { s.mem with hbm := hbm } := by
        rw [← s.toChip.mem_accept h]
        exact (Chip.mem_receipt ..).trans (Chip.mem_hbmCode ..)
      clear_value d hbm
      simp [hmem]

end Sys2Proof.Machine

/-! Acknowledgements and queue resets (R297, R302, R303, R314, R323, R324): the obligation O30. -/

namespace Sys2Proof.Machine

/-! ## Queues that withhold nothing -/

/-- What a table shows is one of its entries, or the default. -/
theorem look_mem_or {V : Type} (d : V) (m : SMap V) (n : Nat) : (∃ e ∈ m, e.2 = look d m n) ∨ look d m n = d := by
  induction m with
  | nil => exact .inr rfl
  | cons e m ih =>
    obtain ⟨k, v⟩ := e
    by_cases hn : n = k
    · exact .inl ⟨(k, v), by simp, by simp [look, hn]⟩
    · rw [look, if_neg hn]
      exact ih.imp_left fun ⟨e, he, hv⟩ => ⟨e, List.mem_cons_of_mem _ he, hv⟩

theorem Chip.withheld_of_all {c : Chip} (h : c.host.queues.all (fun q => q.2.withheld.isEmpty) = true) (n : Nat) : (c.queue n).withheld = [] := by
  rcases look_mem_or ({} : QState) c.host.queues n with ⟨e, he, hv⟩ | hv
  · rw [Chip.queue, ← hv]
    simpa using List.all_eq_true.mp h e he
  · rw [Chip.queue, hv]

/-- Nothing withheld, nothing to flush. -/
theorem Chip.flushAll_of_none {c : Chip} (h : ∀ n, (c.queue n).withheld = []) : c.flushAll = c := by
  refine overAll_invariant (fun d => d = c) _ (fun d q hd => ?_) _ _ rfl
  subst hd
  rw [h]
  rfl

/-! ## An acknowledgement -/

theorem Chip.host_streamAcked (c : Chip) (p : Packet) : (c.streamAcked p).host = c.host := by
  unfold Chip.streamAcked
  split <;> rfl

/-- An ack of a retained packet moves the acknowledged point and releases the packets before it; the host side changes in nothing else. -/
theorem Chip.host_ackQueue {c : Chip} {q : Nat} {a : BitVec 32} (hnext : precedes (c.queue q).next a = false)
    (hacked : precedes a (c.queue q).acked = false) (hwithheld : ∀ n, (c.queue n).withheld = []) :
    (c.ackQueue q a).host = (c.upQueue q (fun k => { k with acked := a, retained := k.retained.filter (fun p => !(precedes p.seq a)) })).host := by
  unfold Chip.ackQueue
  extract_lets k
  rw [if_neg (by simp [k, hnext, hacked])]
  rename_i ended acked
  have hhost : acked.host = c.host := overAll_keep Chip.host _ _ _ Chip.host_streamAcked
  have hqueue (n : Nat) : acked.queue n = c.queue n := by simp only [Chip.queue, hhost]
  rw [Chip.flushAll_of_none]
  · simp only [Chip.upQueue, hqueue, hhost]
  · intro n
    refine (Chip.queue_keep_upQueue QState.withheld _ _ _ _ ?_).trans (by rw [hqueue, hwithheld])
    exact fun _ => rfl

/-! ## Packets sent again -/

/-- Packets sent once more on ports that pause nothing go out in order, dressed as their class says. -/
theorem Chip.sent_resends (q : Nat) (l : List Packet) (c : Chip) (h0 : c.host.port0.paused = 0) (h1 : c.host.port1.paused = 0) :
    (overAll l (Chip.resend q) c).host = { c.host with sent := c.host.sent ++ l.map (fun p => c.dress (p.again (c.queue q).port)) } := by
  induction l generalizing c with
  | nil => simp [overAll]
  | cons p l ih =>
    have hpaused (r : Fin 2) : (c.hport r).paused = 0 := by
      unfold Chip.hport
      split
      · exact h0
      · exact h1
    have hsent : Chip.resend q c p = { c with host := { c.host with sent := c.host.sent ++ [c.dress (p.again (c.queue q).port)] } } := by
      simp [Chip.resend, Chip.wire, hpaused]
    rw [overAll, List.foldl_cons, hsent]
    refine (ih { c with host := { c.host with sent := c.host.sent ++ [c.dress (p.again (c.queue q).port)] } } h0 h1).trans ?_
    simp only [List.map_cons, List.append_assoc, List.singleton_append]
    rfl

/-- Packets sent once more on ports that pause every priority wait there. -/
theorem Chip.sent_resends_of_paused (q : Nat) (l : List Packet) (c : Chip) (h0 : c.host.port0.paused = 0xFF) (h1 : c.host.port1.paused = 0xFF) :
    (overAll l (Chip.resend q) c).host.sent = c.host.sent := by
  refine (overAll_invariant (fun d => d.host.port0.paused = 0xFF ∧ d.host.port1.paused = 0xFF ∧ d.host.sent = c.host.sent)
    _ (fun d p hd => ?_) l c ⟨h0, h1, rfl⟩).2.2
  obtain ⟨hd0, hd1, hsent⟩ := hd
  have hall (x : BitVec 3) : (0xFF : BitVec 8).getLsbD x.toNat = true := by revert x; decide
  have hpaused (r : Fin 2) : (d.hport r).paused = 0xFF := by
    unfold Chip.hport
    split
    · exact hd0
    · exact hd1
  rw [Chip.resend, Chip.wire, if_pos (by rw [hpaused]; exact hall _)]
  unfold Chip.upHport
  split
  · exact ⟨hd0, hd1, hsent⟩
  · exact ⟨hd0, hd1, hsent⟩

theorem Chip.queue_resends (q : Nat) (l : List Packet) (c : Chip) (n : Nat) : (overAll l (Chip.resend q) c).queue n = c.queue n :=
  overAll_keep (fun d => d.queue n) _ _ _ fun d _ => Chip.queue_wire d _ n

theorem Chip.dress_of_outside {c d : Chip} (h : d.outside [.host, .jobs] = c.outside [.host, .jobs]) (p : Packet) : d.dress p = c.dress p := by
  have hcfg : c.cfg = d.cfg := Chip.same_of_outside (p := .cfg) h (by simp)
  have hstart : c.start = d.start := Chip.same_of_outside (p := .start) h (by simp)
  have hvault : c.vault = d.vault := Chip.same_of_outside (p := .vault) h (by simp)
  simp only [Chip.dress, Chip.portCfg, Chip.priority, Chip.queueClass, Chip.queueByte, hcfg, hstart, hvault]

theorem Chip.mem_resends (q : Nat) (l : List Packet) (c : Chip) : (overAll l (Chip.resend q) c).mem = c.mem :=
  overAll_keep Chip.mem _ _ _ fun d p => Chip.mem_of_outside (Chip.outside_resend (parts := [.host]) (by simp) q d p) (by simp [noMemory])

/-! ## A reset of a queue -/

/-- A reset of a queue with no job, while no queue withholds anything. -/
theorem Chip.queueReset_of_free {c : Chip} (hfree : c.queueBusy c.host.queueSel.toNat = false) (hwithheld : ∀ n, (c.queue n).withheld = []) :
    c.queueReset = { c with host := { c.host with
      queueCtrl := 1
      queues := put {} c.host.queues c.host.queueSel.toNat
        { c.queue c.host.queueSel.toNat with expected := 0, next := 0, acked := 0, retained := [], answers := [] } } } := by
  unfold Chip.queueReset
  extract_lets q d
  rw [if_neg (by simp [q, hfree])]
  refine (Chip.flushAll_of_none fun n => ?_).trans rfl
  have hkeep := Chip.queue_keep_upQueue QState.withheld c q n
    (fun k => { k with expected := 0, next := 0, acked := 0, retained := [], answers := [] }) fun _ => rfl
  exact hkeep.trans (hwithheld n)

/-- Settles O30. -/
theorem acksAndQueueResets : Obligations.AcksAndQueueResets := by
  refine ⟨?_, ?_⟩
  · intro h s k hnext hacked hall
    have hhost := Chip.host_ackQueue hnext hacked (Chip.withheld_of_all hall)
    have hmem : (s.toChip.ackQueue h.queue.toNat h.ack).mem = s.mem := Chip.mem_of_vaultMem (Chip.ackQueue_vaultMem ..)
    have hdress := Chip.dress_of_outside (Chip.outside_ackQueue (parts := [.host, .jobs]) (by simp) s.toChip h.queue.toNat h.ack)
    have hqueue : (s.toChip.ackQueue h.queue.toNat h.ack).queue h.queue.toNat
        = { k with acked := h.ack, retained := k.retained.filter (fun p => !(precedes p.seq h.ack)) } :=
      (congrArg (fun x : HostSt => look ({} : QState) x.queues h.queue.toNat) hhost).trans (Chip.queue_upQueue ..)
    have hsent : (s.toChip.ackQueue h.queue.toNat h.ack).host.sent = s.host.sent := (congrArg HostSt.sent hhost).trans rfl
    have hport0 : (s.toChip.ackQueue h.queue.toNat h.ack).host.port0 = s.host.port0 := (congrArg HostSt.port0 hhost).trans rfl
    have hport1 : (s.toChip.ackQueue h.queue.toNat h.ack).host.port1 = s.host.port1 := (congrArg HostSt.port1 hhost).trans rfl
    constructor
    · refine ⟨{ s with toChip := s.toChip.ackQueue h.queue.toNat h.ack }, rfl, ?_⟩
      generalize s.toChip.ackQueue h.queue.toNat h.ack = d at *
      exact ⟨congrArg QState.acked hqueue, congrArg QState.retained hqueue, hsent, hmem⟩
    · refine ⟨_, rfl, ?_⟩
      dsimp only
      generalize s.toChip.ackQueue h.queue.toNat h.ack = d at *
      have hretained : (d.queue h.queue.toNat).retained.filter (fun p => !(precedes p.seq h.ack))
          = k.retained.filter (fun p => !(precedes p.seq h.ack)) := by
        simp only [hqueue, List.filter_filter, Bool.and_self]
      have hport : (d.queue h.queue.toNat).port = k.port := (congrArg QState.port hqueue).trans rfl
      have hmem' := (Chip.mem_resends h.queue.toNat (k.retained.filter (fun p => !(precedes p.seq h.ack))) d).trans hmem
      have hqueues : (overAll (k.retained.filter (fun p => !(precedes p.seq h.ack))) (Chip.resend h.queue.toNat) d).queue h.queue.toNat
          = d.queue h.queue.toNat :=
        Chip.queue_resends _ _ _ _
      rw [hretained]
      refine ⟨congrArg QState.acked (hqueues.trans hqueue), fun h0 h1 => ?_, fun h0 h1 => ?_, hmem'⟩
      · have hall := Chip.sent_resends h.queue.toNat (k.retained.filter (fun p => !(precedes p.seq h.ack))) d
          (by rw [hport0, h0]) (by rw [hport1, h1])
        refine (congrArg HostSt.sent hall).trans ?_
        simp only [hsent, hport, hdress]
      · exact (Chip.sent_resends_of_paused h.queue.toNat _ d (by rw [hport0, h0]) (by rw [hport1, h1])).trans hsent
  · intro s q
    refine ⟨fun hbusy hall => ?_, fun hbusy => ?_⟩
    · have hreset := Chip.queueReset_of_free hbusy (Chip.withheld_of_all hall)
      refine ⟨{ s with toChip := s.toChip.queueReset }, rfl, ?_⟩
      have hqueue : s.toChip.queueReset.queue q = { s.queue q with expected := 0, next := 0, acked := 0, retained := [], answers := [] } := by
        rw [hreset]
        exact Chip.queue_upQueue s.toChip q fun k => { k with expected := 0, next := 0, acked := 0, retained := [], answers := [] }
      refine ⟨congrArg QState.expected hqueue, congrArg QState.next hqueue, congrArg QState.retained hqueue, ?_, ?_⟩
      · exact congrArg (fun c : Chip => c.host.queueCtrl) hreset
      · exact hreset.trans (congrArg (fun c : Chip => { s.toChip with host := c.host }) hreset).symm
    · have hreset : s.toChip.queueReset = { s.toChip with host := { s.toChip.host with queueCtrl := 2 } } := if_pos hbusy
      refine ⟨{ s with toChip := { s.toChip with host := { s.toChip.host with queueCtrl := 2 } } }, ?_, rfl, rfl, rfl⟩
      rw [← hreset]
      rfl

end Sys2Proof.Machine

/-! The host ports below the transport (R297 to R299, R301, R323, R324): the obligation O31. -/

namespace Sys2Proof.Machine

/-! ## One port changed -/

@[simp] theorem Chip.hport_upHport (c : Chip) (p : Fin 2) (f : HPort → HPort) : (c.upHport p f).hport p = f (c.hport p) := by
  unfold Chip.hport Chip.upHport
  split <;> rfl

theorem Chip.hport_upHport_ne (c : Chip) {p q : Fin 2} (h : q ≠ p) (f : HPort → HPort) : (c.upHport p f).hport q = c.hport q := by
  unfold Chip.hport Chip.upHport
  by_cases hp : p = 0
  · rw [if_pos hp, if_neg (by omega), if_neg (by omega)]
  · rw [if_neg hp, if_pos (by omega), if_pos (by omega)]

/-- A change of a port that does not touch one of its fields. -/
theorem Chip.hport_keep_upHport {β : Type} (F : HPort → β) (c : Chip) (p q : Fin 2) (f : HPort → HPort) (hf : ∀ x, F (f x) = F x) :
    F ((c.upHport p f).hport q) = F (c.hport q) := by
  by_cases h : q = p
  · rw [h, Chip.hport_upHport, hf]
  · rw [Chip.hport_upHport_ne c h]

/-- The host side of a changed port, apart from its ports. -/
theorem Chip.host_upHport {β : Type} (F : HostSt → β) (h0 : ∀ x y, F { x with port0 := y } = F x) (h1 : ∀ x y, F { x with port1 := y } = F x)
    (c : Chip) (p : Fin 2) (f : HPort → HPort) : F (c.upHport p f).host = F c.host := by
  unfold Chip.upHport
  dsimp only
  split
  · exact h0 _ _
  · exact h1 _ _

theorem Mems.eq_iff (m n : Mems) : m = n ↔ m.hbm = n.hbm ∧ m.rstg = n.rstg ∧ m.cstg = n.cstg ∧ m.tiers = n.tiers ∧ m.ledger = n.ledger
    ∧ m.flash = n.flash := by
  cases m
  cases n
  simp

/-- A block that differs in its host side at most. -/
theorem Chip.eq_of_outside_host {c d : Chip} (h : d.outside [.host] = c.outside [.host]) : d = { c with host := d.host } := by
  obtain ⟨⟩ := c
  obtain ⟨⟩ := d
  simpa [Chip.outside, Mems.eq_iff] using h

/-! ## Priorities -/

theorem Chip.paused_releaseWaiting (c : Chip) (p : Fin 2) : ((c.releaseWaiting p).hport p).paused = (c.hport p).paused := by
  unfold Chip.releaseWaiting
  refine (overAll_keep (fun d : Chip => (d.hport p).paused) _ _ _ fun d x => ?_).trans ?_
  · unfold Chip.wire
    split
    · exact Chip.hport_keep_upHport HPort.paused d _ p _ fun _ => rfl
    · rfl
  · exact Chip.hport_keep_upHport HPort.paused c p p _ fun _ => rfl

/-- What a priority frame leaves of the pauses: the enabled ones as it says, the others as they were. -/
theorem getLsbD_pfc (x en ps : BitVec 8) (n : Nat) :
    ((x &&& ~~~en) ||| (ps &&& en)).getLsbD n = if en.getLsbD n then ps.getLsbD n else x.getLsbD n := by
  by_cases hn : n < 8
  · cases h : en[n] <;> simp [h, hn]
  · have hge : 8 ≤ n := by omega
    simp [BitVec.getLsbD_of_ge, hge]

/-! ## The log time -/

theorem Chip.logTime_unsynchronised (c : Chip) (h : c.clk.ptpFollowing = false) : c.logTime.getLsbD 63 = true := by
  have hlt : trunc 63 ((c.clk.aon : Int) * 40) < 2 ^ 63 := by
    unfold trunc
    omega
  simp only [Chip.logTime, h, Bool.false_eq_true, if_false, Int.add_zero, BitVec.getLsbD_ofNat, Nat.add_comm, Nat.testBit_two_pow_add_eq,
    Nat.testBit_lt_two_pow hlt]
  rfl

/-- Settles O31. -/
theorem hostPortsComplete : Obligations.HostPortsComplete := by
  refine ⟨?_, ?_⟩
  · intro p s cfg
    refine ⟨⟨_, rfl, ?_⟩, fun fec => ⟨⟨_, rfl, ?_⟩, ⟨_, rfl, ?_⟩⟩, fun sender => ⟨fun h => ?_, fun h => ?_, fun target h => ?_⟩, fun data h => ?_⟩
    · exact ⟨congrArg HPort.malformed (Chip.hport_upHport ..),
        Chip.host_upHport HostSt.sent (fun _ _ => rfl) (fun _ _ => rfl) .., rfl⟩
    · exact ⟨congrArg HPort.foreign (Chip.hport_upHport ..), congrArg HPort.fec (Chip.hport_upHport ..), rfl⟩
    · exact ⟨congrArg HPort.malformed (Chip.hport_upHport ..), congrArg HPort.fec (Chip.hport_upHport ..), rfl⟩
    · refine ⟨{ s with toChip := s.toChip.reply (.arp p cfg.ipv4 cfg.mac sender) }, ?_, rfl, rfl⟩
      change execArpRequest p cfg.ipv4 sender s = _
      simp [execArpRequest, act, cfg, h]
    · refine ⟨{ s with toChip := s.toChip.reply (.advert p cfg.ipv6 cfg.mac sender) }, ?_, rfl, rfl⟩
      change execNeighborSolicitation p cfg.ipv6 sender s = _
      simp [execNeighborSolicitation, act, cfg, h]
    · refine ⟨{ s with toChip := s.toChip.foreign p }, ?_, ?_, congrArg HPort.foreign (Chip.hport_upHport ..)⟩
      · change execArpRequest p target sender s = _
        simp [execArpRequest, act, cfg, h]
      · exact Chip.host_upHport HostSt.replies (fun _ _ => rfl) (fun _ _ => rfl) ..
    · refine ⟨{ s with toChip := s.toChip.reply (.echo p true data) }, ?_, rfl, rfl⟩
      change execIcmpEcho p true cfg.ipv6 data s = _
      simp [execIcmpEcho, act, cfg, h]
  · intro p s
    refine ⟨⟨_, rfl, ?_⟩, fun hpresent hspeed => ⟨_, rfl, ?_⟩, fun slow => ⟨_, rfl, ?_⟩, ⟨_, rfl, ?_⟩, fun en ps h => ?_, fun ns h => ?_, ?_⟩
    · exact ⟨congrArg HPort.present (Chip.hport_upHport ..), congrArg HPort.fallback (Chip.hport_upHport ..), rfl⟩
    · refine ⟨(congrArg HPort.fallback (Chip.hport_upHport ..)).trans ?_, rfl⟩
      simp [hpresent, hspeed]
    · refine ⟨(congrArg HPort.speed (Chip.hport_upHport ..)).trans ?_, rfl⟩
      simp [and_assoc]
    · exact ⟨congrArg HPort.speed (Chip.hport_upHport ..),
        Chip.host_upHport HostSt.queues (fun _ _ => rfl) (fun _ _ => rfl) .., rfl⟩
    · let c := s.toChip.upHport p fun x => { x with paused := (x.paused &&& ~~~en) ||| (ps &&& en) }
      refine ⟨{ s with toChip := c.releaseWaiting p }, ?_, fun n => ?_, ?_⟩
      · change execPfcFrame p en ps s = _
        simp [execPfcFrame, act, h, c]
      · rw [Chip.paused_releaseWaiting, Chip.hport_upHport]
        exact getLsbD_pfc ..
      · exact Chip.eq_of_outside_host ((Chip.outside_releaseWaiting (by simp) c p).trans (Chip.outside_upHport (by simp) ..))
    · refine ⟨{ s with toChip := { s.toChip with clk := { s.clk with ptpFollowing := true, ptpOffset := ns } } }, ?_, rfl, rfl, ?_, rfl⟩
      · change execPtpMessage p ns s = _
        simp [execPtpMessage, act, h]
      · simp [Chip.logTime]
    · exact ⟨{ s with toChip := { s.toChip with clk := { s.clk with ptpFollowing := false } } }, rfl, rfl, Chip.logTime_unsynchronised _ rfl, rfl⟩

end Sys2Proof.Machine

/-! Tier commands (R97 to R103): the obligation O32. -/

namespace Sys2Proof.Machine

/-! ## What an operation leaves of an array and of a tier -/

section
variable {β : Type} (F : Arr → β)

theorem Chip.arr_keep_upArr (c : Chip) (k n : Nat) (f : Arr → Arr) (hf : ∀ x, F (f x) = F x) : F ((c.upArr k f).arr n) = F (c.arr n) := by
  by_cases h : n = k
  · rw [h, Chip.arr_upArr, hf]
  · rw [Chip.arr_upArr_ne _ _ _ _ h]

theorem Chip.arr_of_outside {parts : List Part} {c d : Chip} (h : d.outside parts = c.outside parts) (hp : .arrays ∉ parts) (n : Nat) :
    d.arr n = c.arr n := by
  have harrays : c.arrays = d.arrays := Chip.same_of_outside h hp
  simp only [Chip.arr, harrays]

/-- A copy that begins changes the times of copies alone. -/
theorem Chip.arr_keep_beginPlot (hsubs : ∀ x y, F { x with subs := y } = F x) (a : Nat) (c : Chip) (i n : Nat) :
    F ((c.beginPlot a i).arr n) = F (c.arr n) := by
  unfold Chip.beginPlot
  extract_lets s
  split
  · exact Chip.arr_keep_upArr F c a n _ fun x => hsubs x _
  · rfl

theorem Chip.arr_keep_beginCells (hcopyAt : ∀ x y, F { x with copyAt := y } = F x) (c : Chip) (a n : Nat) :
    F ((c.beginCells a).arr n) = F (c.arr n) := by
  unfold Chip.beginCells
  split
  · next q _ =>
    have hfirst := Chip.arr_keep_upArr F c a n (fun x => { x with copyAt := some c.clk.aon }) fun x => hcopyAt x _
    exact ite_keep (fun d : Chip => F (d.arr n)) ((Chip.arr_keep_upArr F _ q n _ fun x => hcopyAt x _).trans hfirst) rfl
  · rfl

theorem Chip.arr_keep_beginCopies (hsubs : ∀ x y, F { x with subs := y } = F x) (hcopyAt : ∀ x y, F { x with copyAt := y } = F x)
    (c : Chip) (core n : Nat) : F ((c.beginCopies core).arr n) = F (c.arr n) := by
  unfold Chip.beginCopies
  refine (overAll_keep (fun d => F (d.arr n)) _ _ _ fun d a => Chip.arr_keep_beginCells F hcopyAt d a n).trans ?_
  refine overAll_keep (fun d => F (d.arr n)) _ _ _ fun d a => ?_
  exact overAll_keep (fun d => F (d.arr n)) _ _ _ fun d i => Chip.arr_keep_beginPlot F hsubs a d i n
end

theorem Chip.tier_of_outside {parts : List Part} {c d : Chip} (h : d.outside parts = c.outside parts) (hp : .tiers ∉ parts) (n : Nat) :
    d.tier n = c.tier n := by
  have htiers : c.tiers = d.tiers := Chip.same_of_outside h hp
  simp only [Chip.tier, htiers]

/-! ## Programming -/

/-- Both copies of a ledger entry, and an array rid of its old content, are in HBM and outside memory. -/
theorem Chip.mem_putCopies (c : Chip) (T : Nat) (image header : List Byte) (a : Nat) (tier : Fin 64) :
    (((c.putCopy T 0 image header).putCopy T 1 image header).clearTier a tier).mem
      = { c.mem with hbm := ((c.putCopy T 0 image header).putCopy T 1 image header).mem.hbm } :=
  rfl

theorem Chip.tiers_putCopies (c : Chip) (T : Nat) (image header : List Byte) (a : Nat) (tier : Fin 64) :
    (((c.putCopy T 0 image header).putCopy T 1 image header).clearTier a tier).tiers = c.tiers := rfl

/-- A programming that nothing refuses: the image is the tier's intended one, and the tier is in programming. -/
theorem Chip.cmdProgram_spec {c : Chip} {a : Nat} {tier : Fin 64} {int4 bad : Bool} (hfree : c.progRefusal a tier false bad = none) :
    let T := tierKey a tier.val
    let d := c.cmdProgram a tier int4 bad
    d.tier T = { c.tier T with st := .programming, int4 := int4 }
    ∧ (d.arr a).prog = some { tier := tier, erase := false, int4 := int4 } ∧ (d.arr a).progResult = 1
    ∧ d.mem.tiers = writeBytes c.mem.tiers (tierBase T) (readBytes c.mem.hbm (16384 * (c.arr a).progSrc.toNat) 16384)
    ∧ d.mem = { c.mem with hbm := d.mem.hbm, tiers := d.mem.tiers, ledger := d.mem.ledger } := by
  intro T d
  have hd : d = c.cmdProgram a tier int4 bad := rfl
  clear_value d
  unfold Chip.cmdProgram at hd
  split at hd
  · next code hcode =>
    rw [hfree] at hcode
    cases hcode
  extract_lets image header cleared written stored begun at hd
  have himage : image = readBytes c.mem.hbm (16384 * (c.arr a).progSrc.toNat) 16384 := rfl
  clear_value image header
  obtain ⟨hbm, hcleared⟩ : ∃ hbm, cleared.mem = { c.mem with hbm := hbm } := ⟨_, Chip.mem_putCopies ..⟩
  have hclearedTiers : cleared.tiers = c.tiers := Chip.tiers_putCopies ..
  clear_value cleared
  obtain ⟨ledger, hstoredMem⟩ : ∃ ledger, stored.mem = { cleared.mem with tiers := writeBytes cleared.mem.tiers (tierBase T) image, ledger := ledger } :=
    ⟨_, rfl⟩
  have hstoredTiers : stored.tiers = cleared.tiers := rfl
  clear_value stored
  have hbegun : begun.tier T = { stored.tier T with st := .programming, int4 := int4 } := Chip.tier_upTier ..
  have hmem : d.mem = stored.mem := (congrArg Chip.mem hd).trans rfl
  refine ⟨?_, ?_, ?_, ?_, ?_⟩
  · rw [hd, Chip.tier_of_outside (Chip.outside_progAnswer (parts := [.arrays]) (by simp) ..) (by simp)]
    refine hbegun.trans ?_
    simp only [Chip.tier, hstoredTiers, hclearedTiers]
  · rw [hd, Chip.progAnswer, Chip.arr_upArr, Chip.arr_upArr]
  · rw [hd, Chip.progAnswer, Chip.arr_upArr]
    rfl
  · rw [hmem, hstoredMem, hcleared, himage]
  · rw [hmem, hstoredMem, hcleared]

/-- The end of a programming with no failed cell. -/
theorem Chip.programDone_spec {c : Chip} {a : Nat} {p : Prog} (hprog : (c.arr a).prog = some p) (herase : p.erase = false) :
    let T := tierKey a p.tier.val
    let d := c.programDone a []
    d.tier T = { c.tier T with
      st := if 10000 ≤ (c.tier T).count.toNat + 1 then .worn else .ready, count := BitVec.ofNat 14 ((c.tier T).count.toNat + 1) }
    ∧ (d.arr a).prog = none ∧ (d.arr a).progResult = 0 ∧ (d.arr a).stuckAdded = 0
    ∧ d.mem = { c.mem with hbm := d.mem.hbm, ledger := d.mem.ledger } := by
  intro T d
  have hd : d = c.programDone a [] := rfl
  clear_value d
  unfold Chip.programDone at hd
  split at hd
  · next hnone =>
    rw [hprog] at hnone
    cases hnone
  next p' hp =>
  obtain rfl : p = p' := by simpa [hprog] using hp
  rw [if_neg (by simp [herase])] at hd
  extract_lets count image header mems stored ended v code c3 c4 c5 at hd
  clear_value image header
  have hchip : v.chip = ended := rfl
  have hadded : v.added = 0 := rfl
  have hfailed : v.failed = false := rfl
  have hcode : code = 0 := rfl
  have hended : ended.mem = { c.mem with hbm := ended.mem.hbm, ledger := ended.mem.ledger } := rfl
  have hendedTiers : ended.tiers = c.tiers := rfl
  clear_value stored
  have hprog3 : (ended.arr a).prog = none := congrArg Arr.prog (Chip.arr_upArr stored a fun x => { x with prog := none })
  clear_value ended code v
  have htier3 : c3.tier T = _ := Chip.tier_upTier ..
  have harr3 : c3.arr a = ended.arr a := (congrArg (fun e : Chip => e.arr a) hchip : v.chip.arr a = ended.arr a)
  have hmem3 : c3.mem = ended.mem := (congrArg Chip.mem hchip : v.chip.mem = ended.mem)
  clear_value c3
  have harr4 : c4.arr a = { c3.arr a with stuckAdded := 0, progResult := 0, progTier := BitVec.ofNat 6 p.tier.val } := by
    simp only [c4, Chip.progAnswer, Chip.arr_upArr, hadded, hcode]
    rfl
  have hmem4 : c4.mem = c3.mem := rfl
  have htier4 : c4.tier T = c3.tier T := rfl
  clear_value c4
  have hdone : d.outside [.arrays, .freeCtr, .regions, .saf, .log] = c4.outside [.arrays, .freeCtr, .regions, .saf, .log] := by
    rw [hd, hfailed]
    exact (Chip.outside_beginCopies (by simp) c5 _).trans (Chip.outside_eventOpen (by simp) ..)
  have harr {β : Type} (F : Arr → β) (h : ∀ x y, F { x with subs := y } = F x) (h' : ∀ x y, F { x with copyAt := y } = F x) :
      F (d.arr a) = F (c4.arr a) := by
    rw [hd, hfailed]
    refine (Chip.arr_keep_beginCopies F h h' c5 _ a).trans (congrArg F ?_)
    exact Chip.arr_of_outside (Chip.outside_eventOpen (parts := [.freeCtr, .regions, .saf, .log]) (by simp) ..) (by simp) a
  refine ⟨?_, ?_, ?_, ?_, ?_⟩
  · rw [Chip.tier_of_outside hdone (by simp), htier4, htier3, hchip, hfailed]
    simp only [Chip.tier, hendedTiers]
    rfl
  · rw [harr Arr.prog (fun _ _ => rfl) (fun _ _ => rfl), harr4]
    exact (congrArg Arr.prog harr3).trans hprog3
  · rw [harr Arr.progResult (fun _ _ => rfl) (fun _ _ => rfl), harr4]
  · rw [harr Arr.stuckAdded (fun _ _ => rfl) (fun _ _ => rfl), harr4]
  · have hmem : d.mem = ended.mem := by rw [Chip.mem_of_outside hdone (by simp [noMemory]), hmem4, hmem3]
    rw [hmem]
    exact hended

/-! ## Erase -/

/-- An erase that nothing refuses. -/
theorem Chip.cmdErase_spec {c : Chip} {a : Nat} {tier : Fin 64} (hfree : c.progRefusal a tier true false = none) :
    let d := c.cmdErase a tier
    (d.tier (tierKey a tier.val)).st = .programming ∧ (d.arr a).prog = some { tier := tier, erase := true, int4 := false }
    ∧ (d.arr a).progResult = 1 ∧ d = { c with tiers := d.tiers, arrays := d.arrays } := by
  intro d
  have hd : d = c.cmdErase a tier := rfl
  clear_value d
  unfold Chip.cmdErase at hd
  split at hd
  · next code hcode =>
    rw [hfree] at hcode
    cases hcode
  extract_lets begun at hd
  have hbegun : (begun.tier (tierKey a tier.val)).st = .programming := congrArg Tier.st (Chip.tier_upTier ..)
  refine ⟨?_, ?_, ?_, ?_⟩
  · rw [hd]
    exact hbegun
  · rw [hd, Chip.progAnswer, Chip.arr_upArr, Chip.arr_upArr]
  · rw [hd, Chip.progAnswer, Chip.arr_upArr]
    rfl
  · rw [hd]
    rfl

/-- The end of an erase. -/
theorem Chip.eraseDone_spec {c : Chip} {a : Nat} {p : Prog} (hprog : (c.arr a).prog = some p) (herase : p.erase = true) :
    let T := tierKey a p.tier.val
    let d := c.eraseDone a
    (d.tier T).st = .blank ∧ (d.tier T).count = (c.tier T).count ∧ (d.arr a).prog = none ∧ (d.arr a).progResult = 0
    ∧ d = { c with tiers := d.tiers, arrays := d.arrays, dev := d.dev } := by
  intro T d
  have hd : d = c.eraseDone a := rfl
  clear_value d
  unfold Chip.eraseDone at hd
  split at hd
  · next hnone =>
    rw [hprog] at hnone
    cases hnone
  next p' hp =>
  obtain rfl : p = p' := by simpa [hprog] using hp
  rw [if_neg (by simp [herase])] at hd
  extract_lets blank at hd
  have htier : d.tier T = blank.tier T := by
    rw [hd]
    rfl
  have hblank : blank.tier T = { c.tier T with st := .blank } := Chip.tier_upTier ..
  refine ⟨?_, ?_, ?_, ?_, ?_⟩
  · rw [htier, hblank]
  · rw [htier, hblank]
  · rw [hd, Chip.progAnswer, Chip.arr_upArr, Chip.arr_upArr]
  · rw [hd, Chip.progAnswer, Chip.arr_upArr]
    rfl
  · rw [hd]
    rfl

/-- A tier that a job names is neither programmed nor erased. -/
theorem Chip.progRefusal_of_named {c : Chip} {a : Nat} {tier : Fin 64} (hprog : (c.arr a).prog = none) (hcopying : (c.arr a).copying = false)
    (hplot : (c.arr a).plotCopy = false) (hcore : c.coreProgramming (a / 17) < 4) (hnamed : c.tierNamed (tierKey a tier.val) = true)
    (erase bad : Bool) : c.progRefusal a tier erase bad = some (some 4) := by
  unfold Chip.progRefusal
  extract_lets x T t
  rw [if_neg (by simp [x, hprog, hcopying, hplot]), if_neg (by omega), if_pos hnamed]

theorem Chip.cmdProgram_of_refused {c : Chip} {a : Nat} {tier : Fin 64} {bad : Bool} {n : Nat}
    (h : c.progRefusal a tier false bad = some (some n)) (int4 : Bool) : c.cmdProgram a tier int4 bad = c.progAnswer a tier n := by
  unfold Chip.cmdProgram
  split
  · next code hcode =>
    obtain rfl : some n = code := by simpa [h] using hcode
    rfl
  · next hnone => simp [h] at hnone

theorem Chip.cmdErase_of_refused {c : Chip} {a : Nat} {tier : Fin 64} {n : Nat} (h : c.progRefusal a tier true false = some (some n)) :
    c.cmdErase a tier = c.progAnswer a tier n := by
  unfold Chip.cmdErase
  split
  · next code hcode =>
    obtain rfl : some n = code := by simpa [h] using hcode
    rfl
  · next hnone => simp [h] at hnone

/-- Settles O32. -/
theorem tierCommandsComplete : Obligations.TierCommandsComplete := by
  intro g k a tier s x T
  refine ⟨fun int4 bad hfree => ⟨_, rfl, ?_⟩, fun int4 hprog => ⟨_, rfl, ?_⟩, fun hfree => ⟨_, rfl, ?_⟩, fun int4 hprog => ⟨_, rfl, ?_⟩,
    fun hprog hcopying hplot hcore hnamed => ?_⟩
  · have hspec := Chip.cmdProgram_spec (int4 := int4) hfree
    dsimp only at hspec ⊢
    change _ ∧ _
    generalize s.toChip.cmdProgram ((g.val * 34 + k.val) * 17 + a.val) tier int4 bad = d at *
    obtain ⟨htier, hprog, hresult, htiers, hmem⟩ := hspec
    refine ⟨congrArg Tier.st htier, congrArg Tier.int4 htier, (congrArg Tier.count htier).trans rfl, hprog, hresult, ?_, ?_, hmem⟩
    · rw [htiers]
      exact holdsAt_writeBytes _ _ _
    · rw [htiers]
      exact sameOutside_writeBytes _ _ _ _ (length_readBytes ..).le
  · have hspec := Chip.programDone_spec hprog rfl
    dsimp only at hspec ⊢
    generalize s.toChip.programDone ((g.val * 34 + k.val) * 17 + a.val) [] = d at *
    obtain ⟨htier, hprog, hresult, hadded, hmem⟩ := hspec
    refine ⟨congrArg Tier.st htier, (congrArg Tier.count htier).trans ?_, hprog, hresult, hadded, hmem⟩
    simp [BitVec.ofNat_add, T]
  · exact Chip.cmdErase_spec hfree
  · exact Chip.eraseDone_spec hprog rfl
  · have hrefused := Chip.progRefusal_of_named hprog hcopying hplot hcore hnamed
    refine ⟨fun int4 bad => ?_, ?_⟩
    · exact congrArg Host.Outcome.next (congrArg (fun c => { s with toChip := c }) (Chip.cmdProgram_of_refused (hrefused false bad) int4))
    · exact congrArg Host.Outcome.next (congrArg (fun c => { s with toChip := c }) (Chip.cmdErase_of_refused (hrefused true false)))

end Sys2Proof.Machine

/-! Swaps (R105 to R107): the obligation O33. -/

namespace Sys2Proof.Machine

/-! ## Tables in order -/

/-- What a table shows beside its default is listed under its address. -/
theorem mem_of_look_ne {V : Type} (d : V) (m : SMap V) (n : Nat) (h : look d m n ≠ d) : (n, look d m n) ∈ m := by
  induction m with
  | nil => exact absurd rfl h
  | cons e m ih =>
    obtain ⟨k, v⟩ := e
    by_cases hn : n = k
    · subst hn
      simp [look]
    · rw [look, if_neg hn] at h ⊢
      exact List.mem_cons_of_mem _ (ih h)

theorem nodup_keys {V : Type} {lo : Nat} {m : SMap V} (h : keysRise lo m = true) : (m.map Prod.fst).Nodup := by
  induction m generalizing lo with
  | nil => simp
  | cons e m ih =>
    obtain ⟨k, v⟩ := e
    simp only [keysRise, Bool.and_eq_true] at h
    refine List.nodup_cons.mpr ⟨fun hk => ?_, ih h.2⟩
    obtain ⟨e, he, hek⟩ := List.mem_map.mp hk
    have hle := le_of_keysRise h.2 he
    dsimp only at hek
    omega

theorem Chip.mem_stagedArrays {c : Chip} (h : keysRise 0 c.arrays = true) (g a : Nat) :
    a ∈ c.stagedArrays g ↔ a / 578 = g ∧ (c.arr a).staged = true := by
  simp only [Chip.stagedArrays, List.mem_map, List.mem_filter, Bool.and_eq_true, beq_iff_eq]
  constructor
  · rintro ⟨e, ⟨he, hg, hstaged⟩, rfl⟩
    refine ⟨hg, ?_⟩
    rw [Chip.arr, look_of_mem _ h he, hstaged]
  · rintro ⟨hg, hstaged⟩
    refine ⟨(a, c.arr a), ⟨mem_of_look_ne _ _ _ fun hnone => ?_, hg, hstaged⟩, rfl⟩
    rw [Chip.arr, hnone] at hstaged
    exact absurd hstaged (by decide)

theorem Chip.nodup_stagedArrays {c : Chip} (h : keysRise 0 c.arrays = true) (g : Nat) : (c.stagedArrays g).Nodup :=
  (nodup_keys (keysRise_filter _ 0 c.arrays h))

/-! ## The map of an array after a swap -/

/-- Two tiers that change places. -/
def swapTier (a b t : Fin 64) : Fin 64 := if t = a then b else if t = b then a else t

/-- The map of an array with the tiers of its first entries changed. -/
def swapMap (a b : Fin 64) (n : Nat) (m : SMap (Fin 64)) : SMap (Fin 64) :=
  (List.range n).foldl (fun m l => put (Fin.ofNat 64 l) m l (swapTier a b (look (Fin.ofNat 64 l) m l))) m

theorem look_swapMap (a b : Fin 64) (n : Nat) (m : SMap (Fin 64)) (l : Nat) :
    look (Fin.ofNat 64 l) (swapMap a b n m) l = if l < n then swapTier a b (look (Fin.ofNat 64 l) m l) else look (Fin.ofNat 64 l) m l := by
  induction n with
  | zero => rfl
  | succ n ih =>
    rw [swapMap, List.range_succ, List.foldl_append, List.foldl_cons, List.foldl_nil, ← swapMap]
    by_cases hl : l = n
    · subst hl
      rw [look_put_same, ih, if_neg (lt_irrefl l), if_pos (by omega)]
    · rw [look_put_ne' _ _ _ _ hl, ih]
      simp only [show l < n + 1 ↔ l < n by omega]

/-- An array after a swap of two of its tiers. -/
def Arr.swappedMap (x : Arr) (a b : Fin 64) : Arr := { x with map := swapMap a b 64 x.map }

theorem Chip.arr_applySwap (c : Chip) (w : SwapDone) (n : Nat) :
    ((c.applySwap w).1.arr n) = if n = w.array then (c.arr n).swappedMap w.tierA w.tierB else c.arr n := by
  have hmaps : (c.applySwap w).1.arr n = (c.swapMaps w.array w.tierA w.tierB).arr n := by
    unfold Chip.applySwap
    dsimp only
    split
    · split <;> rfl
    · split <;> rfl
  rw [hmaps]
  split
  · next h =>
    subst h
    exact Chip.arr_upArr ..
  · next h => exact Chip.arr_upArr_ne _ _ _ _ h

theorem Chip.array_applySwap (c : Chip) (w : SwapDone) : (c.applySwap w).2.array = w.array := rfl

theorem Chip.arrays_applySwaps (ws : List SwapDone) (c : Chip) : (c.applySwaps ws).2.map SwapDone.array = ws.map SwapDone.array := by
  induction ws generalizing c with
  | nil => rfl
  | cons w ws ih => exact congrArg (w.array :: ·) (ih _)

/-- Swaps of other arrays leave an array as it is. -/
theorem Chip.arr_applySwaps_of_not_mem (ws : List SwapDone) (c : Chip) (n : Nat) (h : n ∉ ws.map SwapDone.array) :
    (c.applySwaps ws).1.arr n = c.arr n := by
  induction ws generalizing c with
  | nil => rfl
  | cons w ws ih =>
    simp only [List.map_cons, List.mem_cons, not_or] at h
    refine (ih (c.applySwap w).1 h.2).trans ?_
    rw [Chip.arr_applySwap, if_neg h.1]

/-- Of swaps of different arrays each changes its own. -/
theorem Chip.arr_applySwaps_of_mem (ws : List SwapDone) (c : Chip) (hnodup : (ws.map SwapDone.array).Nodup) (w : SwapDone) (hw : w ∈ ws) :
    (c.applySwaps ws).1.arr w.array = (c.arr w.array).swappedMap w.tierA w.tierB := by
  induction ws generalizing c with
  | nil => exact absurd hw List.not_mem_nil
  | cons v ws ih =>
    simp only [List.map_cons, List.nodup_cons] at hnodup
    rcases List.mem_cons.mp hw with rfl | hmem
    · refine (Chip.arr_applySwaps_of_not_mem ws (c.applySwap w).1 _ hnodup.1).trans ?_
      rw [Chip.arr_applySwap, if_pos rfl]
    · refine (ih (c.applySwap v).1 hnodup.2 hmem).trans ?_
      rw [Chip.arr_applySwap, if_neg]
      rintro h
      exact hnodup.1 (h ▸ List.mem_map_of_mem hmem)

/-! ## The staged swaps of a region applied -/

/-- An array whose swap has applied. -/
def Arr.settled (x : Arr) : Arr := { x with staged := false, swapResult := 2 }

theorem Arr.map_swapped (x : Arr) (a b : Fin 64) : (x.swappedMap a b).settled.map = swapMap a b 64 x.map := by
  simp only [Arr.settled, Arr.swappedMap]

theorem Chip.arr_settle (ws : List SwapDone) (c : Chip) (n : Nat) :
    (overAll ws (fun c w => (c.upArr w.array (fun x => { x with staged := false })).swapAnswer w.array 2) c).arr n
      = if n ∈ ws.map SwapDone.array then (c.arr n).settled else c.arr n := by
  induction ws generalizing c with
  | nil => rfl
  | cons w ws ih =>
    refine (ih _).trans ?_
    have hown : ((c.upArr w.array (fun x => { x with staged := false })).swapAnswer w.array 2).arr w.array = (c.arr w.array).settled := by
      rw [Chip.swapAnswer, Chip.arr_upArr, Chip.arr_upArr]
      rfl
    by_cases hn : n = w.array
    · subst hn
      rw [hown]
      simp only [List.map_cons, List.mem_cons, true_or, if_true]
      split <;> rfl
    · have hother : ((c.upArr w.array (fun x => { x with staged := false })).swapAnswer w.array 2).arr n = c.arr n := by
        rw [Chip.swapAnswer, Chip.arr_upArr_ne _ _ _ _ hn, Chip.arr_upArr_ne _ _ _ _ hn]
      rw [hother]
      simp only [List.map_cons, List.mem_cons, hn, false_or]

theorem Chip.arr_applyStaged {c : Chip} (h : keysRise 0 c.arrays = true) (g boundary n : Nat) :
    (c.applyStaged g boundary).1.arr n
      = if n / 578 = g ∧ (c.arr n).staged = true then ((c.arr n).swappedMap (c.arr n).swapA.toFin (c.arr n).swapB.toFin).settled else c.arr n := by
  have harrays : ((c.stagedArrays g).map (c.stagedSwap boundary)).map SwapDone.array = c.stagedArrays g := by
    rw [List.map_map]
    exact List.map_id _
  unfold Chip.applyStaged
  dsimp only
  rw [Chip.arr_settle, Chip.arrays_applySwaps, harrays]
  simp only [Chip.mem_stagedArrays h]
  split
  · next hn =>
    refine congrArg Arr.settled (Chip.arr_applySwaps_of_mem _ c ?_ (c.stagedSwap boundary n) ?_)
    · rw [harrays]
      exact Chip.nodup_stagedArrays h g
    · exact List.mem_map_of_mem ((Chip.mem_stagedArrays h g n).mpr hn)
  · next hn =>
    refine Chip.arr_applySwaps_of_not_mem _ c n ?_
    rw [harrays, Chip.mem_stagedArrays h]
    exact hn

/-- The target of an armed swap reached, with no swap to apply again. -/
theorem Chip.swapApply_spec {c : Chip} {g : Nat} {j : Job} (hj : c.swapJob g = some j) (hlive : j.live = true)
    (hredo : ∀ w ∈ j.redo, w.boundary ≠ j.stroke) (harmed : (c.region g).armed = true) (htarget : (c.region g).swapTarget = j.stroke) :
    (c.swapApply g).arrays = (c.applyStaged g j.stroke).1.arrays
    ∧ ((c.swapApply g).region g).armed = false ∧ ((c.swapApply g).region g).swapResult = 2 := by
  have hagain : j.redo.filter (fun w => w.array / 578 == g && w.boundary == j.stroke) = [] :=
    List.filter_eq_nil_iff.mpr fun w hw => by simp [hredo w hw]
  have hdue : ((c.region g).armed && (c.region g).swapTarget == j.stroke) = true := by simp [harmed, htarget]
  unfold Chip.swapApply
  rw [hj]
  dsimp only
  rw [if_neg (by simp [hlive]), hagain, hdue]
  simp only [Chip.applySwaps, Chip.when, if_true]
  generalize c.applyStaged g j.stroke = applied
  have hregion : (applied.1.upRegion g fun r => { r with armed := false, swapResult := 2 }).region g
      = { applied.1.region g with armed := false, swapResult := 2 } := Chip.region_upRegion ..
  split
  · exact ⟨rfl, congrArg Region.armed hregion, congrArg Region.swapResult hregion⟩
  · exact ⟨rfl, congrArg Region.armed hregion, congrArg Region.swapResult hregion⟩

/-- Swaps armed for a piece boundary that is at least two strokes ahead. -/
theorem Chip.cmdArm_of_ahead {c : Chip} {g : Nat} {j : Job} (hcopying : ∀ a ∈ c.stagedArrays g, (c.arr a).copying = false)
    (hj : c.swapJob g = some j) (hpiece : (c.region g).swapAt.toNat % (c.lengths j).1 = 0) (hahead : j.stroke + 2 ≤ (c.region g).swapAt.toNat) :
    c.cmdArm g = c.upRegion g fun r => { r with armed := true, swapResult := 1, swapTarget := (c.region g).swapAt.toNat } := by
  have hbusy : (c.stagedArrays g).filter (fun a => (c.arr a).copying && !(c.arr a).copied) = [] :=
    List.filter_eq_nil_iff.mpr fun a ha => by simp [hcopying a ha]
  unfold Chip.cmdArm
  rw [hbusy]
  dsimp only [overAll, List.foldl_nil]
  rw [hj]
  dsimp only
  refine (if_neg (not_not.mpr hpiece)).trans ((if_neg (by omega)).trans ?_)
  rfl

/-- Settles O33. -/
theorem swapsComplete : Obligations.SwapsComplete := by
  refine ⟨⟨?_, ?_⟩, ?_⟩
  · intro g k a tA tB s x A B
    refine ⟨fun hA hB hformat hstaged hcopying => ?_, fun hstaged => ?_⟩
    · refine ⟨{ s with toChip := s.toChip.cmdStage x tA tB }, rfl, ?_⟩
      have hwritten : s.toChip.writeSwapTiers x tA tB
          = s.toChip.upArr x fun y => if y.staged then y else { y with swapA := BitVec.ofNat 6 tA.val, swapB := BitVec.ofNat 6 tB.val } := rfl
      have hstage : s.toChip.cmdStage x tA tB = ((s.toChip.writeSwapTiers x tA tB).upArr x fun y => { y with staged := true }).swapAnswer x 1 := by
        unfold Chip.cmdStage
        extract_lets y c p q
        have hp : p = A := rfl
        have hq : q = B := rfl
        rw [if_neg (by simp [hp, hq, hA, hB, hformat]), if_neg (by simp [y, hstaged, hcopying])]
      have harr : (((s.toChip.writeSwapTiers x tA tB).upArr x fun y => { y with staged := true }).swapAnswer x 1).arr x
          = { s.toChip.arr x with staged := true, swapA := BitVec.ofNat 6 tA.val, swapB := BitVec.ofNat 6 tB.val, swapResult := 1 } := by
        rw [Chip.swapAnswer, Chip.arr_upArr, Chip.arr_upArr, hwritten, Chip.arr_upArr, if_neg (by simp [hstaged])]
        rfl
      rw [hstage]
      exact ⟨harr, rfl⟩
    · refine ⟨{ s with toChip := (s.toChip.upArr x (fun y => { y with staged := false })).swapAnswer x 6 }, ?_, ?_, rfl⟩
      · exact congrArg Host.Outcome.next (congrArg (fun c => { s with toChip := c }) (if_pos hstaged))
      · exact (Chip.arr_upArr _ x _).trans (congrArg (fun y : Arr => { y with swapResult := 6 }) (Chip.arr_upArr ..))
  · intro g s
    refine ⟨fun j hbusy hj hpiece hahead => ?_, fun harmed => ?_⟩
    · have harm : s.toChip.cmdArm g.val = s.toChip.upRegion g.val fun r =>
          { r with armed := true, swapResult := 1, swapTarget := (s.toChip.region g.val).swapAt.toNat } := Chip.cmdArm_of_ahead hbusy hj hpiece hahead
      refine ⟨{ s with toChip := s.toChip.cmdArm g.val }, rfl, ?_⟩
      generalize s.toChip.cmdArm g.val = d at *
      subst harm
      exact ⟨Chip.region_upRegion .., rfl⟩
    · refine ⟨{ s with toChip := s.toChip.cmdWithdraw g.val }, rfl, ?_, rfl⟩
      refine (congrArg Region.armed (Chip.region_upRegion ..)).trans ?_
      simp [harmed]
  · intro g s j hj hlive hredo hrise harmed htarget
    refine ⟨{ s with toChip := s.toChip.swapApply g.val }, rfl, ?_⟩
    obtain ⟨harrays, harm, hresult⟩ := Chip.swapApply_spec hj hlive hredo harmed htarget
    have hout := Chip.outside_swapApply (parts := [.jobs, .regions, .arrays, .tiers]) (by simp) s.toChip g.val
    have harr (a : Nat) := (congrArg (fun m : SMap Arr => look ({} : Arr) m a) harrays).trans (Chip.arr_applyStaged hrise g.val j.stroke a)
    generalize s.toChip.swapApply g.val = d at *
    refine ⟨harm, hresult, Chip.mem_of_outside hout (by simp [noMemory]), (Chip.same_of_outside (p := .dev) hout (by simp)).symm, ?_, ?_⟩
    · intro a hg hstaged
      have ha := (harr a).trans (if_pos ⟨hg, hstaged⟩)
      refine ⟨congrArg Arr.staged ha, congrArg Arr.swapResult ha, fun l => ?_⟩
      have hswap := look_swapMap (s.toChip.arr a).swapA.toFin (s.toChip.arr a).swapB.toFin 64 (s.toChip.arr a).map l.val
      rw [if_pos l.isLt, Fin.ofNat_val_eq_self] at hswap
      have hmap : (d.arr a).map = swapMap (s.toChip.arr a).swapA.toFin (s.toChip.arr a).swapB.toFin 64 (s.toChip.arr a).map :=
        (congrArg Arr.map ha).trans (Arr.map_swapped ..)
      change look l (d.arr a).map l.val = swapTier (s.toChip.arr a).swapA.toFin (s.toChip.arr a).swapB.toFin (look l (s.toChip.arr a).map l.val)
      rw [hmap, hswap]
    · intro a ha
      exact (harr a).trans (if_neg ha)

end Sys2Proof.Machine

/-! Copies and switches of plots and cell blocks (R102, R109, R110, R114, R369): the obligation O34. -/

namespace Sys2Proof.Machine

/-! ## Reading the ledger -/

/-- Whether the first HBM copy of the ledger entries of tiers can be read. -/
def Chip.firstCopies (c : Chip) (a : Nat) (ts : List (Fin 64)) : Prop :=
  ∀ t ∈ ts, c.copyUp (tierKey a t.val) 0 = true ∧ c.copyGood (tierKey a t.val) 0 = true

/-- Good first copies are read as they stand, and nothing changes. -/
theorem Chip.readTiers_of_good {c : Chip} {a : Nat} {ts : List (Fin 64)} (h : c.firstCopies a ts) :
    c.readTiers [] a ts = (c, some (ts.map fun t => (t, readBytes c.mem.hbm (ledgerAddr (tierKey a t.val) 0) 16384))) := by
  induction ts with
  | nil => rfl
  | cons t ts ih =>
    obtain ⟨hup, hgood⟩ := h t List.mem_cons_self
    have hread : c.readCopy [] (tierKey a t.val) 0 = (c, true) := by simp [Chip.readCopy, hup, hgood]
    have hentry : c.readLedger [] (tierKey a t.val) = (c, some (readBytes c.mem.hbm (ledgerAddr (tierKey a t.val) 0) 16384)) := by
      unfold Chip.readLedger
      rw [hread]
      rfl
    rw [Chip.readTiers, hentry]
    dsimp only
    rw [ih fun u hu => h u (List.mem_cons_of_mem _ hu)]
    rfl

/-! ## Copies that begin leave the others as they are -/

/-- A copy into a spare plot that runs, or waits for its switch, does not begin again. -/
theorem Chip.sub_beginPlot {c : Chip} {x n : Nat} (h : ((c.arr x).sub n).since.isSome = true) (a i : Nat) :
    ((c.beginPlot a i).arr x).sub n = (c.arr x).sub n := by
  unfold Chip.beginPlot
  extract_lets s
  split
  · next hbegins =>
    by_cases ha : x = a
    · subst ha
      rw [Chip.arr_upArr]
      refine look_put_ne _ _ _ fun hi => ?_
      subst hi
      rw [Bool.and_eq_true, Bool.and_eq_true, Option.isNone_iff_eq_none] at hbegins
      rw [show ((c.arr x).sub n).since = none from hbegins.1.2] at h
      exact absurd h (by decide)
    · rw [Chip.arr_upArr_ne _ _ _ _ ha]
  · rfl

theorem Chip.sub_beginCopies {c : Chip} {x n : Nat} (h : ((c.arr x).sub n).since.isSome = true) (core : Nat) :
    ((c.beginCopies core).arr x).sub n = (c.arr x).sub n := by
  let P (d : Chip) : Prop := (d.arr x).sub n = (c.arr x).sub n
  have hplot (d : Chip) (a i : Nat) (hd : P d) : P (d.beginPlot a i) := (Chip.sub_beginPlot (by rw [hd, h]) a i).trans hd
  have hcells (d : Chip) (a : Nat) (hd : P d) : P (d.beginCells a) :=
    (Chip.arr_keep_beginCells (fun y => y.sub n) (fun _ _ => rfl) d a x).trans hd
  unfold Chip.beginCopies
  refine overAll_invariant P _ hcells _ _ (overAll_invariant P _ (fun d a hd => ?_) _ _ rfl)
  exact overAll_invariant P _ (fun e i he => hplot e a i he) _ _ hd

/-! ## A cell block's tiers brought over -/

/-- One tier of a cell block brought to another: its intended image, and its state, format and count. -/
def Chip.bringTier (a q : Nat) (c : Chip) (t : Fin 64 × List Byte) : Chip :=
  let c := { c with mem := { c.mem with tiers := writeBytes c.mem.tiers (tierBase (tierKey q t.1.val)) t.2 } }
  c.upTier (tierKey q t.1.val) (fun _ => c.tier (tierKey a t.1.val))

theorem tierKey_ne {a q : Nat} (h : q ≠ a) (t u : Fin 64) : tierKey q t.val ≠ tierKey a u.val := by
  unfold tierKey
  omega

theorem tierKey_ne_of_ne (q : Nat) {t u : Fin 64} (h : t ≠ u) : tierKey q t.val ≠ tierKey q u.val := by
  unfold tierKey
  have := Fin.val_ne_of_ne h
  omega

theorem Chip.tier_bringTier (a q : Nat) (c : Chip) (t : Fin 64 × List Byte) :
    (c.bringTier a q t).tier (tierKey q t.1.val) = c.tier (tierKey a t.1.val) := Chip.tier_upTier ..

theorem Chip.tier_bringTier_ne (a q : Nat) (c : Chip) (t : Fin 64 × List Byte) {T : Nat} (h : T ≠ tierKey q t.1.val) :
    (c.bringTier a q t).tier T = c.tier T := Chip.tier_upTier_ne _ _ _ _ h

/-- The image of another tier stays. -/
theorem holdsAt_writeBytes_ne (m : Mem) {T U : Nat} (h : T ≠ U) {l k : List Byte} (hl : l.length ≤ 16384) (hk : k.length ≤ 16384)
    (hold : holdsAt m (tierBase T) l) : holdsAt (writeBytes m (tierBase U) k) (tierBase T) l := by
  intro n b hb
  have hn : n < l.length := (List.getElem?_eq_some_iff.mp hb).1
  rw [getByte_writeBytes_outside _ _ _ _ ?_]
  · exact hold n b hb
  · unfold tierBase
    omega

/-- The live tiers brought over one after another: each is there in the end. -/
theorem Chip.bringTiers_spec {a q : Nat} (hq : q ≠ a) (image : Fin 64 → List Byte) (himage : ∀ t, (image t).length ≤ 16384)
    (X : Fin 64 → Tier) (ts : List (Fin 64)) (c : Chip) (hX : ∀ n : Fin 64, c.tier (tierKey a n.val) = X n) (n : Fin 64)
    (hn : n ∈ ts ∨ c.tier (tierKey q n.val) = X n ∧ holdsAt c.mem.tiers (tierBase (tierKey q n.val)) (image n)) :
    let d := overAll (ts.map fun t => (t, image t)) (Chip.bringTier a q) c
    d.tier (tierKey q n.val) = X n ∧ holdsAt d.mem.tiers (tierBase (tierKey q n.val)) (image n) := by
  induction ts generalizing c with
  | nil => exact hn.resolve_left List.not_mem_nil
  | cons t ts ih =>
    refine ih (c.bringTier a q (t, image t)) (fun m => ?_) ?_
    · rw [Chip.tier_bringTier_ne _ _ _ _ (tierKey_ne hq t m).symm, hX]
    · by_cases hnt : n = t
      · subst hnt
        exact .inr ⟨(Chip.tier_bringTier a q c (n, image n)).trans (hX n), holdsAt_writeBytes _ _ _⟩
      · refine hn.imp (fun h => (List.mem_cons.mp h).resolve_left hnt) fun ⟨htier, himg⟩ => ⟨?_, ?_⟩
        · rw [Chip.tier_bringTier_ne _ _ _ _ (tierKey_ne_of_ne q hnt), htier]
        · exact holdsAt_writeBytes_ne _ (tierKey_ne_of_ne q hnt) (himage n) (himage t) himg

theorem Chip.bringTiers_keep {β : Type} (F : Chip → β) (htiers : ∀ d x, F { d with tiers := x } = F d)
    (hmem : ∀ d x, F { d with mem := { d.mem with tiers := x } } = F d) (a q : Nat) (l : List (Fin 64 × List Byte)) (c : Chip) :
    F (overAll l (Chip.bringTier a q) c) = F c :=
  overAll_keep F _ _ _ fun d _ => (htiers _ _).trans (hmem d _)

/-- A block that differs in its arrays and their devices at most. -/
theorem Chip.eq_of_outside_copy {c d : Chip} (h : d.outside [.arrays, .dev] = c.outside [.arrays, .dev]) :
    d = { c with arrays := d.arrays, dev := d.dev } := by
  obtain ⟨⟩ := c
  obtain ⟨⟩ := d
  simpa [Chip.outside, Mems.eq_iff] using h

/-! ## Plots -/

/-- A copy into a spare plot whose ledger entries can be read waits for its switch. -/
theorem Chip.plotCopyDone_spec {c : Chip} {a i : Nat} (hcopying : ((c.arr a).sub i).copying = true) (hcopied : ((c.arr a).sub i).copied = false)
    (hsince : ((c.arr a).sub i).since.isSome = true) (hgood : c.firstCopies a (c.liveTiers a)) :
    ((c.plotCopyDone [] a i).arr a).sub i = { (c.arr a).sub i with copied := true }
    ∧ (c.plotCopyDone [] a i).outside [.arrays, .dev] = c.outside [.arrays, .dev] := by
  unfold Chip.plotCopyDone
  extract_lets s
  rw [if_neg (by simp [s, hcopying, hcopied, Option.isNone_eq_false_iff.mpr hsince])]
  rename_i r cleared written
  obtain ⟨images, hr⟩ : ∃ images, r = (c, some images) := ⟨_, Chip.readTiers_of_good hgood⟩
  clear_value r
  subst hr
  have hwritten : (written.arr a).sub i = { s with copied := true } := by
    simp only [written, Chip.arr_upArr]
    exact look_put_same ..
  have hout : written.outside [.arrays, .dev] = c.outside [.arrays, .dev] :=
    (Chip.outside_upArr (parts := [.arrays, .dev]) _ (by simp) ..).trans (Chip.outside_clearSpare (parts := [.arrays, .dev]) (by simp) ..)
  refine ⟨(Chip.sub_beginCopies (c := written) (by rw [hwritten]; exact hsince) _).trans hwritten, ?_⟩
  exact (Chip.outside_beginCopies (parts := [.arrays, .dev]) (by simp) written _).trans hout

/-- The spare plot takes its column group, and the cells that wait take the entries it frees. -/
theorem Chip.plotSwitch_spec {c : Chip} {a i : Nat} (hcopying : ((c.arr a).sub i).copying = true) (hcopied : ((c.arr a).sub i).copied = true)
    (hboundary : c.atSeatBoundary (a / 578) = true) :
    let s := (c.arr a).sub i
    let x := (c.arr a).plotGone i s.group.toNat
    ((c.plotSwitch a i).arr a).sub i = { s with active := true, copying := false, since := none, copied := false }
    ∧ ((c.plotSwitch a i).arr a).stuck = x.stuck := by
  intro s x
  unfold Chip.plotSwitch
  extract_lets j d e
  rw [if_neg (by simp [s, hcopying, hcopied, hboundary])]
  have hd : d.arr a = _ := Chip.arr_upArr ..
  have he : (e.substituted (srcCore (a / 17)) (arrLocus a (some i)) 1 false (!e.sparePlots a)).arr a = d.arr a :=
    (Chip.arr_of_outside (Chip.outside_substituted (parts := [.regions, .saf, .log]) (by simp) ..) (by simp) a).trans
      (Chip.arr_of_outside (Chip.outside_upCore (parts := [.cores]) _ (by simp) ..) (by simp) a)
  rw [he, hd]
  refine ⟨?_, rfl⟩
  simp only [Arr.sub, look_put_same, s]

/-! ## Cell blocks -/

/-- A cell block's copy whose ledger entries can be read. -/
theorem Chip.cellCopyDone_of_good {c : Chip} {a q : Nat} (hmove : (c.arr a).moveTo = some q) (hcopying : (c.arr a).copying = true)
    (hcopied : (c.arr a).copied = false) (hcopyAt : (c.arr a).copyAt.isSome = true) (hgood : c.firstCopies a (c.liveTiers a)) :
    ∃ dev e, e = overAll ((c.liveTiers a).map fun t => (t, readBytes c.mem.hbm (ledgerAddr (tierKey a t.val) 0) 16384)) (Chip.bringTier a q)
        { c with dev := dev }
      ∧ c.cellCopyDone [] a = ((e.upArr a (fun x => { x with copied := true })).upArr q
        (fun x => { x with copied := true, map := (e.arr a).map })).beginCopies (q / 17) := by
  unfold Chip.cellCopyDone
  rw [hmove]
  dsimp only
  rw [if_neg (by simp [hcopying, hcopied, Option.isNone_eq_false_iff.mpr hcopyAt]), Chip.readTiers_of_good hgood]
  exact ⟨_, _, rfl, rfl⟩

/-- Every live tier and the map are then in the new cell block. -/
theorem Chip.cellCopyDone_spec {c : Chip} {a q : Nat} (hmove : (c.arr a).moveTo = some q) (hq : q ≠ a) (hcopying : (c.arr a).copying = true)
    (hcopied : (c.arr a).copied = false) (hcopyAt : (c.arr a).copyAt.isSome = true) (hgood : c.firstCopies a (c.liveTiers a)) :
    let d := c.cellCopyDone [] a
    (d.arr a).copied = true ∧ (d.arr q).map = (c.arr a).map
    ∧ (∀ n ∈ c.liveTiers a, d.tier (tierKey q n.val) = c.tier (tierKey a n.val)
        ∧ holdsAt d.mem.tiers (tierBase (tierKey q n.val)) (readBytes c.mem.hbm (ledgerAddr (tierKey a n.val) 0) 16384))
    ∧ d.mem = { c.mem with tiers := d.mem.tiers } ∧ d.jobs = c.jobs := by
  intro d
  obtain ⟨dev, e, he, hd⟩ := Chip.cellCopyDone_of_good hmove hcopying hcopied hcopyAt hgood
  have hlive (n : Fin 64) (hn : n ∈ c.liveTiers a) :=
    Chip.bringTiers_spec hq (fun t => readBytes c.mem.hbm (ledgerAddr (tierKey a t.val) 0) 16384) (fun t => (length_readBytes ..).le)
      (fun t => c.tier (tierKey a t.val)) (c.liveTiers a) { c with dev := dev } (fun _ => rfl) n (.inl hn)
  have harrays : e.arrays = c.arrays := by
    rw [he]
    exact Chip.bringTiers_keep Chip.arrays (fun _ _ => rfl) (fun _ _ => rfl) ..
  have hjobs : e.jobs = c.jobs := by
    rw [he]
    exact Chip.bringTiers_keep Chip.jobs (fun _ _ => rfl) (fun _ _ => rfl) ..
  have hmem : { e.mem with tiers := [] } = { c.mem with tiers := [] } := by
    rw [he]
    exact Chip.bringTiers_keep (fun f => { f.mem with tiers := [] }) (fun _ _ => rfl) (fun _ _ => rfl) ..
  dsimp only at hlive
  rw [← he] at hlive
  clear he
  have harr (x : Nat) : e.arr x = c.arr x := by simp only [Chip.arr, harrays]
  let f := ((e.upArr a (fun x => { x with copied := true })).upArr q (fun x => { x with copied := true, map := (e.arr a).map }))
  have hbegun : d.outside [.arrays] = f.outside [.arrays] := by
    rw [show d = f.beginCopies (q / 17) from hd]
    exact Chip.outside_beginCopies (by simp) f _
  have hkeep {β : Type} (F : Arr → β) (hsubs : ∀ x y, F { x with subs := y } = F x) (hcopyAt : ∀ x y, F { x with copyAt := y } = F x)
      (x : Nat) : F (d.arr x) = F (f.arr x) := by
    rw [show d = f.beginCopies (q / 17) from hd]
    exact Chip.arr_keep_beginCopies F hsubs hcopyAt f _ x
  have hdmem : d.mem = e.mem := Chip.mem_of_outside hbegun (by simp [noMemory])
  refine ⟨?_, ?_, fun n hn => ?_, ?_, ?_⟩
  · rw [hkeep Arr.copied (fun _ _ => rfl) (fun _ _ => rfl), Chip.arr_upArr_ne _ _ _ _ hq.symm, Chip.arr_upArr]
  · rw [hkeep Arr.map (fun _ _ => rfl) (fun _ _ => rfl), Chip.arr_upArr, harr]
  · rw [Chip.tier_of_outside hbegun (by simp), hdmem]
    exact hlive n hn
  · rw [hdmem]
    simpa [Mems.eq_iff] using hmem
  · exact (Chip.same_of_outside (p := .jobs) hbegun (by simp)).symm.trans hjobs

/-- A logical array's seat moves to its new cell block, which its own periphery senses. -/
theorem Chip.cellSwitch_spec {c : Chip} {a q lc la : Nat} (hq : q ≠ a) (hlogical : c.logicalOf a = some (lc, la)) :
    let d := c.cellSwitch a q
    d.cellsOf (a / 578) lc la = q ∧ d.periOf q = q ∧ (d.arr a).moveTo = none
    ∧ (q / 17 = a / 17 → (d.arr a).retiredCells = true) := by
  intro d
  have hd : d = c.cellSwitch a q := rfl
  clear_value d
  unfold Chip.cellSwitch at hd
  split at hd
  · next hnone =>
    rw [hlogical] at hnone
    cases hnone
  next lc' la' hl =>
  obtain ⟨rfl, rfl⟩ : lc = lc' ∧ la = la' := by simpa [hlogical] using hl
  extract_lets ended g old lost inCore dfl brought m moved retired taken freed at hd
  have hout : d.outside [.regions, .cores, .saf, .log] = taken.outside [.regions, .cores, .saf, .log] := by
    rw [hd]
    exact (Chip.outside_substituted (by simp) freed ..).trans (Chip.outside_upCore _ (by simp) ..)
  have hcells : taken.cells = d.cells := Chip.same_of_outside (p := .cells) hout (by simp)
  have hperi : taken.peri = d.peri := Chip.same_of_outside (p := .peri) hout (by simp)
  have harr : d.arr a = retired.arr a := (Chip.arr_of_outside hout (by simp) a).trans (Chip.arr_upArr_ne _ _ _ _ hq.symm)
  have hretired : retired.arr a = _ := Chip.arr_upArr ..
  rw [harr, hretired]
  refine ⟨?_, ?_, rfl, fun hin => ?_⟩
  · rw [Chip.cellsOf, ← hcells]
    exact look_put_same dfl brought.cells _ q
  · rw [Chip.periOf, ← hperi]
    exact look_put_same q (put a brought.peri a a) q q
  · simp [inCore, hin]

/-- Settles O34. -/
theorem copiesAndSwitchesComplete : Obligations.CopiesAndSwitchesComplete := by
  refine ⟨?_, ?_⟩
  · intro g k a s x good
    have hg : x / 578 = g.val := by omega
    refine ⟨fun i hcopying hcopied hsince hgood => ?_, fun i hcopying hcopied hboundary => ?_,
      fun q hmove hq hcopying hcopied hcopyAt hgood => ?_, fun q lc la hmove hq hcore hcopied hboundary hlogical => ?_⟩
    · refine ⟨{ s with toChip := s.toChip.plotCopyDone [] x i.val }, rfl, ?_⟩
      obtain ⟨hsub, hout⟩ := Chip.plotCopyDone_spec hcopying hcopied hsince hgood
      generalize s.toChip.plotCopyDone [] x i.val = d at *
      exact ⟨hsub, Chip.eq_of_outside_copy hout⟩
    · refine ⟨{ s with toChip := s.toChip.plotSwitch x i.val }, rfl, ?_⟩
      obtain ⟨hsub, hstuck⟩ := Chip.plotSwitch_spec hcopying hcopied (hg.symm ▸ hboundary)
      have hout := Chip.outside_plotSwitch (parts := [.regions, .cores, .arrays, .saf, .log]) (by simp) s.toChip x i.val
      generalize s.toChip.plotSwitch x i.val = d at *
      exact ⟨hsub, hstuck, Chip.mem_of_outside hout (by simp [noMemory]), (Chip.same_of_outside (p := .dev) hout (by simp)).symm,
        (Chip.same_of_outside (p := .jobs) hout (by simp)).symm⟩
    · refine ⟨{ s with toChip := s.toChip.cellCopyDone [] x }, rfl, ?_⟩
      have hspec := Chip.cellCopyDone_spec hmove hq hcopying hcopied hcopyAt hgood
      generalize s.toChip.cellCopyDone [] x = d at *
      exact hspec
    · have hswitch : s.toChip.cellBlockSwitch x = s.toChip.cellSwitch x q := by
        unfold Chip.cellBlockSwitch
        rw [hmove]
        exact if_pos (by simp [hcopied, hcore, hg, hboundary])
      refine ⟨{ s with toChip := s.toChip.cellBlockSwitch x }, rfl, ?_⟩
      rw [hswitch]
      obtain ⟨hcells, hperi, hmoved, hretired⟩ := Chip.cellSwitch_spec hq hlogical
      have hout := Chip.outside_cellSwitch (parts := [.regions, .cores, .arrays, .tiers, .peri, .cells, .mon, .saf, .log]) (by simp) s.toChip x q
      rw [hg] at hcells
      generalize s.toChip.cellSwitch x q = d at *
      exact ⟨hcells, hperi, hmoved, hretired hcore, Chip.mem_of_outside hout (by simp [noMemory]),
        (Chip.same_of_outside (p := .jobs) hout (by simp)).symm⟩
  · intro g core array s q x hg hmove hcore hcopied hboundary hlogical
    have hswitch : s.toChip.spareCoreSwitch x = s.toChip.cellSwitch x q := by
      unfold Chip.spareCoreSwitch
      rw [hmove]
      exact if_pos (by simp [hcopied, hcore, hg, hboundary])
    refine ⟨{ s with toChip := s.toChip.spareCoreSwitch x }, rfl, ?_⟩
    rw [hswitch]
    obtain ⟨hcells, hperi, hmoved, -⟩ := Chip.cellSwitch_spec (fun h => hcore (congrArg (· / 17) h)) hlogical
    have hout := Chip.outside_cellSwitch (parts := [.regions, .cores, .arrays, .tiers, .peri, .cells, .mon, .saf, .log]) (by simp) s.toChip x q
    rw [hg] at hcells
    generalize s.toChip.cellSwitch x q = d at *
    exact ⟨hcells, hperi, hmoved, Chip.mem_of_outside hout (by simp [noMemory]), (Chip.same_of_outside (p := .jobs) hout (by simp)).symm⟩

end Sys2Proof.Machine

/-! Plots waited for (R154): the obligation O35. -/

namespace Sys2Proof.Machine

theorem Chip.plot_of_outside {parts : List Part} {c d : Chip} (h : d.outside parts = c.outside parts) (hp : .plots ∉ parts) (n : Nat) :
    d.plot n = c.plot n := by
  have hplots : c.plots = d.plots := Chip.same_of_outside h hp
  simp only [Chip.plot, hplots]

/-- A plot that did not return leaves its seat; the others stay on theirs. -/
theorem Chip.plot_plotAbsent (c : Chip) (k lp n : Nat) :
    (c.plotAbsent k lp).plot n = (c.upPlot k fun p => { p with seat := 0xFF, parked := false, absentSince := none }).plot n := by
  refine (Chip.plot_of_outside (Chip.outside_loseWhere (parts := endParts ++ [.sch, .fleetOut]) (by simp) ..) (by simp [endParts]) n).trans ?_
  exact Chip.plot_of_outside (Chip.outside_event (parts := [.regions, .saf, .log]) (by simp) ..) (by simp) n

/-- A job that is held for plots and waits for none of them runs again. -/
theorem Chip.mem_endPlotHolds {c : Chip} {j : Job} (hj : j ∈ c.jobs) (hheld : j.st = .held .absentPlots) (hback : c.waitsForPlot j = false) :
    { j with st := .running } ∈ c.endPlotHolds.jobs := by
  have hkeep (d : Chip) : d.noteHolds.jobs = d.jobs :=
    (Chip.same_of_outside (p := .jobs) (Chip.outside_noteHolds (parts := [.regions]) (by simp) d) (by simp)).symm
  unfold Chip.endPlotHolds
  rw [hkeep]
  exact List.mem_map.mpr ⟨j, hj, if_pos (by simp [hheld, hback])⟩

/-- Where no plot of its regions is held on its seat, a job waits for none. -/
theorem Chip.waitsForPlot_of_none {c : Chip} {j : Job}
    (h : ∀ p ∈ j.map, ∀ n, n < 136 → ¬ ((c.plot (p.2 * 136 + n)).state = 3 ∧ (c.plot (p.2 * 136 + n)).seat ≠ 0xFF)) : c.waitsForPlot j = false := by
  refine List.any_eq_false.mpr fun p hp => ?_
  rw [Bool.not_eq_true]
  refine List.any_eq_false.mpr fun n hn hwaits => h p hp n (List.mem_range.mp hn) ?_
  simp only [Bool.and_eq_true, beq_iff_eq, bne_iff_ne] at hwaits
  exact hwaits.1

/-- Settles O35. -/
theorem plotHoldsEnd : Obligations.PlotHoldsEnd := by
  intro g o s since k hstate hseat hsince
  refine ⟨fun hlate => ?_, ?_⟩
  · have htimeout : s.toChip.plotTimeout k = (s.toChip.plotAbsent k (s.toChip.plot k).seat.toNat).endPlotHolds := by
      unfold Chip.plotTimeout
      extract_lets p
      split
      · next t ht =>
        obtain rfl : since = t := by simpa [p, hsince] using ht
        exact if_pos (by simp only [p, hstate, hlate, decide_true, Bool.true_and, Bool.and_true]; exact decide_eq_true hseat)
      · next hnone => simp [p, hsince] at hnone
    refine ⟨{ s with toChip := s.toChip.plotTimeout k }, rfl, ?_⟩
    have hplot (n : Nat) : (s.toChip.plotTimeout k).plot n = _ := htimeout ▸
      (Chip.plot_of_outside (Chip.outside_endPlotHolds (parts := [.jobs, .regions]) (by simp) _) (by simp) n).trans (Chip.plot_plotAbsent ..)
    generalize s.toChip.plotTimeout k = d at *
    have hown : d.plot k = { s.toChip.plot k with seat := 0xFF, parked := false, absentSince := none } := (hplot k).trans (Chip.plot_upPlot ..)
    exact ⟨congrArg Plot.seat hown, (congrArg Plot.state hown).trans hstate, congrArg Plot.absentSince hown,
      fun n hn => (hplot n).trans (Chip.plot_upPlot_ne _ _ _ _ hn)⟩
  · let e := s.toChip.upPlot k fun x => { x with
      state := 0, absentSince := none, parked := s.toChip.parks (k / 136) (s.toChip.plot k).seat.toNat, survey := { x.survey with due := false } }
    have hreturn : s.toChip.plotReturn k = e.endPlotHolds := if_pos (by
      simp only [hstate, hsince, decide_true, Bool.true_and, Option.isSome_some, Bool.and_true]
      exact decide_eq_true hseat)
    have hout := Chip.outside_endPlotHolds (parts := [.jobs, .regions]) (by simp) e
    have hplot (n : Nat) : e.endPlotHolds.plot n = e.plot n := Chip.plot_of_outside hout (by simp) n
    have hown : e.plot k = _ := Chip.plot_upPlot ..
    refine ⟨{ s with toChip := s.toChip.plotReturn k }, rfl, ?_⟩
    rw [hreturn]
    have hrun (j : Job) (hj : j ∈ s.jobs) (hheld : j.st = .held .absentPlots) := Chip.mem_endPlotHolds (c := e) hj hheld
    have hmem : e.endPlotHolds.mem = s.mem := (Chip.mem_of_outside hout (by simp [noMemory])).trans rfl
    have hother (n : Nat) (hn : n ≠ k) : e.plot n = s.toChip.plot n := Chip.plot_upPlot_ne _ _ _ _ hn
    have hnone (j : Job) := Chip.waitsForPlot_of_none (c := e) (j := j)
    clear hreturn hout
    clear_value e
    generalize e.endPlotHolds = d at *
    have hd := (hplot k).trans hown
    refine ⟨congrArg Plot.state hd, (congrArg Plot.seat hd).trans rfl, congrArg Plot.absentSince hd, fun n hn => (hplot n).trans (hother n hn),
      fun j hj hheld hback => hrun j hj hheld (hnone j fun p hp n hn => ?_), hmem⟩
    rw [← hplot]
    exact hback p hp n hn

end Sys2Proof.Machine

/-! When a unit's survey falls due (R337, R339): the obligation O36. -/

namespace Sys2Proof.Machine

section
variable (c : Chip)

theorem Chip.plot_keep_upPlot {β : Type} (F : Plot → β) (k n : Nat) (f : Plot → Plot) (hf : F (f (c.plot k)) = F (c.plot k)) :
    F ((c.upPlot k f).plot n) = F (c.plot n) := by
  by_cases h : n = k
  · rw [h, Chip.plot_upPlot, hf]
  · rw [Chip.plot_upPlot_ne _ _ _ _ h]

/-! ## A unit's record changed -/

theorem Chip.surveyOf_upSurvey (u : SurveyUnit) (f : SurveySt → SurveySt) : (c.upSurvey u f).surveyOf u = f (c.surveyOf u) := by
  cases u with
  | periphery g k a => exact congrArg Arr.survey (Chip.arr_upArr ..)
  | plot g o => exact congrArg Plot.survey (Chip.plot_upPlot ..)
  | lane p l => exact congrArg Lane.survey (look_put_same ..)

theorem Chip.eq_upSurvey (u : SurveyUnit) (f : SurveySt → SurveySt) :
    c.upSurvey u f = { c with arrays := (c.upSurvey u f).arrays, plots := (c.upSurvey u f).plots, lanes := (c.upSurvey u f).lanes } := by
  cases u <;> rfl

/-- Whether a unit has a seat is not written in its survey's record. -/
theorem Chip.unitSeated_upSurvey (u : SurveyUnit) (f : SurveySt → SurveySt) : (c.upSurvey u f).unitSeated u = c.unitSeated u := by
  cases u with
  | periphery g k a => rfl
  | plot g o => exact congrArg (· == 0) (Chip.plot_keep_upPlot c Plot.state _ _ _ rfl)
  | lane p l => rfl

/-- A record under survey as before leaves the stand-ins as they are. -/
theorem Chip.standInGone_upSurvey (u : SurveyUnit) (f : SurveySt → SurveySt) (hf : (f (c.surveyOf u)).active = (c.surveyOf u).active) :
    (c.upSurvey u f).standInGone u = c.standInGone u := by
  cases u with
  | periphery g k a =>
    have hretired (q : Nat) : ((c.upSurvey (.periphery g k a) f).arr q).retiredPeri = (c.arr q).retiredPeri :=
      Chip.arr_keep_upArr Arr.retiredPeri c _ q _ fun _ => rfl
    have haway (q : Nat) : ((c.upSurvey (.periphery g k a) f).arr q).away = (c.arr q).away := Chip.arr_keep_upArr Arr.away c _ q _ fun _ => rfl
    have hsenses (q : Nat) : (c.upSurvey (.periphery g k a) f).sensesOf q = c.sensesOf q := rfl
    simp only [Chip.standInGone, Chip.sparePeri, hretired, haway, hsenses]
  | plot g o =>
    have hstate (q : Nat) : ((c.upSurvey (.plot g o) f).plot q).state = (c.plot q).state := Chip.plot_keep_upPlot c Plot.state _ q _ rfl
    have hactive (q : Nat) : ((c.upSurvey (.plot g o) f).plot q).survey.active = (c.plot q).survey.active :=
      Chip.plot_keep_upPlot c (fun x => x.survey.active) _ q _ hf
    have hbank (q : Nat) : (c.upSurvey (.plot g o) f).bank q = c.bank q := rfl
    simp only [Chip.standInGone, Chip.plotReady, hstate, hactive, hbank]
  | lane p l => rfl

/-- A wake since the last survey changes whether a unit is due, and nothing else that the test reads. -/
theorem Chip.active_surveyNow (u : SurveyUnit) : (c.surveyNow u).active = (c.surveyOf u).active := by
  unfold Chip.surveyNow
  split
  · dsimp only
    split <;> rfl
  · rfl

end

/-! ## The test -/

/-- The distance between two temperatures. -/
theorem natAbs_sub_eq (a b : Nat) : ((a : Int) - b).natAbs = if a < b then b - a else a - b := by
  split <;> omega

/-- Why the 1 ms test makes a unit due, if it does. -/
def Chip.testCause (c : Chip) (u : SurveyUnit) (temp : BitVec 12) (drift : Bool) : BitVec 2 :=
  if drift || c.drifts u then 3
  else if 16 * c.cfg.surveyThreshold.toNat < 10 * ((temp.toNat : Int) - (c.surveyNow u).temp.toNat).natAbs then 1
  else if (c.surveyNow u).time + tenMinutes ≤ c.clk.aon then 2
  else 0

/-- The test of a unit that is not due, and whose stand-in, where it needs one, is there. -/
theorem Chip.surveyTest_of_fresh {c : Chip} {u : SurveyUnit} {temp : BitVec 12} {drift : Bool} (htested : c.surveyTested u = true)
    (hdue : (c.surveyNow u).due = false) (hstand : (c.unitSeated u && c.standInGone u) = false) :
    c.surveyTest u temp drift = if c.testCause u temp drift = 0 then c
      else c.upSurvey u (fun _ => { c.surveyNow u with due := true, cause := c.testCause u temp drift, dueAt := c.clk.aon }) := by
  unfold Chip.surveyTest
  rw [if_neg (by simp [htested])]
  extract_lets r moved cause d
  have hmoved : moved = 10 * ((temp.toNat : Int) - (c.surveyNow u).temp.toNat).natAbs := by rw [natAbs_sub_eq]
  have hcause : cause = c.testCause u temp drift := by simp only [cause, Chip.testCause, hmoved, r]
  have hd : d = if c.testCause u temp drift = 0 then c
      else c.upSurvey u (fun _ => { c.surveyNow u with due := true, cause := c.testCause u temp drift, dueAt := c.clk.aon }) := by
    simp only [d, hcause, r, hdue, Bool.false_eq_true, if_false]
  have hnone : ((d.surveyNow u).due && d.unitSeated u && d.standInGone u) = false := by
    rw [hd]
    split
    · rw [Bool.and_assoc, hstand, Bool.and_false]
    · rw [Chip.unitSeated_upSurvey, Chip.standInGone_upSurvey _ _ _ (Chip.active_surveyNow c u), Bool.and_assoc, hstand, Bool.and_false]
  rw [hnone]
  exact hd

/-- Settles O36. -/
theorem surveyTestsFallDue : Obligations.SurveyTestsFallDue := by
  intro u temp drift s r drifts moved due htested hdue hstand
  have htest := Chip.surveyTest_of_fresh (temp := temp) (drift := drift) htested hdue hstand
  have hfalls (cause : BitVec 2) (hcause : s.toChip.testCause u temp drift = cause) (hne : cause ≠ 0) : due cause := by
    rw [hcause, if_neg hne] at htest
    refine ⟨{ s with toChip := s.toChip.surveyTest u temp drift }, rfl, ?_⟩
    rw [htest]
    exact ⟨Chip.surveyOf_upSurvey .., Chip.eq_upSurvey s.toChip u fun _ => { s.toChip.surveyNow u with due := true, cause := cause, dueAt := s.clk.aon }⟩
  refine ⟨fun hdrifts => hfalls 3 ?_ (by decide), fun hdrifts hmoved => hfalls 1 ?_ (by decide),
    fun hdrifts hmoved hage => hfalls 2 ?_ (by decide), fun hdrifts hmoved hage => ?_⟩
  · exact if_pos hdrifts
  · exact (if_neg (by simpa [drifts] using hdrifts)).trans (if_pos hmoved)
  · exact (if_neg (by simpa [drifts] using hdrifts)).trans ((if_neg (Nat.not_lt.mpr hmoved)).trans (if_pos hage))
  · have hcause : s.toChip.testCause u temp drift = 0 :=
      (if_neg (by simpa [drifts] using hdrifts)).trans ((if_neg (Nat.not_lt.mpr hmoved)).trans (if_neg (Nat.not_le.mpr hage)))
    rw [hcause, if_pos rfl] at htest
    exact congrArg Host.Outcome.next (congrArg (fun c => { s with toChip := c }) htest)

end Sys2Proof.Machine

/-! Surveys begin and end (R112, R153, R336): the obligation O37. -/

namespace Sys2Proof.Machine

/-! ## Copies leave the rotations as they are -/

section
variable (c : Chip) (n : Nat)

theorem Chip.away_beginCopies (core : Nat) : ((c.beginCopies core).arr n).away = (c.arr n).away :=
  Chip.arr_keep_beginCopies Arr.away (fun _ _ => rfl) (fun _ _ => rfl) c core n

theorem Arr.away_refuseSwap (x : Arr) : x.refuseSwap.away = x.away := by
  unfold Arr.refuseSwap
  split <;> rfl

theorem Chip.away_startMove (a : Nat) : ((c.startMove a).arr n).away = (c.arr n).away := by
  unfold Chip.startMove
  split
  · rfl
  · extract_lets g own dest moved logged
    have hmoved : (moved.arr n).away = (c.arr n).away := by
      refine Chip.arr_keep_upArr Arr.away c a n _ fun x => ?_
      dsimp only
      split
      · exact Arr.away_refuseSwap x
      · rfl
    have hlogged : (logged.arr n).away = (c.arr n).away := by
      refine (Chip.when_keep (fun d => (d.arr n).away) _ _ _ fun d => ite_keep (fun d : Chip => (d.arr n).away) ?_ ?_).trans hmoved
      · exact congrArg Arr.away (Chip.arr_of_outside (Chip.outside_eventOpen (parts := [.freeCtr, .regions, .saf, .log]) (by simp) ..) (by simp) n)
      · exact congrArg Arr.away (Chip.arr_of_outside (Chip.outside_event (parts := [.regions, .saf, .log]) (by simp) ..) (by simp) n)
    clear_value logged moved dest
    split
    · next q =>
      refine (Chip.away_beginCopies _ n _).trans ((Chip.arr_keep_upArr Arr.away logged q n _ ?_).trans hlogged)
      exact fun _ => rfl
    · exact hlogged

theorem Chip.away_startPlotCopy (a i j : Nat) : ((c.startPlotCopy a i j).arr n).away = (c.arr n).away := by
  unfold Chip.startPlotCopy
  extract_lets s
  split
  · rfl
  split
  · refine (Chip.away_beginCopies _ n _).trans (Chip.arr_keep_upArr Arr.away c a n _ ?_)
    exact fun _ => rfl
  · refine (Chip.away_startMove _ n a).trans ?_
    exact congrArg Arr.away (Chip.arr_of_outside (Chip.outside_event (parts := [.regions, .saf, .log]) (by simp) ..) (by simp) n)

theorem Chip.away_arrayPlots (a : Nat) (vs : List PlotSurvey) : ((c.arrayPlots a vs).arr n).away = (c.arr n).away := by
  unfold Chip.arrayPlots
  extract_lets x l core classed healthy
  refine (overAll_keep (fun d => (d.arr n).away) _ _ _ fun d w => Chip.away_startPlotCopy d n ..).trans ?_
  refine (congrArg Arr.away (Chip.arr_of_outside (Chip.outside_holdAll (parts := [.cores]) (by simp) ..) (by simp) n)).trans ?_
  refine (overAll_keep (fun d => (d.arr n).away) _ _ _ fun d v => ?_).trans (Chip.arr_keep_upArr Arr.away c a n _ ?_)
  · rfl
  · exact fun _ => rfl

end

/-! ## A survey begins -/

section
variable (c : Chip) (u : SurveyUnit)

theorem Chip.running_upSurvey (f : SurveySt → SurveySt) : (c.upSurvey u f).mon = c.mon := by cases u <;> rfl

theorem Chip.running_beginSurvey : (c.beginSurvey u).mon.running = c.mon.running ++ [u] :=
  congrArg (fun m : Mon => m.running ++ [u]) (Chip.running_upSurvey ..)

theorem Chip.active_beginSurvey : ((c.beginSurvey u).surveyOf u).active = true := by
  have hof : (c.beginSurvey u).surveyOf u = _ := Chip.surveyOf_upSurvey c u _
  rw [hof]

theorem Chip.eq_beginSurvey : c.beginSurvey u
    = { c with arrays := (c.beginSurvey u).arrays, plots := (c.beginSurvey u).plots, lanes := (c.beginSurvey u).lanes, mon := (c.beginSurvey u).mon } := by
  cases u <;> rfl

theorem Chip.away_upSurvey (f : SurveySt → SurveySt) (n : Nat) : ((c.upSurvey u f).arr n).away = (c.arr n).away := by
  cases u with
  | periphery g k a =>
    refine Chip.arr_keep_upArr Arr.away c _ n _ ?_
    exact fun _ => rfl
  | plot g o => rfl
  | lane p l => rfl

theorem Chip.away_beginSurvey (n : Nat) : ((c.beginSurvey u).arr n).away = (c.arr n).away := Chip.away_upSurvey c u _ n

/-- A unit with no seat whose turn it is: its survey begins where it is. -/
theorem Chip.surveyStart_of_unseated {c : Chip} {u : SurveyUnit} (hturn : c.surveyTurn u = true) (hseat : c.unitSeated u = false) :
    ∃ plots, c.surveyStart u = { c with plots := plots }.beginSurvey u := by
  unfold Chip.surveyStart
  rw [if_neg (by simp [hturn]), if_neg (by simp [hseat])]
  extract_lets k
  cases u with
  | periphery g c' a =>
    refine ⟨c.plots, ?_⟩
    have hnone : c.sensesOf k = none := by simpa [Chip.unitSeated] using hseat
    dsimp only
    rw [hnone]
  | plot g o =>
    have hstate : ¬ (c.plot k).state = 0 := by simpa [Chip.unitSeated] using hseat
    exact ⟨_, if_neg hstate⟩
  | lane p l => exact ⟨c.plots, if_pos (by simpa [Chip.unitSeated] using hseat)⟩

end

/-- A seated periphery whose turn it is leaves its seat to its core's spare one. -/
theorem Chip.surveyStart_of_seated {c : Chip} {g : Fin 16} {k : Fin 34} {a : Fin 17} {home q : Nat}
    (hturn : c.surveyTurn (.periphery g k a) = true) (hhome : c.sensesOf (unitKey (.periphery g k a)) = some home)
    (hspare : c.sparePeri (unitKey (.periphery g k a)) = some q) (hboundary : c.atSeatBoundary g.val = true) :
    c.surveyStart (.periphery g k a) = ({ c with peri := put home c.peri home q }.upArr (unitKey (.periphery g k a)) fun x =>
      { x with away := some home }).beginSurvey (.periphery g k a) := by
  have hstand : c.standInGone (.periphery g k a) = false := by
    unfold Chip.standInGone
    dsimp only
    rw [hspare]
    rfl
  unfold Chip.surveyStart
  rw [if_neg (by simp [hturn]), if_neg (by simp [hstand])]
  dsimp only
  rw [hhome]
  dsimp only
  rw [hspare]
  exact if_neg (by simp [hboundary])

/-! ## A survey ends -/

section
variable (c : Chip) (u : SurveyUnit) (ok : Bool) (temp : BitVec 12)

theorem Chip.running_endSurvey : (c.endSurvey u ok temp).mon.running = c.mon.running.filter (fun v => decide (v ≠ u)) :=
  congrArg (fun m : Mon => m.running.filter (fun v => decide (v ≠ u))) (Chip.running_upSurvey c u _)

theorem Chip.done_endSurvey : (c.endSurvey u true temp).mon.done = satAdd c.mon.done 1 :=
  congrArg (fun m : Mon => satAdd m.done 1) (Chip.running_upSurvey c u _)

theorem not_mem_running (l : List SurveyUnit) : u ∉ l.filter (fun v => decide (v ≠ u)) := by simp

end

/-- A periphery that is out for survey comes back to its seat at the end. -/
theorem Chip.endPeriphery_spec {c : Chip} {u : SurveyUnit} {g home : Nat} (r : SurveyResult) (haway : (c.arr (unitKey u)).away = some home)
    (hboundary : c.atSeatBoundary g = true) :
    let d := c.endPeriphery u g r
    d.periOf home = unitKey u ∧ (d.arr (unitKey u)).away = none ∧ d.mon.running = c.mon.running.filter (fun v => decide (v ≠ u)) := by
  intro d
  have hd : d = c.endPeriphery u g r := rfl
  clear_value d
  unfold Chip.endPeriphery at hd
  extract_lets k back cleared seated ended tapped at hd
  have hback : back = some home := haway
  have hseated : seated = { cleared with peri := put home c.peri home k } := by simp only [seated, hback]
  clear_value seated back
  subst hback hseated
  have hcleared : (cleared.arr k).away = none := congrArg Arr.away (Chip.arr_upArr ..)
  have hperi : ended.peri = put home c.peri home k :=
    (Chip.same_of_outside (p := .peri) (Chip.outside_endSurvey (parts := [.arrays, .plots, .lanes, .mon]) (by simp) ..) (by simp)).symm
  have haway' : (ended.arr k).away = none := (Chip.away_upSurvey _ u _ k).trans hcleared
  have hrunning : ended.mon.running = c.mon.running.filter (fun v => decide (v ≠ u)) := Chip.running_endSurvey ..
  clear_value ended
  suffices h : d.peri = ended.peri ∧ (d.arr k).away = (ended.arr k).away ∧ d.mon.running = ended.mon.running by
    obtain ⟨hdperi, hdaway, hdrunning⟩ := h
    refine ⟨?_, hdaway.trans haway', hdrunning.trans hrunning⟩
    rw [Chip.periOf, hdperi, hperi, look_put_same]
  rw [if_neg (by simp [hboundary])] at hd
  split at hd
  · rw [hd]
    exact ⟨rfl, rfl, rfl⟩
  · dsimp only at hd
    have hout (e : Chip) := Chip.outside_arrayPlots (parts := [.freeCtr, .regions, .cores, .arrays, .saf, .log]) (by simp) e home r.plots
    rw [hd]
    refine ⟨(Chip.same_of_outside (p := .peri) (hout _) (by simp)).symm, (Chip.away_arrayPlots _ k ..).trans ?_,
      congrArg Mon.running (Chip.same_of_outside (p := .mon) (hout _) (by simp)).symm⟩
    refine (Chip.arr_keep_upArr Arr.away tapped home k _ ?_).trans (Chip.arr_keep_upArr Arr.away ended k k _ ?_)
    · exact fun _ => rfl
    · exact fun _ => rfl

theorem Chip.plot_endSurvey (c : Chip) (g : Fin 16) (o : Fin 136) (temp : BitVec 12) :
    (c.endSurvey (.plot g o) true temp).plot (unitKey (.plot g o)) = { c.plot (unitKey (.plot g o)) with
      survey := { (c.plot (unitKey (.plot g o))).survey with
        active := false, due := false, deferred := false, time := c.clk.aon, temp := temp, wakeNo := (c.region g.val).wakeNo } } :=
  Chip.plot_upPlot c (unitKey (.plot g o)) fun x => { x with survey := { x.survey with
    active := false, due := false, deferred := false, time := c.clk.aon, temp := temp, wakeNo := (c.region g.val).wakeNo } }

/-- A plot that is surveyed well and healthy is free, its margin noted, no longer due. -/
theorem Chip.endPlot_spec {c : Chip} {g : Fin 16} {o : Fin 136} {r : SurveyResult} {v : PlotSurvey} (hok : r.ok = true)
    (hv : r.plots.head? = some v) (hmargin : 115 < v.margin.toNat) (hstate : (c.plot (unitKey (.plot g o))).state = 2)
    (hflags : (c.plot (unitKey (.plot g o))).flagCount < 2048) :
    let d := c.endPlot (.plot g o) r
    let p := d.plot (unitKey (.plot g o))
    p.state = 1 ∧ p.margin = v.margin ∧ p.cls = 0 ∧ p.survey.due = false ∧ p.survey.time = c.clk.aon
    ∧ d.mon = { c.mon with running := c.mon.running.filter (fun w => decide (w ≠ .plot g o)), done := satAdd c.mon.done 1 }
    ∧ d.outside [.plots, .banks, .trims, .mon] = c.outside [.plots, .banks, .trims, .mon] := by
  intro d p
  have hd : d = c.endPlot (.plot g o) r := rfl
  clear_value d
  unfold Chip.endPlot at hd
  extract_lets k old ended first margin cls heldFor set at hd
  have hfirst : margin = v.margin := by
    simp only [margin, first, hv]
  have hcls : cls = 0 := by
    have hsteady : ¬ 2048 ≤ old.flagCount := Nat.not_le.mpr hflags
    simp only [cls, plotClass, hfirst, decide_eq_false hsteady, Bool.or_false]
    rw [if_neg (by simp; omega), if_neg (by omega)]
  have hheld : heldFor = false := by simp [heldFor, old, hstate, k]
  have hended : ended.plot k = { c.plot k with
      away := false, survey := { (c.plot k).survey with
        active := false, due := false, deferred := false, time := c.clk.aon, temp := r.temp, wakeNo := (c.region g.val).wakeNo } } := by
    simp only [ended, Chip.plot_upPlot, hok]
    rw [Chip.plot_endSurvey]
  have hmon : ended.mon = { c.mon with running := c.mon.running.filter (fun w => decide (w ≠ .plot g o)), done := satAdd c.mon.done 1 } := by
    have hendMon : ended.mon = (c.endSurvey (.plot g o) r.ok r.temp).mon := rfl
    rw [hendMon, hok]
    rfl
  have hendOut : ended.outside [.plots, .banks, .trims, .mon] = c.outside [.plots, .banks, .trims, .mon] :=
    (Chip.outside_upPlot (parts := [.plots, .banks, .trims, .mon]) _ (by simp) ..).trans rfl
  clear_value ended
  have hset : set = overAll r.banks (Chip.bankSurvey k) (ended.upPlot k fun x =>
      { x with margin := v.margin, cls := 0, taps := setTaps x.taps r.taps, drift := false }) := by
    simp only [set, hok, hfirst, hcls]
    rfl
  have hbanks (e : Chip) : (overAll r.banks (Chip.bankSurvey k) e).outside [.banks, .trims] = e.outside [.banks, .trims] :=
    Chip.outside_overAll _ _ _ fun d w => Chip.outside_bankSurvey (by simp) k d w
  have hsetPlot : set.plot k = { ended.plot k with margin := v.margin, cls := 0, taps := setTaps (ended.plot k).taps r.taps, drift := false } := by
    rw [hset, Chip.plot_of_outside (hbanks _) (by simp), Chip.plot_upPlot]
  have hsetMon : set.mon = ended.mon := by
    rw [hset]
    exact (Chip.same_of_outside (p := .mon) (hbanks _) (by simp)).symm
  have hsetOut : set.outside [.plots, .banks, .trims, .mon] = c.outside [.plots, .banks, .trims, .mon] := by
    rw [hset, ← hendOut]
    refine (Chip.outside_overAll _ _ _ fun d w => Chip.outside_bankSurvey (by simp) k d w).trans ?_
    exact Chip.outside_upPlot _ (by simp) ..
  have hdset : d = set.upPlot k fun x => { x with state := 1 } := by
    rw [hd, hheld, if_neg (by simp [old, hstate, k]), if_neg (by simp), if_neg (by simp [hok]), if_neg (by simp [hcls])]
  have hdk : d.plot k = { set.plot k with state := 1 } := by
    rw [hdset]
    exact Chip.plot_upPlot ..
  have hdMon : d.mon = set.mon := by
    rw [hdset]
    rfl
  have hp : p = { set.plot k with state := 1 } := hdk
  rw [hp, hdMon, hsetMon, hmon, hsetPlot, hended]
  refine ⟨rfl, rfl, rfl, rfl, rfl, rfl, ?_⟩
  rw [hdset]
  exact (Chip.outside_upPlot _ (by simp) ..).trans hsetOut

/-- Settles O37. -/
theorem surveysComplete : Obligations.SurveysComplete := by
  refine ⟨?_, ?_, ?_⟩
  · intro u s hturn hseat
    obtain ⟨plots, hstart⟩ := Chip.surveyStart_of_unseated hturn hseat
    refine ⟨{ s with toChip := s.toChip.surveyStart u }, rfl, ?_⟩
    have hrunning := Chip.running_beginSurvey { s.toChip with plots := plots } u
    have hactive := Chip.active_beginSurvey { s.toChip with plots := plots } u
    have heq := Chip.eq_beginSurvey { s.toChip with plots := plots } u
    rw [← hstart] at hrunning hactive heq
    generalize s.toChip.surveyStart u = d at *
    exact ⟨hrunning, hactive, heq⟩
  · intro g k a s home u x
    refine ⟨fun q hturn hhome hspare hboundary => ?_, fun r hrunning haway hboundary => ?_⟩
    · refine ⟨{ s with toChip := s.toChip.surveyStart u }, rfl, ?_⟩
      let out := { s.toChip with peri := put home s.toChip.peri home q }.upArr x fun y => { y with away := some home }
      have hstart : s.toChip.surveyStart u = out.beginSurvey u := Chip.surveyStart_of_seated hturn hhome hspare hboundary
      have hperi : (out.beginSurvey u).periOf home = q := look_put_same home s.toChip.peri home q
      have haway : ((out.beginSurvey u).arr x).away = some home :=
        (Chip.away_beginSurvey out u x).trans (congrArg Arr.away (Chip.arr_upArr ..))
      rw [hstart]
      exact ⟨hperi, haway, Chip.running_beginSurvey out u, rfl⟩
    · have hend : s.toChip.surveyEnd u r = s.toChip.endPeriphery u g.val r := if_neg (by simp [hrunning])
      refine ⟨{ s with toChip := s.toChip.surveyEnd u r }, rfl, ?_⟩
      rw [hend]
      obtain ⟨hperi, hhome, hleft⟩ := Chip.endPeriphery_spec (u := u) r haway hboundary
      have hmem : (s.toChip.endPeriphery u g.val r).mem = s.mem := Chip.mem_of_outside (Chip.outside_endPeriphery
        (parts := [.freeCtr, .regions, .cores, .arrays, .peri, .plots, .lanes, .mon, .saf, .log]) (by simp) ..) (by simp [noMemory])
      generalize s.toChip.endPeriphery u g.val r = d at *
      exact ⟨hperi, hhome, hleft ▸ not_mem_running u _, hmem⟩
  · intro g o r v s u k hrunning hstate hok hv hmargin hflags
    have hend : s.toChip.surveyEnd u r = s.toChip.endPlot u r := if_neg (by simp [hrunning])
    refine ⟨{ s with toChip := s.toChip.surveyEnd u r }, rfl, ?_⟩
    rw [hend]
    have hspec := Chip.endPlot_spec hok hv hmargin hstate hflags
    have hout := hspec.2.2.2.2.2.2
    generalize s.toChip.endPlot u r = d at *
    obtain ⟨hfree, hnoted, hcls, hdue, htime, hmon, -⟩ := hspec
    refine ⟨hfree, hnoted, hcls, hdue, htime, ?_, ?_, Chip.mem_of_outside hout (by simp [noMemory]),
      (Chip.same_of_outside (p := .jobs) hout (by simp)).symm⟩
    · exact (congrArg Mon.running hmon) ▸ not_mem_running u _
    · exact congrArg Mon.done hmon

end Sys2Proof.Machine

/-! The survey store (R340, R341): the obligation O38. -/

namespace Sys2Proof.Machine

/-- Settles O38. -/
theorem storeCommitsComplete : Obligations.StoreCommitsComplete := by
  intro s older
  refine ⟨fun hidle hchanged hpower htime => ?_, fun hwriting => ⟨?_, ?_⟩⟩
  · let b : StoreBank := { sequence := s.mon.newer.sequence + 1, payload := some s.toChip.keptNow, committed := false }
    refine ⟨{ s with toChip := { s.toChip with mon := { s.mon with
      writing := true, commitAt := s.clk.aon
      bank0 := if s.mon.inUse then b else s.mon.bank0, bank1 := if s.mon.inUse then s.mon.bank1 else b } } }, ?_, rfl, ?_, ?_, rfl⟩
    · have hlate : ¬ (0 < s.mon.commitAt ∧ s.clk.aon < s.mon.commitAt + msCycles 1000) := by omega
      have hdiffers : (s.mon.newer.payload == some s.toChip.keptNow) = false := beq_eq_false_iff_ne.mpr hchanged
      change execStoreCommit s = _
      unfold execStoreCommit act
      dsimp only
      rw [if_neg (by simp only [hidle, hdiffers, hpower, Bool.false_or, Bool.not_true, Bool.and_eq_true, decide_eq_true_eq]; exact hlate)]
    · simp only [Mon.newer]
      split <;> rfl
    · simp only [older]
      split <;> rfl
  · refine ⟨{ s with toChip := { s.toChip with mon := { s.mon with
      writing := false, inUse := !s.mon.inUse
      bank0 := if s.mon.inUse then { s.mon.bank0 with committed := true } else s.mon.bank0
      bank1 := if s.mon.inUse then s.mon.bank1 else { s.mon.bank1 with committed := true } } } }, ?_, rfl, ?_, ?_, rfl⟩
    · change execStoreCommitDone true s = _
      simp [execStoreCommitDone, act, hwriting]
    · cases h : s.mon.inUse <;> simp [Mon.newer, older, h]
    · cases h : s.mon.inUse <;> simp [Mon.newer, older, h]
  · refine ⟨{ s with toChip := { s.toChip with mon := { s.mon with writing := false } } }, ?_, rfl, rfl, rfl⟩
    change execStoreCommitDone false s = _
    simp [execStoreCommitDone, act, hwriting]

end Sys2Proof.Machine

/-! Temperature (R374, R375): the obligation O39. -/

namespace Sys2Proof.Machine

/-- What each step of a run settles for its own item, and no step unsettles, holds of all its items in the end. -/
theorem overAll_reaches {α : Type} (P : Chip → α → Prop) (f : Chip → α → Chip) (hset : ∀ c x, P (f c x) x) (hkeep : ∀ c x y, P c y → P (f c x) y)
    (l : List α) (c : Chip) {y : α} (hy : y ∈ l) : P (overAll l f c) y := by
  induction l generalizing c with
  | nil => exact absurd hy List.not_mem_nil
  | cons x l ih =>
    rcases List.mem_cons.mp hy with rfl | hl
    · exact overAll_invariant (fun d => P d y) f (fun d z hd => hkeep d z y hd) l _ (hset c y)
    · exact ih _ hl

/-! ## A reading -/

theorem Chip.saf_raiseSignals (c : Chip) (on : Bool) : (c.easySignals on).saf = c.saf :=
  Chip.saf_of_outside (Chip.outside_easySignals (parts := [.sch, .jobs, .fleetOut]) (by simp) c on) (by simp)

/-- The fleet's signals end no job. -/
theorem Chip.length_jobs_easySignals (c : Chip) (on : Bool) : (c.easySignals on).jobs.length = c.jobs.length :=
  overAll_keep (fun d => d.jobs.length) _ _ _ fun _ _ => List.length_map ..

/-- An event that no one need act on leaves the monitor's state. -/
theorem Chip.saf_event_quiet (c : Chip) (src cls code : Nat) (rerow : Bool) (locus : BitVec 32) (detail : Nat) (h1 : cls ≠ 1) (h2 : cls ≠ 2) :
    (c.event src cls code rerow locus detail).saf = c.saf := by
  have hsame : satIf (cls == 1) c.saf.transient = c.saf.transient ∧ satIf (cls == 2) c.saf.permanent = c.saf.permanent := by
    simp [satIf, h1, h2]
  unfold Chip.event
  dsimp only
  rw [hsame.1, hsame.2]
  split
  · exact ite_keep Chip.saf rfl rfl
  · rfl

theorem Chip.watchSample_spec (c : Chip) (reading : BitVec 13) :
    let d := c.watchSample reading
    let hot := if 1568 < reading.toInt then c.saf.hot + 1 else 0
    d.saf = { c.saf with
      dieTemp := reading, hot := hot, thermalDue := c.saf.thermalDue || (decide (10 ≤ hot) && !c.saf.thermalStop)
      thermalStop := c.saf.thermalStop && decide (1360 ≤ reading.toInt)
      easy := if 1440 < reading.toInt then true else if reading.toInt < 1360 then false else c.saf.easy }
    ∧ d.mem = c.mem ∧ d.jobs.length = c.jobs.length := by
  intro d hot
  have hd : d = c.watchSample reading := rfl
  clear_value d
  have hmem : d.mem = c.mem := hd ▸ Chip.mem_of_vaultMem (Chip.watchSample_vaultMem ..)
  unfold Chip.watchSample at hd
  extract_lets t hot' clk saf e detail src raised lowered at hd
  have he : e.saf = { c.saf with
      dieTemp := reading, hot := hot, thermalDue := c.saf.thermalDue || (decide (10 ≤ hot) && !c.saf.thermalStop)
      thermalStop := c.saf.thermalStop && decide (1360 ≤ reading.toInt) } := rfl
  have hjobs : e.jobs = c.jobs := rfl
  have hraised : raised.saf = { e.saf with easy := true } := rfl
  have hraisedJobs : raised.jobs = e.jobs := rfl
  have hlowered : lowered.saf = { e.saf with easy := false } := rfl
  have hloweredJobs : lowered.jobs = e.jobs := rfl
  have hlogged (f : Chip) (code : Nat) (on : Bool) (cls : Nat) (h1 : cls ≠ 1) (h2 : cls ≠ 2) :
      ((f.event 0 cls code false (locusWord none none none) detail).easySignals on).saf = f.saf
        ∧ ((f.event 0 cls code false (locusWord none none none) detail).easySignals on).jobs.length = f.jobs.length := by
    refine ⟨(Chip.saf_raiseSignals _ on).trans (Chip.saf_event_quiet _ _ _ _ _ _ _ h1 h2), (Chip.length_jobs_easySignals _ on).trans ?_⟩
    exact congrArg List.length (Chip.same_of_outside (p := .jobs)
      (Chip.outside_event (parts := [.regions, .saf, .log]) (by simp) f ..) (by simp)).symm
  have hreq : e.saf.easy = c.saf.easy := rfl
  clear_value e raised lowered
  rw [hreq] at hd
  by_cases hover : 1440 < reading.toInt
  · have hnot : ¬ reading.toInt < 1360 := by omega
    cases heasy : c.saf.easy
    · rw [if_pos (by simp [heasy, t, hover])] at hd
      obtain ⟨hsaf, hlen⟩ := hlogged raised 3 true 3 (by decide) (by decide)
      rw [hd]
      refine ⟨?_, hd ▸ hmem, by rw [hlen, hraisedJobs, hjobs]⟩
      rw [hsaf, hraised, he, if_pos hover]
    · rw [if_neg (by simp [heasy]), if_neg (by simp [t, hnot])] at hd
      rw [hd]
      refine ⟨?_, hd ▸ hmem, by rw [hjobs]⟩
      rw [he, if_pos hover, ← heasy]
  · by_cases hunder : reading.toInt < 1360
    · cases heasy : c.saf.easy
      · rw [if_neg (by simp [t, hover]), if_neg (by simp [heasy])] at hd
        rw [hd]
        refine ⟨?_, hd ▸ hmem, by rw [hjobs]⟩
        rw [he, if_neg hover, if_pos hunder, ← heasy]
      · rw [if_neg (by simp [heasy]), if_pos (by simp [heasy, t, hunder])] at hd
        obtain ⟨hsaf, hlen⟩ := hlogged lowered 4 false 0 (by decide) (by decide)
        rw [hd]
        refine ⟨?_, hd ▸ hmem, by rw [hlen, hloweredJobs, hjobs]⟩
        rw [hsaf, hlowered, he, if_neg hover, if_pos hunder]
    · rw [if_neg (by simp [t, hover]), if_neg (by simp [t, hunder])] at hd
      rw [hd]
      refine ⟨?_, hd ▸ hmem, by rw [hjobs]⟩
      rw [he, if_neg hover, if_neg hunder]

/-! ## The thermal stop -/

/-- An aborted job is gone, and no other is. -/
theorem Chip.jobs_abortJob (c : Chip) (id : JobId) (status flags : Nat) :
    (c.abortJob id status flags).jobs = c.jobs.filter (fun j => decide (j.id ≠ id)) := by
  unfold Chip.abortJob
  split
  · next j hj =>
    obtain rfl := Chip.id_of_job? hj
    have hout (f : Nat) : Chip.outside [.regions, .cores, .arrays, .tiles, .ports, .tiers, .freeCtr, .host]
        ((overAll j.swaps (Chip.settle (c.otherSwaps j.id)) (c.release j)).jobEnd j status 0 f)
        = c.outside [.regions, .cores, .arrays, .tiles, .ports, .tiers, .freeCtr, .host] := by
      refine (Chip.outside_jobEnd (by simp) ..).trans ((Chip.outside_overAll _ _ _ fun d w => ?_).trans (Chip.outside_release (by simp) ..))
      exact Chip.outside_settle (by simp) ..
    have hjobs (f : Nat) := (Chip.same_of_outside (p := .jobs) (hout f) (by simp)).symm
    exact congrArg (List.filter fun k => decide (k.id ≠ j.id)) (hjobs _)
  · next hnone =>
    refine (List.filter_eq_self.mpr fun j hj => ?_).symm
    have := List.find?_eq_none.mp hnone j hj
    simpa using this

theorem Chip.jobs_abortAll (ids : List JobId) (status flags : Nat) (c : Chip) :
    (overAll ids (fun c id => c.abortJob id status flags) c).jobs = c.jobs.filter (fun j => decide (j.id ∉ ids)) := by
  induction ids generalizing c with
  | nil => simp [overAll]
  | cons id ids ih =>
    refine (ih _).trans ?_
    rw [Chip.jobs_abortJob, List.filter_filter]
    refine List.filter_congr fun j _ => ?_
    simp [Bool.and_comm]

/-- A compute laser that gives light goes to standby. -/
def Chip.dimLaser (c : Chip) (n : Nat) : Chip :=
  if (c.laser n).state = 4 || (c.laser n).state = 5 then
    c.upLaser n (fun l => { l with state := 2, group := if l.state = 5 && l.leaving = 0 then 0xF else l.group, leaving := 0, ready := false })
  else if (c.laser n).state = 3 then c.upLaser n (fun l => { l with state := 2, group := 0xF, ready := false })
  else c

theorem Chip.serves_dimLaser (c : Chip) (n : Nat) : ((c.dimLaser n).laser n).serves = false := by
  unfold Chip.dimLaser
  split
  · rw [Chip.laser_upLaser]
    rfl
  · next h =>
    split
    · rw [Chip.laser_upLaser]
      rfl
    · simpa [Laser.serves] using h

theorem Chip.dimLaser_keep (c : Chip) (n m : Nat) (h : (c.laser m).serves = false) : ((c.dimLaser n).laser m).serves = false := by
  by_cases hm : m = n
  · exact hm ▸ Chip.serves_dimLaser ..
  · unfold Chip.dimLaser
    split
    · rwa [Chip.laser_upLaser_ne _ _ _ _ hm]
    · split
      · rwa [Chip.laser_upLaser_ne _ _ _ _ hm]
      · exact h

theorem Chip.power_sleep (c : Chip) (g n : Nat) :
    (((c.sleepRegion g).feedForward g).region n).power = if n = g then 0 else (c.region n).power := by
  rw [Chip.region_view_of_outside Region.power (Chip.outside_feedForward (parts := [.banks]) (by simp) ..) (by simp), Chip.sleepRegion]
  split
  · next h => rw [h, Chip.region_upRegion]
  · next h => rw [Chip.region_upRegion_ne _ _ _ _ h]

/-- A thermal stop that is called for. -/
theorem Chip.thermalStop_spec {c : Chip} (hdue : c.saf.thermalDue = true) :
    let d := c.thermalStop
    d.saf.thermalStop = true ∧ d.saf.thermalDue = false ∧ d.jobs = [] ∧ (∀ g, g < 16 → (d.region g).power = 0)
    ∧ (∀ n, n < 160 → (d.laser n).serves = false) := by
  intro d
  have hd : d = c.thermalStop := rfl
  clear_value d
  unfold Chip.thermalStop at hd
  rw [if_neg (by simp [hdue])] at hd
  extract_lets src called ended asleep dim at hd
  have hdim : dim = overAll (List.range 160) Chip.dimLaser asleep := rfl
  have hcalled : called.saf.thermalStop = true ∧ called.saf.thermalDue = false := ⟨rfl, rfl⟩
  have hended : ended.saf = called.saf := overAll_keep Chip.saf _ _ _ fun e id =>
    Chip.saf_of_outside (Chip.outside_abortJob (List.Subset.refl _) e id _ _) (by simp [endParts])
  have hnone : ended.jobs = [] := by
    refine (Chip.jobs_abortAll _ _ _ called).trans (List.filter_eq_nil_iff.mpr fun j hj => ?_)
    simpa using ⟨j, hj, rfl⟩
  have hasleepOut : asleep.outside [.regions, .banks] = ended.outside [.regions, .banks] := by
    refine Chip.outside_overAll _ _ _ fun e g => ?_
    exact (Chip.outside_feedForward (by simp) ..).trans (Chip.outside_sleepRegion (by simp) ..)
  have hpower (g : Nat) (hg : g < 16) : (asleep.region g).power = 0 := by
    refine overAll_reaches (fun e n => (e.region n).power = 0) _ (fun e n => ?_) (fun e n m hm => ?_) _ _ (List.mem_range.mpr hg)
    · exact (Chip.power_sleep e n n).trans (if_pos rfl)
    · rw [Chip.power_sleep]
      split
      · rfl
      · exact hm
  have hdimOut : dim.outside [.lasers] = asleep.outside [.lasers] := by
    rw [hdim]
    refine Chip.outside_overAll _ _ _ fun e n => ?_
    exact ite_keep (Chip.outside [.lasers]) (Chip.outside_upLaser _ (by simp) ..) (ite_keep (Chip.outside [.lasers]) (Chip.outside_upLaser _ (by simp) ..) rfl)
  have hdark (n : Nat) (hn : n < 160) : (dim.laser n).serves = false := by
    rw [hdim]
    exact overAll_reaches (fun e n => (e.laser n).serves = false) _ Chip.serves_dimLaser Chip.dimLaser_keep _ _ (List.mem_range.mpr hn)
  clear_value dim asleep ended called
  have hlog := Chip.outside_event (parts := [.regions, .saf, .log]) (by simp) dim 0 4 5 false (locusWord none none none) (trunc 32 dim.saf.dieTemp.toInt)
  have hdsaf : d.saf = called.saf := by
    rw [hd, Chip.saf_event_quiet _ _ _ _ _ _ _ (by decide) (by decide), Chip.saf_of_outside hdimOut (by simp),
      Chip.saf_of_outside hasleepOut (by simp), hended]
  have hlasers : dim.lasers = d.lasers := by
    rw [hd]
    exact Chip.same_of_outside (p := .lasers) hlog (by simp)
  refine ⟨by rw [hdsaf, hcalled.1], by rw [hdsaf, hcalled.2], ?_, fun g hg => ?_, fun n hn => ?_⟩
  · have hjobs : dim.jobs = d.jobs := by
      rw [hd]
      exact Chip.same_of_outside (p := .jobs) hlog (by simp)
    have hdimJobs : asleep.jobs = dim.jobs := Chip.same_of_outside (p := .jobs) hdimOut (by simp)
    have hasleepJobs : ended.jobs = asleep.jobs := Chip.same_of_outside (p := .jobs) hasleepOut (by simp)
    rw [← hjobs, ← hdimJobs, ← hasleepJobs, hnone]
  · rw [hd, Chip.region_view_event Region.power (fun _ _ => rfl), Chip.region_view_of_outside Region.power hdimOut (by simp), hpower g hg]
  · have := hdark n hn
    rwa [Chip.laser, hlasers] at this

/-! ## The easy state -/

/-- A region takes the easy state over, or off: its tick and its heaters change. -/
theorem Chip.setHalved_spec (c : Chip) (g : Nat) (b : Bool) :
    ((c.setHalved g b).region g).halved = b
    ∧ c.setHalved g b = { c with regions := (c.setHalved g b).regions, banks := (c.setHalved g b).banks } := by
  refine ⟨?_, ?_⟩
  · rw [Chip.setHalved, Chip.region_view_of_outside Region.halved (Chip.outside_feedForward (parts := [.banks]) (by simp) ..) (by simp),
      Chip.region_upRegion]
  · have hout : (c.setHalved g b).outside [.regions, .banks] = c.outside [.regions, .banks] :=
      (Chip.outside_feedForward (by simp) ..).trans (Chip.outside_upRegion _ (by simp) ..)
    generalize c.setHalved g b = d at *
    obtain ⟨⟩ := c
    obtain ⟨⟩ := d
    simpa [Chip.outside, Mems.eq_iff] using hout

/-- Settles O39. -/
theorem temperatureCommandsComplete : Obligations.TemperatureCommandsComplete := by
  refine ⟨fun reading s => ?_, fun s hdue => ?_, fun g s hnow => ⟨fun heasy hhalved => ?_, fun heasy hhalved => ?_⟩⟩
  · refine ⟨{ s with toChip := s.toChip.watchSample reading }, rfl, ?_⟩
    have hspec := Chip.watchSample_spec s.toChip reading
    generalize s.toChip.watchSample reading = d at *
    obtain ⟨hsaf, hmem, hjobs⟩ := hspec
    refine ⟨congrArg Saf.dieTemp hsaf, congrArg Saf.easy hsaf, congrArg Saf.thermalStop hsaf, congrArg Saf.hot hsaf, fun hot hover hstop => ?_, hmem, hjobs⟩
    refine (congrArg Saf.thermalDue hsaf).trans ?_
    simp [hover, hstop]
    omega
  · refine ⟨{ s with toChip := s.toChip.thermalStop }, rfl, ?_⟩
    have hmem : s.toChip.thermalStop.mem = s.mem := Chip.mem_of_vaultMem (Chip.thermalStop_vaultMem ..)
    obtain ⟨hstop, hdone, hjobs, hpower, hdark⟩ := Chip.thermalStop_spec hdue
    generalize s.toChip.thermalStop = d at *
    exact ⟨hstop, hdone, hjobs, hpower, hdark, hmem⟩
  · have hentry : (if s.saf.easy && !(s.toChip.region g.val).halved && s.toChip.easyNow g.val then s.toChip.setHalved g.val true else s.toChip)
        = s.toChip.setHalved g.val true := if_pos (by simp [heasy, hhalved, hnow])
    have hspec := Chip.setHalved_spec s.toChip g.val true
    refine ⟨{ s with toChip := if s.saf.easy && !(s.toChip.region g.val).halved && s.toChip.easyNow g.val then s.toChip.setHalved g.val true
      else s.toChip }, rfl, ?_⟩
    rw [hentry]
    generalize s.toChip.setHalved g.val true = d at *
    exact hspec
  · have hexit : (if !s.saf.easy && (s.toChip.region g.val).halved && s.toChip.easyNow g.val then s.toChip.setHalved g.val false else s.toChip)
        = s.toChip.setHalved g.val false := if_pos (by simp [heasy, hhalved, hnow])
    have hspec := Chip.setHalved_spec s.toChip g.val false
    refine ⟨{ s with toChip := if !s.saf.easy && (s.toChip.region g.val).halved && s.toChip.easyNow g.val then s.toChip.setHalved g.val false
      else s.toChip }, rfl, ?_⟩
    rw [hexit]
    generalize s.toChip.setHalved g.val false = d at *
    exact hspec

end Sys2Proof.Machine

/-! Line powers, the equaliser and the fade points of a laser (R164 to R166): the obligation O41. -/

namespace Sys2Proof.Machine

/-! ## Tables of a list -/

section
variable {α V : Type} [DecidableEq V] (d : V) (f : α → V)

/-- A list's values put at its indices, from index k on. -/
def putFrom (m : SMap V) (k : Nat) (l : List α) : SMap V := (l.zipIdx k).foldl (fun m p => put d m p.2 (f p.1)) m

theorem putFrom_cons (m : SMap V) (k : Nat) (a : α) (l : List α) : putFrom d f m k (a :: l) = putFrom d f (put d m k (f a)) (k + 1) l := rfl

theorem look_putFrom_of_lt (m : SMap V) (k : Nat) (l : List α) {i : Nat} (h : i < k) : look d (putFrom d f m k l) i = look d m i := by
  induction l generalizing m k with
  | nil => rfl
  | cons a l ih => rw [putFrom_cons, ih _ _ (by omega), look_put_ne _ _ _ (by omega)]

theorem look_putFrom (m : SMap V) (k : Nat) (l : List α) {i : Nat} {a : α} (h : l[i]? = some a) : look d (putFrom d f m k l) (k + i) = f a := by
  induction l generalizing m k i with
  | nil => simp at h
  | cons b l ih =>
    rw [putFrom_cons]
    cases i with
    | zero =>
      obtain rfl : b = a := by simpa using h
      exact (look_putFrom_of_lt d f _ (k + 1) l (Nat.lt_succ_self k)).trans (look_put_same ..)
    | succ i =>
      rw [show k + (i + 1) = k + 1 + i by omega]
      exact ih _ _ (by simpa using h)

end

/-! ## The least of a list -/

theorem foldl_min_le (l : List Nat) (a : Nat) : l.foldl min a ≤ a ∧ ∀ x ∈ l, l.foldl min a ≤ x := by
  induction l generalizing a with
  | nil => simp
  | cons b l ih =>
    obtain ⟨ha, hl⟩ := ih (min a b)
    refine ⟨ha.trans (Nat.min_le_left ..), fun x hx => ?_⟩
    rcases List.mem_cons.mp hx with rfl | hx
    · exact ha.trans (Nat.min_le_right ..)
    · exact hl x hx

theorem foldl_min_mem (l : List Nat) (a : Nat) : l.foldl min a = a ∨ l.foldl min a ∈ l := by
  induction l generalizing a with
  | nil => simp
  | cons b l ih =>
    rcases ih (min a b) with h | h
    · rw [List.foldl_cons, h]
      rcases Nat.le_total a b with hab | hab
      · exact .inl (Nat.min_eq_left hab)
      · exact .inr (by rw [Nat.min_eq_right hab]; exact List.mem_cons_self)
    · exact .inr (List.mem_cons_of_mem _ h)

theorem foldl_min_head_mem {l : List Nat} (h : l ≠ []) : l.foldl min (l.headD 0) ∈ l := by
  rcases foldl_min_mem l (l.headD 0) with heq | hmem
  · rw [heq]
    cases l with
    | nil => exact absurd rfl h
    | cons a l => exact List.mem_cons_self
  · exact hmem

/-- The weakest of some lines is one of them. -/
theorem weakest_mem (powers : SMap Nat) {lines : List Nat} (h : lines ≠ []) : weakest powers lines ∈ lines := by
  have hfold (l : List Nat) (b : Nat) : l.foldl (fun b n => if look 0 powers n < look 0 powers b then n else b) b = b
      ∨ l.foldl (fun b n => if look 0 powers n < look 0 powers b then n else b) b ∈ l := by
    induction l generalizing b with
    | nil => exact .inl rfl
    | cons a l ih =>
      rw [List.foldl_cons]
      rcases ih (if look 0 powers a < look 0 powers b then a else b) with h | h
      · rw [h]
        split
        · exact .inr List.mem_cons_self
        · exact .inl rfl
      · exact .inr (List.mem_cons_of_mem _ h)
  rcases hfold lines (lines.headD 0) with heq | hmem
  · rw [weakest, heq]
    cases lines with
    | nil => exact absurd rfl h
    | cons a l => exact List.mem_cons_self
  · exact hmem

/-! ## No fade -/

theorem pow_lt_scaled {ref present b : Nat} (hle : ref ≤ present) (hpos : 0 < present) (hb : 0 < b) (e : Nat) : ref ^ e < 10 ^ b * present ^ e := by
  have h1 : ref ^ e ≤ present ^ e := Nat.pow_le_pow_left hle e
  have h2 : 0 < present ^ e := Nat.pow_pos hpos
  have h3 : 1 < 10 ^ b := Nat.one_lt_pow (by omega) (by omega)
  nlinarith

theorem fadedBy_of_le {ref present : Nat} (hle : ref ≤ present) (x : Nat) : fadedBy ref present x = false := by
  refine decide_eq_false (Nat.not_lt.mpr ?_)
  calc ref ^ 100 ≤ present ^ 100 := Nat.pow_le_pow_left hle 100
    _ ≤ 10 ^ x * present ^ 100 := Nat.le_mul_of_pos_left _ (Nat.pow_pos (by omega))

theorem fadeOf_of_le {ref present : Nat} (hle : ref ≤ present) (hpos : 0 < present) : fadeOf ref present = 0 := by
  have hstep (b : Nat) (hb : 0 < b) : fadeStep ref present 0 b = 0 :=
    if_neg (Nat.not_le.mpr (by rw [Nat.zero_add]; exact pow_lt_scaled hle hpos hb 1000))
  have hfold (l : List Nat) (hl : ∀ b ∈ l, 0 < b) : l.foldl (fadeStep ref present) 0 = 0 := by
    induction l with
    | nil => rfl
    | cons b l ih =>
      rw [List.foldl_cons, hstep b (hl b List.mem_cons_self)]
      exact ih fun x hx => hl x (List.mem_cons_of_mem _ hx)
  rw [fadeOf, if_neg (by omega)]
  exact hfold _ (by decide)

/-! ## A measurement -/

/-- The line powers of a measurement by line. -/
def linePowers (powers : List Nat) : SMap Nat := putFrom 0 id [] 0 powers

theorem look_linePowers {powers : List Nat} {i : Nat} (h : i < powers.length) : look 0 (linePowers powers) i = powers.getD i 0 := by
  have hi := look_putFrom 0 id [] 0 powers (List.getElem?_eq_getElem h)
  rw [Nat.zero_add] at hi
  rw [linePowers, hi, List.getD_eq_getElem _ _ h]
  rfl

/-- The power of a line before the equaliser. -/
def Group.before (x : Group) (powers : SMap Nat) (i : Nat) : Nat := rawOf (look 0 powers i) (look 0 x.att i)

theorem Group.att_equalise (x : Group) (powers : SMap Nat) :
    (x.equalise powers).att = putFrom 0 (fun p => attOf p (x.equalise powers).level) [] 0 ((List.range 16).map (x.before powers)) := by
  simp only [Group.equalise, Group.setLines, putFrom]
  rfl

/-- The equaliser brings every line to the weakest one before it. -/
theorem Group.equalise_spec (x : Group) (powers : SMap Nat) :
    (∀ i, i < 16 → (x.equalise powers).level ≤ x.before powers i
        ∧ look 0 (x.equalise powers).att i = attOf (x.before powers i) (x.equalise powers).level)
    ∧ ∃ i, i < 16 ∧ x.before powers i = (x.equalise powers).level := by
  have hlevel : (x.equalise powers).level = ((List.range 16).map (x.before powers)).foldl min (((List.range 16).map (x.before powers)).headD 0) := rfl
  refine ⟨fun i hi => ⟨?_, ?_⟩, ?_⟩
  · rw [hlevel]
    exact (foldl_min_le _ _).2 _ (List.mem_map_of_mem (List.mem_range.mpr hi))
  · have hget : ((List.range 16).map (x.before powers))[i]? = some (x.before powers i) := by simp [hi]
    have hatt := look_putFrom 0 (fun p => attOf p (x.equalise powers).level) [] 0 _ hget
    rw [Nat.zero_add] at hatt
    rw [Group.att_equalise, hatt]
  · have hmem : (x.equalise powers).level ∈ (List.range 16).map (x.before powers) := by
      rw [hlevel]
      exact foldl_min_head_mem (by simp)
    obtain ⟨i, hi, heq⟩ := List.mem_map.mp hmem
    exact ⟨i, List.mem_range.mp hi, heq⟩

theorem Chip.laser_upGroup (c : Chip) (k : Nat) (f : Group → Group) (n : Nat) : (c.upGroup k f).laser n = c.laser n := rfl

/-- A draw, a laser and a group changed: nothing else is. -/
theorem Chip.frame_upGroup (c : Chip) (n k : Nat) (f : Laser → Laser) (h : Group → Group) :
    (c.draw.2.upLaser n f).upGroup k h = { c with
      freeCtr := ((c.draw.2.upLaser n f).upGroup k h).freeCtr, lasers := ((c.draw.2.upLaser n f).upGroup k h).lasers
      groups := ((c.draw.2.upLaser n f).upGroup k h).groups } := rfl

/-- A measurement of a compute laser that serves, none of whose lines is below its commissioning value. -/
theorem Chip.lineMeasure_of_unfaded {c : Chip} {g : Fin 16} {n : Fin 10} {powers : List Nat}
    (hserves : (c.laser (g.val * 10 + n.val)).serves = true) (hfirst : (c.laser (g.val * 10 + n.val)).power = []) (hlen : powers.length = 16)
    (hgood : ∀ i, i < 16 → commissioned (.compute g n) (c.laser (g.val * 10 + n.val)) (c.biasMode (.compute g n)) i ≤ powers.getD i 0
      ∧ 0 < powers.getD i 0) :
    ∃ ref present, c.lineMeasure (.compute g n) powers false
      = ((c.draw.2.upLaser (g.val * 10 + n.val) fun l => { l.watch ref present with power := linePowers powers, fade := 0 }).upGroup
          (g.val * 8 + (c.laser (g.val * 10 + n.val)).group.toNat % 8) fun x => x.equalise (linePowers powers)) := by
  let l := c.laser (g.val * 10 + n.val)
  have hl : c.laserAt (.compute g n) = l := rfl
  have hstate : ¬ (l.state.toNat < 2 || 5 < l.state.toNat) = true := by
    have hcases : l.state = 4 ∨ l.state = 5 := by simpa [Laser.serves] using hserves
    rcases hcases with h | h
    · rw [h]
      decide
    · rw [h]
      decide
  unfold Chip.lineMeasure
  extract_lets l' lines new w ref present fell free drawn unserved floor exact fade measured equalised
  have hw : w < 16 := List.mem_range.mp (weakest_mem new (lines := List.range 16) (by simp))
  have hnew : new = linePowers powers := rfl
  have hpresent : present = powers.getD w 0 := by
    rw [show present = look 0 new w from rfl, hnew, look_linePowers (by omega)]
  obtain ⟨hle, hpos⟩ := hgood w hw
  rw [← hpresent] at hle hpos
  have hfell : fell = false := by
    have hold : l'.power = [] := hfirst
    simp only [fell, hold, Bool.and_false]
  have hfade : fade = 0 := by
    have hexact : exact = true := by
      simp only [exact, Bool.or_eq_true, decide_eq_true_eq]
      exact .inr hle
    have hfloor : floor = 0 := fadeOf_of_le hle hpos
    simp only [fade, hfloor, hexact, if_true]
    rfl
  have hfaded : fadedBy ref present 35 = false := fadedBy_of_le hle 35
  refine ⟨ref, present, ?_⟩
  refine (if_neg hstate).trans ((if_neg (by rw [show l'.serves = true from hserves]; decide)).trans ((if_neg Bool.false_ne_true).trans ?_))
  rw [hfell, hfaded, if_neg (by simp)]
  have hmeasured : measured = drawn.upLaser (g.val * 10 + n.val) fun l => { l.watch ref present with power := linePowers powers, fade := 0 } := by
    simp only [measured, hfade, hnew]
    rfl
  have hgroup : (measured.laser (g.val * 10 + n.val)).group = l.group := by
    rw [hmeasured, Chip.laser_upLaser]
    rfl
  have hkey : measured.groupKey (.compute g n) = some (g.val * 8 + l.group.toNat % 8) :=
    congrArg (fun k : BitVec 4 => some (g.val * 8 + k.toNat % 8)) hgroup
  simp only [equalised, hkey]
  rw [hmeasured, hnew]

/-! ## Lasers by name -/

theorem Chip.laserAt_upLaserAt (c : Chip) (r : LaserRef) (f : Laser → Laser) : (c.upLaserAt r f).laserAt r = f (c.laserAt r) := by
  cases r with
  | compute g n => exact Chip.laser_upLaser ..
  | link n => exact look_put_same ..

theorem Chip.laserAt_upLaserAt_ne (c : Chip) {r x : LaserRef} (h : x ≠ r) (f : Laser → Laser) : (c.upLaserAt r f).laserAt x = c.laserAt x := by
  cases r with
  | compute g n =>
    cases x with
    | compute g' n' =>
      refine Chip.laser_upLaser_ne _ _ _ _ fun hkey => h ?_
      have hg : g' = g := Fin.ext (by omega)
      have hn : n' = n := Fin.ext (by omega)
      rw [hg, hn]
    | link n' => rfl
  | link n =>
    cases x with
    | compute g' n' => rfl
    | link n' =>
      refine look_put_ne' _ _ _ _ fun hkey => h ?_
      rw [Fin.ext hkey]

theorem Chip.laserAt_of_outside {parts : List Part} {c d : Chip} (h : d.outside parts = c.outside parts) (hp : .lasers ∉ parts)
    (hq : .linkLasers ∉ parts) (r : LaserRef) : d.laserAt r = c.laserAt r := by
  have hlasers : c.lasers = d.lasers := Chip.same_of_outside h hp
  have hlinks : c.linkLasers = d.linkLasers := Chip.same_of_outside h hq
  cases r with
  | compute g n => simp only [Chip.laserAt, Chip.laser, hlasers]
  | link n => simp only [Chip.laserAt, Chip.linkLaser, hlinks]

theorem Chip.laserAt_event (c : Chip) (src cls code : Nat) (rerow : Bool) (locus : BitVec 32) (detail : Nat) (r : LaserRef) :
    (c.event src cls code rerow locus detail).laserAt r = c.laserAt r :=
  Chip.laserAt_of_outside (Chip.outside_event (parts := [.regions, .saf, .log]) (by simp) ..) (by simp) (by simp) r

/-- Which laser prepares and which spare takes over next are read from the states and groups. -/
theorem Chip.handover_reads {c d : Chip} (h : ∀ x, (d.laserAt x).state = (c.laserAt x).state ∧ (d.laserAt x).group = (c.laserAt x).group)
    (r : LaserRef) : d.preparing r = c.preparing r ∧ d.spareLaser r = c.spareLaser r := by
  refine ⟨?_, ?_⟩
  · simp only [Chip.preparing, (h _).1, (h _).2]
  · simp only [Chip.spareLaser, (h _).1, (h _).2]

/-! ## A handover begins -/

/-- Where a cold spare warms, the lasers that are not cold stay as they are. -/
theorem Chip.laserAt_warmOther (c : Chip) (r : LaserRef) {x : LaserRef} (h : (c.laserAt x).state ≠ 0) : (c.warmOther r).laserAt x = c.laserAt x := by
  unfold Chip.warmOther
  dsimp only
  split
  · rfl
  · split
    · next y hy =>
      refine Chip.laserAt_upLaserAt_ne _ (fun hxy => h ?_) _
      have hcold := List.find?_some hy
      rw [hxy]
      simpa using hcold
    · rfl

/-- A standby spare prepares for the group of a laser that is to leave. -/
theorem Chip.startHandover_spec {c : Chip} {r x : LaserRef} (why : BitVec 2) (hserves : (c.laserAt r).serves = true) (hnone : c.preparing r = none)
    (hspare : c.spareLaser r = some x) (hstandby : (c.laserAt x).state = 2) :
    let d := c.startHandover r why
    (d.laserAt x).state = 3 ∧ (d.laserAt x).group = (c.laserAt r).group ∧ d.laserAt r = { c.laserAt r with leaving := why } := by
  intro d
  have hd : d = c.startHandover r why := rfl
  clear_value d
  have hlit : (c.laserAt r).state = 4 ∨ (c.laserAt r).state = 5 := by simpa [Laser.serves] using hserves
  have hxr : x ≠ r := by
    rintro rfl
    rw [hstandby] at hlit
    exact absurd hlit (by decide)
  unfold Chip.startHandover at hd
  rw [hnone, if_neg (by simp)] at hd
  rw [hspare] at hd
  dsimp only at hd
  rw [Chip.laserAt_upLaserAt_ne _ hxr, if_pos hstandby] at hd
  let e := (c.upLaserAt r fun l => { l with leaving := why }).upLaserAt x fun l => { l with state := 3, group := (c.laserAt r).group, ready := false }
  have hx : e.laserAt x = { c.laserAt x with state := 3, group := (c.laserAt r).group, ready := false } := by
    rw [Chip.laserAt_upLaserAt, Chip.laserAt_upLaserAt_ne _ hxr]
  have hr : e.laserAt r = { c.laserAt r with leaving := why } := by
    rw [Chip.laserAt_upLaserAt_ne _ hxr.symm, Chip.laserAt_upLaserAt]
  have hdx : d.laserAt x = e.laserAt x := hd ▸ Chip.laserAt_warmOther e r (by rw [hx]; exact (by decide : (3 : BitVec 3) ≠ 0))
  have hdr : d.laserAt r = e.laserAt r := hd ▸ Chip.laserAt_warmOther e r (by
    rw [hr]
    rcases hlit with h | h
    · exact fun h0 => absurd (h.symm.trans h0) (by decide)
    · exact fun h0 => absurd (h.symm.trans h0) (by decide))
  rw [hdx, hdr, hx, hr]
  exact ⟨rfl, rfl, rfl⟩

/-! ## Fade points -/

/-- A point that is not beyond, or is logged already, is passed over. -/
theorem Chip.fadeCross_of_below {c : Chip} {r : LaserRef} {p : Nat × Nat} (h : look 0 (c.laserAt r).below p.1 < 100) : c.fadeCross r p = c := by
  unfold Chip.fadeCross
  extract_lets l
  exact if_pos (by simp [l, h])

/-- The warning point is logged, and no handover begins. -/
theorem Chip.fadeCross_warning {c : Chip} {r : LaserRef} (hserves : (c.laserAt r).serves = true) (hnew : look false (c.laserAt r).crossed 0 = false)
    (hbelow : 100 ≤ look 0 (c.laserAt r).below 0) :
    c.fadeCross r (0, 10) = (c.event (c.laserSource r) 0 0x206 false (c.laserLocus r) (c.laserAt r).fade.toNat).upLaserAt r
      fun l => { l with crossed := put false l.crossed 0 true } := by
  unfold Chip.fadeCross
  extract_lets l d e
  refine (if_neg (by simp [l, hserves, hnew, hbelow])).trans (if_pos (by simp))

/-- Past the warning point, logged or not, a laser stands as before but for what is logged. -/
theorem Chip.laserAt_fadeCross_zero (c : Chip) (r : LaserRef) :
    ∃ crossed : SMap Bool, (∀ n, n ≠ 0 → look false crossed n = look false (c.laserAt r).crossed n)
      ∧ (c.fadeCross r (0, 10)).laserAt r = { c.laserAt r with crossed := crossed }
      ∧ ∀ x, x ≠ r → (c.fadeCross r (0, 10)).laserAt x = c.laserAt x := by
  unfold Chip.fadeCross
  extract_lets l d e
  split
  · exact ⟨(c.laserAt r).crossed, fun _ _ => rfl, rfl, fun _ _ => rfl⟩
  · refine ⟨put false (c.laserAt r).crossed 0 true, fun n hn => look_put_ne _ _ _ hn, ?_, fun x hx => ?_⟩
    · rw [if_pos (by simp)]
      simp only [e, Chip.laserAt_upLaserAt, d, Chip.laserAt_event]
      rfl
    · rw [if_pos (by simp)]
      simp only [e, Chip.laserAt_upLaserAt_ne _ hx, d, Chip.laserAt_event]

/-- Past the second point a standby spare prepares for the group. -/
theorem Chip.fadeCross_start {c : Chip} {r x : LaserRef} (hserves : (c.laserAt r).serves = true) (hnew : look false (c.laserAt r).crossed 1 = false)
    (hbelow : 100 ≤ look 0 (c.laserAt r).below 1) (hleaving : (c.laserAt r).leaving = 0) (hnone : c.preparing r = none)
    (hspare : c.spareLaser r = some x) (hstandby : (c.laserAt x).state = 2) :
    let d := c.fadeCross r (1, 15)
    (d.laserAt x).state = 3 ∧ (d.laserAt x).group = (c.laserAt r).group
    ∧ d.laserAt r = { c.laserAt r with crossed := put false (c.laserAt r).crossed 1 true, leaving := 1 } := by
  intro d
  have hd : d = c.fadeCross r (1, 15) := rfl
  clear_value d
  unfold Chip.fadeCross at hd
  extract_lets l logged crossed at hd
  rw [if_neg (by simp [l, hserves, hnew, hbelow]), if_neg (by simp [l, hleaving])] at hd
  have hr : crossed.laserAt r = { c.laserAt r with crossed := put false (c.laserAt r).crossed 1 true } := by
    simp only [crossed, Chip.laserAt_upLaserAt, logged, Chip.laserAt_event]
  have hother (y : LaserRef) (hy : y ≠ r) : crossed.laserAt y = c.laserAt y := by
    simp only [crossed, Chip.laserAt_upLaserAt_ne _ hy, logged, Chip.laserAt_event]
  have hsame (y : LaserRef) : (crossed.laserAt y).state = (c.laserAt y).state ∧ (crossed.laserAt y).group = (c.laserAt y).group := by
    by_cases hy : y = r
    · rw [hy, hr]
      exact ⟨rfl, rfl⟩
    · rw [hother y hy]
      exact ⟨rfl, rfl⟩
  obtain ⟨hpreparing, hspares⟩ := Chip.handover_reads hsame r
  have hstart := Chip.startHandover_spec (c := crossed) (r := r) (x := x) 1 (by rw [hr]; exact hserves) (by rw [hpreparing, hnone])
    (by rw [hspares, hspare]) (by rw [(hsame x).1, hstandby])
  rw [← hd] at hstart
  obtain ⟨hstate, hgroup, hleft⟩ := hstart
  exact ⟨hstate, hgroup.trans (hsame r).2, by rw [hleft, hr]⟩

/-- The first measurement of a laser whose lines have not faded. -/
theorem firstMeasured {g : Fin 16} {n : Fin 10} {powers : List Nat} {s : State} :
    let r := LaserRef.compute g n
    let l := s.toChip.laser (g.val * 10 + n.val)
    let key := g.val * 8 + l.group.toNat % 8
    let before (i : Nat) := rawOf (powers.getD i 0) (look 0 (s.toChip.group key).att i)
    l.serves = true → l.power = [] → powers.length = 16 →
    (∀ i, i < 16 → commissioned r l (s.toChip.biasMode r) i ≤ powers.getD i 0 ∧ 0 < powers.getD i 0) →
    Completes (.lineMonitorMeasure r powers false) s (fun t =>
      (t.toChip.laser (g.val * 10 + n.val)).fade = 0 ∧ (t.toChip.laser (g.val * 10 + n.val)).state = l.state
      ∧ (∀ i, i < 16 → look 0 (t.toChip.laser (g.val * 10 + n.val)).power i = powers.getD i 0)
      ∧ (∀ i, i < 16 → (t.toChip.group key).level ≤ before i
          ∧ look 0 (t.toChip.group key).att i = attOf (before i) (t.toChip.group key).level)
      ∧ (∃ i, i < 16 ∧ before i = (t.toChip.group key).level)
      ∧ t.toChip = { s.toChip with freeCtr := t.freeCtr, lasers := t.lasers, groups := t.groups }) := by
  intro r l key before hserves hfirst hlen hgood
  obtain ⟨ref, present, hmeasure⟩ := Chip.lineMeasure_of_unfaded hserves hfirst hlen hgood
  refine ⟨{ s with toChip := s.toChip.lineMeasure r powers false }, rfl, ?_⟩
  have hstate (m : Laser) (ref present : Nat) : (m.watch ref present).state = m.state := rfl
  have hdrawn : s.toChip.draw.2.laser (g.val * 10 + n.val) = l ∧ s.toChip.draw.2.group key = s.toChip.group key := ⟨rfl, rfl⟩
  let d := s.toChip.draw.2.upLaser (g.val * 10 + n.val) fun l => { l.watch ref present with power := linePowers powers, fade := 0 }
  have hlaser : d.laser (g.val * 10 + n.val) = { l.watch ref present with power := linePowers powers, fade := 0 } := Chip.laser_upLaser ..
  have hgroup : (d.upGroup key fun x => x.equalise (linePowers powers)).group key = (s.toChip.group key).equalise (linePowers powers) :=
    Chip.group_upGroup ..
  have hbefore (i : Nat) (hi : i < 16) : (s.toChip.group key).before (linePowers powers) i = before i := by
    rw [Group.before, look_linePowers (by omega)]
  obtain ⟨hlevels, i, hi, hleast⟩ := Group.equalise_spec (s.toChip.group key) (linePowers powers)
  have heq : s.toChip.lineMeasure r powers false = d.upGroup key fun x => x.equalise (linePowers powers) := hmeasure
  have hlaser' : (s.toChip.lineMeasure r powers false).laser (g.val * 10 + n.val) = { l.watch ref present with power := linePowers powers, fade := 0 } := by
    rw [heq, Chip.laser_upGroup, hlaser]
  have hgroup' : (s.toChip.lineMeasure r powers false).group key = (s.toChip.group key).equalise (linePowers powers) := by
    rw [heq, hgroup]
  have hframe : s.toChip.lineMeasure r powers false = { s.toChip with
      freeCtr := (s.toChip.lineMeasure r powers false).freeCtr, lasers := (s.toChip.lineMeasure r powers false).lasers
      groups := (s.toChip.lineMeasure r powers false).groups } := by
    rw [heq]
    exact Chip.frame_upGroup ..
  clear heq hmeasure hgroup hlaser
  clear_value d
  generalize s.toChip.lineMeasure r powers false = e at *
  refine ⟨congrArg Laser.fade hlaser', (congrArg Laser.state hlaser').trans (hstate l ref present), fun i hi => ?_, fun i hi => ?_, ⟨i, hi, ?_⟩, hframe⟩
  · exact (congrArg (fun m : Laser => look 0 m.power i) hlaser').trans (look_linePowers (by omega))
  · rw [← hbefore i hi]
    exact hgroup'.symm ▸ hlevels i hi
  · rw [← hbefore i hi]
    exact hgroup'.symm ▸ hleast

/-- The points of a fade change the parts of the handover and its events alone. -/
theorem Chip.outside_fadePoints (c : Chip) (r : LaserRef) : (fadePoints.foldl (fun c p => c.fadeCross r p) c).outside
    [.regions, .lasers, .linkLasers, .saf, .log] = c.outside [.regions, .lasers, .linkLasers, .saf, .log] :=
  foldl_keep _ _ _ _ fun d p => Chip.outside_fadeCross (by simp) d r p

section
variable {r : LaserRef} {s : State} (hserves : (s.toChip.laserAt r).serves = true) (hbelow : look 0 (s.toChip.laserAt r).below 2 < 100)
include hserves hbelow

/-- At the warning point the crossing is logged once, and nothing else of the laser changes. -/
theorem fadeWarned (hnew0 : look false (s.toChip.laserAt r).crossed 0 = false) (hbelow0 : 100 ≤ look 0 (s.toChip.laserAt r).below 0)
    (hbelow1 : look 0 (s.toChip.laserAt r).below 1 < 100) : Completes (.fadeThresholdCrossed r) s (fun t =>
      t.toChip.laserAt r = { s.toChip.laserAt r with crossed := put false (s.toChip.laserAt r).crossed 0 true }
      ∧ (look ({} : Ring) t.log.rings (s.toChip.laserSource r)).next = (look ({} : Ring) s.log.rings (s.toChip.laserSource r)).next + 1
      ∧ t.mem = s.mem ∧ t.jobs = s.jobs) := by
  let l := s.toChip.laserAt r
  have hframe := s.toChip.outside_fadePoints r
  refine ⟨{ s with toChip := fadePoints.foldl (fun c p => c.fadeCross r p) s.toChip }, rfl, ?_⟩
  have hfirst := Chip.fadeCross_warning hserves hnew0 hbelow0
  have hr : (s.toChip.fadeCross r (0, 10)).laserAt r = { l with crossed := put false l.crossed 0 true } := by
    rw [hfirst, Chip.laserAt_upLaserAt, Chip.laserAt_event]
  have hpoints : fadePoints.foldl (fun c p => c.fadeCross r p) s.toChip = s.toChip.fadeCross r (0, 10) := by
    change ((s.toChip.fadeCross r (0, 10)).fadeCross r (1, 15)).fadeCross r (2, 30) = _
    rw [Chip.fadeCross_of_below (p := (1, 15)) (by rw [hr]; exact hbelow1), Chip.fadeCross_of_below (by rw [hr]; exact hbelow)]
  have hlog : (s.toChip.fadeCross r (0, 10)).log
      = (s.toChip.event (s.toChip.laserSource r) 0 0x206 false (s.toChip.laserLocus r) l.fade.toNat).log := by
    rw [hfirst]
    cases r <;> rfl
  rw [hpoints] at hframe ⊢
  generalize s.toChip.fadeCross r (0, 10) = d at *
  refine ⟨hr, ?_, Chip.mem_of_outside hframe (by simp [noMemory]), (Chip.same_of_outside (p := .jobs) hframe (by simp)).symm⟩
  refine (congrArg (fun g : Log => (look ({} : Ring) g.rings (s.toChip.laserSource r)).next) hlog).trans ?_
  exact Chip.event_nextSeq ..

/-- At the next point a standby spare prepares for the group. -/
theorem fadeHandedOver {x : LaserRef} (hleaving : (s.toChip.laserAt r).leaving = 0) (hnew1 : look false (s.toChip.laserAt r).crossed 1 = false)
    (hbelow1 : 100 ≤ look 0 (s.toChip.laserAt r).below 1) (hnone : s.toChip.preparing r = none) (hspare : s.toChip.spareLaser r = some x)
    (hstandby : (s.toChip.laserAt x).state = 2) : Completes (.fadeThresholdCrossed r) s (fun t =>
      (t.toChip.laserAt x).state = 3 ∧ (t.toChip.laserAt x).group = (s.toChip.laserAt r).group
      ∧ (t.toChip.laserAt r).state = (s.toChip.laserAt r).state ∧ (t.toChip.laserAt r).leaving = 1 ∧ t.mem = s.mem ∧ t.jobs = s.jobs) := by
  have hframe := s.toChip.outside_fadePoints r
  refine ⟨{ s with toChip := fadePoints.foldl (fun c p => c.fadeCross r p) s.toChip }, rfl, ?_⟩
  obtain ⟨crossed, hcrossed, hr, hother⟩ := Chip.laserAt_fadeCross_zero s.toChip r
  have hsame (y : LaserRef) : ((s.toChip.fadeCross r (0, 10)).laserAt y).state = (s.toChip.laserAt y).state
      ∧ ((s.toChip.fadeCross r (0, 10)).laserAt y).group = (s.toChip.laserAt y).group := by
    by_cases hy : y = r
    · rw [hy, hr]
      exact ⟨rfl, rfl⟩
    · rw [hother y hy]
      exact ⟨rfl, rfl⟩
  obtain ⟨hpreparing, hspares⟩ := Chip.handover_reads hsame r
  obtain ⟨hstate, hgroup, hleft⟩ := Chip.fadeCross_start (c := s.toChip.fadeCross r (0, 10)) (r := r) (x := x)
    (by rw [hr]; exact hserves) (by rw [hr]; exact (hcrossed 1 (by decide)).trans hnew1) (by rw [hr]; exact hbelow1)
    (by rw [hr]; exact hleaving) (by rw [hpreparing, hnone]) (by rw [hspares, hspare]) (by rw [(hsame x).1, hstandby])
  have hpoints : fadePoints.foldl (fun c p => c.fadeCross r p) s.toChip = (s.toChip.fadeCross r (0, 10)).fadeCross r (1, 15) := by
    change ((s.toChip.fadeCross r (0, 10)).fadeCross r (1, 15)).fadeCross r (2, 30) = _
    rw [Chip.fadeCross_of_below (p := (2, 30)) (by rw [hleft, hr]; exact hbelow)]
  rw [hpoints] at hframe ⊢
  rw [hr] at hleft hgroup
  generalize (s.toChip.fadeCross r (0, 10)).fadeCross r (1, 15) = d at *
  exact ⟨hstate, hgroup, (congrArg Laser.state hleft).trans rfl, congrArg Laser.leaving hleft,
    Chip.mem_of_outside hframe (by simp [noMemory]), (Chip.same_of_outside (p := .jobs) hframe (by simp)).symm⟩

end

/-- Settles O41: the first measurement, the warning point and the point after it. -/
theorem lineMeasureAndFade : Obligations.LineMeasureAndFade :=
  ⟨fun _ _ _ _ => firstMeasured,
    fun _ _ hserves hleaving _ hbelow => ⟨fadeWarned hserves hbelow, fun _ => fadeHandedOver hserves hbelow hleaving⟩⟩

end Sys2Proof.Machine

/-! Laser handovers and the replacement of a failed laser (R160, R166, R167, R169): the obligation O42. -/

namespace Sys2Proof.Machine

/-! ## The lasers of a pool -/

/-- The spare that would take over is another laser of the pool. -/
theorem Chip.spareLaser_mem {c : Chip} {r x : LaserRef} (h : c.spareLaser r = some x) : x ∈ laserPool r := by
  have hfind {p : LaserRef → Bool} (hp : ((laserPool r).filter (fun x => decide (x ≠ r))).find? p = some x) : x ∈ laserPool r :=
    List.mem_of_mem_filter (List.mem_of_find?_eq_some hp)
  unfold Chip.spareLaser at h
  simp only [Option.orElse_eq_or, Option.or_eq_some_iff] at h
  rcases h with h | ⟨-, h | ⟨-, h⟩⟩
  · exact hfind h
  · exact hfind h
  · exact hfind h

/-- A change of a compute laser is one of the lasers. -/
theorem Chip.upLaserAt_compute {c : Chip} {g : Fin 16} {n : Fin 10} {x : LaserRef} (h : x ∈ laserPool (.compute g n)) (f : Laser → Laser) :
    c.upLaserAt x f = { c with lasers := (c.upLaserAt x f).lasers } := by
  obtain ⟨m, -, rfl⟩ := List.mem_map.mp h
  rfl

theorem Chip.warmOther_compute (c : Chip) (g : Fin 16) (n : Fin 10) :
    c.warmOther (.compute g n) = { c with lasers := (c.warmOther (.compute g n)).lasers } := by
  unfold Chip.warmOther
  dsimp only
  split
  · rfl
  · split
    · next x hx => exact Chip.upLaserAt_compute (n := n) (List.mem_of_find?_eq_some hx) _
    · rfl

/-- A change of a laser. -/
theorem Chip.eq_upLaserAt (c : Chip) (r : LaserRef) (f : Laser → Laser) :
    c.upLaserAt r f = { c with lasers := (c.upLaserAt r f).lasers, linkLasers := (c.upLaserAt r f).linkLasers } := by
  cases r <;> rfl

theorem Chip.eq_upLaserAt_upLaserAt (c : Chip) (r x : LaserRef) (f h : Laser → Laser) : (c.upLaserAt r f).upLaserAt x h
    = { c with lasers := ((c.upLaserAt r f).upLaserAt x h).lasers, linkLasers := ((c.upLaserAt r f).upLaserAt x h).linkLasers } := by
  cases r <;> cases x <;> rfl

/-- A compute laser's handover to a standby spare changes lasers alone. -/
theorem Chip.startHandover_compute {c : Chip} {g : Fin 16} {n : Fin 10} {x : LaserRef} {why : BitVec 2}
    (hnone : c.preparing (.compute g n) = none) (hspare : c.spareLaser (.compute g n) = some x) (hstandby : (c.laserAt x).state = 2)
    (hxr : x ≠ .compute g n) :
    c.startHandover (.compute g n) why = { c with lasers := (c.startHandover (.compute g n) why).lasers } := by
  have hstart : ∃ f h, c.startHandover (.compute g n) why
      = (((c.upLaserAt (.compute g n) f).upLaserAt x h).warmOther (.compute g n)) := by
    unfold Chip.startHandover
    rw [hnone, if_neg (by simp), hspare]
    dsimp only
    rw [Chip.laserAt_upLaserAt_ne _ hxr, if_pos hstandby]
    exact ⟨_, _, rfl⟩
  obtain ⟨f, h, hstart⟩ := hstart
  rw [hstart]
  have hown : ∃ m, c.upLaserAt (.compute g n) f = { c with lasers := m } := ⟨_, rfl⟩
  obtain ⟨m, hown⟩ := hown
  rw [hown, Chip.warmOther_compute, Chip.upLaserAt_compute (Chip.spareLaser_mem hspare)]

/-! ## The spare takes over -/

theorem Chip.laserAt_laserTakesOver (c : Chip) (r : LaserRef) (failed : Bool) (x : LaserRef) : (c.laserTakesOver r failed).laserAt x = c.laserAt x :=
  Chip.laserAt_of_outside (Chip.outside_laserTakesOver (parts := [.regions, .groups, .saf, .log]) (by simp) c r failed) (by simp) (by simp) x

/-- At the end of the handover stroke the spare is active and the outgoing laser retired. -/
theorem Chip.handoverComplete_spec {c : Chip} {r x : LaserRef} (hstate : (c.laserAt r).state = 5) (hincoming : (c.laserAt r).leaving = 0)
    (hpartner : c.partner r = some x) :
    let d := c.handoverComplete r
    (d.laserAt r).state = 4 ∧ (d.laserAt r).group = (c.laserAt r).group ∧ (d.laserAt x).state = 6 := by
  intro d
  have hd : d = c.handoverComplete r := rfl
  clear_value d
  have hxr : x ≠ r := by
    have := List.find?_some hpartner
    simp at this
    exact this.1.1
  unfold Chip.handoverComplete at hd
  extract_lets l retired at hd
  rw [if_pos (by simp [l, hstate, hincoming])] at hd
  have hretired : retired.laserAt r = c.laserAt r ∧ (retired.laserAt x).state = 6 := by
    simp only [retired, hpartner]
    exact ⟨Chip.laserAt_upLaserAt_ne _ hxr.symm _, congrArg Laser.state (Chip.laserAt_upLaserAt ..)⟩
  clear_value retired
  rw [hd, Chip.laserAt_laserTakesOver, Chip.laserAt_laserTakesOver, Chip.laserAt_upLaserAt, Chip.laserAt_upLaserAt_ne _ hxr, hretired.1]
  exact ⟨rfl, rfl, hretired.2⟩

/-- After an abrupt failure a standby spare serves the dark group or port. -/
theorem Chip.spareActive_spec {c : Chip} {r : LaserRef} {k : Nat} (hdark : c.unlit r = some k) (hstandby : (c.laserAt r).state = 2) :
    ((c.spareActive r).laserAt r).state = 4 ∧ ((c.spareActive r).laserAt r).group = BitVec.ofNat 4 k := by
  unfold Chip.spareActive
  rw [hdark]
  dsimp only
  rw [if_pos (by rw [decide_eq_true hstandby]; rfl)]
  let lit := c.upLaserAt r fun l => { l with state := 4, group := BitVec.ofNat 4 k, ready := false, power := [], below := [], crossed := [] }
  let served := (lit.warmOther r).laserTakesOver r true
  have hlit : Chip.laserAt lit r = { c.laserAt r with state := 4, group := BitVec.ofNat 4 k, ready := false, power := [], below := [], crossed := [] } :=
    Chip.laserAt_upLaserAt ..
  have hserved : Chip.laserAt served r = Chip.laserAt lit r :=
    (Chip.laserAt_laserTakesOver ..).trans (Chip.laserAt_warmOther lit r (by rw [hlit]; exact (by decide : (4 : BitVec 3) ≠ 0)))
  change (Chip.laserAt (match r with
      | .compute g _ => served.relight g.val k
      | .link _ => served) r).state = 4 ∧ (Chip.laserAt (match r with
      | .compute g _ => served.relight g.val k
      | .link _ => served) r).group = _
  clear_value served
  have hrelit (q : LaserRef) : Chip.laserAt (match q with
      | .compute g _ => served.relight g.val k
      | .link _ => served) r = Chip.laserAt served r := by
    cases q with
    | compute g n =>
      exact Chip.laserAt_of_outside (Chip.outside_relight (parts := [.jobs, .regions, .plots, .saf, .log]) (by simp) served g.val k) (by simp) (by simp) _
    | link n => rfl
  rw [hrelit, hserved, hlit]
  exact ⟨rfl, rfl⟩

/-! ## The orders of LAS_CMD -/

/-- An order for an active laser of a region in which no handover is under way, with a standby spare. -/
theorem Chip.orderHandover_of_free {c : Chip} {g : Fin 16} {n : Fin 10} {x : LaserRef} (hsel : (c.region g.val).lasLaser.toNat = n.val)
    (hactive : (c.laserAt (.compute g n)).state = 4)
    (hfree : ∀ y ∈ laserPool (.compute g n), (c.laserAt y).state ≠ 3 ∧ (c.laserAt y).state ≠ 5 ∧ (c.laserAt y).leaving = 0)
    (hspare : c.spareLaser (.compute g n) = some x) :
    c.orderHandover g.val 1 = (c.upRegion g.val fun y => { y with lasResult := 1 }).startHandover (.compute g n) 2 := by
  have hbusy : (laserPool (.compute g n)).any (fun x => (c.laserAt x).state == 3 || (c.laserAt x).state == 5 || (c.laserAt x).leaving != 0) = false := by
    refine List.any_eq_false.mpr fun y hy => ?_
    obtain ⟨h3, h5, h0⟩ := hfree y hy
    simp only [Bool.or_eq_true, beq_iff_eq, bne_iff_ne, h3, h5, h0, false_or, ne_eq, not_true_eq_false, not_false_eq_true]
  unfold Chip.orderHandover
  extract_lets m r busy result d
  have hr : r = .compute g n := by
    have hg : Fin.ofNat 16 g.val = g := Fin.ofNat_val_eq_self g
    have hn : Fin.ofNat 10 m = n := by
      rw [show m = n.val from hsel]
      exact Fin.ofNat_val_eq_self n
    simp only [r, hg, hn]
  have hm : m < 10 := lt_of_eq_of_lt hsel n.isLt
  have hresult : result = 1 := by
    have hb : busy = false := by
      simp only [busy, hr]
      exact hbusy
    simp only [result, hb, hr, hactive, hspare]
    simp
    omega
  rw [if_pos hresult]
  simp only [d, hresult, hr]

/-- No laser prepares where none is in that state. -/
theorem Chip.preparing_of_none {c : Chip} {r : LaserRef} (h : ∀ y ∈ laserPool r, (c.laserAt y).state ≠ 3) : c.preparing r = none :=
  List.find?_eq_none.mpr fun y hy => by simp only [Bool.and_eq_true, beq_iff_eq, h y hy, false_and, not_false_eq_true]

theorem handoverOrdered {g : Fin 16} {n : Fin 10} {s : State} {x : LaserRef}
    (hsel : (s.toChip.region g.val).lasLaser.toNat = n.val) (hactive : (s.toChip.laserAt (.compute g n)).state = 4)
    (hfree : ∀ y ∈ laserPool (.compute g n),
      (s.toChip.laserAt y).state ≠ 3 ∧ (s.toChip.laserAt y).state ≠ 5 ∧ (s.toChip.laserAt y).leaving = 0)
    (hspare : s.toChip.spareLaser (.compute g n) = some x) (hstandby : (s.toChip.laserAt x).state = 2) :
    Completes (.lasHandoverOrder g) s (fun t =>
      (t.toChip.region g.val).lasResult = 1 ∧ (t.toChip.laserAt x).state = 3
      ∧ (t.toChip.laserAt x).group = (s.toChip.laserAt (.compute g n)).group ∧ (t.toChip.laserAt (.compute g n)).state = 4
      ∧ t.toChip = { s.toChip with regions := t.regions, lasers := t.lasers }) := by
  let r := LaserRef.compute g n
  refine ⟨{ s with toChip := s.toChip.orderHandover g.val 1 }, rfl, ?_⟩
  let d := s.toChip.upRegion g.val fun y => { y with lasResult := 1 }
  have horder : s.toChip.orderHandover g.val 1 = d.startHandover r 2 := Chip.orderHandover_of_free hsel hactive hfree hspare
  have hxr : x ≠ r := by
    rintro rfl
    rw [hactive] at hstandby
    exact absurd hstandby (by decide)
  have hnone : d.preparing r = none := Chip.preparing_of_none (c := d) fun y hy => (hfree y hy).1
  have hserves : (d.laserAt r).serves = true := by
    have : (d.laserAt r).state = 4 := hactive
    simp [Laser.serves, this]
  obtain ⟨hstate, hgroup, hleft⟩ := Chip.startHandover_spec (c := d) (r := r) (x := x) 2 hserves hnone hspare hstandby
  have hframe := Chip.startHandover_compute (c := d) (g := g) (n := n) (x := x) (why := 2) hnone hspare hstandby hxr
  have hresult : (d.region g.val).lasResult = 1 := congrArg Region.lasResult (Chip.region_upRegion ..)
  have hlit : (d.laserAt r).state = 4 := hactive
  have hframe' : d.startHandover r 2 = { d with lasers := (d.startHandover r 2).lasers } := hframe
  rw [horder]
  clear horder hframe
  generalize d.startHandover r 2 = e at *
  have hregions : e.regions = d.regions := (congrArg Chip.regions hframe').trans rfl
  refine ⟨?_, hstate, hgroup, (congrArg Laser.state hleft).trans hlit, ?_⟩
  · exact (congrArg (fun m : SMap Region => (look ({} : Region) m g.val).lasResult) hregions).trans hresult
  · refine hframe'.trans ?_
    dsimp only
    rw [hregions]
    rfl

section
variable {r : LaserRef} {s : State} {x : LaserRef}

theorem spareReady (hready : (s.toChip.laserAt r).state = 3) : Completes (.spareLaserReady r) s (fun t =>
    t.toChip.laserAt r = { s.toChip.laserAt r with ready := true }
    ∧ t.toChip = { s.toChip with lasers := t.lasers, linkLasers := t.linkLasers }) := by
  refine ⟨{ s with toChip := s.toChip.upLaserAt r fun l => { l with ready := true } }, ?_, Chip.laserAt_upLaserAt .., Chip.eq_upLaserAt ..⟩
  exact congrArg Host.Outcome.next (congrArg (fun c => { s with toChip := c }) (if_pos hready))

theorem handoverStarted (hboundary : s.toChip.handoverBoundary r = true) (hstate : (s.toChip.laserAt r).state = 3)
    (hready : (s.toChip.laserAt r).ready = true)
    (hfind : (laserPool r).find? (fun x => (s.toChip.laserAt x).state == 4 && (s.toChip.laserAt x).group == (s.toChip.laserAt r).group) = some x) :
    Completes (.handoverStart r) s (fun t =>
      (t.toChip.laserAt r).state = 5 ∧ (t.toChip.laserAt x).state = 5
      ∧ t.toChip = { s.toChip with lasers := t.lasers, linkLasers := t.linkLasers }) := by
  let d := (s.toChip.upLaserAt r fun l => { l with state := 5 }).upLaserAt x fun l => { l with state := 5 }
  have hx4 : (s.toChip.laserAt x).state = 4 := by
    have := List.find?_some hfind
    rw [Bool.and_eq_true, beq_iff_eq] at this
    exact this.1
  have hrx : r ≠ x := by
    rintro rfl
    exact absurd (hstate.symm.trans hx4) (by decide)
  have hstart : s.toChip.handoverStart r = d := by
    unfold Chip.handoverStart
    extract_lets l'
    rw [if_neg (by simp [hboundary]), if_pos (by rw [Bool.and_eq_true, decide_eq_true_eq]; exact ⟨hstate, hready⟩)]
    rw [hfind]
  refine ⟨{ s with toChip := s.toChip.handoverStart r }, rfl, ?_⟩
  rw [hstart]
  have hr : d.laserAt r = { s.toChip.laserAt r with state := 5 } := (Chip.laserAt_upLaserAt_ne _ hrx _).trans (Chip.laserAt_upLaserAt ..)
  have hx : (d.laserAt x).state = 5 := congrArg Laser.state (Chip.laserAt_upLaserAt ..)
  refine ⟨congrArg Laser.state hr, hx, ?_⟩
  exact Chip.eq_upLaserAt_upLaserAt ..

theorem handoverEnded (hstate : (s.toChip.laserAt r).state = 5) (hincoming : (s.toChip.laserAt r).leaving = 0)
    (hpartner : s.toChip.partner r = some x) :
    Completes (.handoverComplete r) s (fun t =>
      (t.toChip.laserAt r).state = 4 ∧ (t.toChip.laserAt r).group = (s.toChip.laserAt r).group ∧ (t.toChip.laserAt x).state = 6
      ∧ t.mem = s.mem ∧ t.jobs = s.jobs ∧ t.plots = s.plots) := by
  have hspec := Chip.handoverComplete_spec hstate hincoming hpartner
  have hout := Chip.outside_handoverComplete (parts := [.regions, .lasers, .linkLasers, .groups, .saf, .log]) (by simp) s.toChip r
  refine ⟨{ s with toChip := s.toChip.handoverComplete r }, rfl, ?_⟩
  generalize s.toChip.handoverComplete r = d at *
  obtain ⟨hactive, hgroup, hretired⟩ := hspec
  exact ⟨hactive, hgroup, hretired, Chip.mem_of_outside hout (by simp [noMemory]), (Chip.same_of_outside (p := .jobs) hout (by simp)).symm,
    (Chip.same_of_outside (p := .plots) hout (by simp)).symm⟩

theorem standbyReached (hstate : (s.toChip.laserAt r).state = 1) (hstay : ∀ y ∈ laserPool r, (s.toChip.laserAt y).leaving = 0) :
    Completes (.laserStandbyReached r) s (fun t =>
      t.toChip.laserAt r = { s.toChip.laserAt r with state := 2, group := 0xF }
      ∧ t.toChip = { s.toChip with lasers := t.lasers, linkLasers := t.linkLasers }) := by
  have hreached : s.toChip.standbyReached r = s.toChip.upLaserAt r fun l => { l with state := 2, group := 0xF } := by
    have hnone : (laserPool r).find? (fun x => ((s.toChip.upLaserAt r fun l => { l with state := 2, group := 0xF }).laserAt x).state == 4
        && ((s.toChip.upLaserAt r fun l => { l with state := 2, group := 0xF }).laserAt x).leaving != 0
        && ((s.toChip.upLaserAt r fun l => { l with state := 2, group := 0xF }).preparing x).isNone) = none := by
      refine List.find?_eq_none.mpr fun y hy => ?_
      have hleaving : ((s.toChip.upLaserAt r fun l => { l with state := 2, group := 0xF }).laserAt y).leaving = 0 := by
        by_cases hyr : y = r
        · subst hyr
          rw [Chip.laserAt_upLaserAt]
          exact hstay y hy
        · rw [Chip.laserAt_upLaserAt_ne _ hyr]
          exact hstay y hy
      rw [hleaving]
      simp
    unfold Chip.standbyReached
    rw [if_neg (not_not.mpr hstate)]
    dsimp only
    rw [hnone]
  refine ⟨{ s with toChip := s.toChip.standbyReached r }, rfl, ?_⟩
  rw [hreached]
  exact ⟨Chip.laserAt_upLaserAt .., Chip.eq_upLaserAt ..⟩

theorem darkGroupServed {k : Nat} (hdark : s.toChip.unlit r = some k) (hstandby : (s.toChip.laserAt r).state = 2) :
    Completes (.spareLaserActive r) s (fun t =>
      (t.toChip.laserAt r).state = 4 ∧ (t.toChip.laserAt r).group = BitVec.ofNat 4 k ∧ t.mem = s.mem) := by
  have hspec := Chip.spareActive_spec hdark hstandby
  have hout := Chip.outside_spareActive (parts := [.jobs, .regions, .plots, .lasers, .linkLasers, .groups, .saf, .log]) (by simp) s.toChip r
  refine ⟨{ s with toChip := s.toChip.spareActive r }, rfl, ?_⟩
  generalize s.toChip.spareActive r = d at *
  exact ⟨hspec.1, hspec.2, Chip.mem_of_outside hout (by simp [noMemory])⟩

end

/-- Settles O42: the order, and what each later event of the handover leaves of its laser. -/
theorem handoversComplete : Obligations.HandoversComplete :=
  ⟨fun _ _ _ _ => handoverOrdered,
    fun _ _ => ⟨spareReady, fun _ => handoverStarted, fun _ => handoverEnded, standbyReached, fun _ _ => darkGroupServed⟩⟩

end Sys2Proof.Machine

/-! Lock loops, load strobes and heater channel checks of ring banks (R172, R178 to R180): the obligation O43. -/

namespace Sys2Proof.Machine

/-- The same for the items of one list, none of which unsettles another. -/
theorem overAll_reaches_of_mem {α : Type} (P : Chip → α → Prop) (f : Chip → α → Chip) (l : List α) (hset : ∀ c, ∀ x ∈ l, P (f c x) x)
    (hkeep : ∀ c, ∀ x ∈ l, ∀ y ∈ l, P c y → P (f c x) y) (c : Chip) {y : α} (hy : y ∈ l) : P (overAll l f c) y := by
  have hrun (m : List α) (hm : ∀ x ∈ m, x ∈ l) (d : Chip) (h : y ∈ m ∨ P d y) : P (overAll m f d) y := by
    induction m generalizing d with
    | nil => exact h.resolve_left List.not_mem_nil
    | cons x m ih =>
      refine ih (fun z hz => hm z (List.mem_cons_of_mem _ hz)) (f d x) ?_
      rcases h with h | h
      · rcases List.mem_cons.mp h with rfl | h
        · exact .inr (hset d y hy)
        · exact .inl h
      · exact .inr (hkeep d x (hm x List.mem_cons_self) y hy h)
  exact hrun l (fun _ hx => hx) c (.inl hy)

theorem Chip.bank_of_outside {parts : List Part} {c d : Chip} (h : d.outside parts = c.outside parts) (hp : .banks ∉ parts) (n : Nat) :
    d.bank n = c.bank n := by
  have hbanks : c.banks = d.banks := Chip.same_of_outside h hp
  simp only [Chip.bank, hbanks]

/-! ## The lock loop -/

/-- A new error of an acquiring bank, or of a locked one below the peak event. -/
theorem Chip.lockUpdate_spec {c : Chip} {b : BankRef} {err : Int}
    (h : (c.bank (bankIndex b)).lock = 2 ∨ ((c.bank (bankIndex b)).lock = 3 ∧ err.natAbs ≤ 16)) :
    let x := c.bank (bankIndex b)
    ∃ f : Bank → Bank, c.lockUpdate b err = c.upBank (bankIndex b) f ∧ (f x).bias = x.bias - err.fdiv 4 ∧ (f x).residual = err
      ∧ (f x).lock = if x.lock = 3 ∨ err.natAbs < 16 then 3 else 2 := by
  intro x
  unfold Chip.lockUpdate
  extract_lets d
  rcases h with h | ⟨h, herr⟩
  · refine ⟨_, if_pos h, rfl, rfl, ?_⟩
    have hne : ¬ x.lock = 3 := fun h3 => absurd (h.symm.trans h3) (by decide : (2 : BitVec 3) ≠ 3)
    simp only [hne, false_or]
  · have hne : ¬ x.lock = 2 := fun h2 => absurd (h.symm.trans h2) (by decide : (3 : BitVec 3) ≠ 2)
    rw [if_neg hne, if_pos h]
    rw [if_neg (by omega), if_neg (by simp; omega)]
    refine ⟨_, rfl, rfl, rfl, ?_⟩
    rw [if_pos (.inl h)]
    exact h

/-! ## The load strobe -/

/-- A bank's step at a load strobe, with the plot's note of a clamped load. -/
def Chip.strobeBank (n : Nat) (window : Bool) (c : Chip) (e : Nat × Bank) : Chip :=
  let r := e.2.strobe (n * 10 * ditherFtw (e.1 / 18 % 136) (e.1 % 18) % 2 ^ 32) window
  let c := c.upBank e.1 (fun _ => r.1)
  if r.2 then c.upPlot (e.1 / 18) (fun p => { p with drift := true }) else c

theorem Chip.bank_strobeBank (n : Nat) (window : Bool) (c : Chip) (e : Nat × Bank) (k : Nat) :
    (c.strobeBank n window e).bank k
      = if k = e.1 then (e.2.strobe (n * 10 * ditherFtw (e.1 / 18 % 136) (e.1 % 18) % 2 ^ 32) window).1 else c.bank k := by
  have hbank : (c.strobeBank n window e).bank k
      = (c.upBank e.1 fun _ => (e.2.strobe (n * 10 * ditherFtw (e.1 / 18 % 136) (e.1 % 18) % 2 ^ 32) window).1).bank k := by
    unfold Chip.strobeBank
    dsimp only
    split <;> rfl
  rw [hbank]
  split
  · next h => rw [h, Chip.bank_upBank]
  · next h => exact Chip.bank_upBank_ne _ _ _ _ h

/-- Every listed bank of the region takes its step, and no other bank does. -/
theorem Chip.heaterStrobe_spec {c : Chip} (h : keysRise 0 c.banks = true) (g : Nat) :
    (∀ e ∈ c.banks, e.1 / 18 / 136 = g → (c.heaterStrobe g).bank e.1
        = (e.2.strobe ((c.region g).strobes * 10 * ditherFtw (e.1 / 18 % 136) (e.1 % 18) % 2 ^ 32) (c.windowStrobe g)).1)
    ∧ (∀ k, k / 18 / 136 ≠ g → (c.heaterStrobe g).bank k = c.bank k)
    ∧ ((c.heaterStrobe g).region g).strobes = (c.region g).strobes + 1 := by
  let mine := c.banks.filter (fun e => e.1 / 18 / 136 == g)
  let d := overAll mine (Chip.strobeBank (c.region g).strobes (c.windowStrobe g)) c
  have hd : c.heaterStrobe g = d.upRegion g fun r => { r with strobes := r.strobes + 1 } := rfl
  have hmine (e : Nat × Bank) : e ∈ mine ↔ e ∈ c.banks ∧ e.1 / 18 / 136 = g := by simp [mine]
  refine ⟨fun e he hg => ?_, fun k hk => ?_, ?_⟩
  · have hstep := overAll_reaches_of_mem (fun f (e : Nat × Bank) => f.bank e.1
        = (e.2.strobe ((c.region g).strobes * 10 * ditherFtw (e.1 / 18 % 136) (e.1 % 18) % 2 ^ 32) (c.windowStrobe g)).1)
      (Chip.strobeBank (c.region g).strobes (c.windowStrobe g)) mine
      (fun f x _ => (Chip.bank_strobeBank ..).trans (if_pos rfl))
      (fun f x hx y hy hdone => ?_) c ((hmine e).mpr ⟨he, hg⟩)
    · rw [hd]
      exact hstep
    · refine (Chip.bank_strobeBank ..).trans ?_
      split
      · next hxy =>
        have hlookx := look_of_mem ({} : Bank) h ((hmine x).mp hx).1
        have hlooky := look_of_mem ({} : Bank) h ((hmine y).mp hy).1
        rw [show x = y from Prod.ext hxy.symm (by rw [← hlookx, ← hlooky, hxy])]
      · exact hdone
  · have hkeep : d.bank k = c.bank k := overAll_keep_of_mem (fun f => f.bank k) mine _ c fun f e he =>
      (Chip.bank_strobeBank ..).trans (if_neg fun hke : k = e.1 => hk (by rw [hke]; exact ((hmine e).mp he).2))
    rw [hd]
    exact hkeep
  · have hregion : d.region g = c.region g := Chip.region_view_of_outside id (parts := [.plots, .banks])
      (Chip.outside_overAll _ _ _ fun f e => by simp [Chip.strobeBank, apply_ite (Chip.outside [.plots, .banks])]) (by simp) g
    rw [hd, Chip.region_upRegion, hregion]

/-! ## The channel check -/

/-- A current beyond 1 % of its code and beyond 64 codes is a fault of the bank's channel. -/
theorem Chip.fault_heaterCheck {c : Chip} {b : BankRef} {measured : Nat}
    (hoff : max (c.bank (bankIndex b)).heater.toNat 6400 < ((measured : Int) - (c.bank (bankIndex b)).heater.toNat).natAbs * 100)
    (hfault : (c.bank (bankIndex b)).fault = false) (hstate : (c.plot (bankPlot b)).state ≠ 4) :
    ((c.heaterCheck b measured).bank (bankIndex b)).fault = true := by
  unfold Chip.heaterCheck
  extract_lets x code k p d
  have hd : (d.bank (bankIndex b)).fault = true := congrArg Bank.fault (Chip.bank_upBank ..)
  clear_value d
  rw [if_neg (by simp only [Bool.or_eq_true, decide_eq_true_eq, x, p, hfault, Bool.false_eq_true, false_or]; exact not_or.mpr ⟨hstate, Nat.not_le.mpr hoff⟩)]
  have hkeep {e : Chip} (h : e.outside (endParts ++ [.sch, .plots, .fleetOut, .mon, .saf, .log])
      = d.outside (endParts ++ [.sch, .plots, .fleetOut, .mon, .saf, .log])) : (e.bank (bankIndex b)).fault = true := by
    rw [Chip.bank_of_outside h (by simp [endParts]), hd]
  refine hkeep ?_
  split
  · refine (Chip.outside_addRemedy (by simp) ..).trans (ite_keep (Chip.outside _) ?_ ?_)
    · exact Chip.outside_event (by simp [endParts]) ..
    · exact Chip.outside_dangerLight (by simp [endParts, faultParts]) ..
  · exact (Chip.outside_leaveSeat (by simp) ..).trans (Chip.outside_event (by simp [endParts]) ..)

/-- Settles O43. -/
theorem locksAndHeatersComplete : Obligations.LocksAndHeatersComplete := by
  refine ⟨fun b err s => ?_, fun g s hrise => ?_, fun b measured s => ?_⟩
  · intro x h
    obtain ⟨f, hupdate, hbias, hresidual, hlock⟩ := Chip.lockUpdate_spec h
    refine ⟨{ s with toChip := s.toChip.lockUpdate b err }, rfl, ?_⟩
    rw [hupdate]
    have hbank : (s.toChip.upBank (bankIndex b) f).bank (bankIndex b) = f x := Chip.bank_upBank ..
    exact ⟨(congrArg Bank.bias hbank).trans hbias, (congrArg Bank.residual hbank).trans hresidual, (congrArg Bank.lock hbank).trans hlock, rfl⟩
  · obtain ⟨hmine, hother, hstrobes⟩ := Chip.heaterStrobe_spec hrise g.val
    have hout := Chip.outside_heaterStrobe (parts := [.regions, .plots, .banks]) (by simp) s.toChip g.val
    refine ⟨{ s with toChip := s.toChip.heaterStrobe g.val }, rfl, ?_⟩
    generalize s.toChip.heaterStrobe g.val = d at *
    exact ⟨hmine, hother, hstrobes, Chip.mem_of_outside hout (by simp [noMemory]), (Chip.same_of_outside (p := .jobs) hout (by simp)).symm⟩
  · intro x off
    refine ⟨fun hgood => ?_, fun hfar hbeyond hfault hstate => ?_⟩
    · have hcheck : s.toChip.heaterCheck b measured = s.toChip := by
        unfold Chip.heaterCheck
        extract_lets code k p d
        refine if_pos ?_
        have : off * 100 ≤ max code 6400 := by
          have : code = x.heater.toNat := rfl
          omega
        simp only [Bool.or_eq_true, decide_eq_true_eq]
        exact .inr this
      exact congrArg Host.Outcome.next (congrArg (fun c => { s with toChip := c }) hcheck)
    · refine ⟨{ s with toChip := s.toChip.heaterCheck b measured }, rfl, Chip.fault_heaterCheck ?_ hfault hstate, ?_⟩
      · change max x.heater.toNat 6400 < off * 100
        omega
      · exact Chip.mem_of_vaultMem (Chip.heaterCheck_vaultMem ..)

end Sys2Proof.Machine

/-! Pilot frames and re-sweeps of ring banks (R174 to R176): the obligation O44. -/

namespace Sys2Proof.Machine

/-! ## Sorted lists -/

theorem mem_insertBy {α : Type} (rank : α → Nat) (x y : α) (l : List α) : y ∈ insertBy rank x l ↔ y = x ∨ y ∈ l := by
  induction l with
  | nil => simp [insertBy]
  | cons z l ih =>
    unfold insertBy
    split
    · exact List.mem_cons
    · rw [List.mem_cons, ih, List.mem_cons, or_left_comm]

theorem pairwise_insertBy {α : Type} {rank : α → Nat} {l : List α} (h : l.Pairwise fun x y => rank x ≤ rank y) (x : α) :
    (insertBy rank x l).Pairwise fun x y => rank x ≤ rank y := by
  induction l with
  | nil => simp [insertBy]
  | cons z l ih =>
    obtain ⟨hz, hl⟩ := List.pairwise_cons.mp h
    unfold insertBy
    split
    · next hlt =>
      refine List.pairwise_cons.mpr ⟨fun y hy => ?_, h⟩
      rcases List.mem_cons.mp hy with rfl | hy
      · exact hlt.le
      · exact hlt.le.trans (hz y hy)
    · next hge =>
      refine List.pairwise_cons.mpr ⟨fun y hy => ?_, ih hl⟩
      rcases (mem_insertBy ..).mp hy with rfl | hy
      · exact Nat.not_lt.mp hge
      · exact hz y hy

theorem mem_sortBy {α : Type} (rank : α → Nat) (l : List α) (y : α) : y ∈ sortBy rank l ↔ y ∈ l := by
  have hrest (l m : List α) : y ∈ l.foldl (fun m x => insertBy rank x m) m ↔ y ∈ m ∨ y ∈ l := by
    induction l generalizing m with
    | nil => simp
    | cons x l ih => rw [List.foldl_cons, ih, mem_insertBy, List.mem_cons, or_comm (a := y = x), or_assoc]
  exact (hrest l []).trans (or_iff_right List.not_mem_nil)

theorem pairwise_sortBy {α : Type} (rank : α → Nat) (l : List α) : (sortBy rank l).Pairwise fun x y => rank x ≤ rank y := by
  have hrest (l m : List α) (h : m.Pairwise fun x y => rank x ≤ rank y) :
      (l.foldl (fun m x => insertBy rank x m) m).Pairwise fun x y => rank x ≤ rank y := by
    induction l generalizing m with
    | nil => exact h
    | cons x l ih => exact ih _ (pairwise_insertBy h x)
  exact hrest l [] List.Pairwise.nil

/-- The first item of a sorted list that passes a test has the least rank of those that pass. -/
theorem rank_find?_sortBy_le {α : Type} {rank : α → Nat} {l : List α} {test : α → Bool} {x y : α}
    (h : (sortBy rank l).find? test = some x) (hy : y ∈ l) (htest : test y = true) : rank x ≤ rank y := by
  obtain ⟨-, before, after, hsplit, hbefore⟩ := List.find?_eq_some_iff_append.mp h
  have hsorted := pairwise_sortBy rank l
  have hmem := (mem_sortBy rank l y).mpr hy
  rw [hsplit] at hsorted hmem
  rcases List.mem_append.mp hmem with hmem | hmem
  · exact absurd htest (by simpa using hbefore y hmem)
  · rcases List.mem_cons.mp hmem with rfl | hmem
    · exact le_rfl
    · exact (List.pairwise_cons.mp (List.pairwise_append.mp hsorted).2.1).1 y hmem

/-! ## Pilot tags -/

/-- Every tag of a line and a unit of the light is read back from its chips, after the sync. -/
theorem readTag_tagChips : ∀ (line : Fin 16) (unit : Fin 8),
    (tagChips (tagWord false line.val unit.val)).toNat / 2 ^ 24 = 0xF2
    ∧ readTag ((tagChips (tagWord false line.val unit.val)).toNat % 2 ^ 24) = some (tagWord false line.val unit.val) := by
  decide

/-- The fields of a tag. -/
theorem tagWord_fields : ∀ (line : Fin 16) (unit : Fin 8),
    tagWord false line.val unit.val / 2048 = 0 ∧ tagWord false line.val unit.val / 8 % 16 = unit.val
    ∧ tagWord false line.val unit.val / 128 = line.val := by
  decide

/-- A tag of the bank's own line is its own. -/
theorem ownTag_tagWord {b : BankRef} {line : Fin 16} (h : b.b.val < 16 → line.val = b.b.val) :
    ownTag b (tagWord false line.val (b.o.val / 17)) = true := by
  obtain ⟨hlight, hunit, hline⟩ := tagWord_fields line ⟨b.o.val / 17, by omega⟩
  simp only [ownTag, hlight, hunit, hline, beq_self_eq_true, Bool.true_and, Bool.or_eq_true, decide_eq_true_eq, beq_iff_eq]
  by_cases hb : b.b.val < 16
  · right
    rw [h hb, Nat.mod_eq_of_lt hb]
  · exact .inl (by omega)

/-! ## Pilot frames -/

/-- A frame with the bank's own tag. -/
theorem Chip.pilotFrame_of_own {c : Chip} {b : BankRef} {line : Fin 16} (hlock : 2 ≤ (c.bank (bankIndex b)).lock.toNat)
    (hplot : (c.plot (bankPlot b)).state ≠ 4) (hline : b.b.val < 16 → line.val = b.b.val) :
    c.pilotFrame b (tagChips (tagWord false line.val (b.o.val / 17)))
      = c.upBank (bankIndex b) fun x => { x with tagOk := true, lostFrames := 0, wrongFrames := 0, tagLine := BitVec.ofNat 4 line.val } := by
  obtain ⟨hsync, hread⟩ := readTag_tagChips line ⟨b.o.val / 17, by omega⟩
  obtain ⟨-, -, htag⟩ := tagWord_fields line ⟨b.o.val / 17, by omega⟩
  have hown := ownTag_tagWord hline
  dsimp only at hsync hread htag
  unfold Chip.pilotFrame
  extract_lets k x g _ _ _ _ tag own d
  rw [if_neg (by simp only [Bool.or_eq_true, decide_eq_true_eq]; exact not_or.mpr ⟨Nat.not_lt.mpr hlock, hplot⟩), if_neg (not_not.mpr hsync)]
  have htagged : tag = some (tagWord false line.val (b.o.val / 17)) := hread
  have howned : own = true := by
    simp only [own, htagged]
    exact hown
  rw [if_pos (by rw [howned]; rfl)]
  refine congrArg (c.upBank (bankIndex b)) (funext fun x => ?_)
  simp only [howned, htagged, htag, if_true]

/-- A frame without its sync, before the eighth in a row. -/
theorem Chip.pilotFrame_of_no_sync {c : Chip} {b : BankRef} {chips : BitVec 32} (hlock : 2 ≤ (c.bank (bankIndex b)).lock.toNat)
    (hplot : (c.plot (bankPlot b)).state ≠ 4) (hsync : chips.toNat / 2 ^ 24 ≠ 0xF2) (hlost : (c.bank (bankIndex b)).lostFrames < 7) :
    c.pilotFrame b chips
      = c.upBank (bankIndex b) fun x => { x with tagOk := false, lostFrames := x.lostFrames + 1, wrongFrames := 0 } := by
  unfold Chip.pilotFrame
  extract_lets k x g
  rw [if_neg (by simp only [Bool.or_eq_true, decide_eq_true_eq]; exact not_or.mpr ⟨Nat.not_lt.mpr hlock, hplot⟩), if_pos hsync]
  exact if_pos (by simp only [x]; omega)

/-! ## Re-sweeps -/

/-- The nearest peak of the bank's own tag is the one chosen. -/
theorem chosenPeak_eq_some {b : BankRef} {last : Int} {peaks : List SweepPeak} {p : SweepPeak} (hp : p ∈ peaks)
    (hcode : p.code.toNat % 16 = 0) (hown : ownFrame b p.frame0 = true ∨ ownFrame b p.frame1 = true)
    (hnear : ∀ q ∈ peaks, (q.code.toNat % 16 = 0 ∧ (ownFrame b q.frame0 = true ∨ ownFrame b q.frame1 = true)) → q ≠ p →
      ((p.code.toNat : Int) - last).natAbs < ((q.code.toNat : Int) - last).natAbs) :
    chosenPeak b last peaks = some p := by
  have hlisted : p ∈ peaks.filter (fun p => p.code.toNat % 16 == 0) := List.mem_filter.mpr ⟨hp, beq_iff_eq.mpr hcode⟩
  have htest : (ownFrame b p.frame0 || ownFrame b p.frame1) = true := Bool.or_eq_true_iff.mpr hown
  cases hfind : chosenPeak b last peaks with
  | none => exact absurd htest (List.find?_eq_none.mp hfind p ((mem_sortBy ..).mpr hlisted))
  | some q =>
    have hle := rank_find?_sortBy_le hfind hlisted htest
    obtain ⟨hq, hqcode⟩ := List.mem_filter.mp ((mem_sortBy ..).mp (List.mem_of_find?_eq_some hfind))
    by_contra hne
    have hlt := hnear q hq ⟨beq_iff_eq.mp hqcode, Bool.or_eq_true_iff.mp (List.find?_some (p := fun p : SweepPeak => ownFrame b p.frame0 || ownFrame b p.frame1) hfind)⟩
      fun h => hne (congrArg some h)
    exact absurd hle (Nat.not_le.mpr hlt)

theorem chosenPeak_eq_none {b : BankRef} {last : Int} {peaks : List SweepPeak}
    (h : ∀ p : SweepPeak, p ∈ peaks → ¬ (p.code.toNat % 16 = 0 ∧ (ownFrame b p.frame0 = true ∨ ownFrame b p.frame1 = true))) :
    chosenPeak b last peaks = none := by
  refine List.find?_eq_none.mpr fun q hq htest => ?_
  obtain ⟨hq, hqcode⟩ := List.mem_filter.mp ((mem_sortBy ..).mp hq)
  exact h q hq ⟨beq_iff_eq.mp hqcode, Bool.or_eq_true_iff.mp htest⟩

theorem Chip.resweepDone_of_peak {c : Chip} {b : BankRef} {peaks : List SweepPeak} {p : SweepPeak} (hlock : (c.bank (bankIndex b)).lock = 1)
    (hp : chosenPeak b (c.bank (bankIndex b)).last peaks = some p) :
    let d := c.resweepDone b peaks
    (d.bank (bankIndex b)).lock = 2 ∧ (d.bank (bankIndex b)).bias = p.code.toNat ∧ (d.bank (bankIndex b)).heater = p.code
      ∧ (d.plot (bankPlot b)).survey.due = true ∧ (d.plot (bankPlot b)).resweeps = satAdd (c.plot (bankPlot b)).resweeps 1
      ∧ d = { c with banks := d.banks, plots := d.plots } := by
  intro d
  have hd : d = c.resweepDone b peaks := rfl
  clear_value d
  unfold Chip.resweepDone at hd
  extract_lets x k c1 at hd
  rw [if_neg (not_not.mpr hlock), hp] at hd
  dsimp only at hd
  have hbank (f : Bank → Bank) (h : Plot → Plot) : ((c1.upBank (bankIndex b) f).upPlot k h).bank (bankIndex b) = f (c1.bank (bankIndex b)) :=
    Chip.bank_upBank ..
  have hplot : c1.plot k = { c.plot k with resweeps := satAdd (c.plot k).resweeps 1 } := Chip.plot_upPlot ..
  have hdbank := congrArg (fun c => Chip.bank c (bankIndex b)) hd
  have hdplot := (congrArg (fun c => Chip.plot c k) hd).trans (Chip.plot_upPlot ..)
  replace hdbank := hdbank.trans (hbank ..)
  refine ⟨congrArg Bank.lock hdbank, congrArg Bank.bias hdbank, congrArg Bank.heater hdbank, ?_, ?_, by rw [hd]; rfl⟩
  · rw [hdplot]
    split
    · assumption
    · rfl
  · rw [hdplot]
    exact congrArg Plot.resweeps hplot

/-- Without a peak of its own the bank has failed. -/
theorem Chip.lock_resweepDone_of_none {c : Chip} {b : BankRef} {peaks : List SweepPeak} (hlock : (c.bank (bankIndex b)).lock = 1)
    (hp : chosenPeak b (c.bank (bankIndex b)).last peaks = none) : ((c.resweepDone b peaks).bank (bankIndex b)).lock = 0 := by
  unfold Chip.resweepDone
  extract_lets x k c1 e
  rw [if_neg (not_not.mpr hlock), hp]
  have hfailed : (e.bank (bankIndex b)).lock = 0 := congrArg Bank.lock (Chip.bank_upBank ..)
  clear_value e
  dsimp only
  have hkeep {d : Chip} (h : d.outside (endParts ++ [.sch, .plots, .fleetOut, .mon, .saf, .log])
      = e.outside (endParts ++ [.sch, .plots, .fleetOut, .mon, .saf, .log])) : (d.bank (bankIndex b)).lock = 0 := by
    rw [Chip.bank_of_outside h (by simp [endParts]), hfailed]
  split
  · exact hkeep (Chip.outside_addRemedy (parts := endParts ++ [.sch, .plots, .fleetOut, .mon, .saf, .log]) (by simp) ..)
  · exact hkeep (Chip.outside_leaveSeat (parts := endParts ++ [.sch, .plots, .fleetOut, .mon, .saf, .log]) (by simp) ..)

/-- Settles O44. -/
theorem pilotsComplete : Obligations.PilotsComplete := by
  intro b s x
  refine ⟨fun hlock hplot => ⟨fun line hline => ?_, fun chips hsync hlost => ?_⟩, fun hlock => ?_⟩
  · refine ⟨{ s with toChip := s.toChip.pilotFrame b (tagChips (tagWord false line.val (b.o.val / 17))) }, rfl, ?_⟩
    rw [Chip.pilotFrame_of_own hlock hplot hline]
    have hbank (f : Bank → Bank) : (s.toChip.upBank (bankIndex b) f).bank (bankIndex b) = f x := Chip.bank_upBank ..
    exact ⟨congrArg Bank.tagOk (hbank _), congrArg Bank.tagLine (hbank _), congrArg Bank.wrongFrames (hbank _), congrArg Bank.lostFrames (hbank _), rfl⟩
  · refine ⟨{ s with toChip := s.toChip.pilotFrame b chips }, rfl, ?_⟩
    rw [Chip.pilotFrame_of_no_sync hlock hplot hsync hlost]
    have hbank (f : Bank → Bank) : (s.toChip.upBank (bankIndex b) f).bank (bankIndex b) = f x := Chip.bank_upBank ..
    exact ⟨congrArg Bank.lostFrames (hbank _), congrArg Bank.tagOk (hbank _), rfl⟩
  · intro own
    refine ⟨fun peaks p hp hown hnear => ?_, fun peaks hnone => ?_⟩
    · exact ⟨{ s with toChip := s.toChip.resweepDone b peaks }, rfl,
        Chip.resweepDone_of_peak hlock (chosenPeak_eq_some hp hown.1 hown.2 hnear)⟩
    · exact ⟨{ s with toChip := s.toChip.resweepDone b peaks }, rfl,
        Chip.lock_resweepDone_of_none hlock (chosenPeak_eq_none hnone), Chip.mem_of_vaultMem (Chip.resweepDone_vaultMem ..)⟩

end Sys2Proof.Machine

/-! Scrub, degradation and temperature of an HBM stack (R239, R252 to R254): the obligation O45. -/

namespace Sys2Proof.Machine

theorem satAdd_zero {w : Nat} (x : BitVec w) : satAdd x 0 = x := by
  unfold satAdd
  split
  · have hle : 2 ^ w - 1 ≤ x.toNat := by assumption
    refine BitVec.eq_of_toNat_eq ?_
    rw [BitVec.toNat_allOnes]
    have := x.isLt
    omega
  · rw [Nat.add_zero, BitVec.ofNat_toNat, BitVec.setWidth_eq]

theorem Chip.stack_of_outside {parts : List Part} {c d : Chip} (h : d.outside parts = c.outside parts) (hp : .hbmStacks ∉ parts) (n : Nat) :
    d.stack n = c.stack n := by
  have hstacks : c.hbmStacks = d.hbmStacks := Chip.same_of_outside h hp
  simp only [Chip.stack, hstacks]

/-- A channel fault counts one uncorrectable codeword at its stack, and may mark a channel there as failing. -/
theorem Chip.stack_channelFault (c : Chip) (L : Nat) (rerow : Bool) :
    ∃ failing, (c.channelFault L rerow).stack (addrStack L)
      = { c.stack (addrStack L) with uncorr := satAdd (c.stack (addrStack L)).uncorr 1, failing := failing } := by
  unfold Chip.channelFault
  extract_lets s pc d
  have hd : d.stack s = { c.stack s with uncorr := satAdd (c.stack s).uncorr 1 } := Chip.stack_upStack ..
  have hhit := Chip.outside_hit (parts := [.saf]) (by simp) d (.pseudo s pc) 3
  clear_value d
  have hstacks (e : Chip) (he : e.outside [.saf] = d.outside [.saf]) (cls : Nat) :
      (e.event (srcStack s) cls 0x10A rerow (stackLocus s pc) 5).stack s = { c.stack s with uncorr := satAdd (c.stack s).uncorr 1 } := by
    rw [Chip.stack_of_outside (Chip.outside_event (parts := [.regions, .saf, .log]) (by simp) ..) (by simp), Chip.stack_of_outside he (by simp), hd]
  obtain ⟨e, hits⟩ : ∃ e, e = d.hit (.pseudo s pc) 3 := ⟨_, rfl⟩
  rw [← hits] at hhit ⊢
  obtain ⟨e, failed⟩ := e
  have hlogged := hstacks e hhit (if failed then 2 else 1)
  dsimp only
  cases failed with
  | false => exact ⟨_, hlogged⟩
  | true =>
    have hmark (e : Chip) (y : Stack) (f : Stack → Stack) (h : e.stack s = y) : (e.when true fun c => c.upStack s f).stack s = f y := by
      rw [← h]
      exact Chip.stack_upStack ..
    exact ⟨_, hmark _ _ _ hlogged⟩

/-! ## Scrub -/

/-- A line that could be read. -/
theorem Chip.stack_scrub_corrected (c : Chip) (k line n ondie : Nat) (parity : Bool) (progress : BitVec 8) :
    (c.scrub k line (.corrected n) ondie parity progress).stack k = { c.stack k with
      progress := progress, passes := satIf (decide (progress.toNat < (c.stack k).progress.toNat)) (c.stack k).passes
      corrected := satAdd (c.stack k).corrected n, ondie := satAdd (c.stack k).ondie ondie } := by
  refine (Chip.stack_upStack ..).trans ?_
  rw [Chip.stack_upStack]
  rfl

/-- A line that could not be read. -/
theorem Chip.stack_scrub_uncorrectable (c : Chip) {k line : Nat} (ondie : Nat) (parity : Bool) (progress : BitVec 8) (h : line * 64 < stackBytes) :
    let x := c.stack k
    ∃ failing, (c.scrub k line .uncorrectable ondie parity progress).stack k = { x with
      progress := progress, passes := satIf (decide (progress.toNat < x.progress.toNat)) x.passes
      ondie := satAdd x.ondie ondie, parity := satIf parity x.parity, uncorr := satAdd x.uncorr 1, failing := failing } := by
  intro x
  let f (x : Stack) : Stack := { x with passes := satIf (decide (progress.toNat < x.progress.toNat)) x.passes, progress := progress }
  let d := (c.upStack k f).stackCounts k 0 ondie parity
  have hstack : d.stack k = { x with
      progress := progress, passes := satIf (decide (progress.toNat < x.progress.toNat)) x.passes
      ondie := satAdd x.ondie ondie, parity := satIf parity x.parity } := by
    refine (Chip.stack_upStack ..).trans ?_
    rw [Chip.stack_upStack, satAdd_zero]
  have haddr : addrStack (k * stackBytes + 64 * line) = k := by
    unfold addrStack
    unfold stackBytes at h ⊢
    omega
  obtain ⟨failing, hfault⟩ := Chip.stack_channelFault d (k * stackBytes + 64 * line) false
  rw [haddr, hstack] at hfault
  exact ⟨failing, hfault⟩

/-! ## Degradation -/

theorem Chip.dropChannels_spec {c : Chip} {k : Nat} (h : (c.stack k).failing &&& ~~~(c.stack k).failed ≠ 0) :
    let x := c.stack k
    (c.dropChannels k).stack k = { x with state := if x.state = 2 then 2 else 1, failed := x.failed ||| x.failing, failing := 0 }
      ∧ (c.dropChannels k).jobs = c.jobs.filter fun j => decide
          (j.id ∉ (c.jobs.filter fun j => j.holdsStacks && (c.windowOf j).contains k).map (·.id)) := by
  intro x
  unfold Chip.dropChannels
  extract_lets new d events gone aborted
  have hfailed : x.failed ||| new = x.failed ||| x.failing := by
    simp only [new, Stack.dropping, x]
    ext i
    simp
    cases (c.stack k).failed[i] <;> simp
  have hd : d.stack k = { x with state := if x.state = 2 then 2 else 1, failed := x.failed ||| x.failing, failing := 0 } := by
    rw [← hfailed]
    exact Chip.stack_upStack ..
  have hdout : d.outside [.hbmStacks] = c.outside [.hbmStacks] := Chip.outside_upStack _ (by simp) ..
  have hevents : events.outside [.regions, .saf, .log] = d.outside [.regions, .saf, .log] :=
    Chip.outside_overAll _ _ _ fun f n => Chip.outside_event (by simp) ..
  have haborted : aborted.outside endParts = events.outside endParts :=
    Chip.outside_overAll _ _ _ fun f j => Chip.outside_abortJob (by simp) ..
  have hjobs : aborted.jobs = events.jobs.filter fun j => decide (j.id ∉ gone.map (·.id)) := by
    refine Eq.trans ?_ (Chip.jobs_abortAll (gone.map (·.id)) statusDegraded 0 events)
    simp only [aborted, overAll, List.foldl_map]
  have hjobsEvents : c.jobs = events.jobs :=
    (Chip.same_of_outside (p := .jobs) hdout (by simp)).trans (Chip.same_of_outside (p := .jobs) hevents (by simp))
  have hwindow (j : Job) : events.windowOf j = c.windowOf j := by
    have hsch : c.sch = events.sch := (Chip.same_of_outside (p := .sch) hdout (by simp)).trans (Chip.same_of_outside (p := .sch) hevents (by simp))
    simp only [Chip.windowOf, Chip.imageOf, hsch]
  rw [if_neg (show ¬ new = 0 from h)]
  constructor
  · refine Eq.trans ?_ hd
    refine (Chip.stack_of_outside (Chip.outside_dropShadows (parts := [.cores]) (by simp) ..) (by simp) k).trans ?_
    exact (Chip.stack_of_outside haborted (by simp [endParts]) k).trans (Chip.stack_of_outside hevents (by simp) k)
  · refine Eq.trans ?_ (hjobs.trans ?_)
    · exact (Chip.same_of_outside (p := .jobs) (Chip.outside_dropShadows (parts := [.cores]) (by simp) { aborted with mem := _ } k) (by simp)).symm
    · simp only [gone, ← hjobsEvents, hwindow]

theorem Chip.degrade_spec {c : Chip} {k : Nat} (h : (c.stack k).failing &&& ~~~(c.stack k).failed ≠ 0) :
    let x := c.stack k
    let d := c.degrade k
    d.stack k = { x with state := if x.state = 2 then 2 else 1, failed := x.failed ||| x.failing, failing := 0 }
      ∧ (∀ j ∈ c.jobs, j.holdsStacks = true → k ∈ c.windowOf j → d.job? j.id = none) ∧ d.mem = { c.mem with hbm := d.mem.hbm } := by
  intro x d
  obtain ⟨hstack, hjobs⟩ := Chip.dropChannels_spec h
  have hd : d = (c.dropChannels k).rebuildCopies k (ledgerHeld c.mem.hbm ++ ledgerTiers c.mem.ledger).eraseDups := if_neg h
  have hdrop := Chip.outside_degrade (parts := endParts ++ [.hbmStacks, .saf, .log, .hbm]) (by simp) c k
  have hrebuild := Chip.outside_rebuildCopies (parts := [.freeCtr, .regions, .saf, .log, .hbm]) (by simp) (c.dropChannels k) k
    (ledgerHeld c.mem.hbm ++ ledgerTiers c.mem.ledger).eraseDups
  change d.outside _ = _ at hdrop
  rw [← hd] at hrebuild
  clear_value d
  refine ⟨(Chip.stack_of_outside hrebuild (by simp) k).trans hstack, fun j hj hholds hk => ?_, ?_⟩
  · have hgone : d.jobs = _ := (Chip.same_of_outside (p := .jobs) hrebuild (by simp)).symm.trans hjobs
    refine List.find?_eq_none.mpr fun i hi hid => ?_
    rw [hgone] at hi
    obtain ⟨-, hnot⟩ := List.mem_filter.mp hi
    refine of_decide_eq_true hnot (List.mem_map.mpr ⟨j, List.mem_filter.mpr ⟨hj, ?_⟩, (by simpa using hid : i.id = j.id).symm⟩)
    rw [hholds, Bool.true_and]
    exact List.contains_iff_mem.mpr hk
  · obtain ⟨⟩ := c
    obtain ⟨⟩ := d
    simp [Chip.outside, Mems.eq_iff, endParts] at hdrop ⊢
    simp [hdrop]

/-- Settles O45. -/
theorem stackCommandsComplete : Obligations.StackCommandsComplete := by
  intro k s x
  refine ⟨fun line n ondie parity progress => ?_, fun h => ?_, fun celsius => ?_⟩
  · intro passes
    refine ⟨?_, ?_, fun hline => ?_⟩
    · have hstack := Chip.stack_scrub_corrected s.toChip k.val line 0 ondie parity progress
      rw [satAdd_zero] at hstack
      exact ⟨{ s with toChip := s.toChip.scrub k.val line .clean ondie parity progress }, rfl, hstack, rfl⟩
    · have hstack := Chip.stack_scrub_corrected s.toChip k.val line n ondie parity progress
      exact ⟨{ s with toChip := s.toChip.scrub k.val line (.corrected n) ondie parity progress }, rfl, hstack, rfl⟩
    · obtain ⟨failing, hstack⟩ := Chip.stack_scrub_uncorrectable s.toChip (k := k.val) ondie parity progress hline
      have hout := Chip.outside_scrub (parts := [.regions, .hbmStacks, .saf, .log]) (by simp) s.toChip k.val line .uncorrectable ondie parity progress
      refine ⟨{ s with toChip := s.toChip.scrub k.val line .uncorrectable ondie parity progress }, rfl, ?_⟩
      generalize s.toChip.scrub k.val line .uncorrectable ondie parity progress = d at *
      exact ⟨congrArg Stack.uncorr hstack, congrArg Stack.ondie hstack, congrArg Stack.parity hstack, congrArg Stack.progress hstack,
        congrArg Stack.passes hstack, Chip.mem_of_outside hout (by simp [noMemory]), (Chip.same_of_outside (p := .jobs) hout (by simp)).symm⟩
  · exact ⟨{ s with toChip := s.toChip.degrade k.val }, rfl, Chip.degrade_spec h⟩
  · exact ⟨{ s with toChip := s.toChip.upStack k.val fun x => { x with temp := celsius } }, rfl, Chip.stack_upStack .., rfl⟩

end Sys2Proof.Machine

/-! What the frames received on a Lamni port do (R260, R265 to R272, R280 to R282, R288): the obligation O46. -/

namespace Sys2Proof.Machine

theorem Chip.port_of_outside {parts : List Part} {c d : Chip} (h : d.outside parts = c.outside parts) (hp : .ports ∉ parts) (n : Nat) :
    d.port n = c.port n := by
  have hports : c.ports = d.ports := Chip.same_of_outside h hp
  simp only [Chip.port, hports]

theorem Chip.lane_of_outside {parts : List Part} {c d : Chip} (h : d.outside parts = c.outside parts) (hp : .lanes ∉ parts) (n : Nat) :
    d.lane n = c.lane n := by
  have hlanes : c.lanes = d.lanes := Chip.same_of_outside h hp
  simp only [Chip.lane, hlanes]

theorem Chip.takeFrame_of_good {c : Chip} {p : Fin 16} {l : Fin 9} {h : FrameHdr} {code : CodeResult} (lost f : Chip → Chip)
    (hcode : code ≠ .uncorrectable) (hclean : hdrUnclean h = false) : c.takeFrame p l h code lost f = f c := by
  unfold Chip.takeFrame
  rw [if_neg hcode, if_neg (Bool.not_eq_true _ ▸ hclean)]

theorem Chip.takeFrame_of_bad (c : Chip) (p : Fin 16) (l : Fin 9) (h : FrameHdr) (lost f : Chip → Chip) :
    c.takeFrame p l h .uncorrectable lost f = lost (c.codeFails p.val l.val) := if_pos rfl

/-! ## Faults of a port -/

/-- The port's counters at a fault of some kind. -/
def Port.faulted (kind : Nat) (q : Port) : Port :=
  { q with
    codewordFaults := satIf (kind == 1) q.codewordFaults, markerFaults := satIf (kind == 2) q.markerFaults
    timingFaults := satIf (kind == 3) q.timingFaults, headerFaults := satIf (kind == 4 || kind == 5) q.headerFaults }

/-- A link fault counts at its port. -/
theorem Chip.port_linkFault (c : Chip) (p l kind : Nat) : (c.linkFault p l kind).port p = (c.port p).faulted kind := by
  unfold Chip.linkFault
  extract_lets d onLane loc r e used f
  have hport : d.port p = (c.port p).faulted kind := Chip.port_upPort ..
  have he : e.outside [.saf] = d.outside [.saf] := by
    simp only [e, r]
    repeat' split
    all_goals simp
  have hf : f.port p = (c.port p).faulted kind := by
    rw [← hport]
    exact (Chip.port_of_outside (Chip.outside_event (parts := [.regions, .saf, .log]) (by simp) ..) (by simp) p).trans (Chip.port_of_outside he (by simp) p)
  clear_value f
  split
  · exact hf
  · refine (Chip.port_of_outside (parts := [.sch, .jobs, .fleetOut, .saf]) ?_ (by simp) p).trans hf
    refine (Chip.outside_overAll _ _ _ fun g j => Chip.outside_callJob (by simp) ..).trans ?_
    refine ite_keep (Chip.outside _) rfl ?_
    exact Chip.outside_addRemedy (by simp) ..

/-- The loss of a port's lanes is one permanent event of the port. -/
theorem Chip.linkFault_lanesLost (c : Chip) (p l : Nat) :
    (c.linkFault p l 6).log.nextSeq (srcPort p) = c.log.nextSeq (srcPort p) + 1
      ∧ (c.linkFault p l 6).saf.permanent = satAdd c.saf.permanent 1 := by
  obtain ⟨e, used, loc, he, hfault⟩ : ∃ (e : Chip) (used : Bool) (loc : BitVec 32), e.outside [.ports] = c.outside [.ports]
      ∧ (c.linkFault p l 6).outside [.sch, .jobs, .fleetOut] = (e.event (srcPort p) 2 0x301 used loc 6).outside [.sch, .jobs, .fleetOut] := by
    refine ⟨c.upPort p (Port.faulted 6), !((c.upPort p (Port.faulted 6)).portLive p).isEmpty, portLocus p none, by simp, ?_⟩
    unfold Chip.linkFault
    extract_lets d onLane loc r e used f
    change Chip.outside _ (if (!used) = true then f else _) = Chip.outside _ f
    refine ite_keep (Chip.outside _) rfl ?_
    exact Chip.outside_overAll _ _ _ fun g j => Chip.outside_callJob (by simp) ..
  have hlog : _ = (c.linkFault p l 6).log := Chip.same_of_outside (p := .log) hfault (by simp)
  have hsaf : _ = (c.linkFault p l 6).saf := Chip.same_of_outside (p := .saf) hfault (by simp)
  have helog : c.log = e.log := Chip.same_of_outside (p := .log) he (by simp)
  have hesaf : c.saf = e.saf := Chip.same_of_outside (p := .saf) he (by simp)
  rw [← hlog, ← hsaf, helog, hesaf]
  exact ⟨Chip.event_nextSeq .., Chip.event_permanent ..⟩

/-- A port in use whose lanes are lost waits for its laser. -/
theorem Chip.state_awaitLaser {c : Chip} {p : Nat} (h : (c.port p).state = 2 ∨ (c.port p).state = 3 ∨ (c.port p).state = 4) :
    ((c.awaitLaser p).port p).state = 1 := by
  unfold Chip.awaitLaser
  rw [if_pos (by rcases h with h | h | h <;> rw [h] <;> decide)]
  exact congrArg Port.state (Chip.port_upPort ..)

/-! ## Data and catches -/

theorem Chip.dataArrives_of_agrees {c : Chip} {p l : Nat} {j : Job} {i : Image} {f : Frame} (hdiscard : c.discarded j i f.hdr = false)
    (hstroke : c.strokeAgrees j i f.hdr = true) (hheader : c.headerAgrees j i p f = true)
    (hdigest : f.hdr.digestFrag = digestFrag i.id f.hdr.stroke.toNat) (hsize : (c.port p).held + f.payload.length ≤ 2 ^ 21) :
    ∃ g : Port → Port, c.dataArrives p l j i f = c.upPort p g ∧ ∀ q, (g q).buffer = q.buffer ++ [{ lane := l, frame := f }] := by
  unfold Chip.dataArrives
  extract_lets strokeOk kind d q size
  rw [if_neg (by rw [hdiscard]; exact Bool.false_ne_true), if_neg (by simp [strokeOk, hstroke, hheader, hdigest]), if_neg (Nat.not_lt.mpr hsize)]
  exact ⟨_, rfl, fun q => rfl⟩

theorem Chip.runCatch_of_answer {c : Chip} {p l : Nat} {j : Job} {m : CatchMsg} {offset : Int} (hoff : offset.natAbs ≤ 200)
    (himage : m.imageId = j.image) (hdue : (c.port p).catches.head? = some (m.jobStroke.toNat, m.epoch)) :
    (c.runCatch p l j m offset).port p = { c.port p with
        offset := BitVec.ofInt 16 offset, catchMiss := 0, catches := (c.port p).catches.drop 1 }
      ∧ c.runCatch p l j m offset = { c with ports := (c.runCatch p l j m offset).ports } := by
  unfold Chip.runCatch
  extract_lets far n d e due f
  have hn : n = 0 := if_neg (by simp only [far, decide_eq_true_eq]; omega)
  have he : e = d := by
    simp only [e, hn]
    rfl
  have hd : d.port p = { c.port p with offset := BitVec.ofInt 16 offset, catchMiss := 0 } := by
    refine (Chip.port_upPort ..).trans ?_
    rw [hn, show max (-32768) (min 32767 offset) = offset by omega]
    rfl
  have hdue' : due = some (m.jobStroke.toNat, m.epoch) := by
    simp only [due, he, hd]
    exact hdue
  rw [if_pos (by rw [himage, hdue']; simp)]
  refine ⟨(Chip.port_upPort ..).trans ?_, ?_⟩
  · rw [he, hd]
  · simp only [f, he]
    rfl

/-! ## Weigh-in -/

/-- A change of every entry that leaves the one of an address leaves what the table shows there. -/
theorem look_adjust_of_fixed {V : Type} [DecidableEq V] {d : V} {f : V → V} {m : SMap V} {n : Nat} (hne : look d m n ≠ d)
    (hfix : f (look d m n) = look d m n) : look d (adjust d (fun _ => true) f m) n = look d m n := by
  induction m with
  | nil => exact absurd rfl hne
  | cons e m ih =>
    obtain ⟨k, v⟩ := e
    by_cases hn : n = k
    · subst hn
      simp only [look, if_true] at hne hfix
      simp [adjust, look, hfix, hne]
    · simp only [look, if_neg hn] at hne hfix
      have hrest := ih hne hfix
      by_cases hd : f v = d <;> simp [adjust, look, hd, hn] at hrest ⊢ <;> exact hrest

/-- A port that is neither unused nor in quarantine keeps what it holds when the fleet stroke is set. -/
theorem Chip.port_setFleetStroke {c : Chip} {p : Nat} (n : BitVec 48) (h0 : (c.port p).state ≠ 0) (h3 : (c.port p).state ≠ 3) :
    (c.setFleetStroke n).port p = c.port p := by
  refine look_adjust_of_fixed (f := fun q => if q.state = 3 && q.retryAt ≠ 0 then { q with retryAt := n.toNat + 1024 } else q)
    (fun h => h0 (congrArg Port.state h)) (if_neg ?_)
  simp only [Bool.and_eq_true, decide_eq_true_eq]
  exact fun h => h3 h.1

/-- What the sixteenth frame of a weigh-in leaves of its port. -/
theorem Chip.port_weighIn {c : Chip} {p : Nat} (n : BitVec 48) (m : WeighMsg) (h : (c.port p).state = 2) :
    let why := c.weighDiffers p n m
    let q := (c.weighIn p n m).port p
    (why = 0 → (c.port p).hop.toNat + 50 ≤ c.cfg.hopBudget.toNat → q.state = 4 ∧ q.weighReason = 0 ∧ q.peerMember = m.member)
      ∧ (why = 0 → c.cfg.hopBudget.toNat < (c.port p).hop.toNat + 50 → q.state = 1 ∧ q.remeasure = true)
      ∧ (why ≠ 0 → q.state = 3 ∧ q.weighReason = BitVec.ofNat 4 why) := by
  intro why q
  obtain ⟨x, hx⟩ : ∃ x, x = c.weighIn p n m := ⟨_, rfl⟩
  have hq : q = x.port p := by rw [hx]
  unfold Chip.weighIn at hx
  extract_lets joined d at hx
  have hd : d.port p = { c.port p with
      weighCount := 0, peerPort := m.port.setWidth 4, peerFleet := m.fleetId, peerMember := m.member } := Chip.port_upPort ..
  have hcfg : d.cfg = c.cfg := rfl
  have hhop : (d.port p).hop = (c.port p).hop := by rw [hd]
  clear_value why d q
  subst hq
  refine ⟨fun hwhy hhop' => ?_, fun hwhy hhop' => ?_, fun hwhy => ?_⟩
  · rw [if_neg (not_not.mpr hwhy), if_neg (by rw [hhop, hcfg]; omega)] at hx
    rw [hx]
    have hset (b : Bool) (n : BitVec 48) : (d.when b fun c => c.setFleetStroke n).port p = d.port p := by
      cases b with
      | false => rfl
      | true =>
        exact Chip.port_setFleetStroke n
          (by rw [hd]; exact fun h0 => absurd (h.symm.trans h0) (by decide : (2 : BitVec 4) ≠ 0))
          (by rw [hd]; exact fun h3 => absurd (h.symm.trans h3) (by decide : (2 : BitVec 4) ≠ 3))
    refine ⟨congrArg Port.state (Chip.port_upPort ..), congrArg Port.weighReason (Chip.port_upPort ..), ?_⟩
    refine (congrArg Port.peerMember (Chip.port_upPort ..)).trans ?_
    refine (congrArg Port.peerMember (hset ..)).trans ?_
    rw [hd]
  · rw [if_neg (not_not.mpr hwhy), if_pos (by rw [hhop, hcfg]; exact hhop')] at hx
    rw [hx]
    exact ⟨congrArg Port.state (Chip.port_upPort ..), congrArg Port.remeasure (Chip.port_upPort ..)⟩
  · rw [if_pos hwhy] at hx
    rw [hx]
    have hport : (d.quarantine p why).port p = _ :=
      (Chip.port_of_outside (Chip.outside_event (parts := [.regions, .saf, .log]) (by simp) ..) (by simp) p).trans (Chip.port_upPort ..)
    exact ⟨congrArg Port.state hport, congrArg Port.weighReason hport⟩

/-! ## Lane control -/

/-- What a header carries does not turn on a port's waiting lane requests. -/
theorem Chip.frameOn_upPort {c : Chip} {p : Nat} {f : Port → Port} (hf : (f (c.port p)).mapTx = (c.port p).mapTx) (m : LinkMsg) :
    (c.upPort p f).frameOn p m = c.frameOn p m := by
  have hmap : ((c.upPort p f).port p).mapTx = (c.port p).mapTx := by rw [Chip.port_upPort, hf]
  simp only [Chip.frameOn, hmap]
  rfl

/-! ## Signals -/

/-- The marks of a signal on a job leave what a header carries. -/
theorem Chip.portJob_upJob (c : Chip) (id : JobId) {f : Job → Job}
    (hf : ∀ j, (f j).holds = j.holds ∧ (f j).image = j.image ∧ (f j).body = j.body) (p : Nat) :
    (c.upJob id f).portJob p = (c.portJob p).map fun j => if j.id = id then f j else j := by
  have hsame : ((fun j : Job => j.holds && ((c.upJob id f).jobPorts j).contains p) ∘ fun j => if j.id = id then f j else j)
      = fun j => j.holds && (c.jobPorts j).contains p := by
    funext j
    obtain ⟨hholds, himage, hbody⟩ := hf j
    by_cases h : j.id = id
    · simp only [Function.comp_apply, if_pos h, hholds, Chip.jobPorts, Chip.imageOf, Job.ports, himage, hbody]
      rfl
    · simp only [Function.comp_apply, if_neg h]
      rfl
  unfold Chip.portJob
  rw [← hsame]
  exact List.find?_map ..

theorem Chip.frameOn_knownX (c : Chip) (id : JobId) (x : Nat) (p : Nat) (m : LinkMsg) :
    (c.upJob id fun k => { k with knownX := some x }).frameOn p m = c.frameOn p m := by
  have hjob := c.portJob_upJob id (f := fun k => { k with knownX := some x }) (fun _ => ⟨rfl, rfl, rfl⟩) p
  have hhdr : (c.upJob id fun k => { k with knownX := some x }).portHdr p m = c.portHdr p m := by
    simp only [Chip.portHdr, Chip.portStroke, hjob]
    cases c.portJob p with
    | none => rfl
    | some j =>
      simp only [Option.map_some]
      by_cases h : j.id = id
      · simp only [if_pos h]
      · simp only [if_neg h]
  simp only [Chip.frameOn, hhdr]
  rfl

/-- A job is marked with a new REROW signal, which goes on through its other ports. -/
theorem Chip.takeSignal_rerow {c : Chip} {j : Job} {p : Nat} {m : SignalMsg} (hj : j ∈ c.jobs) (hkind : m.kind = 1)
    (hepoch : j.epoch.toNat ≤ m.epoch.toNat) (hx : ∀ x, j.knownX = some x → m.stroke.toNat < x) :
    let d := c.takeSignal j p m
    (d.job? j.id).map (·.knownX) = some (some m.stroke.toNat)
      ∧ d.fleetOut = c.fleetOut ++ (c.upPorts ((c.jobPorts j).filter fun n => n ≠ p)).map (fun n => c.frameOn n (.signal { m with hops := m.hops + 1 }))
      ∧ d.sch.forwarded = satAdd c.sch.forwarded 1 := by
  intro d
  let marked := c.upJob j.id fun k => { k with knownX := some m.stroke.toNat }
  have hd : d = marked.forward j p m := by
    simp only [d, Chip.takeSignal, hkind]
    rw [if_neg (by decide), if_neg (Nat.not_lt.mpr hepoch), if_pos True.intro]
    refine if_neg ?_
    cases hknown : j.knownX with
    | none => exact Bool.false_ne_true
    | some x => simpa using hx x hknown
  have hframe : marked.frameOn = c.frameOn := by
    funext n m'
    exact c.frameOn_knownX ..
  refine ⟨?_, ?_, ?_⟩
  · have hjob : d.job? j.id = marked.job? j.id := by rw [hd]; rfl
    rw [hjob, c.job?_upJob j.id j.id (fun k => { k with knownX := some m.stroke.toNat }) fun _ => rfl]
    cases hfound : c.job? j.id with
    | none => exact absurd (by simp : (j.id == j.id) = true) (List.find?_eq_none.mp hfound j hj)
    | some k => simp [Chip.id_of_job? hfound]
  · rw [hd]
    have hout : (marked.forward j p m).fleetOut = c.fleetOut
        ++ (c.upPorts ((c.jobPorts j).filter fun n => n ≠ p)).map (fun n => marked.frameOn n (.signal { m with hops := m.hops + 1 })) := rfl
    rw [hout, hframe]
  · rw [hd]
    rfl

/-- A frame whose code fails counts at its lane. -/
theorem Chip.lane_codeFails (c : Chip) (p l : Nat) :
    ((c.codeFails p l).lane (laneKey p l)).uncorr = satAdd (c.lane (laneKey p l)).uncorr 1 :=
  congrArg Lane.uncorr (Chip.lane_upLane ..)

/-! ## The obligation -/

/-- Actions with one effect on the block lead to one state. -/
theorem next_congr {s : State} {c d : Chip} (h : c = d) :
    (Host.Outcome.next { s with toChip := c } : Host.Outcome State Fault Refusal) = .next { s with toChip := d } := by
  rw [h]

theorem dataFrame_of_agrees {p : Fin 16} {l : Fin 9} {code : CodeResult} {s : State} {f : Frame} {j : Job} {i : Image} (hcode : code ≠ .uncorrectable)
    (hstate : (s.toChip.port p.val).state = 4) (hj : s.toChip.portJob p.val = some j) (hi : s.toChip.imageOf j = some i)
    (hdiscard : s.toChip.discarded j i f.hdr = false) (hstroke : s.toChip.strokeAgrees j i f.hdr = true)
    (hheader : s.toChip.headerAgrees j i p.val f = true) (hdigest : f.hdr.digestFrag = digestFrag i.id f.hdr.stroke.toNat)
    (hsize : (s.toChip.port p.val).held + f.payload.length ≤ 2 ^ 21) :
    Completes (.dataFrame p l f code) s fun t =>
      (t.toChip.port p.val).buffer = (s.toChip.port p.val).buffer ++ [{ lane := l, frame := f }] ∧ t.toChip = { s.toChip with ports := t.ports } := by
  obtain ⟨g, hdata, hbuffer⟩ := Chip.dataArrives_of_agrees (l := l.val) hdiscard hstroke hheader hdigest hsize
  refine ⟨{ s with toChip := s.toChip.upPort p.val g }, ?_, ?_, rfl⟩
  · refine next_congr (Eq.trans ?_ hdata)
    dsimp only
    rw [if_neg (not_not.mpr hstate), if_neg hcode, hj]
    dsimp only
    rw [hi]
  · exact (congrArg Port.buffer (Chip.port_upPort ..)).trans (hbuffer _)

theorem catchFrame_of_answer {p : Fin 16} {l : Fin 9} {hdr : FrameHdr} {code : CodeResult} {s : State} {m : CatchMsg} {offset : Int} {j : Job}
    (hcode : code ≠ .uncorrectable) (hclean : hdrUnclean hdr = false)
    (hstate : (s.toChip.port p.val).state = 4) (hj : s.toChip.portJob p.val = some j) (hfleet : j.fleet = true) (hlead : m.leadIn = false)
    (hlive : j.live = true) (hoff : offset.natAbs ≤ 200) (himage : m.imageId = j.image)
    (hdue : (s.toChip.port p.val).catches.head? = some (m.jobStroke.toNat, m.epoch)) :
    Completes (.catchFrame p l hdr m offset code) s fun t =>
      t.toChip.port p.val = { s.toChip.port p.val with
          offset := BitVec.ofInt 16 offset, catchMiss := 0, catches := (s.toChip.port p.val).catches.drop 1 }
        ∧ t.toChip = { s.toChip with ports := t.ports } := by
  refine ⟨{ s with toChip := s.toChip.runCatch p.val l.val j m offset }, ?_, Chip.runCatch_of_answer hoff himage hdue⟩
  refine next_congr ?_
  dsimp only
  rw [if_neg (not_not.mpr hstate), Chip.takeFrame_of_good _ _ hcode hclean, hj]
  dsimp only
  rw [hfleet, hlead, hlive]
  rfl

theorem weighFrame_counts {p : Fin 16} {l : Fin 9} {hdr : FrameHdr} {code : CodeResult} {s : State} (m : WeighMsg) (behind : Nat)
    (hcode : code ≠ .uncorrectable) (hclean : hdrUnclean hdr = false) (hstate : (s.toChip.port p.val).state = 2)
    (hcount : (s.toChip.port p.val).weighCount < 15) :
    exec (.weighFrame p l hdr m behind false code) s
      = .next { s with toChip := s.toChip.upPort p.val fun q => { q with weighCount := q.weighCount + 1 } } := by
  refine next_congr ?_
  dsimp only
  rw [hstate, Chip.takeFrame_of_good _ _ hcode hclean]
  exact (if_neg (by simp)).trans ((if_neg Bool.false_ne_true).trans (if_pos (by omega)))

theorem weighFrame_weighs {p : Fin 16} {l : Fin 9} {hdr : FrameHdr} {code : CodeResult} {s : State} (m : WeighMsg) (behind : Nat)
    (hcode : code ≠ .uncorrectable) (hclean : hdrUnclean hdr = false) (hstate : (s.toChip.port p.val).state = 2)
    (hcount : 15 ≤ (s.toChip.port p.val).weighCount) :
    exec (.weighFrame p l hdr m behind false code) s
      = .next { s with toChip := s.toChip.weighIn p.val (s.clk.fleetStroke - BitVec.ofNat 48 behind) m } := by
  refine next_congr ?_
  dsimp only
  rw [hstate, Chip.takeFrame_of_good _ _ hcode hclean]
  exact (if_neg (by simp)).trans ((if_neg Bool.false_ne_true).trans (if_neg (by omega)))

theorem laneCtrlFrame_of_request {p : Fin 16} {l : Fin 9} {hdr : FrameHdr} {code : CodeResult} {s : State} {m : LaneMsg}
    (hcode : code ≠ .uncorrectable) (hclean : hdrUnclean hdr = false) (hstate : (s.toChip.port p.val).state ≠ 1) (hact : m.action ≠ 1) :
    Completes (.laneCtrlFrame p l hdr m code) s fun t =>
      t.toChip.port p.val = { s.toChip.port p.val with
          pendTx := (s.toChip.port p.val).pendTx.filter (fun x => !(x.action == m.action && x.lane == m.lane)) ++ [m] }
        ∧ t.fleetOut = s.fleetOut ++ [s.toChip.frameOn p.val (.lane { m with action := 1 })]
        ∧ t.toChip = { s.toChip with ports := t.ports, fleetOut := t.fleetOut } := by
  let f (q : Port) : Port := { q with pendTx := q.pendTx.filter (fun x => !(x.action == m.action && x.lane == m.lane)) ++ [m] }
  refine ⟨{ s with toChip := (s.toChip.upPort p.val f).sendLane p.val { m with action := 1 } }, ?_, Chip.port_upPort .., ?_, rfl⟩
  · refine next_congr ?_
    dsimp only
    rw [Chip.takeFrame_of_good _ _ hcode hclean, if_neg hstate, if_neg hact]
  · rw [← Chip.frameOn_upPort (f := f) rfl]
    rfl

theorem laneCtrlFrame_of_ack {p : Fin 16} {l : Fin 9} {hdr : FrameHdr} {code : CodeResult} {s : State} {m : LaneMsg}
    (hcode : code ≠ .uncorrectable) (hclean : hdrUnclean hdr = false) (hstate : (s.toChip.port p.val).state ≠ 1) (hact : m.action = 1) :
    exec (.laneCtrlFrame p l hdr m code) s = .next { s with toChip := s.toChip.upPort p.val fun q => { q with
      pendRx := q.pendRx.map fun e =>
        if e.1.lane == m.lane && e.1.target == m.target then (e.1, e.2 || decide (s.toChip.portStroke p.val + 4 ≤ m.target.toNat)) else e } } := by
  refine next_congr ?_
  dsimp only
  rw [Chip.takeFrame_of_good _ _ hcode hclean, if_neg hstate, if_pos hact]

theorem Chip.eq_of_outside_saf {c d : Chip} (h : d.outside [.saf] = c.outside [.saf]) : ∃ saf, d = { c with saf := saf } := by
  refine ⟨d.saf, ?_⟩
  obtain ⟨⟩ := c
  obtain ⟨⟩ := d
  simpa [Chip.outside, Mems.eq_iff] using h

theorem faultFrame_of_rerow {p : Fin 16} {l : Fin 9} {hdr : FrameHdr} {code : CodeResult} {s : State} {m : SignalMsg} {j : Job}
    (hcode : code ≠ .uncorrectable) (hclean : hdrUnclean hdr = false) (hstate : (s.toChip.port p.val).state = 4)
    (hj : s.toChip.portJob p.val = some j) (hfleet : j.fleet = true) (himage : j.image = m.imageId) (hkind : m.kind = 1)
    (hepoch : j.epoch.toNat ≤ m.epoch.toNat) (hx : ∀ x, j.knownX = some x → m.stroke.toNat < x) :
    Completes (.faultFrame p l hdr m code) s fun t =>
      (t.toChip.job? j.id).map (·.knownX) = some (some m.stroke.toNat)
        ∧ t.fleetOut = s.fleetOut
            ++ (s.toChip.upPorts ((s.toChip.jobPorts j).filter (fun n => n ≠ p.val))).map (fun n =>
              s.toChip.frameOn n (.signal { m with hops := m.hops + 1 }))
        ∧ t.sch.forwarded = satAdd s.sch.forwarded 1 ∧ t.mem = s.mem := by
  have hmem : j ∈ s.toChip.jobs := List.mem_of_find?_eq_some hj
  obtain ⟨saf, hfar⟩ : ∃ saf, s.toChip.farLane p.val m = { s.toChip with saf := saf } :=
    Chip.eq_of_outside_saf (Chip.outside_farLane (by simp) ..)
  have htake := Chip.takeSignal_rerow (c := { s.toChip with saf := saf }) (p := p.val) hmem hkind hepoch hx
  have hout := Chip.outside_takeSignal (parts := [.sch, .jobs, .fleetOut]) (by simp) { s.toChip with saf := saf } j p.val m
  refine ⟨{ s with toChip := ({ s.toChip with saf := saf } : Chip).takeSignal j p.val m }, ?_, ?_⟩
  · refine next_congr ?_
    dsimp only
    rw [if_neg (not_not.mpr hstate), Chip.takeFrame_of_good _ _ hcode hclean, hj]
    dsimp only
    rw [if_pos (by rw [hfleet, himage]; simp), hfar]
  · generalize Chip.takeSignal _ j p.val m = d at *
    obtain ⟨hknown, hfleetOut, hforwarded⟩ := htake
    have hmemories : d.mem = _ := Chip.mem_of_outside hout (by simp [noMemory])
    exact ⟨hknown, hfleetOut, hforwarded, hmemories⟩

theorem dataFrame_of_bad {p : Fin 16} {l : Fin 9} {s : State} (f : Frame) (hstate : (s.toChip.port p.val).state = 4) :
    let lane := laneKey p.val l.val
    Completes (.dataFrame p l f .uncorrectable) s fun t =>
      (t.toChip.lane lane).uncorr = satAdd (s.toChip.lane lane).uncorr 1
        ∧ (t.toChip.port p.val).codewordFaults = satAdd (s.toChip.port p.val).codewordFaults 1
        ∧ (t.toChip.port p.val).buffer = (s.toChip.port p.val).buffer ∧ t.mem = s.mem := by
  intro lane
  have hport := (s.toChip.codeFails p.val l.val).port_linkFault p.val l.val 1
  have hout := Chip.outside_linkFault (parts := faultParts ++ [.ports]) (by simp) (s.toChip.codeFails p.val l.val) p.val l.val 1
  refine ⟨{ s with toChip := (s.toChip.codeFails p.val l.val).linkFault p.val l.val 1 }, ?_, ?_⟩
  · refine next_congr ?_
    dsimp only
    rw [if_neg (not_not.mpr hstate), if_pos rfl]
  · generalize Chip.linkFault _ p.val l.val 1 = d at *
    have hmemories : d.mem = _ := Chip.mem_of_outside hout (by simp [noMemory, faultParts])
    exact ⟨(congrArg Lane.uncorr (Chip.lane_of_outside hout (by simp [faultParts]) lane)).trans (Chip.lane_codeFails ..),
      congrArg Port.codewordFaults hport, by rw [hport]; rfl, hmemories⟩

theorem markerError_spec {p : Fin 16} {l : Fin 9} {error : Bool} {s : State} (h : error = true → (s.toChip.lane (laneKey p.val l.val)).markers < 3) :
    Completes (.markerError p l error) s fun t =>
      t.toChip.lane (laneKey p.val l.val) = { s.toChip.lane (laneKey p.val l.val) with
          markers := if error then (s.toChip.lane (laneKey p.val l.val)).markers + 1 else 0 }
        ∧ t.toChip = { s.toChip with lanes := t.lanes } := by
  let n := if error then (s.toChip.lane (laneKey p.val l.val)).markers + 1 else 0
  have hn : n < 4 := by
    cases error with
    | false => exact Nat.zero_lt_succ 3
    | true => exact Nat.succ_lt_succ (h rfl)
  refine ⟨{ s with toChip := s.toChip.upLane (laneKey p.val l.val) fun x => { x with markers := n } }, ?_, Chip.lane_upLane .., rfl⟩
  refine next_congr ?_
  have hfires (b : Bool) : (decide (4 ≤ n) && b) = false := by rw [decide_eq_false (Nat.not_le.mpr hn), Bool.false_and]
  dsimp only
  rw [hfires, Nat.min_eq_left (Nat.le_of_lt hn)]
  rfl

/-- Settles O46. -/
theorem lamniFramesComplete : Obligations.LamniFramesComplete := by
  intro p l hdr code s q lane
  refine ⟨fun hcode hclean => ⟨?_, ?_, ?_, ?_, ?_, ?_, ?_⟩, fun hstate f => dataFrame_of_bad f hstate, ?_, ?_, fun h => ?_, ?_⟩
  · exact fun f j i hstate hj hi hdiscard hstroke hheader hdigest hsize =>
      dataFrame_of_agrees hcode hstate hj hi hdiscard hstroke hheader hdigest hsize
  · intro m offset j hstate hj hfleet hlead hlive hoff himage hdue
    obtain ⟨t, ht, hport, heq⟩ := catchFrame_of_answer hcode hclean hstate hj hfleet hlead hlive hoff himage hdue
    exact ⟨t, ht, congrArg Port.offset hport, congrArg Port.catchMiss hport, congrArg Port.catches hport, (congrArg Port.state hport).trans hstate, heq⟩
  · intro m behind hstate
    refine ⟨fun hcount => ⟨_, weighFrame_counts m behind hcode hclean hstate hcount, Chip.port_upPort .., rfl⟩, fun hcount => ?_⟩
    refine ⟨_, weighFrame_weighs m behind hcode hclean hstate hcount, ?_⟩
    obtain ⟨hup, hfar, hdiffers⟩ := Chip.port_weighIn (s.clk.fleetStroke - BitVec.ofNat 48 behind) m hstate
    exact ⟨hup, hfar, hdiffers, Chip.mem_of_vaultMem (Chip.weighIn_vaultMem ..)⟩
  · intro m arrival
    exact ⟨_, next_congr (Chip.takeFrame_of_good _ _ hcode hclean), Chip.port_upPort .., rfl⟩
  · intro m hstate
    refine ⟨laneCtrlFrame_of_request hcode hclean hstate, fun hact hearly => ?_, fun hact hlate => ?_⟩
    · refine ⟨_, laneCtrlFrame_of_ack hcode hclean hstate hact, (Chip.port_upPort ..).trans ?_, rfl⟩
      simp only [decide_eq_true hearly, Bool.or_true, Bool.and_eq_true, beq_iff_eq]
      rfl
    · refine ⟨_, laneCtrlFrame_of_ack hcode hclean hstate hact, (Chip.port_upPort ..).trans ?_, rfl⟩
      simp only [decide_eq_false (Nat.not_le.mpr hlate), Bool.or_false, ite_self, List.map_id']
      rfl
  · exact fun m j hstate hj hfleet himage hkind hepoch hx => faultFrame_of_rerow hcode hclean hstate hj hfleet himage hkind hepoch hx
  · exact next_congr (Chip.takeFrame_of_good _ _ hcode hclean)
  · intro lost
    have hlost : lost { s with toChip := s.toChip.codeFails p.val l.val } := ⟨Chip.lane_codeFails .., rfl⟩
    exact ⟨⟨_, next_congr (Chip.takeFrame_of_bad ..), hlost⟩,
      fun m arrival => ⟨_, next_congr (Chip.takeFrame_of_bad ..), hlost⟩,
      fun m => ⟨_, next_congr (Chip.takeFrame_of_bad ..), hlost⟩⟩
  · exact markerError_spec fun h => absurd h Bool.false_ne_true
  · exact markerError_spec fun _ => h
  · obtain ⟨hlog, hperm⟩ := s.toChip.linkFault_lanesLost p.val 0xF
    have hport := s.toChip.port_linkFault p.val 0xF 6
    have hmem := Chip.mem_of_vaultMem (Chip.linkFault_vaultMem s.toChip p.val 0xF 6)
    refine ⟨{ s with toChip := (s.toChip.linkFault p.val 0xF 6).awaitLaser p.val }, rfl, ?_⟩
    generalize s.toChip.linkFault p.val 0xF 6 = d at *
    have hout := Chip.outside_awaitLaser (parts := [.ports, .lanes, .mon]) (by simp) d p.val
    have hd : d.log = (d.awaitLaser p.val).log := Chip.same_of_outside (p := .log) hout (by simp)
    have hsaf : d.saf = (d.awaitLaser p.val).saf := Chip.same_of_outside (p := .saf) hout (by simp)
    refine ⟨hd ▸ hlog, hsaf ▸ hperm, fun h => Chip.state_awaitLaser ?_, (Chip.mem_of_outside hout (by simp [noMemory])).trans hmem⟩
    rw [hport]
    exact h

end Sys2Proof.Machine

/-! Lanes, bring-up, weigh-in retries and exclusion of a Lamni port (R257, R265, R267 to R271, R273 to R275, R281, R283): the obligation O47. -/

namespace Sys2Proof.Machine

/-! ## A port that goes out of service -/

section
variable {β : Type} (F : Port → β)

theorem Chip.port_keep_upPort (c : Chip) (k n : Nat) (f : Port → Port) (hf : ∀ q, F (f q) = F q) : F ((c.upPort k f).port n) = F (c.port n) := by
  by_cases h : n = k
  · subst h
    rw [Chip.port_upPort, hf]
  · rw [Chip.port_upPort_ne _ _ _ _ h]

variable (hF : ∀ (q : Port) (b : List Buffered) (d : BitVec 8), F { q with buffer := b, distance := d } = F q)
include hF

/-- A job that lets go of its units empties the buffers of its ports, and nothing else of them. -/
theorem Chip.port_keep_release (c : Chip) (j : Job) (n : Nat) : F ((c.release j).port n) = F (c.port n) := by
  unfold Chip.release
  refine ite_keep (fun c => F (c.port n)) rfl ?_
  dsimp only
  refine (overAll_keep (fun c => F (c.port n)) _ _ _ fun d p => Chip.port_keep_upPort F _ _ _ _ fun q => hF q _ _).trans ?_
  refine (foldl_keep (fun c => F (c.port n)) _ _ _ fun d p => congrArg F ?_).trans (congrArg F ?_)
  · exact Chip.port_of_outside (Chip.outside_releaseRegion (parts := [.regions]) (by simp) ..) (by simp) n
  · exact Chip.port_of_outside (Chip.outside_clearWork (parts := [.regions, .cores, .arrays, .tiles]) (by simp) ..) (by simp) n

theorem Chip.port_keep_abortJob (c : Chip) (id : JobId) (status flags n : Nat) : F ((c.abortJob id status flags).port n) = F (c.port n) := by
  unfold Chip.abortJob
  split
  · next j _ =>
    refine (congrArg F (Chip.port_of_outside (parts := [.jobs, .freeCtr, .host, .tiers]) ?_ (by simp) n)).trans (Chip.port_keep_release F hF c j n)
    refine (Chip.outside_dropJob (by simp) ..).trans ((Chip.outside_jobEnd (by simp) ..).trans ?_)
    exact Chip.outside_overAll _ _ _ fun d w => Chip.outside_settle (by simp) ..
  · rfl

/-- What a port out of service keeps of its leaving. -/
theorem Chip.port_portOut (c : Chip) (p : Nat) :
    F ((c.portOut p).port p) = F ((c.port p).leave (if (c.port p).state = 3 then 3 else 5)) := by
  unfold Chip.portOut
  dsimp only
  refine (overAll_keep (fun c => F (c.port p)) _ _ _ fun d j => ite_keep (fun c => F (c.port p)) ?_ (Chip.port_keep_abortJob F hF ..)).trans ?_
  · exact congrArg F (Chip.port_of_outside (Chip.outside_raiseSignal (parts := [.sch, .jobs, .fleetOut]) (by simp) ..) (by simp) p)
  · refine congrArg F ?_
    refine (Chip.port_of_outside (Chip.outside_event (parts := [.regions, .saf, .log]) (by simp) ..) (by simp) p).trans ?_
    refine (Chip.port_of_outside (Chip.outside_event (parts := [.regions, .saf, .log]) (by simp) ..) (by simp) p).trans ?_
    refine (Chip.port_upPort ..).trans ?_
    rw [Chip.port_of_outside (Chip.outside_endLaneSurveys (parts := [.lanes, .mon]) (by simp) ..) (by simp) p]

end

/-- With no request of its own under way, nothing is asked again. -/
theorem Chip.askAgainDue_of_none {c : Chip} {p : Nat} (h : (c.port p).pendRx = []) (action : Fin 4) : c.askAgainDue p action = c := by
  unfold Chip.askAgainDue
  rw [h]
  rfl

/-! ## Retiring a lane -/

/-- The receive lane's retirement, before what follows from the map it leaves. -/
theorem Chip.retireLane_shape {c : Chip} {p l : Nat} (reason : Nat) (h : (c.port p).retiredRx.getLsbD l = false) :
    ∃ d : Chip, d.port p = (c.port p).retireRx l ∧ d.outside [.lanes, .mon, .ports, .regions, .saf, .log] = c.outside [.lanes, .mon, .ports, .regions, .saf, .log]
      ∧ c.retireLane p l reason
        = if mapShort ((c.port p).retireRx l).mapRx then d.portOut p
          else if (mapFind (c.port p).mapRx l).isSome || (c.port p).rotOut = some l then d.substituted (srcPort p) (portLocus p (some l)) 7 true true
          else d := by
  let e := match (c.port p).rotOut with
    | some x => c.endLaneSurvey p x
    | none => c
  have he : e.outside [.lanes, .mon, .ports, .regions, .saf, .log] = c.outside [.lanes, .mon, .ports, .regions, .saf, .log] := by
    simp only [e]
    cases (c.port p).rotOut with
    | none => rfl
    | some x => exact Chip.outside_endLaneSurvey (by simp) ..
  have heport : e.port p = c.port p := by
    simp only [e]
    cases (c.port p).rotOut with
    | none => rfl
    | some x => exact Chip.port_of_outside (Chip.outside_endLaneSurvey (parts := [.lanes, .mon]) (by simp) ..) (by simp) p
  let f := (e.endLaneSurvey p l).upLane (laneKey p l) fun x => { x with reason := BitVec.ofNat 3 reason }
  have hf (parts : List Part) (hlanes : .lanes ∈ parts) (hmon : .mon ∈ parts) : f.outside parts = e.outside parts :=
    (Chip.outside_upLane _ hlanes ..).trans (Chip.outside_endLaneSurvey (by simp [hlanes, hmon]) ..)
  let d := (f.upPort p fun q => q.retireRx l).event (srcPort p) 2 0x302 false (portLocus p (some l)) reason
  have hd : d.port p = (c.port p).retireRx l := by
    rw [← heport, ← Chip.port_of_outside (hf [.lanes, .mon] (by simp) (by simp)) (by simp) p]
    exact (Chip.port_of_outside (Chip.outside_event (parts := [.regions, .saf, .log]) (by simp) ..) (by simp) p).trans (Chip.port_upPort ..)
  refine ⟨d, hd, ?_, ?_⟩
  · exact (Chip.outside_event (by simp) ..).trans ((Chip.outside_upPort _ (by simp) ..).trans ((hf _ (by simp) (by simp)).trans he))
  · unfold Chip.retireLane
    extract_lets q
    rw [if_neg (by rw [h]; exact Bool.false_ne_true), ← hd] <;> rfl

/-- A change of a port's two lists of requests, and of the result of its command. -/
def Port.settled (q : Port) (result : BitVec 8) : Port := { q with pendTx := [], pendRx := [], cmdResult := result }

theorem Port.getLsbD_retireRx (q : Port) (l : Fin 9) : (q.retireRx l.val).retiredRx.getLsbD l.val = true := by
  unfold Port.retireRx
  rw [BitVec.getLsbD_or, BitVec.getLsbD_ofNat, Nat.testBit_two_pow_self, decide_eq_true l.isLt]
  exact Bool.or_true _

theorem Chip.upPort_congr {c : Chip} {p : Nat} {f g : Port → Port} (h : f (c.port p) = g (c.port p)) : c.upPort p f = c.upPort p g := by
  simp only [Chip.upPort, h]

/-- The retirement of the one lane that this device asked for. -/
theorem Chip.laneRetireApply_rx {c : Chip} {p : Nat} {m : LaneMsg} (htx : (c.port p).pendTx = []) (hrx : (c.port p).pendRx = [(m, true)])
    (hact : m.action = 0) (hdue : m.target.toNat ≤ c.portStroke p) :
    ∃ result, c.laneRetireApply p = ((c.upPort p fun q => q.settled result).retireLane p m.lane.val
      (c.lane (laneKey p m.lane.val)).reason.toNat).askAgainDue p 0 := by
  have hdueRx : c.dueRx p 0 (m, true) = true := by simp [Chip.dueRx, hact, hdue]
  refine ⟨if (c.port p).cmdResult = 1 then 2 else (c.port p).cmdResult, ?_⟩
  unfold Chip.laneRetireApply
  simp only [htx, hrx, List.filter_nil, List.filter_cons, hdueRx, if_true, sortBy, insertBy, List.foldl_cons, List.foldl_nil, overAll]
  rw [Chip.upPort_congr (g := fun q => q.settled (if q.cmdResult = 1 then 2 else q.cmdResult)) (by simp [Port.settled, htx, hrx])]
  rfl

/-- The retirement of the one lane that the far device asked for. -/
theorem Chip.laneRetireApply_tx {c : Chip} {p : Nat} {m : LaneMsg} (htx : (c.port p).pendTx = [m]) (hrx : (c.port p).pendRx = [])
    (hact : m.action = 0) (hdue : m.target.toNat ≤ c.portStroke p) :
    c.laneRetireApply p = ((c.upPort p fun q => { q with pendTx := [] }).retireFar p m.lane.val).askAgainDue p 0 := by
  have hdueTx : c.dueTx p 0 m = true := by simp [Chip.dueTx, hact, hdue]
  unfold Chip.laneRetireApply
  simp only [htx, hrx, List.filter_nil, List.filter_cons, hdueTx, if_true, sortBy, insertBy, List.foldl_cons, List.foldl_nil, overAll]
  rw [Chip.upPort_congr (g := fun q => { q with pendTx := [] }) (by simp [htx, hrx])]

/-- A lane retired on the receive side, once its request was acknowledged. -/
theorem Chip.laneRetireApply_rx_spec {c : Chip} {p : Nat} {m : LaneMsg} (htx : (c.port p).pendTx = []) (hrx : (c.port p).pendRx = [(m, true)])
    (hact : m.action = 0) (hdue : m.target.toNat ≤ c.portStroke p) (hlive : (c.port p).retiredRx.getLsbD m.lane.val = false) :
    let after := (c.port p).retireRx m.lane.val
    let d := c.laneRetireApply p
    (mapShort after.mapRx = false → (d.port p).mapRx = after.mapRx ∧ (d.port p).retiredRx.getLsbD m.lane.val = true ∧ (d.port p).pendRx = []
        ∧ (d.port p).state = (c.port p).state ∧ d.jobs = c.jobs)
      ∧ (mapShort after.mapRx = true → (c.port p).state ≠ 3 → (d.port p).state = 5) := by
  intro after d
  obtain ⟨result, hd⟩ : ∃ result, d = _ := Chip.laneRetireApply_rx htx hrx hact hdue
  clear_value d
  have he : (c.upPort p fun q => q.settled result).port p = (c.port p).settled result := Chip.port_upPort ..
  have hejobs : (c.upPort p fun q => q.settled result).jobs = c.jobs := rfl
  generalize (c.upPort p fun q => q.settled result) = e at *
  obtain ⟨f, hf, hfout, hshape⟩ := Chip.retireLane_shape (c := e) (c.lane (laneKey p m.lane.val)).reason.toNat
    (show (e.port p).retiredRx.getLsbD m.lane.val = false by rw [he]; exact hlive)
  have hmap : ((e.port p).retireRx m.lane.val).mapRx = after.mapRx := by rw [he]; rfl
  have hpend : (f.port p).pendRx = [] := by rw [hf, he]; rfl
  rw [hmap] at hshape
  refine ⟨fun hshort => ?_, fun hshort hstate => ?_⟩
  · rw [if_neg (by rw [hshort]; exact Bool.false_ne_true)] at hshape
    obtain ⟨x, hx, hxout⟩ : ∃ x, e.retireLane p m.lane.val (c.lane (laneKey p m.lane.val)).reason.toNat = x
        ∧ x.outside [.regions, .saf, .log] = f.outside [.regions, .saf, .log] := by
      refine ⟨_, hshape, ?_⟩
      exact ite_keep (Chip.outside _) (Chip.outside_substituted (by simp) ..) rfl
    have hxport : x.port p = (e.port p).retireRx m.lane.val := (Chip.port_of_outside hxout (by simp) p).trans hf
    have hxjobs : e.jobs = x.jobs := (Chip.same_of_outside (p := .jobs) hfout (by simp)).trans (Chip.same_of_outside (p := .jobs) hxout (by simp))
    rw [hx, Chip.askAgainDue_of_none (by rw [Chip.port_of_outside hxout (by simp) p]; exact hpend)] at hd
    rw [hd]
    refine ⟨?_, ?_, ?_, ?_, hxjobs.symm.trans hejobs⟩
    · rw [hxport, hmap]
    · rw [hxport]
      exact Port.getLsbD_retireRx ..
    · rw [Chip.port_of_outside hxout (by simp) p, hpend]
    · rw [hxport, he]
      rfl
  · rw [if_pos hshort] at hshape
    have hleft := Chip.port_portOut (fun q => (q.state, q.pendRx)) (fun _ _ _ => rfl) f p
    have hfstate : (f.port p).state ≠ 3 := by
      rw [hf, he]
      exact hstate
    rw [if_neg hfstate] at hleft
    rw [hshape, Chip.askAgainDue_of_none (congrArg Prod.snd hleft)] at hd
    rw [hd]
    exact congrArg Prod.fst hleft

/-- A lane retired on the transmit side. -/
theorem Chip.laneRetireApply_tx_spec {c : Chip} {p : Nat} {m : LaneMsg} (htx : (c.port p).pendTx = [m]) (hrx : (c.port p).pendRx = [])
    (hact : m.action = 0) (hdue : m.target.toNat ≤ c.portStroke p) :
    let after := ({ c.port p with pendTx := [] } : Port).retireTx m.lane.val
    (mapShort after.mapTx = false → (c.laneRetireApply p).port p = after ∧ c.laneRetireApply p = { c with ports := (c.laneRetireApply p).ports })
      ∧ (mapShort after.mapTx = true → (c.port p).state ≠ 3 → ((c.laneRetireApply p).port p).state = 5) := by
  intro after
  obtain ⟨e, he, heq⟩ : ∃ e : Chip, e.port p = after
      ∧ c.laneRetireApply p = (e.when (mapShort after.mapTx) fun c => c.portOut p).askAgainDue p 0 ∧ e = { c with ports := e.ports } := by
    let d := c.upPort p fun q => { q with pendTx := [] }
    have hd : d.port p = { c.port p with pendTx := [] } := Chip.port_upPort ..
    have he : (d.upPort p fun q => q.retireTx m.lane.val).port p = after := by
      rw [Chip.port_upPort, hd]
    refine ⟨_, he, ?_, rfl⟩
    rw [Chip.laneRetireApply_tx htx hrx hact hdue, ← he]
    rfl
  obtain ⟨heq, hports⟩ := heq
  have hpend : after.pendRx = [] := by
    simp only [after, Port.retireTx]
    split <;> exact hrx
  have hstate : after.state = (c.port p).state := by
    simp only [after, Port.retireTx]
    split <;> rfl
  clear_value after
  refine ⟨fun hshort => ?_, fun hshort hquiet => ?_⟩
  · rw [hshort] at heq
    have heq : c.laneRetireApply p = e := heq.trans (Chip.askAgainDue_of_none ((congrArg Port.pendRx he).trans hpend) 0)
    rw [heq]
    exact ⟨he, hports⟩
  · rw [hshort] at heq
    have hleft := Chip.port_portOut (fun q => (q.state, q.pendRx)) (fun _ _ _ => rfl) e p
    rw [he, hstate, if_neg hquiet] at hleft
    have heq : c.laneRetireApply p = e.portOut p := heq.trans (Chip.askAgainDue_of_none (congrArg Prod.snd hleft) 0)
    rw [heq]
    exact congrArg Prod.fst hleft

/-! ## Measuring, rotating, retiring on command -/

theorem Chip.frameOn_measure (c : Chip) (p : Nat) : ∃ m, (c.sendMeasure p).fleetOut = c.fleetOut ++ [c.frameOn p (.measure m)] := ⟨_, rfl⟩

theorem hopMeasure_within {p : Fin 16} {s : State} (hnow : s.toChip.portStroke p.val % 256 = 0)
    (hstate : (s.toChip.port p.val).state = 2 ∨ (s.toChip.port p.val).state = 3 ∨ (s.toChip.port p.val).state = 4)
    (hdelays : (s.toChip.port p.val).delays ≠ []) (hbudget : meanDelay (s.toChip.port p.val).delays + 30 ≤ s.cfg.hopBudget.toNat) :
    let measured := (s.toChip.sendMeasure p.val).upPort p.val fun q => { q with hop := satOf 16 (meanDelay (s.toChip.port p.val).delays) }
    exec (.hopMeasure p) s = .next { s with toChip := measured } := by
  intro measured
  have hused : [2, 3, 4].contains (s.toChip.port p.val).state.toNat = true := by
    rcases hstate with h | h | h <;> rw [h] <;> decide
  refine next_congr ?_
  dsimp only
  rw [hnow, hused, if_neg (by decide)]
  refine (if_neg ?_).trans (if_pos hbudget)
  exact fun h => hdelays (List.isEmpty_iff.mp h)

theorem eyeMonitorSample_within {p : Fin 16} {l : Fin 9} {w h : BitVec 8} {n : Nat} {s : State} (hn : n < 400)
    (hh : (s.toChip.lane (laneKey p.val l.val)).commission.toNat * 80 ≤ h.toNat * 100) (hw : 77 ≤ w.toNat) :
    let sampled := s.toChip.upLane (laneKey p.val l.val) fun x => { x with width := w, height := h, corrected := satOf 16 n }
    exec (.eyeMonitorSample p l w h n) s = .next { s with toChip := sampled } := by
  intro sampled
  refine next_congr ?_
  beta_reduce
  extract_lets k c com warn bad d q
  have hcom : com = (s.toChip.lane (laneKey p.val l.val)).commission.toNat := by
    simp only [com, c, k, Chip.lane_upLane]
  have hwarn : warn = 0 := by
    simp only [warn]
    rw [if_neg (by omega), if_neg (by omega), if_neg (by omega)]
  have hbad : bad = 0 := by
    simp only [bad]
    rw [if_neg (by omega), if_neg (by omega), if_neg (by omega)]
  have hd : d = c := if_neg (by rw [hwarn]; exact Bool.false_ne_true)
  rw [hbad]
  exact (if_pos rfl).trans hd

/-- A request about a lane joins those of its port, and leaves for the far device. -/
theorem Chip.askLane_spec (c : Chip) (p : Nat) (action : Fin 4) (l : Nat) :
    let m : LaneMsg := { action := action, lane := Fin.ofNat 9 l, target := BitVec.ofNat 48 (c.portTarget p) }
    let d := c.askLane p action l
    d.port p = { c.port p with pendRx := (c.port p).pendRx ++ [(m, false)] } ∧ d.fleetOut = c.fleetOut ++ [c.frameOn p (.lane m)]
      ∧ d.lanes = c.lanes ∧ d = { c with ports := d.ports, fleetOut := d.fleetOut } := by
  intro m d
  let f (q : Port) : Port := { q with pendRx := q.pendRx ++ [(m, false)] }
  have hd : d = (c.upPort p f).sendLane p m := rfl
  have hport : (c.upPort p f).port p = f (c.port p) := Chip.port_upPort ..
  refine ⟨hport, ?_, rfl, rfl⟩
  rw [hd, ← Chip.frameOn_upPort (c := c) (f := f) rfl]
  rfl

/-- A receive lane that the host retires while the spare is free. -/
theorem Chip.cmdRetireLane_spec {c : Chip} {p : Nat} (hpend : (c.port p).pendRx = []) (hsel : (c.port p).laneSel.toNat ≤ 8)
    (hmapped : (mapFind (c.port p).mapRx (c.port p).laneSel.toNat).isSome = true)
    (hstate : (c.port p).state = 2 ∨ (c.port p).state = 3 ∨ (c.port p).state = 4)
    (hspare : (spareLane (c.port p).mapRx (c.port p).retiredRx (c.port p).rotOut).isSome = true) :
    let d := c.cmdRetireLane p
    let m : LaneMsg := { action := 0, lane := Fin.ofNat 9 (c.port p).laneSel.toNat, target := BitVec.ofNat 48 (c.portTarget p) }
    d.port p = { c.port p with cmdResult := 1, pendRx := [(m, false)] } ∧ d.fleetOut = c.fleetOut ++ [c.frameOn p (.lane m)]
      ∧ (d.lane (laneKey p (c.port p).laneSel.toNat)).reason = 5 ∧ d = { c with ports := d.ports, lanes := d.lanes, fleetOut := d.fleetOut } := by
  intro d m
  have hused : [2, 3, 4].contains (c.port p).state.toNat = true := by
    rcases hstate with h | h | h <;> rw [h] <;> decide
  obtain ⟨e, hd, he, hframe, hreason, hrest, htarget⟩ : ∃ e : Chip, d = e.askLane p 0 (c.port p).laneSel.toNat
      ∧ e.port p = { c.port p with cmdResult := 1 } ∧ e.frameOn p (.lane m) = c.frameOn p (.lane m)
      ∧ (e.lane (laneKey p (c.port p).laneSel.toNat)).reason = 5 ∧ e = { c with ports := e.ports, lanes := e.lanes }
      ∧ e.portTarget p = c.portTarget p := by
    let g (q : Port) : Port := { q with cmdResult := 1 }
    let f := c.upPort p g
    have hf : f.port p = g (c.port p) := Chip.port_upPort ..
    have hfframe : f.frameOn p (.lane m) = c.frameOn p (.lane m) := Chip.frameOn_upPort rfl _
    refine ⟨f.upLane (laneKey p (c.port p).laneSel.toNat) fun x => { x with reason := 5 }, ?_, hf, hfframe, ?_, rfl, rfl⟩
    · simp only [d, Chip.cmdRetireLane]
      rw [hpend, hused, if_neg (by decide), if_neg, if_neg]
      · rfl
      · simp [Option.isNone_eq_false_iff.mpr hspare]
      · simp only [Bool.or_eq_true, decide_eq_true_eq, Bool.not_true, Bool.false_eq_true, or_false]
        exact not_or.mpr ⟨Nat.not_lt.mpr hsel, by rw [Option.isNone_eq_false_iff.mpr hmapped]; exact Bool.false_ne_true⟩
    · exact congrArg Lane.reason (Chip.lane_upLane ..)
  obtain ⟨hport, hfleet, hlanes, hports⟩ := e.askLane_spec p 0 (c.port p).laneSel.toNat
  rw [← hd] at hport hfleet hlanes hports
  clear_value d
  have hefleet : e.fleetOut = c.fleetOut := by rw [hrest]
  rw [htarget] at hport hfleet
  refine ⟨?_, ?_, ?_, ?_⟩
  · rw [hport, he, hpend]
    rfl
  · exact hfleet.trans (by rw [hframe, hefleet])
  · simpa only [Chip.lane, hlanes] using hreason
  · rw [hports, hrest]

/-! ## Rotation -/

/-- The lane due to rotate out does so while the spare is free. -/
theorem Chip.rotationOut_of_due {c : Chip} {p : Nat} {l : Fin 9} {m : LaneMsg} (hlane : m.lane = l) (hrx : (c.port p).pendRx = [(m, true)])
    (htx : (c.port p).pendTx = []) (hdue : m.target.toNat ≤ c.portStroke p) (hact : m.action = 2)
    (hspare : spareFree (c.port p).mapRx (c.port p).retiredRx (c.port p).rotOut = true)
    (hmapped : (mapFind (c.port p).mapRx l.val).isSome = true) :
    (c.rotationOut p l.val).port p
        = { c.port p with mapRx := rotateOut (c.port p).mapRx l.val, rotOut := some l.val, pendRx := [] }
      ∧ c.rotationOut p l.val = { c with ports := (c.rotationOut p l.val).ports } := by
  have hdueRx : (c.dueRx p 2 (m, true) && m.lane.val == l.val) = true := by simp [Chip.dueRx, hact, hdue, hlane]
  obtain ⟨d, hd, hdc, hdone⟩ : ∃ d : Chip, d.port p = { c.port p with pendRx := [] } ∧ d = { c with ports := d.ports }
      ∧ c.rotationOut p l.val
        = (d.upPort p fun q => { q with mapRx := rotateOut q.mapRx l.val, rotOut := some l.val }).askAgainDue p 2 := by
    have hd : (c.upPort p fun q => { q with pendRx := [] }).port p = { c.port p with pendRx := [] } := Chip.port_upPort ..
    refine ⟨c.upPort p fun q => { q with pendRx := [] }, hd, rfl, ?_⟩
    unfold Chip.rotationOut
    simp only [htx, hrx, List.filter_nil, List.filter_cons, hdueRx, if_true, List.isEmpty_nil, List.isEmpty_cons, Bool.not_true, Bool.not_false,
      Chip.when, Bool.false_eq_true, if_false, hspare, hmapped, Bool.and_self]
    refine congrArg (fun d => Chip.askAgainDue (d.upPort p fun q => { q with mapRx := rotateOut q.mapRx l.val, rotOut := some l.val }) p 2)
      (Chip.upPort_congr ?_)
    simp [hrx]
  have hport := d.port_upPort p fun q => { q with mapRx := rotateOut q.mapRx l.val, rotOut := some l.val }
  rw [hd] at hport
  rw [hdone, Chip.askAgainDue_of_none (congrArg Port.pendRx hport)]
  exact ⟨hport, by rw [hdc]; rfl⟩

/-- The lane due to rotate back does so. -/
theorem Chip.rotationReturn_of_due {c : Chip} {p : Nat} {l : Fin 9} {m : LaneMsg} (hlane : m.lane = l) (hrx : (c.port p).pendRx = [(m, true)])
    (htx : (c.port p).pendTx = []) (hdue : m.target.toNat ≤ c.portStroke p) (hact : m.action = 3) (hout : (c.port p).rotOut = some l.val) :
    c.rotationReturn p l.val = c.upPort p fun q => { q with mapRx := rotateBack q.mapRx l.val, rotOut := none, pendRx := [] } := by
  have hdueRx : (c.dueRx p 3 (m, true) && m.lane.val == l.val) = true := by simp [Chip.dueRx, hact, hdue, hlane]
  have hreturn : c.rotationReturn p l.val
      = (c.upPort p fun q => { q with mapRx := rotateBack q.mapRx l.val, rotOut := none, pendRx := [] }).askAgainDue p 3 := by
    unfold Chip.rotationReturn
    simp only [htx, hrx, List.filter_nil, List.filter_cons, hdueRx, if_true, List.isEmpty_nil, List.isEmpty_cons, Bool.not_true, Bool.not_false,
      Chip.when, Bool.false_eq_true, if_false]
    rw [Chip.upPort_congr (g := fun q => { q with mapRx := rotateBack q.mapRx l.val, rotOut := none, pendRx := [] }) (by simp [hrx, hout])]
  exact hreturn.trans (Chip.askAgainDue_of_none (congrArg Port.pendRx (Chip.port_upPort ..)) 3)

/-! ## Bring-up and exclusion -/

theorem Chip.cmdBringUp_spec {c : Chip} {p : Nat} (h : (c.port p).pendRx = []) :
    let d := c.cmdBringUp p
    (d.port p).state = 1 ∧ (d.port p).cmdResult = 1 ∧ (d.port p).buffer = [] ∧ d = { c with ports := d.ports, lanes := d.lanes, mon := d.mon } := by
  intro d
  let e := c.endLaneSurveys p
  have hd : d = e.upPort p fun q => { q.leave 1 with cmdResult := 1, begun := true } := if_neg (by rw [h]; exact Bool.false_ne_true)
  have he : e.outside [.lanes, .mon] = c.outside [.lanes, .mon] := Chip.outside_endLaneSurveys (by simp) ..
  clear_value d e
  have hport := (congrArg (fun c => Chip.port c p) hd).trans (Chip.port_upPort ..)
  refine ⟨congrArg Port.state hport, congrArg Port.cmdResult hport, congrArg Port.buffer hport, ?_⟩
  have hrest : d.outside [.ports, .lanes, .mon] = c.outside [.ports, .lanes, .mon] := by
    rw [hd]
    refine (Chip.outside_upPort _ (by simp) ..).trans ?_
    obtain ⟨⟩ := c
    obtain ⟨⟩ := e
    simp [Chip.outside, Mems.eq_iff] at he ⊢
    simp [he]
  obtain ⟨⟩ := c
  obtain ⟨⟩ := d
  simpa [Chip.outside, Mems.eq_iff] using hrest

/-- A port whose hop delay a bring-up has measured. -/
def Port.measured (r : BringUp) (q : Port) : Port :=
  { q with
    hop := satOf 16 (meanDelay (r.trips.drop (r.trips.length - 256))), delays := r.trips.drop (r.trips.length - 256), echo := none, weighCount := 0
    remeasure := false, cmdResult := if q.cmdResult = 1 then 2 else q.cmdResult }

theorem Port.measured_keeps (r : BringUp) (q : Port) :
    (q.measured r).mapRx = q.mapRx ∧ (q.measured r).mapTx = q.mapTx ∧ (q.measured r).attempts = q.attempts := by
  simp only [Port.measured, and_self]

theorem Port.hop_measured (r : BringUp) (q : Port) : (q.measured r).hop = satOf 16 (meanDelay (r.trips.drop (r.trips.length - 256))) := by
  simp only [Port.measured]

/-- A hop delay within the budget passes a port to weigh-in. -/
theorem Chip.hopStep_within {c : Chip} {p : Nat} {r : BringUp}
    (h : meanDelay (r.trips.drop (r.trips.length - 256)) + 50 ≤ c.cfg.hopBudget.toNat) :
    c.hopStep p r = (c.upPort p (Port.measured r)).upPort p fun q => { q with state := 2, attempts := satAdd q.attempts 1 } := if_pos h

/-- A bring-up whose lanes and hop delay are within their limits ends in weigh-in. -/
theorem Chip.bringUpDone_spec {c : Chip} {p : Nat} {r : BringUp} {rx tx : BitVec 32} (hfirst : (c.port p).remeasure = false)
    (hrx : freshMap (c.fitLanes p r) = some rx) (htx : freshMap r.txUsable = some tx)
    (hbudget : meanDelay (r.trips.drop (r.trips.length - 256)) + 50 ≤ c.cfg.hopBudget.toNat) :
    let d := c.bringUpDone p r
    (d.port p).state = 2 ∧ (d.port p).mapRx = rx ∧ (d.port p).mapTx = tx
      ∧ (d.port p).hop = satOf 16 (meanDelay (r.trips.drop (r.trips.length - 256))) ∧ (d.port p).attempts = satAdd (c.port p).attempts 1
      ∧ d = { c with ports := d.ports, lanes := d.lanes, fleetOut := d.fleetOut } := by
  intro d
  obtain ⟨e, heout, hmapRx, hmapTx, hattempts, hd⟩ : ∃ e : Chip, e.outside [.ports, .lanes, .fleetOut] = c.outside [.ports, .lanes, .fleetOut]
      ∧ (e.port p).mapRx = rx ∧ (e.port p).mapTx = tx ∧ (e.port p).attempts = (c.port p).attempts ∧ d = e.hopStep p r := by
    simp only [d, Chip.bringUpDone, hfirst, Bool.false_eq_true, if_false, hrx, htx]
    generalize hread : overAll (List.range 9) (Chip.bringUpLane p r) c = x
    have hx (parts : List Part) (hlanes : .lanes ∈ parts) : x.outside parts = c.outside parts := by
      rw [← hread]
      exact Chip.outside_overAll _ _ _ fun d l => Chip.outside_bringUpLane hlanes ..
    have hxport : x.port p = c.port p := Chip.port_of_outside (hx [.lanes] (by simp)) (by simp) p
    generalize hretired : (x.upPort p fun q => { q with
      retiredRx := unusable (c.fitLanes p r), retiredTx := unusable r.txUsable, begun := true }) = y
    have hy : y.outside [.ports, .lanes, .fleetOut] = c.outside [.ports, .lanes, .fleetOut] := by
      rw [← hretired]
      exact (Chip.outside_upPort _ (by simp) ..).trans (hx _ (by simp))
    have hyattempts : (y.port p).attempts = (c.port p).attempts := by
      rw [← hretired, ← hxport]
      exact Chip.port_keep_upPort Port.attempts x p p _ fun _ => rfl
    generalize htold : overAll ((List.range 9).filter fun l => (unusable (c.fitLanes p r)).getLsbD l) (fun c l =>
      c.sendLane p { action := 0, lane := Fin.ofNat 9 l, target := 0 }) y = z
    have hz (parts : List Part) (hfleet : .fleetOut ∈ parts) : z.outside parts = y.outside parts := by
      rw [← htold]
      exact Chip.outside_overAll _ _ _ fun d l => Chip.outside_sendLane hfleet ..
    have hzport : z.port p = y.port p := Chip.port_of_outside (hz [.fleetOut] (by simp)) (by simp) p
    refine ⟨_, ?_, ?_, ?_, ?_, rfl⟩
    · exact (Chip.outside_upPort _ (by simp) ..).trans ((hz _ (by simp)).trans hy)
    · exact congrArg Port.mapRx (Chip.port_upPort ..)
    · exact congrArg Port.mapTx (Chip.port_upPort ..)
    · rw [← hyattempts, ← hzport]
      exact Chip.port_keep_upPort Port.attempts z p p _ fun _ => rfl
  clear_value d
  have hcfg : c.cfg = e.cfg := Chip.same_of_outside (p := .cfg) heout (by simp)
  rw [Chip.hopStep_within (by rw [← hcfg]; exact hbudget)] at hd
  have hport := (congrArg (fun c => Chip.port c p) hd).trans (Chip.port_upPort ..)
  have hmeasured : (e.upPort p (Port.measured r)).port p = (e.port p).measured r := Chip.port_upPort ..
  have hout : d.outside [.ports, .lanes, .fleetOut] = c.outside [.ports, .lanes, .fleetOut] := by
    rw [hd]
    exact (Chip.outside_upPort _ (by simp) ..).trans ((Chip.outside_upPort _ (by simp) ..).trans heout)
  rw [hmeasured] at hport
  clear hd hmeasured
  obtain ⟨hkeepRx, hkeepTx, hkeepAttempts⟩ := Port.measured_keeps r (e.port p)
  have hhop := Port.hop_measured r (e.port p)
  rw [hmapRx] at hkeepRx
  rw [hmapTx] at hkeepTx
  rw [hattempts] at hkeepAttempts
  generalize (e.port p).measured r = q at *
  subst hkeepRx hkeepTx
  rw [← hkeepAttempts, ← hhop, hport]
  refine ⟨rfl, rfl, rfl, rfl, rfl, ?_⟩
  clear hport
  obtain ⟨⟩ := c
  obtain ⟨⟩ := d
  simpa [Chip.outside, Mems.eq_iff] using hout

/-- A port that no job uses is taken out of service. -/
theorem Chip.linkExclude_spec {c : Chip} {p : Nat} (h : c.portJob p = none) :
    let d := c.linkExclude p
    (d.port p).state = 5 ∧ (d.port p).weighReason = 8 ∧ (d.port p).ctrlResult = 1 ∧ d.jobs = c.jobs := by
  intro d
  let e := c.upPort p fun q => { q with state := 0, weighReason := 8, ctrlResult := 1, retryAt := 0, weighCount := 0 }
  have hd : d = e.portOut p := if_neg (by rw [h]; exact Bool.false_ne_true)
  have he : e.port p = { c.port p with state := 0, weighReason := 8, ctrlResult := 1, retryAt := 0, weighCount := 0 } := Chip.port_upPort ..
  have hleft := Chip.port_portOut (fun q => (q.state, q.weighReason, q.ctrlResult)) (fun _ _ _ => rfl) e p
  rw [← hd, he, if_neg (show ¬ (0 : BitVec 4) = 3 by decide)] at hleft
  simp only [Port.leave, Prod.mk.injEq] at hleft
  obtain ⟨hstate, hreason, hresult⟩ := hleft
  refine ⟨hstate, hreason, hresult, ?_⟩
  have hnone : ∀ j ∈ c.jobs, ¬ (j.holds && (c.jobPorts j).contains p) = true := fun j hj => List.find?_eq_none.mp h j hj
  rw [hd]
  unfold Chip.portOut
  extract_lets f g k
  have hf : k.outside [.lanes, .mon, .ports, .regions, .saf, .log] = c.outside [.lanes, .mon, .ports, .regions, .saf, .log] := by
    refine (Chip.outside_event (by simp) ..).trans ((Chip.outside_event (by simp) ..).trans ((Chip.outside_upPort _ (by simp) ..).trans ?_))
    exact (Chip.outside_endLaneSurveys (by simp) ..).trans (Chip.outside_upPort _ (by simp) ..)
  have hjobs : c.jobs = k.jobs := Chip.same_of_outside (p := .jobs) hf (by simp)
  have hsch : c.sch = k.sch := Chip.same_of_outside (p := .sch) hf (by simp)
  clear_value k
  have hempty : k.jobs.filter (fun j => j.holds && (k.jobPorts j).contains p) = [] := by
    refine List.filter_eq_nil_iff.mpr fun j hj => ?_
    simp only [Chip.jobPorts, Chip.imageOf, ← hsch]
    exact hnone j (hjobs ▸ hj)
  rw [hempty]
  exact hjobs.symm

/-- Settles O47. -/
theorem lamniPortsComplete : Obligations.LamniPortsComplete := by
  intro p s q now
  refine ⟨fun hnow hstate hdelays hbudget => ?_, fun l w h n hn hh hw => ⟨_, eyeMonitorSample_within hn hh hw, Chip.lane_upLane .., rfl⟩,
    fun hpend hsel hmapped hstate hspare => ?_, fun m htx hrx hact hdue hlive => ?_, fun m htx hrx hact hdue => ?_,
    fun l m hlane hrx htx hdue => ⟨fun hact hspare hmapped => ?_, fun hact hout => ?_⟩, fun hpend => ?_,
    fun r rx tx hstate hfirst hlit hrx htx hbudget => ?_, fun hstate hretry hdue => ?_, fun hnone => ?_, fun hsome => ?_⟩
  · obtain ⟨m, hm⟩ := s.toChip.frameOn_measure p.val
    exact ⟨_, hopMeasure_within hnow hstate hdelays hbudget, Chip.port_upPort .., ⟨m, hm⟩, rfl⟩
  · exact ⟨{ s with toChip := s.toChip.cmdRetireLane p.val }, rfl, Chip.cmdRetireLane_spec hpend hsel hmapped hstate hspare⟩
  · intro after
    obtain ⟨hmapped, hshort⟩ := Chip.laneRetireApply_rx_spec htx hrx hact hdue hlive
    have hmem := Chip.mem_of_vaultMem (Chip.laneRetireApply_vaultMem s.toChip p.val)
    refine ⟨fun hafter => ?_, fun hafter hstate => ?_⟩
    · obtain ⟨hmap, hretired, hpend, hkept, hjobs⟩ := hmapped hafter
      exact ⟨{ s with toChip := s.toChip.laneRetireApply p.val }, rfl, hmap, hretired, hpend, hkept, hmem, hjobs⟩
    · exact ⟨{ s with toChip := s.toChip.laneRetireApply p.val }, rfl, hshort hafter hstate, hmem⟩
  · intro after
    obtain ⟨hmapped, hshort⟩ := Chip.laneRetireApply_tx_spec htx hrx hact hdue
    have hmem := Chip.mem_of_vaultMem (Chip.laneRetireApply_vaultMem s.toChip p.val)
    exact ⟨fun hafter => ⟨{ s with toChip := s.toChip.laneRetireApply p.val }, rfl, hmapped hafter⟩,
      fun hafter hstate => ⟨{ s with toChip := s.toChip.laneRetireApply p.val }, rfl, hshort hafter hstate, hmem⟩⟩
  · exact ⟨{ s with toChip := s.toChip.rotationOut p.val l.val }, rfl, Chip.rotationOut_of_due hlane hrx htx hdue hact hspare hmapped⟩
  · refine ⟨{ s with toChip := s.toChip.rotationReturn p.val l.val }, rfl, ?_⟩
    rw [Chip.rotationReturn_of_due hlane hrx htx hdue hact hout]
    exact ⟨Chip.port_upPort .., rfl⟩
  · exact ⟨{ s with toChip := s.toChip.cmdBringUp p.val }, rfl, Chip.cmdBringUp_spec hpend⟩
  · refine ⟨{ s with toChip := s.toChip.bringUpDone p.val r }, next_congr ?_, Chip.bringUpDone_spec hfirst hrx htx hbudget⟩
    dsimp only
    rw [hlit]
    exact if_pos (by rw [Bool.and_true, decide_eq_true_eq]; exact hstate)
  · refine ⟨_, next_congr (if_pos ?_), Chip.port_upPort .., rfl⟩
    simp only [Bool.and_eq_true, decide_eq_true_eq]
    exact ⟨⟨hstate, hretry⟩, hdue⟩
  · obtain ⟨hstate, hreason, hresult, hjobs⟩ := Chip.linkExclude_spec hnone
    exact ⟨{ s with toChip := s.toChip.linkExclude p.val }, rfl, hstate, hreason, hresult,
      Chip.mem_of_vaultMem (Chip.linkExclude_vaultMem ..), hjobs⟩
  · exact ⟨_, next_congr (if_pos hsome), Chip.port_upPort .., rfl⟩

end Sys2Proof.Machine

/-! LSEND and LRECV (R79, R81, R264, R266, R283): the obligation O48. -/

namespace Sys2Proof.Machine

/-- A clean reading of region staging leaves the frames sent as they are. -/
theorem Chip.fleetOut_regionPath_clean (c : Chip) (id : JobId) (g : Nat) (plot : Nat → Nat) :
    (c.regionPath id g plot Path.clean).fleetOut = c.fleetOut := rfl

/-- What an LSEND through its slot entry leaves. -/
theorem Chip.lsend_clean {c : Chip} {st : Site} {j : Job} {op : LinkOp} {i : Image} {port : Nat} {e : Slot} (g : Nat)
    (himage : c.imageOf j = some i) (hport : c.lport j op.lport.val = some port)
    (hslot : c.slotOf j i.linkSlots op.slotRef.toNat st.region.val true = some e) :
    let n := 16 * op.length.toNat
    (c.lsend st j g op Path.clean).fleetOut = (if (c.port port).state = 4 then c.fleetOut
        ++ (c.sendFrames j (occurrences e.start e.bytes n (st.tick + 64)) 0 (readBytes c.mem.rstg (c.regionAt j g op.addr.toNat) n)).map
          (dataOut port (c.port port).mapTx)
      else c.fleetOut) ∧ (c.lsend st j g op Path.clean).mem = c.mem := by
  intro n
  simp only [Chip.lsend, himage, hport, hslot, length_readBytes]
  by_cases h : (c.port port).state = 4
  · refine ⟨?_, ?_⟩
    · rw [Chip.fleetOut_regionPath_clean, if_pos h, h]
      rfl
    · exact (Chip.mem_of_vaultMem (Chip.regionPath_vaultMem ..)).trans (Chip.when_keep (fun c => c.mem) _ _ _ fun _ => rfl)
  · have hidle : ((c.port port).state == 4) = false := beq_eq_false_iff_ne.mpr h
    refine ⟨?_, ?_⟩
    · rw [Chip.fleetOut_regionPath_clean, if_neg h, hidle]
      rfl
    · exact (Chip.mem_of_vaultMem (Chip.regionPath_vaultMem ..)).trans (Chip.when_keep (fun c => c.mem) _ _ _ fun _ => rfl)

/-- What an LRECV whose frames have all come leaves. -/
theorem Chip.lrecv_complete {c : Chip} {st : Site} {j : Job} {op : LinkOp} {i : Image} {port : Nat} {e : Slot} (g : Nat) (p : Path)
    (himage : c.imageOf j = some i) (hport : c.lport j op.lport.val = some port)
    (hslot : c.slotOf j i.linkSlots op.slotRef.toNat st.region.val false = some e) :
    let n := 16 * op.length.toNat
    let r := c.receive j (c.port port).buffer (c.hopPad i) (occurrences e.start e.bytes n st.tick) 0
      { data := [], used := [], late := none, tag := none }
    r.late = none → r.tag = none →
      (c.lrecv st j g op p).mem = { c.mem with rstg := writeBytes c.mem.rstg (c.regionAt j g op.addr.toNat) (r.data.take n) }
        ∧ ((c.lrecv st j g op p).port port).buffer = (c.port port).buffer.filter (fun b => !(r.used.contains b)) := by
  intro n r hlate htag
  obtain ⟨x, hx⟩ : ∃ x, x = c.lrecv st j g op p := ⟨_, rfl⟩
  rw [← hx]
  simp only [Chip.lrecv, himage, hport, hslot] at hx
  change x = Chip.regionPath (match r.tag with | some (l, want, got) => _ | none => match r.late with | some l => _ | none => _) _ _ _ _ at hx
  rw [hlate, htag] at hx
  dsimp only at hx
  rw [hx]
  refine ⟨Chip.mem_of_vaultMem (Chip.regionPath_vaultMem ..), ?_⟩
  refine (congrArg Port.buffer (Chip.port_of_outside (Chip.outside_regionPath (parts := faultParts) (List.Subset.refl _) ..)
    (by simp [faultParts]) port)).trans ?_
  exact congrArg Port.buffer (Chip.port_upPort ..)

/-- Settles O48. -/
theorem linkExchangesComplete : Obligations.LinkExchangesComplete := by
  intro st s j g op i port e hsite hseq hfits hlen hmoves himage hport n at_
  refine ⟨fun hlegal hslot => ?_, fun p hlegal hfetch hslot hlate htag => ?_⟩
  · obtain ⟨hfleet, hmem⟩ := Chip.lsend_clean g himage hport hslot
    refine ⟨{ s with toChip := s.toChip.lsend st j g op Path.clean }, ?_, fun h => ?_, fun h => ?_, hmem⟩
    · change execXchLsend st op Path.clean s = _
      simp only [execXchLsend, hlegal, hseq, hfits, Bool.not_true, Bool.or_self, Bool.false_eq_true, if_false]
      exact seqMove_issued hsite rfl hmoves hlen _
    · exact hfleet.trans (if_pos h)
    · exact hfleet.trans (if_neg h)
  · obtain ⟨hmem, hbuffer⟩ := Chip.lrecv_complete g p himage hport hslot hlate htag
    refine ⟨{ s with toChip := s.toChip.lrecv st j g op p }, ?_, ?_⟩
    · change execXchLrecv st op p s = _
      simp only [execXchLrecv, hlegal, hseq, hfits, Bool.not_true, Bool.or_self, Bool.false_eq_true, if_false]
      exact seqMove_issued hsite hfetch hmoves hlen _
    · simp only [hmem]
      exact ⟨holdsAt_writeBytes _ _ _, sameOutside_writeBytes _ _ _ _ (List.length_take_le ..), trivial, hbuffer⟩

end Sys2Proof.Machine

/-! Fleet strokes, FSYNC edges and the loss of FSYNC (R279, R281): the obligation O49. -/

namespace Sys2Proof.Machine

/-- A port in weigh-in or quarantine carries a WEIGH frame of this device. -/
theorem Chip.weigh_mem_portFill {c : Chip} {p : Nat} (h : (c.port p).state = 2 ∨ (c.port p).state = 3) :
    ∃ f ∈ c.portFill p, f.port = p ∧ f.msg = .weigh (c.weighMsg p) := by
  have h14 : ((c.port p).state = 1 || (c.port p).state = 4) = false := by
    rcases h with h | h <;> rw [h] <;> decide
  unfold Chip.portFill
  extract_lets q idle weigh
  rw [h14, if_neg Bool.false_ne_true]
  have hweigh : weigh.port = p ∧ weigh.msg = .weigh (c.weighMsg p) := ⟨rfl, rfl⟩
  split
  · exact ⟨_, List.mem_singleton.mpr rfl, hweigh⟩
  · next hnot =>
    have h3 : q.state = 3 := h.resolve_left fun h2 => hnot (by simp [q, h2])
    rw [if_pos h3]
    exact ⟨weigh, by simp, hweigh⟩

/-- The frames that fill the ports' positions are those of each port. -/
theorem Chip.weigh_mem_fillPorts {c : Chip} {p : Nat} (hp : p < 16) (h : (c.port p).state = 2 ∨ (c.port p).state = 3) :
    ∃ f ∈ c.fillPorts.fleetOut, f.port = p ∧ f.msg = .weigh (c.fillPorts.weighMsg p) := by
  obtain ⟨f, hf, hport, hmsg⟩ := Chip.weigh_mem_portFill h
  exact ⟨f, List.mem_append_right _ (List.mem_flatMap.mpr ⟨p, List.mem_range.mpr hp, hf⟩), hport, hmsg⟩

/-- A fleet stroke: the count, the lead-in histories, the lead-in frames, and then the filled ports. -/
theorem Chip.fleetStroke_shape {c : Chip} (hrun : c.clk.fleetRunning = true) (hclk : c.clk.refclkOk = true) :
    ∃ (jobs : List Job) (sent : List FleetOut), c.fleetStroke = ({ c with
      clk := { c.clk with fleetStroke := c.clk.fleetStroke + 1, sinceFsync := c.clk.sinceFsync + 1 }, jobs := jobs, fleetOut := sent } : Chip).fillPorts := by
  unfold Chip.fleetStroke
  rw [hrun, hclk]
  simp only [Bool.not_true, Bool.false_eq_true, if_false]
  have hsend {l : List Job} {f : Chip → Job → Chip} (hf : ∀ c j, ∃ x, f c j = { c with fleetOut := x }) (d : Chip) :
      ∃ x, overAll l f d = { d with fleetOut := x } := by
    induction l generalizing d with
    | nil => exact ⟨d.fleetOut, rfl⟩
    | cons j l ih =>
      obtain ⟨x, hx⟩ := hf d j
      obtain ⟨y, hy⟩ := ih (f d j)
      exact ⟨y, hy.trans (by rw [hx])⟩
  obtain ⟨sent, hsent⟩ := hsend (fun c j => ⟨_, rfl⟩) _
  exact ⟨_, sent, congrArg Chip.fillPorts hsent⟩

/-- The first edge starts the fleet stroke count. -/
theorem Chip.fsyncEdge_first {c : Chip} (position : Int) (h : c.clk.fleetRunning = false) :
    c.fsyncEdge position = { c with clk := { c.clk with
      fleetRunning := true, fleetStroke := 0, fsyncOk := true, sinceFsync := 0, strayCount := 0, strayPos := 0 } } :=
  if_pos (by rw [h]; rfl)

/-- An edge at its place aligns the grid. -/
theorem Chip.fsyncEdge_near {c : Chip} {position : Int} (hrun : c.clk.fleetRunning = true) (h : position.natAbs ≤ 20) :
    c.fsyncEdge position = { c with clk := { c.clk with fsyncOk := true, sinceFsync := 0, strayCount := 0, strayPos := 0 } } :=
  (if_neg (by rw [hrun]; exact Bool.false_ne_true)).trans (if_pos h)

/-- An edge elsewhere is ignored while a fleet job runs. -/
theorem Chip.fsyncEdge_stray {c : Chip} {position : Int} (hrun : c.clk.fleetRunning = true) (h : 20 < position.natAbs) (hjobs : c.fleetJobs ≠ []) :
    c.fsyncEdge position = c := by
  refine (if_neg (by rw [hrun]; exact Bool.false_ne_true)).trans ((if_neg (Nat.not_le.mpr h)).trans (if_pos ?_))
  cases hlist : c.fleetJobs with
  | nil => exact absurd hlist hjobs
  | cons j l => rfl

/-- Settles O49. -/
theorem fleetTimeComplete : Obligations.FleetTimeComplete := by
  intro s
  refine ⟨fun hrun hclk => ?_, fun position => ⟨fun hstop => ?_, fun hrun hnear => ?_, fun hrun hfar hjobs => ?_⟩, fun hok hlong => ?_⟩
  · obtain ⟨jobs, sent, hstroke⟩ := Chip.fleetStroke_shape hrun hclk
    refine ⟨{ s with toChip := s.toChip.fleetStroke }, rfl, ?_⟩
    rw [hstroke]
    exact ⟨rfl, rfl, fun p hp h => Chip.weigh_mem_fillPorts hp h, rfl⟩
  · exact ⟨_, next_congr (Chip.fsyncEdge_first position hstop), rfl, rfl, rfl, rfl⟩
  · exact ⟨_, next_congr (Chip.fsyncEdge_near hrun hnear), rfl, rfl, rfl, rfl⟩
  · exact next_congr (Chip.fsyncEdge_stray hrun hfar hjobs)
  · let lost : Chip := { s.toChip with clk := { s.clk with fsyncOk := false } }
    have hout := Chip.outside_eventOpen (parts := [.freeCtr, .regions, .saf, .log]) (by simp) lost 0 3 (locusWord none none none) 0
    refine ⟨{ s with toChip := lost.eventOpen 0 3 (locusWord none none none) 0 }, next_congr (if_pos ?_), ?_⟩
    · rw [hok, decide_eq_true hlong]
      rfl
    · generalize lost.eventOpen 0 3 (locusWord none none none) 0 = d at *
      have hclk : lost.clk = d.clk := Chip.same_of_outside (p := .clk) hout (by simp)
      have hjobs : lost.jobs = d.jobs := Chip.same_of_outside (p := .jobs) hout (by simp)
      have hmem : d.mem = lost.mem := Chip.mem_of_outside hout (by simp [noMemory])
      exact ⟨congrArg Clk.fsyncOk hclk.symm, hmem, hjobs.symm⟩

end Sys2Proof.Machine

/-! Fleet signals at their boundaries (R286, R289, R291, R292, R294): the obligation O50. -/

namespace Sys2Proof.Machine

/-! ## The end of a job is reported -/

theorem Chip.reports_jobEnd (c : Chip) (j : Job) (status sub flags : Nat) :
    ∃ e : JobEnd, e.status = BitVec.ofNat 8 status ∧ (c.jobEnd j status sub flags).reports j.id.queue j.id.tag (.jobEnd e) := by
  unfold Chip.jobEnd
  extract_lets imageDigest prov w i signed granted
  split
  next n d hd =>
  refine ⟨_, ?_, Chip.reports_post ..⟩
  dsimp only
  split <;> rfl

theorem Chip.reports_endJob (c : Chip) (j : Job) (status sub flags : Nat) :
    ∃ e : JobEnd, e.status = BitVec.ofNat 8 status ∧ (c.endJob j status sub flags).reports j.id.queue j.id.tag (.jobEnd e) := by
  obtain ⟨e, hstatus, hreport⟩ := Chip.reports_jobEnd (overAll j.swaps (Chip.settle (c.otherSwaps j.id)) (c.release j)) j status sub flags
  exact ⟨e, hstatus, Chip.reports_of_host hreport rfl⟩

/-! ## The start of a fleet job -/

/-- A fleet job whose lead-in agreed starts as any other does. -/
theorem Chip.fleetStart_of_agreed {c : Chip} {j : Job} (i : Image) (hj : c.job? j.id = some j)
    (hlead : ∀ p ∈ c.jobPorts j, ∀ k, k < 16 → look 0 j.leadIns p / 3 ^ (k + 1) % 3 = 1) (hdist : 2 * j.distance.toNat ≤ c.cfg.reach.toNat) :
    ∃ d : Chip, d.outside [.ports] = c.outside [.ports] ∧ d.job? j.id = some j ∧ c.fleetStart j i = d.startJob j i := by
  let d := overAll (c.jobPorts j) (fun c p => c.upPort p (fun q => { q with catches := [] })) c
  have hd : d.outside [.ports] = c.outside [.ports] := Chip.outside_overAll _ _ _ fun e p => Chip.outside_upPort _ (by simp) ..
  refine ⟨d, hd, (Chip.job?_of_outside hd (by simp) _).trans hj, if_pos ?_⟩
  rw [Bool.and_eq_true, List.all_eq_true, decide_eq_true_eq]
  refine ⟨fun x hx => ?_, hdist⟩
  obtain ⟨p, hp, hx⟩ := List.mem_flatMap.mp hx
  obtain ⟨k, hk, rfl⟩ := List.mem_map.mp hx
  exact beq_iff_eq.mpr (hlead p hp k (List.mem_range.mp hk))

/-! ## The re-row -/

/-- The pause put off keeps what a job's restart is counted by. -/
theorem Chip.map_job?_deferPause {β : Type} (F : Job → β) (hF : ∀ k x y, F { k with st := x, pause := y } = F k) (c : Chip) (j : Job) (id : JobId) :
    ((c.deferPause j).job? id).map F = (c.job? id).map F := by
  unfold Chip.deferPause
  split
  · rfl
  · exact Chip.map_job?_upJob F _ _ _ _ (fun _ => rfl) fun k => hF k _ _

theorem Chip.epoch_discard (c : Chip) (j : Job) (id : JobId) : ((c.discard j).job? id).map (·.epoch) = (c.job? id).map (·.epoch) := by
  unfold Chip.discard
  extract_lets start cleared redo undone emptied slept asleep
  refine (Chip.map_job?_upJob (·.epoch) _ _ _ _ ?_ ?_).trans (congrArg _ ?_)
  · exact fun _ => rfl
  · exact fun _ => rfl
  have hasleep : asleep.job? id = emptied.job? id := by
    refine overAll_keep (fun d => d.job? id) _ _ _ fun d w => ?_
    exact Chip.job?_of_outside (parts := [.regions, .lasers]) (by simp [apply_ite (Chip.outside [.regions, .lasers])]) (by simp) _
  have hemptied : emptied.job? id = undone.job? id := overAll_keep (fun d => d.job? id) _ _ _ fun d w => rfl
  have hundone : undone.job? id = cleared.job? id := overAll_keep (fun d => d.job? id) _ _ _ fun d w =>
    Chip.job?_of_outside (Chip.outside_undoSwap (parts := [.arrays, .tiers]) (by simp) ..) (by simp) _
  rw [hasleep, hemptied, hundone]
  exact Chip.job?_of_outside (Chip.outside_clearWork (parts := [.regions, .cores, .arrays, .tiles]) (by simp) ..) (by simp) _

/-- A re-row leaves the epoch to the signal that called for it. -/
theorem Chip.epoch_rerowJob {c : Chip} {j : Job} (hlost : j.lostWord = false) (hcount : j.rerowCount < 8) (hrem : c.saf.remedies = [])
    (id : JobId) : ((c.rerowJob j).job? id).map (·.epoch) = (c.job? id).map (·.epoch) := by
  unfold Chip.rerowJob
  rw [if_neg (by simp [hlost]; omega)]
  extract_lets start sch counted noted restarted remedied
  have hnotedout : noted.outside [.regions, .saf, .log] = counted.outside [.regions, .saf, .log] := Chip.outside_scheduleEvent (by simp) ..
  have hnoted : noted.job? id = c.job? id := (Chip.job?_of_outside hnotedout (by simp) _).trans rfl
  have hout : restarted.outside [.jobs, .regions, .cores, .arrays, .tiers, .tiles, .lasers, .ports]
      = noted.outside [.jobs, .regions, .cores, .arrays, .tiers, .tiles, .lasers, .ports] :=
    (Chip.outside_deferPause (by simp) ..).trans (Chip.outside_discard (by simp) ..)
  have hrestarted : restarted.saf.remedies = [] := by
    rw [Chip.saf_of_outside hout (by simp)]
    exact (Chip.remedies_scheduleEvent ..).trans hrem
  have hremout : remedied.outside [.arrays] = restarted.outside [.arrays] := Chip.outside_jobRemedies_of_none hrestarted j
  have hremedied : (remedied.job? id).map (·.epoch) = (c.job? id).map (·.epoch) := by
    rw [Chip.job?_of_outside hremout (by simp), ← hnoted]
    exact (Chip.map_job?_deferPause (·.epoch) (fun _ _ _ => rfl) ..).trans (Chip.epoch_discard ..)
  split
  · exact (Chip.map_job?_startPiece (·.epoch) (fun _ _ => rfl) ..).trans hremedied
  · exact hremedied

/-- A REROW that is due restarts the job in the next epoch. -/
theorem Chip.fleetRerow_of_due {c : Chip} {j : Job} {x : Nat} (hj : c.job? j.id = some j) (hdue : x + c.jobDeltaF j + 1 ≤ j.stroke)
    (hfree : j.signalDue [5, 6] = none) (hlost : j.lostWord = false) (hcount : j.rerowCount < 8) (hrem : c.saf.remedies = []) :
    ((c.fleetRerow j x).job? j.id).map (fun k => (k.stroke, k.epoch, k.knownX, k.committed))
      = some (j.committed * (c.lengths j).1, j.epoch + 1, none, j.committed) := by
  obtain ⟨hstroke, -⟩ := Chip.rerowJob_restarts hj hlost hcount hrem
  have hepoch := Chip.epoch_rerowJob hlost hcount hrem j.id
  unfold Chip.fleetRerow
  rw [if_neg (by rw [hfree]; simp only [Option.isSome_none, Bool.or_false, decide_eq_true_eq]; omega)]
  dsimp only
  generalize c.rerowJob j = d at *
  rw [d.job?_upJob j.id j.id _ ?_]
  · rw [hj] at hepoch
    obtain ⟨k, hk, hkeq⟩ := Option.map_eq_some_iff.mp hstroke
    rw [hk] at hepoch ⊢
    obtain ⟨hkstroke, -, -, hkcommitted⟩ : k.stroke = _ ∧ k.rerow = false ∧ k.rerowCount = _ ∧ k.committed = j.committed := by
      simpa only [Prod.mk.injEq] using hkeq
    have hkid : k.id = j.id := Chip.id_of_job? hk
    have hkepoch : k.epoch = j.epoch := Option.some.inj hepoch
    simp only [Option.map_some, if_pos hkid, hkstroke, hkcommitted, hkepoch]
  · exact fun _ => rfl

/-! ## The easy set and the pause -/

/-- The members of the easy set at a piece boundary, and the tick of the job's regions. -/
theorem Chip.fleetEasy_of_due {c : Chip} {j : Job} (hj : c.job? j.id = some j) (hpiece : c.atPiece j = true)
    (hdue : (j.signalDue [2, 3]).isSome = true) :
    let set := j.signals.foldl (easyAfter j.stroke) j.easySet
    let d := c.fleetEasy j
    (d.job? j.id).map (fun k => (k.easySet, k.easy)) = some (set, !set.isEmpty) ∧ (∀ p ∈ j.map, (d.region p.2).halved = !set.isEmpty)
      ∧ d = { c with jobs := d.jobs, regions := d.regions, banks := d.banks } := by
  intro set d
  have hout : d.outside [.jobs, .regions, .banks] = c.outside [.jobs, .regions, .banks] := Chip.outside_fleetEasy (by simp) c j
  obtain ⟨e, hejob, hd⟩ : ∃ e : Chip, (e.job? j.id).map (fun k => (k.easySet, k.easy)) = some (set, !set.isEmpty)
      ∧ d = overAll (j.map.map (·.2)) (fun c g => if (c.region g).halved = !set.isEmpty then c else c.setHalved g (!set.isEmpty)) e := by
    refine ⟨_, ?_, if_neg (by rw [hpiece, Option.isNone_eq_false_iff.mpr hdue]; exact Bool.false_ne_true)⟩
    refine (congrArg _ (Chip.job?_upJob_same _ ?_ hj)).trans rfl
    exact fun _ => rfl
  clear_value d
  have hhalved (f : Chip) (g n : Nat) : ((f.setHalved g (!set.isEmpty)).region n).halved = if n = g then !set.isEmpty else (f.region n).halved := by
    refine (Chip.region_view_of_outside Region.halved (Chip.outside_feedForward (parts := [.banks]) (by simp) ..) (by simp) n).trans ?_
    split
    · next h => rw [h, Chip.region_upRegion]
    · next h => rw [Chip.region_upRegion_ne _ _ _ _ h]
  refine ⟨?_, fun p hp => ?_, ?_⟩
  · rw [hd]
    refine (congrArg _ (overAll_keep (fun c => c.job? j.id) _ _ _ fun f g => ite_keep (fun c => c.job? j.id) rfl ?_)).trans hejob
    exact Chip.job?_of_outside (Chip.outside_setHalved (parts := [.regions, .banks]) (by simp) ..) (by simp) _
  · rw [hd]
    refine overAll_reaches (fun f n => (f.region n).halved = !set.isEmpty) _ (fun f g => ?_) (fun f g n h => ?_) _ e (List.mem_map_of_mem hp)
    · split
      · assumption
      · exact (hhalved f g g).trans (if_pos rfl)
    · split
      · exact h
      · rw [hhalved f g n]
        split
        · rfl
        · exact h
  · obtain ⟨⟩ := c
    obtain ⟨⟩ := d
    simpa [Chip.outside, Mems.eq_iff] using hout

/-- The job at its pause's boundary drains. -/
theorem Chip.reachPause_drains {c : Chip} {k : Job} {i : Image} (hk : c.job? k.id = some k) (hi : c.imageOf k = some i) {b : Nat} (hb : b < i.strokes) :
    ((c.reachPause k b).job? k.id).map (fun k => (k.st, k.pause)) = some (.draining, k.pause) := by
  unfold Chip.reachPause
  extract_lets total late staged drained
  have htotal : total = i.strokes := by simp only [total, hi]
  rw [if_neg (by omega)]
  have hstaged : staged.job? k.id = some k := by
    refine (overAll_keep (fun c => c.job? k.id) _ _ _ fun f w => ?_).trans hk
    rfl
  have hdrained : (drained.job? k.id).map (fun k => (k.st, k.pause)) = some (.draining, k.pause) := by
    refine (congrArg _ (Chip.job?_upJob_same _ ?_ hstaged)).trans rfl
    exact fun _ => rfl
  refine (congrArg _ (overAll_keep (fun c => c.job? k.id) _ _ _ fun f g => ?_)).trans hdrained
  rfl

/-- A job set anew. -/
theorem Chip.job?_upJob_const {c : Chip} {j k : Job} (hj : c.job? j.id = some j) (hid : k.id = j.id) :
    (c.upJob j.id fun _ => k).job? j.id = some k := by
  have hsame : (c.upJob j.id fun _ => k) = c.upJob j.id fun x => if x.id = j.id then k else x := by
    unfold Chip.upJob
    refine congrArg (fun l => { c with jobs := l }) (List.map_congr_left fun x _ => ?_)
    by_cases h : x.id = j.id <;> simp [h]
  rw [hsame]
  refine (Chip.job?_upJob_same _ ?_ hj).trans (congrArg some (if_pos rfl))
  intro x
  split
  · next h => rw [hid, h]
  · rfl

/-- A PAUSE that is due drains the job at this boundary. -/
theorem Chip.fleetPause_of_due {c : Chip} {j : Job} {i : Image} (hj : c.job? j.id = some j) (hi : c.imageOf j = some i) (hst : j.st = .running)
    (hpiece : c.atPiece j = true) (hdue : (j.signalDue [4]).isSome = true) (hlate : j.stroke < i.strokes) :
    ((c.fleetPause j).job? j.id).map (fun k => (k.st, k.pause.map (·.boundary))) = some (.draining, some j.stroke) := by
  obtain ⟨p, signals, hp, hpause⟩ : ∃ (p : PauseReq) (signals : List Signal), p.boundary = j.stroke
      ∧ c.fleetPause j = (c.upJob j.id (fun _ => { j with pause := some p, fleetPause := none, signals := signals })).reachPause
          { j with pause := some p, fleetPause := none, signals := signals } j.stroke := by
    refine ⟨_, _, ?_, if_neg ?_⟩
    · split <;> rfl
    · rw [hpiece, Option.isNone_eq_false_iff.mpr hdue, hst]
      simp
  let k : Job := { j with pause := some p, fleetPause := none, signals := signals }
  have hdrain := Chip.reachPause_drains (c := c.upJob j.id fun _ => k) (k := k) (Chip.job?_upJob_const hj rfl) hi hlate
  rw [hpause]
  refine (Option.map_map (fun q : JobSt × Option PauseReq => (q.1, q.2.map (·.boundary))) (fun k : Job => (k.st, k.pause)) _).symm.trans ?_
  refine (congrArg _ hdrain).trans ?_
  simp only [Option.map_some, k, hp]

/-! ## Abort and salvage -/

/-- A job salvaged is gone; without an area to save to it is reported degraded. -/
theorem Chip.job?_salvageJob (c : Chip) (j : Job) (i : Image) : (c.salvageJob j i).job? j.id = none := by
  unfold Chip.salvageJob
  split
  · exact Chip.job?_endJob ..
  · dsimp only
    split
    · next k hk =>
      rw [← Chip.id_of_job? hk]
      exact Chip.job?_endJob ..
    · assumption

/-- Settles O50. -/
theorem fleetSignalsTakeEffect : Obligations.FleetSignalsTakeEffect := by
  intro id s j i hj hi hfleet
  obtain rfl := Chip.id_of_job? hj
  refine ⟨fun hst hstart hlead hdist => ?_, fun x hx hst habort hdue hfree hlost hcount hrem => ?_, fun hpiece hdue => ?_,
    fun hst hpiece hdue hlate => ?_, fun m hlive hdue => ?_, fun hlive hdue => ?_⟩
  · obtain ⟨d, hd, hdj, hdstart⟩ := Chip.fleetStart_of_agreed i hj hlead hdist
    obtain ⟨hjob, hpower⟩ := Chip.startJob_running hdj i
    have hmem : (d.startJob j i).mem = s.mem :=
      (Chip.mem_of_vaultMem (Chip.startJob_vaultMem ..)).trans (Chip.mem_of_outside hd (by simp [noMemory]))
    refine ⟨{ s with toChip := d.startJob j i }, next_congr ?_, hjob, hpower, hmem⟩
    dsimp only
    rw [hj]
    dsimp only
    rw [hi]
    dsimp only
    rw [hfleet, hst, ← hdstart]
    exact if_pos (by simpa using hstart)
  · refine ⟨{ s with toChip := s.toChip.fleetRerow j x }, next_congr ?_, Chip.fleetRerow_of_due hj hdue hfree hlost hcount hrem⟩
    dsimp only
    rw [hj]
    dsimp only
    rw [hx]
    exact if_pos (by simp [hfleet, habort, hst])
  · refine ⟨{ s with toChip := s.toChip.fleetEasy j }, next_congr ?_, Chip.fleetEasy_of_due hj hpiece hdue⟩
    dsimp only
    rw [hj]
    exact if_pos hfleet
  · refine ⟨{ s with toChip := s.toChip.fleetPause j }, next_congr ?_, Chip.fleetPause_of_due hj hi hst hpiece hdue hlate,
      Chip.mem_of_vaultMem (Chip.fleetPause_vaultMem ..)⟩
    dsimp only
    rw [hj]
    exact if_pos hfleet
  · obtain ⟨e, hstatus, hreport⟩ := s.toChip.reports_endJob j m.status.toNat 0 (if m.status = 0 then 2 else 0)
    refine ⟨{ s with toChip := s.toChip.endJob j m.status.toNat 0 (if m.status = 0 then 2 else 0) }, next_congr ?_, Chip.job?_endJob ..,
      ⟨e, hstatus.trans (by simp), hreport⟩, Chip.mem_of_vaultMem (Chip.endJob_vaultMem ..)⟩
    dsimp only
    rw [hj]
    dsimp only
    rw [hdue]
    exact if_pos (by rw [hfleet, hlive]; rfl)
  · refine ⟨{ s with toChip := s.toChip.salvageJob j i }, next_congr ?_, Chip.job?_salvageJob .., fun harea => ?_⟩
    · dsimp only
      rw [hj]
      dsimp only
      rw [hi]
      exact if_pos (by rw [hfleet, hlive, hdue]; rfl)
    · have hsalvage : s.toChip.salvageJob j i = s.toChip.endJob j statusDegraded 0 0 := if_pos harea
      rw [hsalvage]
      exact ⟨s.toChip.reports_endJob j statusDegraded 0 0, Chip.mem_of_vaultMem (Chip.endJob_vaultMem ..)⟩

end Sys2Proof.Machine

/-! Clocks, rails and power (R351, R361, R373, R413, R414): the obligation O51. -/

namespace Sys2Proof.Machine

/-! ## The halt -/

/-- What stops with the clocks, once every job is gone. -/
theorem Chip.cleared_keeps (c : Chip) :
    c.cleared.jobs = c.jobs ∧ c.cleared.sch.images = [] ∧ c.cleared.start = { c.start with ready := false, memory := false }
      ∧ c.cleared.clk = { c.clk with masterLock := false } ∧ c.cleared.mem = { c.mem with hbm := [] } := ⟨rfl, rfl, rfl, rfl, rfl⟩

/-- The jobs, surveys and regions stop before the rest is cleared. -/
theorem Chip.halt_shape (c : Chip) :
    ∃ d : Chip, c.halt = d.cleared ∧ d.jobs = [] ∧ d.start = c.start ∧ d.clk = c.clk ∧ d.mem = c.mem := by
  unfold Chip.halt
  extract_lets aborted stopped asleep
  have haborted : aborted.outside endParts = c.outside endParts :=
    Chip.outside_overAll _ _ _ fun d id => Chip.outside_abortJob (by simp) ..
  have hstopped : stopped.outside [.arrays, .peri, .plots, .lanes, .mon] = aborted.outside [.arrays, .peri, .plots, .lanes, .mon] :=
    Chip.outside_overAll _ _ _ fun d u => Chip.outside_stopSurvey (by simp) ..
  have hasleep : asleep.outside [.regions, .banks] = stopped.outside [.regions, .banks] :=
    Chip.outside_overAll _ _ _ fun d g => (Chip.outside_feedForward (by simp) ..).trans (Chip.outside_sleepRegion (by simp) ..)
  have hjobs : aborted.jobs = [] := by
    simp only [aborted, Chip.jobs_abortAll]
    refine List.filter_eq_nil_iff.mpr fun j hj => ?_
    simp only [decide_eq_true_eq, not_not]
    exact List.mem_map_of_mem hj
  have hjobs' : aborted.jobs = asleep.jobs :=
    (Chip.same_of_outside (p := .jobs) hstopped (by simp)).trans (Chip.same_of_outside (p := .jobs) hasleep (by simp))
  have hstart : c.start = asleep.start := (Chip.same_of_outside (p := .start) haborted (by simp [endParts])).trans
    ((Chip.same_of_outside (p := .start) hstopped (by simp)).trans (Chip.same_of_outside (p := .start) hasleep (by simp)))
  have hclk : c.clk = asleep.clk := (Chip.same_of_outside (p := .clk) haborted (by simp [endParts])).trans
    ((Chip.same_of_outside (p := .clk) hstopped (by simp)).trans (Chip.same_of_outside (p := .clk) hasleep (by simp)))
  have hmem : asleep.mem = c.mem := (Chip.mem_of_outside hasleep (by simp [noMemory])).trans
    ((Chip.mem_of_outside hstopped (by simp [noMemory])).trans (Chip.mem_of_outside haborted (by simp [noMemory, endParts])))
  clear_value asleep
  exact ⟨asleep, rfl, hjobs'.symm.trans hjobs, hstart.symm, hclk.symm, hmem⟩

/-- What every loss of the derived clocks leaves. -/
theorem Chip.halt_spec (c : Chip) :
    c.halt.jobs = [] ∧ c.halt.sch.images = [] ∧ c.halt.start = { c.start with ready := false, memory := false }
      ∧ c.halt.clk = { c.clk with masterLock := false } ∧ c.halt.mem = { c.mem with hbm := [] } := by
  obtain ⟨d, hhalt, hjobs, hstart, hclk, hmem⟩ := c.halt_shape
  obtain ⟨hkjobs, hkimages, hkstart, hkclk, hkmem⟩ := d.cleared_keeps
  rw [hhalt, ← hstart, ← hclk, ← hmem]
  exact ⟨hkjobs.trans hjobs, hkimages, hkstart, hkclk, hkmem⟩

theorem Chip.refclkLost_spec {c : Chip} (h : c.clk.refclkOk = true) :
    let d := c.refclkLost
    d.clk.refclkOk = false ∧ d.clk.onBackup = true ∧ d.clk.masterLock = false ∧ d.clk.refLosses = satAdd c.clk.refLosses 1
      ∧ d.jobs = [] ∧ d.sch.images = [] ∧ d.start.ready = false ∧ d.mem = { c.mem with hbm := [] } := by
  intro d
  let k := { c with clk := { c.clk with refclkOk := false, onBackup := true, masterLock := false, refLosses := satAdd c.clk.refLosses 1 } }
  have hd : d = (k.event 0 4 0x1 false (locusWord none none none) 0).halt := if_neg (by rw [h]; exact Bool.false_ne_true)
  have hevent := Chip.outside_event (parts := [.regions, .saf, .log]) (by simp) k 0 4 0x1 false (locusWord none none none) 0
  have hclk : k.clk = (k.event 0 4 0x1 false (locusWord none none none) 0).clk := Chip.same_of_outside (p := .clk) hevent (by simp)
  have hmem : (k.event 0 4 0x1 false (locusWord none none none) 0).mem = k.mem := Chip.mem_of_outside hevent (by simp [noMemory])
  obtain ⟨hjobs, himages, hstart, hhalt, hhaltmem⟩ := Chip.halt_spec (k.event 0 4 0x1 false (locusWord none none none) 0)
  rw [← hd] at hjobs himages hstart hhalt hhaltmem
  clear_value d
  rw [← hclk] at hhalt
  rw [hmem] at hhaltmem
  rw [hhalt, hstart]
  exact ⟨rfl, rfl, rfl, rfl, hjobs, himages, rfl, hhaltmem⟩

/-! ## Rails -/

/-- What the safety unit keeps of the rails. -/
def Saf.rails (x : Saf) : Bool × BitVec 8 × List Breach := (x.railsOk, x.dangRail, x.breaches)

theorem Chip.rails_event (c : Chip) (src cls code : Nat) (rerow : Bool) (locus : BitVec 32) (detail : Nat) :
    (c.event src cls code rerow locus detail).saf.rails = c.saf.rails := by
  rw [c.event_eq]
  rfl

theorem Chip.rails_hit (c : Chip) (l : Locus) (need : Nat) : (c.hit l need).1.saf.rails = c.saf.rails := by
  unfold Chip.hit
  dsimp only
  repeat' split
  all_goals rfl

theorem Chip.rails_of_outside {parts : List Part} {c d : Chip} (h : d.outside parts = c.outside parts) (hp : .saf ∉ parts) :
    d.saf.rails = c.saf.rails := congrArg Saf.rails (Chip.saf_of_outside h hp)

theorem Chip.rails_portOut (c : Chip) (p : Nat) : (c.portOut p).saf.rails = c.saf.rails := by
  unfold Chip.portOut
  extract_lets d e f
  have hf : f.saf.rails = c.saf.rails := by
    refine (Chip.rails_event ..).trans ((Chip.rails_event ..).trans (Chip.rails_of_outside (parts := [.ports, .lanes, .mon]) ?_ (by simp)))
    exact (Chip.outside_upPort _ (by simp) ..).trans (Chip.outside_endLaneSurveys (by simp) ..)
  refine (overAll_keep (fun c => c.saf.rails) _ _ _ fun d j => ite_keep (fun c => c.saf.rails) ?_ ?_).trans hf
  · exact Chip.rails_of_outside (Chip.outside_raiseSignal (parts := [.sch, .jobs, .fleetOut]) (by simp) ..) (by simp)
  · exact Chip.rails_of_outside (Chip.outside_abortJob (List.Subset.refl _) ..) (by simp [endParts])

theorem Chip.rails_stackOut (c : Chip) (s : Nat) : (c.stackOut s).saf.rails = c.saf.rails := by
  unfold Chip.stackOut
  refine ite_keep (fun c => c.saf.rails) rfl ?_
  refine (Chip.rails_of_outside (Chip.outside_loseWhere (List.Subset.refl _) ..) (by simp [endParts])).trans ?_
  exact Chip.rails_event ..

/-- What a lost regulator calls for leaves the rails' own state. -/
theorem Chip.rails_regulatorLost (c : Chip) (r : Rail) : (c.regulatorLost r).saf.rails = c.saf.rails := by
  cases r with
  | main => rfl
  | alwaysOn => rfl
  | regionReg g => rfl
  | stackReg s => exact Chip.rails_stackOut ..
  | portReg p => exact ite_keep (fun c => c.saf.rails) (Chip.rails_portOut ..) rfl

/-- A breach that begins is noted as active from now. -/
theorem Chip.rails_railOut {c : Chip} {r : Rail} (h : c.saf.breaches.any (fun b => b.rail == r && b.active) = false) :
    (c.railOut r).saf.rails = (false, satAdd c.saf.dangRail 1, c.saf.breaches.filter (fun x => decide (x.rail ≠ r))
      ++ [{ rail := r, active := true, since := c.clk.aon, returned := 0, aborted := false }]) := by
  unfold Chip.railOut
  rw [if_neg (by rw [h]; exact Bool.false_ne_true)]
  extract_lets free d b x e k hit called
  have hk : k.saf.rails = (false, satAdd c.saf.dangRail 1, c.saf.breaches.filter (fun x => decide (x.rail ≠ r)) ++ [b]) := Chip.rails_event ..
  have hhit : hit.1.saf.rails = k.saf.rails := by
    simp only [hit]
    split
    · exact Chip.rails_hit ..
    · rfl
  have hcalled : called.saf.rails = hit.1.saf.rails :=
    Chip.rails_of_outside (Chip.outside_callWhere (parts := [.sch, .jobs, .fleetOut]) (by simp) ..) (by simp)
  refine (Chip.when_keep (fun c => c.saf.rails) _ _ _ fun f => Chip.rails_regulatorLost f r).trans ?_
  exact hcalled.trans (hhit.trans hk)

/-! ## The end of affected jobs -/

theorem Chip.job?_abortJob (c : Chip) (id : JobId) (status flags : Nat) : (c.abortJob id status flags).job? id = none := by
  unfold Chip.abortJob
  split
  · next j hj =>
    rw [← Chip.id_of_job? hj]
    exact Chip.job?_endJob ..
  · assumption

/-- A job that is gone stays so, whatever other jobs are lost. -/
theorem Chip.job?_loseJob_none {c : Chip} {id : JobId} (h : c.job? id = none) (j : Job) : (c.loseJob j).job? id = none := by
  unfold Chip.loseJob
  split
  · refine (Chip.job?_upJob _ _ _ _ ?_).trans ?_
    · exact fun _ => rfl
    · exact Option.map_eq_none_iff.mpr h
  · refine List.find?_eq_none.mpr fun k hk => List.find?_eq_none.mp h k ?_
    rw [Chip.jobs_abortJob] at hk
    exact (List.mem_filter.mp hk).1

/-- Every held job of no fleet that a loss concerns is gone. -/
theorem Chip.job?_loseWhere {c : Chip} {p : Job → Bool} {j : Job} (hj : j ∈ c.jobs) (hholds : j.holds = true) (hfleet : j.fleet = false)
    (hp : p j = true) : (c.loseWhere p).job? j.id = none := by
  refine overAll_reaches (fun d (k : Job) => k.fleet = false → d.job? k.id = none) Chip.loseJob (fun d k hk => ?_) (fun d k i h hi => ?_) _ c
    (List.mem_filter.mpr ⟨hj, by rw [hholds, hp]; rfl⟩) hfleet
  · have habort : d.loseJob k = d.abortJob k.id statusDegraded 0 := if_neg (by rw [hk]; exact Bool.false_ne_true)
    rw [habort]
    exact Chip.job?_abortJob ..
  · exact Chip.job?_loseJob_none (h hi) k

/-- A breach of 10 ms ends the jobs of no fleet that its rail serves. -/
theorem Chip.railAbort_spec {c : Chip} {r : Rail}
    (h : c.saf.breaches.any (fun b => b.rail == r && b.active && !b.aborted && decide (b.since + msCycles 10 ≤ c.clk.aon)) = true) :
    (∀ j ∈ c.jobs, j.holds = true → j.fleet = false → c.railAffects r j = true → (c.railAbort r).job? j.id = none)
      ∧ (∀ b ∈ (c.railAbort r).saf.breaches, b.rail = r → b.aborted = true) := by
  let d : Chip := { c with saf := { c.saf with breaches := c.saf.breaches.map fun b => if b.rail = r then { b with aborted := true } else b } }
  have hd : c.railAbort r = d.loseWhere fun j => d.railAffects r j := if_pos h
  have hsaf : (d.loseWhere fun j => d.railAffects r j).saf = d.saf :=
    Chip.saf_of_outside (Chip.outside_loseWhere (List.Subset.refl _) ..) (by simp [endParts])
  rw [hd, hsaf]
  refine ⟨fun j hj hholds hfleet haffects => ?_, fun b hb hr => ?_⟩
  · refine Chip.job?_loseWhere (c := d) hj hholds hfleet ?_
    cases r <;> exact haffects
  · obtain ⟨x, -, rfl⟩ := List.mem_map.mp hb
    by_cases hx : x.rail = r
    · rw [if_pos hx]
    · rw [if_neg hx] at hr
      exact absurd hr hx

/-- A rail that returns is in its window again. -/
theorem Chip.railReturn_spec {c : Chip} {r : Rail} (h : c.saf.breaches.any (fun b => b.rail == r && b.active) = true) :
    (∀ b ∈ (c.railReturn r).saf.breaches, b.rail = r → b.active = false)
      ∧ (c.start.powerGood = true → (∀ b ∈ c.saf.breaches, b.active = true → b.rail = r) → (c.railReturn r).saf.railsOk = true)
      ∧ c.railReturn r = { c with saf := (c.railReturn r).saf } := by
  let bs := (c.saf.breaches.map fun b => if b.rail = r then { b with active := false, returned := c.clk.aon } else b).filter
    fun b => b.active || b.aborted
  have hd : c.railReturn r = { c with saf := { c.saf with breaches := bs, railsOk := c.start.powerGood && !(bs.any (·.active)) } } := if_pos h
  have hbs {b : Breach} (hb : b ∈ bs) : b.rail = r ∧ b.active = false ∨ b.rail ≠ r ∧ b ∈ c.saf.breaches := by
    obtain ⟨x, hx, rfl⟩ := List.mem_map.mp (List.mem_filter.mp hb).1
    by_cases hr : x.rail = r
    · rw [if_pos hr]
      exact .inl ⟨hr, rfl⟩
    · rw [if_neg hr]
      exact .inr ⟨hr, hx⟩
  rw [hd]
  clear_value bs
  refine ⟨fun b hb hr => ?_, fun hpower hall => ?_, rfl⟩
  · exact (hbs hb).elim (·.2) fun hne => absurd hr hne.1
  · have hnone : bs.any (·.active) = false := by
      refine List.any_eq_false.mpr fun b hb hactive => ?_
      rcases hbs hb with ⟨-, hoff⟩ | ⟨hne, hmem⟩
      · exact Bool.false_ne_true (hoff.symm.trans hactive)
      · exact hne (hall b hmem hactive)
    change (c.start.powerGood && !(bs.any (·.active))) = true
    rw [hpower, hnone]
    rfl

/-! ## Power -/

/-- What a loss of main power stops besides the clocks. -/
theorem Chip.unpowered_keeps {c : Chip} (h : c.cfg.writing = none) :
    c.unpowered.start.powerGood = false ∧ c.unpowered.jobs = c.jobs ∧ c.unpowered.sch.images = c.sch.images ∧ c.unpowered.cfg.loaded = false
      ∧ c.unpowered.dev = c.dev ∧ c.unpowered.vault = { c.vault with read := false } ∧ c.unpowered.log.retain = c.log.retain
      ∧ c.unpowered.lvl = c.lvl
      ∧ c.unpowered.mem = { c.mem with rstg := [], cstg := [] } := by
  refine ⟨rfl, rfl, rfl, rfl, rfl, rfl, rfl, rfl, ?_⟩
  have hflash : c.flashAfterLoss = c.mem.flash := by
    unfold Chip.flashAfterLoss
    rw [h]
  have hmem : c.unpowered.mem = { c.mem with rstg := [], cstg := [], flash := c.flashAfterLoss } := rfl
  rw [hmem, hflash]

/-- A loss of main power keeps what is not volatile, the level and the log. -/
theorem Chip.mainLoss_spec {c : Chip} (hpower : c.start.powerGood = true) (hwriting : c.cfg.writing = none) :
    let d := c.mainLoss
    d.start.powerGood = false ∧ d.jobs = [] ∧ d.sch.images = [] ∧ d.cfg.loaded = false ∧ d.dev = c.dev ∧ d.vault = { c.vault with read := false }
      ∧ d.log.retain = c.log.retain ∧ d.lvl = c.lvl
      ∧ d.mem = { hbm := [], rstg := [], cstg := [], tiers := c.mem.tiers, ledger := c.mem.ledger, flash := c.mem.flash } := by
  intro d
  obtain ⟨hjobs, himages, -, -, hmem⟩ := Chip.halt_spec c
  have hout := Chip.outside_halt (List.Subset.refl _) c
  have hdev : c.dev = c.halt.dev := Chip.same_of_outside (p := .dev) hout (by simp [endParts])
  have hvault : c.vault = c.halt.vault := Chip.same_of_outside (p := .vault) hout (by simp [endParts])
  have hlog : c.log = c.halt.log := Chip.same_of_outside (p := .log) hout (by simp [endParts])
  have hlvl : c.lvl = c.halt.lvl := Chip.same_of_outside (p := .lvl) hout (by simp [endParts])
  have hcfg : c.cfg = c.halt.cfg := Chip.same_of_outside (p := .cfg) hout (by simp [endParts])
  have hd : d = c.halt.unpowered := if_neg (by rw [hpower]; exact Bool.false_ne_true)
  clear_value d
  generalize c.halt = e at *
  obtain ⟨hpower', hjobs', himages', hloaded, hdev', hvault', hretain, hlvl', hmem'⟩ := Chip.unpowered_keeps (c := e) (by rw [← hcfg, hwriting])
  rw [← hd] at hpower' hjobs' himages' hloaded hdev' hvault' hretain hlvl' hmem'
  refine ⟨hpower', hjobs'.trans hjobs, himages'.trans himages, hloaded, hdev'.trans hdev.symm, ?_, hretain.trans (congrArg Log.retain hlog.symm),
    hlvl'.trans hlvl.symm, ?_⟩
  · rw [hvault', hvault]
  · rw [hmem', hmem]

/-- Settles O51. -/
theorem clocksAndPowerComplete : Obligations.ClocksAndPowerComplete := by
  intro s
  refine ⟨fun hclk => ?_, fun hlost hbackup hphase => ?_, fun g hpower => ?_, fun r => ⟨fun hnone => ?_, fun hlong => ?_, fun hactive => ?_⟩,
    fun hpower hwriting => ?_, fun hwriting => ?_, fun hpower => ?_⟩
  · exact ⟨{ s with toChip := s.toChip.refclkLost }, rfl, Chip.refclkLost_spec hclk⟩
  · refine ⟨_, next_congr (if_neg ?_), rfl, rfl, if_neg (Nat.not_lt.mpr hphase), rfl⟩
    rw [hlost, hbackup]
    exact Bool.false_ne_true
  · exact ⟨_, next_congr (if_neg hpower), rfl⟩
  · have hrails := Chip.rails_railOut hnone
    have hmem := Chip.mem_of_vaultMem (Chip.railOut_vaultMem s.toChip r)
    refine ⟨{ s with toChip := s.toChip.railOut r }, rfl, ?_⟩
    generalize s.toChip.railOut r = d at *
    simp only [Saf.rails, Prod.mk.injEq] at hrails
    obtain ⟨hok, hdang, hbreaches⟩ := hrails
    refine ⟨hok, hdang, ?_, hmem⟩
    rw [hbreaches, List.any_append]
    simp
  · obtain ⟨hgone, haborted⟩ := Chip.railAbort_spec hlong
    exact ⟨{ s with toChip := s.toChip.railAbort r }, rfl, hgone, haborted, Chip.mem_of_vaultMem (Chip.railAbort_vaultMem ..)⟩
  · exact ⟨{ s with toChip := s.toChip.railReturn r }, rfl, Chip.railReturn_spec hactive⟩
  · exact ⟨{ s with toChip := s.toChip.mainLoss }, rfl, Chip.mainLoss_spec hpower hwriting⟩
  · have hflash : s.toChip.flashAfterLoss = s.mem.flash := by
      unfold Chip.flashAfterLoss
      rw [hwriting]
    refine ⟨{ s with toChip := s.toChip.powerOff }, rfl, rfl, rfl, rfl, rfl, ?_, rfl, rfl, rfl, rfl, rfl, rfl, rfl, rfl, rfl⟩
    rw [← hflash]
    rfl
  · refine ⟨_, next_congr (if_neg ?_), rfl, rfl, rfl, rfl, rfl, rfl⟩
    rw [hpower]
    exact Bool.false_ne_true

end Sys2Proof.Machine

/-! The start-up phases (R325 to R327, R329, R342, R346, R404): the obligation O52. -/

namespace Sys2Proof.Machine

/-! ## A periphery that fails its self-test -/

/-- A table's entry that has a property the default lacks keeps it in a change of entries that keeps it. -/
theorem look_adjust_of_keeps {V : Type} [DecidableEq V] {d : V} {f : V → V} {P : V → Prop} {m : SMap V} {n : Nat} (p : Nat → Bool) (hd : ¬ P d)
    (hf : ∀ v, P v → P (f v)) (h : P (look d m n)) : P (look d (adjust d p f m) n) := by
  induction m with
  | nil => exact absurd h hd
  | cons e m ih =>
    obtain ⟨k, v⟩ := e
    by_cases hn : n = k
    · subst hn
      simp only [look, if_true] at h
      have hne : f v ≠ d := fun he => hd (he ▸ hf v h)
      cases hp : p n <;> simp [adjust, look, hp, hne, h, hf v h]
    · simp only [look, if_neg hn] at h
      have hrest := ih h
      cases hp : p k <;> by_cases he : f v = d <;> simp [adjust, look, hp, he, hn] at hrest ⊢ <;> exact hrest

section
variable {c : Chip} {n : Nat} (h : (c.arr n).retiredPeri = true)
include h

theorem Chip.retiredPeri_clearWork (j : Job) : ((c.clearWork j).arr n).retiredPeri = true := by
  unfold Chip.clearWork
  extract_lets seats blocks cleared
  have hcleared : cleared.arr n = c.arr n := Chip.arr_of_outside (parts := [.regions]) (Chip.outside_overAll _ _ _ fun d g => by simp) (by simp) n
  rw [← hcleared] at h
  clear_value cleared
  have hkept (p : Nat → Bool) : (look {} (adjust {} p (fun a : Arr => { a with mirror := [], lastTile := none, senseLeft := 0 }) cleared.arrays) n).retiredPeri
      = true := look_adjust_of_keeps (P := fun a : Arr => a.retiredPeri = true) p (by decide) (fun _ hv => hv) h
  exact hkept fun a => blocks.contains (a / 17)

theorem Chip.retiredPeri_abortJob (id : JobId) (status flags : Nat) : ((c.abortJob id status flags).arr n).retiredPeri = true := by
  unfold Chip.abortJob
  split
  · next j _ =>
    have hreleased : ((c.release j).arr n).retiredPeri = true := by
      unfold Chip.release
      split
      · exact h
      · have hwork := Chip.retiredPeri_clearWork h j
        dsimp only
        rw [Chip.arr_of_outside (parts := [.regions, .ports]) (c := c.clearWork j) ?_ (by simp) n]
        · exact hwork
        · refine (Chip.outside_overAll _ _ _ fun d p => Chip.outside_upPort _ (by simp) ..).trans (foldl_keep _ _ _ _ fun d p => ?_)
          exact Chip.outside_releaseRegion (by simp) ..
    rw [Chip.arr_of_outside (parts := [.jobs, .freeCtr, .host, .tiers]) (c := c.release j) ?_ (by simp) n]
    · exact hreleased
    · refine (Chip.outside_dropJob (by simp) ..).trans ((Chip.outside_jobEnd (by simp) ..).trans ?_)
      exact Chip.outside_overAll _ _ _ fun d w => Chip.outside_settle (by simp) ..
  · exact h

theorem Chip.retiredPeri_loseWhere (p : Job → Bool) : ((c.loseWhere p).arr n).retiredPeri = true := by
  refine overAll_invariant (fun d : Chip => (d.arr n).retiredPeri = true) _ (fun d j hd => ?_) _ c h
  unfold Chip.loseJob
  split
  · rw [Chip.arr_of_outside (Chip.outside_raiseSignal (parts := [.sch, .jobs, .fleetOut]) (by simp) ..) (by simp) n]
    exact hd
  · exact Chip.retiredPeri_abortJob hd ..

end

theorem Chip.retiredPeri_impair {c : Chip} {n : Nat} (h : (c.arr n).retiredPeri = true) (a : Nat) : ((c.impair a).arr n).retiredPeri = true := by
  unfold Chip.impair
  split
  · exact h
  · extract_lets marked logged
    have hlogged : (logged.arr n).retiredPeri = true := by
      rw [Chip.arr_of_outside (Chip.outside_event (parts := [.regions, .saf, .log]) (by simp) ..) (by simp) n]
      refine (Chip.arr_keep_upArr Arr.retiredPeri c a n _ ?_).trans h
      exact fun _ => rfl
    clear_value logged
    split
    · exact Chip.retiredPeri_loseWhere hlogged _
    · exact hlogged

theorem Arr.retiredPeri_refuseSwap (x : Arr) : x.refuseSwap.retiredPeri = x.retiredPeri := by
  unfold Arr.refuseSwap
  split <;> rfl

theorem Chip.retiredPeri_startMove (c : Chip) (a n : Nat) : ((c.startMove a).arr n).retiredPeri = (c.arr n).retiredPeri := by
  unfold Chip.startMove
  split
  · rfl
  · extract_lets g own dest moved logged
    have hmoved : (moved.arr n).retiredPeri = (c.arr n).retiredPeri := by
      refine Chip.arr_keep_upArr Arr.retiredPeri c a n _ fun x => ?_
      dsimp only
      split
      · exact Arr.retiredPeri_refuseSwap x
      · rfl
    have hlogged : logged.arr n = moved.arr n := by
      refine Chip.arr_of_outside (parts := [.freeCtr, .regions, .saf, .log]) ?_ (by simp) n
      refine Chip.when_keep (Chip.outside _) _ _ _ fun d => ite_keep (Chip.outside _) ?_ ?_
      · exact Chip.outside_eventOpen (by simp) ..
      · exact Chip.outside_event (by simp) ..
    rw [← hlogged] at hmoved
    clear_value logged moved dest
    split
    · next q =>
      refine (Chip.arr_keep_beginCopies Arr.retiredPeri (fun _ _ => rfl) (fun _ _ => rfl) _ _ n).trans
        ((Chip.arr_keep_upArr Arr.retiredPeri logged q n _ ?_).trans hmoved)
      exact fun _ => rfl
    · exact hmoved

/-- A unit whose survey is given up keeps its periphery as it was. -/
theorem Chip.retiredPeri_abandonUnit (c : Chip) (u : SurveyUnit) (n : Nat) : ((c.abandonUnit u).arr n).retiredPeri = (c.arr n).retiredPeri := by
  unfold Chip.abandonUnit
  split
  · split
    · refine (Chip.arr_keep_upArr Arr.retiredPeri _ _ n _ ?_).trans rfl
      exact fun _ => rfl
    · rfl
  · rfl

/-- A periphery retired (R113): whatever else follows, it is marked retired. -/
theorem Chip.retiredPeri_retirePeri (c : Chip) (p : Nat) : ((c.retirePeri p).arr p).retiredPeri = true := by
  unfold Chip.retirePeri
  split
  · next h => exact h
  · extract_lets ended _ retired
    have hretired : (retired.arr p).retiredPeri = true := congrArg Arr.retiredPeri (Chip.arr_upArr ended p _)
    clear_value retired
    split
    · exact hretired
    · next home _ =>
      split
      · next q _ =>
        extract_lets abandoned moved
        have hmoved : (moved.arr p).retiredPeri = true := (Chip.retiredPeri_abandonUnit retired (periUnit q) p).trans hretired
        rw [Chip.arr_of_outside (Chip.outside_substituted (parts := [.regions, .saf, .log]) (by simp) ..) (by simp) p]
        exact hmoved
      · rw [Chip.retiredPeri_startMove]
        exact Chip.retiredPeri_impair hretired home

/-! ## The configuration -/

/-- What the configuration phase leaves: the reasons of both copies, the copy used or the recovery state, and nothing else. -/
structure ConfigPhased (c d : Chip) (r0 r1 : Nat) : Prop where
  phase : d.start.phase = 3
  reason0 : d.cfg.reason0 = BitVec.ofNat 4 r0
  reason1 : d.cfg.reason1 = BitVec.ofNat 4 r1
  neither : r0 ≠ 0 → r1 ≠ 0 → d.cfg.loaded = false ∧ d.start.recovery = true ∧ d.start.reason = 2
  first : r0 = 0 → r1 ≠ 0 → d.cfg.loaded = true ∧ d.cfg.inUse = 0 ∧ d.start.recovery = false
    ∧ d.cfg.sequence = BitVec.ofNat 32 (leAt (c.flashCopy false) 0xC 4)
  second : r0 ≠ 0 → r1 = 0 → d.cfg.loaded = true ∧ d.cfg.inUse = 1 ∧ d.start.recovery = false
    ∧ d.cfg.sequence = BitVec.ofNat 32 (leAt (c.flashCopy true) 0xC 4)
  others : d = { c with cfg := d.cfg, start := d.start }

theorem chooseCopy_first {r1 : Nat} (h1 : r1 ≠ 0) (s0 s1 : Nat) : chooseCopy 0 r1 s0 s1 = some false := by simp [chooseCopy, h1]

theorem chooseCopy_second {r0 : Nat} (h0 : r0 ≠ 0) (s0 s1 : Nat) : chooseCopy r0 0 s0 s1 = some true := by simp [chooseCopy, h0]

theorem chooseCopy_neither {r0 r1 : Nat} (h0 : r0 ≠ 0) (h1 : r1 ≠ 0) (s0 s1 : Nat) : chooseCopy r0 r1 s0 s1 = none := by simp [chooseCopy, h0, h1]

theorem chooseCopy_both (s0 s1 : Nat) : chooseCopy 0 0 s0 s1 = some (decide (s0 < s1)) := rfl

theorem Chip.configPhase_spec (c : Chip) (bad0 bad1 : Bool) :
    ConfigPhased c (c.configPhase bad0 bad1) (verifyConfig c.vault bad0 (c.flashCopy false)) (verifyConfig c.vault bad1 (c.flashCopy true)) := by
  unfold Chip.configPhase
  extract_lets b0 b1 r0 r1 noted
  have hb0 : b0 = c.flashCopy false := rfl
  have hb1 : b1 = c.flashCopy true := rfl
  change ConfigPhased c _ r0 r1
  clear_value r0 r1 b0 b1
  by_cases h0 : r0 = 0
  · subst h0
    by_cases h1 : r1 = 0
    · subst h1
      rw [chooseCopy_both]
      exact ⟨rfl, rfl, rfl, fun h => absurd rfl h, fun _ h => absurd rfl h, fun h => absurd rfl h, rfl⟩
    · rw [chooseCopy_first h1]
      exact ⟨rfl, rfl, rfl, fun h => absurd rfl h, fun _ _ => ⟨rfl, rfl, rfl, by rw [← hb0]; rfl⟩, fun h => absurd rfl h, rfl⟩
  · by_cases h1 : r1 = 0
    · subst h1
      rw [chooseCopy_second h0]
      exact ⟨rfl, rfl, rfl, fun _ h => absurd rfl h, fun h => absurd h h0, fun _ _ => ⟨rfl, rfl, rfl, by rw [← hb1]; rfl⟩, rfl⟩
    · rw [chooseCopy_neither h0 h1]
      exact ⟨rfl, rfl, rfl, fun _ _ => ⟨rfl, rfl, rfl⟩, fun h => absurd h h0, fun _ h => absurd h h1, rfl⟩

/-! ## Memory -/

/-- What start-up restores leaves the start-up's own record alone. -/
theorem Chip.start_memoryPhase (c : Chip) (failed : List (Fin 8 × Fin 32)) (b0 b1 : BankState) (bad : List LedgerMiss) :
    (c.memoryPhase failed b0 b1 bad).start
      = { c.start with restored := true, memory := true, cold := false, phase := if c.start.recovery then c.start.phase else 4 } := by
  unfold Chip.memoryPhase
  extract_lets stored restored failing dropped copied rebuilt _ started
  have hrestored : restored.start = c.start := by
    refine ite_keep Chip.start rfl ?_
    exact Eq.symm (Chip.same_of_outside (p := .start) (Chip.outside_readStore (parts := [.freeCtr, .regions, .cores, .seats, .arrays, .tiers, .peri,
      .cells, .plots, .lasers, .linkLasers, .banks, .trims, .hbmStacks, .ports, .lanes, .mon, .saf, .log]) (by simp) c b0 b1 stored) (by simp))
  have hfailing : failing.start = restored.start := overAll_keep Chip.start _ _ _ fun _ _ => rfl
  have hdropped : dropped.start = failing.start := overAll_keep Chip.start _ _ _ fun d n =>
    Eq.symm (Chip.same_of_outside (p := .start) (Chip.outside_dropChannels (parts := endParts ++ [.hbmStacks, .saf, .log, .hbm]) (by simp) d n)
      (by simp [endParts]))
  have hcopied : copied.start = dropped.start := overAll_keep Chip.start _ _ _ fun _ _ => rfl
  have hrebuilt : rebuilt.start = copied.start := by
    refine (overAll_keep Chip.start _ _ _ fun d n => ?_).trans (overAll_keep Chip.start _ _ _ fun d n => ?_)
    · exact Eq.symm (Chip.same_of_outside (p := .start) (Chip.outside_rebuildTable (parts := [.freeCtr, .regions, .tiers, .hbmStacks, .saf, .log, .hbm,
        .tierImages]) (by simp) bad d n) (by simp))
    · exact Eq.symm (Chip.same_of_outside (p := .start) (Chip.outside_failBadEntry (parts := [.freeCtr, .regions, .tiers, .saf, .log]) (by simp) d n)
        (by simp))
  have hall : rebuilt.start = c.start := hrebuilt.trans (hcopied.trans (hdropped.trans (hfailing.trans hrestored)))
  have hstarted : started.start = { c.start with restored := true, memory := true, cold := false } := by
    rw [← hall]
  clear_value started
  split
  · next hrec =>
    have hrec' : c.start.recovery = true := by simpa [hstarted] using hrec
    rw [hstarted, if_pos hrec']
  · next hrec =>
    have hrec' : ¬ c.start.recovery = true := by simpa [hstarted] using hrec
    have hmoves : started.restartMoves.start = started.start := Eq.symm (Chip.same_of_outside (p := .start)
      (Chip.outside_restartMoves (parts := [.freeCtr, .regions, .arrays, .tiers, .saf, .log]) (by simp) started) (by simp))
    change { started.restartMoves.start with phase := BitVec.ofNat 4 4 } = _
    rw [hmoves, hstarted, if_neg hrec']
    rfl

theorem Chip.mem_memoryPhase (c : Chip) (failed : List (Fin 8 × Fin 32)) (b0 b1 : BankState) (bad : List LedgerMiss) :
    (c.memoryPhase failed b0 b1 bad).mem
      = { c.mem with hbm := (c.memoryPhase failed b0 b1 bad).mem.hbm, tiers := (c.memoryPhase failed b0 b1 bad).mem.tiers } := by
  have hout := Chip.outside_memoryPhase (parts := endParts ++ [.start, .seats, .peri, .cells, .plots, .lasers, .linkLasers, .banks,
    .trims, .hbmStacks, .lanes, .mon, .saf, .log, .hbm, .tierImages]) (by simp) c failed b0 b1 bad
  generalize c.memoryPhase failed b0 b1 bad = d at hout
  obtain ⟨⟩ := c
  obtain ⟨⟩ := d
  simp [Chip.outside, Mems.eq_iff, endParts] at hout ⊢
  simp [hout]

/-! ## Light -/

/-- A table filled from a key on holds at each of its keys a changed entry. -/
theorem look_fillTable {V : Type} (d : V) (f : Nat → V → V) (n k : Nat) (m : SMap V) {i : Nat} (hk : k ≤ i) (hi : i < k + n) :
    ∃ v, look d (fillTable d f n k m) i = f i v := by
  induction n generalizing k m with
  | zero => omega
  | succ n ih =>
    have hstep (v : V) (rest : SMap V) : ∃ w, look d ((k, f k v) :: fillTable d f n (k + 1) rest) i = f i w := by
      by_cases hik : i = k
      · exact ⟨v, by rw [look, if_pos hik, hik]⟩
      · obtain ⟨w, hw⟩ := ih (k + 1) rest (by omega) (by omega)
        exact ⟨w, by rw [look, if_neg hik, hw]⟩
    unfold fillTable
    split
    · exact hstep d []
    · next j v rest =>
      split
      · exact hstep v rest
      · exact hstep d _

theorem Chip.saf_benchRestarts (c : Chip) (gs : List Nat) : (overAll gs Chip.benchRestart c).saf = c.saf := overAll_keep Chip.saf _ _ _ fun _ _ => rfl

theorem Chip.banks_benchRestarts (c : Chip) (gs : List Nat) : (overAll gs Chip.benchRestart c).banks = c.banks :=
  overAll_keep Chip.banks _ _ _ fun _ _ => rfl

theorem Chip.mem_benchRestarts (c : Chip) (gs : List Nat) : (overAll gs Chip.benchRestart c).mem = c.mem := overAll_keep Chip.mem _ _ _ fun _ _ => rfl

/-- Where no remedy waits, the remedies of regions restart the bench's tests alone. -/
theorem Chip.applyRemedies_of_none {c : Chip} (hrem : c.saf.remedies = []) (gs : List Nat) : c.applyRemedies gs = overAll gs Chip.benchRestart c :=
  Chip.applyWhere_of_none ((congrArg Saf.remedies (c.saf_benchRestarts gs)).trans hrem) _

/-- Without a laser or bank that fails and without a remedy, light leaves the banks as the sweep locked them. -/
theorem Chip.lightPhase_spec (c : Chip) (hrem : c.saf.remedies = []) :
    (c.lightPhase [] []).start.phase = 7 ∧ (∀ k, k < 39168 → (c.plot (k / 18)).state ≠ 4 → ((c.lightPhase [] []).bank k).lock = 3)
      ∧ (c.lightPhase [] []).mem = c.mem := by
  unfold Chip.lightPhase
  extract_lets n relit swept standing levelled failed remedied absent
  have hswept : ∀ k, k < 39168 → (c.plot (k / 18)).state ≠ 4 → (swept.bank k).lock = 3 := by
    intro k hk hplot
    obtain ⟨v, hv⟩ := look_fillTable {} (fun k b => if (c.plot (k / 18)).state = 4 then { b with lock := 0 } else b.locked (Config.figure (n + k)))
      39168 0 c.banks (Nat.zero_le k) (by omega)
    have hbank : swept.bank k = v.locked (Config.figure (n + k)) := hv.trans (if_neg hplot)
    rw [hbank]
    rfl
  have hsaf : swept.saf = c.saf := rfl
  have hmem : swept.mem = c.mem := rfl
  clear_value swept
  have hstanding : standing.outside [.lasers, .linkLasers] = swept.outside [.lasers, .linkLasers] :=
    Chip.outside_overAll _ _ _ fun d r => Chip.outside_standBy (by simp) ..
  have hlevelled : levelled.outside [.groups] = standing.outside [.groups] :=
    Chip.outside_overAll _ _ _ fun d k => Chip.outside_levelGroup (by simp) ..
  clear_value standing levelled
  have hfailed : failed = levelled := rfl
  clear_value failed
  have hremedied : remedied = overAll (List.range 16) Chip.benchRestart levelled := by
    rw [← hfailed]
    refine Chip.applyRemedies_of_none ?_ _
    rw [hfailed, Chip.saf_of_outside hlevelled (by simp), Chip.saf_of_outside hstanding (by simp), hsaf, hrem]
  have habsent : absent = remedied := rfl
  clear_value remedied absent
  generalize List.range 16 = gs at hremedied
  have hbanks : absent.banks = swept.banks := by
    rw [habsent, hremedied, Chip.banks_benchRestarts]
    exact Eq.symm ((Chip.same_of_outside (p := .banks) hstanding (by simp)).trans (Chip.same_of_outside (p := .banks) hlevelled (by simp)))
  have hmemory : absent.mem = c.mem := by
    rw [habsent, hremedied, Chip.mem_benchRestarts, ← hmem]
    exact (Chip.mem_of_outside hlevelled (by simp [noMemory])).trans (Chip.mem_of_outside hstanding (by simp [noMemory]))
  refine ⟨rfl, fun k hk hplot => ?_, hmemory⟩
  exact (congrArg (fun banks => (look {} banks k : Bank).lock) hbanks).trans (hswept k hk hplot)

/-! ## Links -/

/-- The free regions run idle in Light where class-0 service is enabled (R332). -/
def Chip.idleLight (c : Chip) (g : Nat) : Chip :=
  (c.setMode g .light).upRegion g (fun r => { r with power := 3, wakes := satAdd r.wakes 1 })

theorem Chip.power_setMode (c : Chip) (g n : Nat) (m : Mode) : ((c.setMode g m).region n).power = (c.region n).power := by
  rw [Chip.region_view_of_outside Region.power (Chip.setMode_outside_upRegion (parts := [.plots]) (by simp) ..) (by simp)]
  by_cases hn : n = g
  · rw [hn, Chip.region_upRegion]
  · rw [Chip.region_upRegion_ne _ _ _ _ hn]

theorem Chip.power_idleLight (c : Chip) (g n : Nat) : ((c.idleLight g).region n).power = if n = g then 3 else (c.region n).power := by
  unfold Chip.idleLight
  by_cases hn : n = g
  · rw [if_pos hn, hn, Chip.region_upRegion]
  · rw [if_neg hn, Chip.region_upRegion_ne _ _ _ _ hn, Chip.power_setMode]

theorem Chip.start_idleLight (c : Chip) (g : Nat) : (c.idleLight g).start = c.start :=
  Eq.symm (Chip.same_of_outside (p := .start) (parts := [.plots, .regions])
    ((Chip.outside_upRegion _ (by simp) ..).trans ((Chip.setMode_outside_upRegion (by simp) ..).trans (Chip.outside_upRegion _ (by simp) ..))) (by simp))

/-- A device that has come up is ready, its free regions idle where class-0 service is enabled. -/
theorem Chip.linksPhase_spec (c : Chip) :
    (c.linksPhase []).start.ready = true
      ∧ (c.cfg.class0 = false → c.linksPhase [] = { c with start := (c.linksPhase []).start })
      ∧ (c.cfg.class0 = true → ∀ g, g < 16 → (c.region g).lost = false → ((c.linksPhase []).region g).power = 3) := by
  unfold Chip.linksPhase
  extract_lets brought ms _ up
  have hbrought : brought = c := rfl
  have hready : up.start.ready = true := rfl
  have hup : up = { c with start := up.start } := rfl
  clear_value up
  have hclass0 : up.cfg.class0 = c.cfg.class0 := by rw [hup]
  have hregion (g : Nat) : up.region g = c.region g := by rw [hup]; rfl
  cases hc : up.cfg.class0 with
  | false =>
    simp only [Bool.not_false, if_true]
    exact ⟨hready, fun _ => hup, fun h => absurd (hclass0.symm.trans hc ▸ h) Bool.false_ne_true⟩
  | true =>
    simp only [Bool.not_true, Bool.false_eq_true, if_false]
    have hkeep : ∀ d : Chip, ∀ g : Nat, (d.idleLight g).start = d.start := Chip.start_idleLight
    refine ⟨?_, fun h => absurd (h.symm.trans (hclass0.symm.trans hc)) Bool.false_ne_true, fun _ g hg hlost => ?_⟩
    · exact (congrArg Start.ready (overAll_keep Chip.start _ Chip.idleLight up hkeep)).trans hready
    · refine overAll_reaches (fun d n => (d.region n).power = 3) Chip.idleLight (fun d n => ?_) (fun d n m hm => ?_) _ up (y := g) ?_
      · rw [Chip.power_idleLight, if_pos rfl]
      · rw [Chip.power_idleLight]
        split
        · rfl
        · exact hm
      · rw [List.mem_filter, hregion, hlost]
        exact ⟨List.mem_range.mpr hg, rfl⟩

/-! ## The phases -/

theorem resetReleased {s : State} (hphase : s.toChip.inPhase 0 = true) (hoff : s.start.powered = false) : Completes .resetRelease s (fun t =>
    t.start.powered = true ∧ t.start.phase = 1 ∧ t.clk.masterLock = s.clk.refclkOk ∧ t.toChip = { s.toChip with start := t.start, clk := t.clk }) :=
  ⟨_, next_congr (if_pos (by rw [hphase, hoff]; rfl)), rfl, rfl, rfl, rfl⟩

theorem identityChecked {s : State} (hphase : s.toChip.inPhase 1 = true) :
    Completes (.identityPhase true) s (fun t =>
      t.vault.read = true ∧ t.start.phase = 2 ∧ t.toChip = { s.toChip with vault := t.vault, start := t.start })
    ∧ Completes (.identityPhase false) s (fun t =>
      t.start = { s.start with recovery := true, reason := 1, phase := 3 } ∧ t.toChip = { s.toChip with start := t.start }) := by
  have hrun : ¬ (!s.toChip.inPhase 1) = true := by rw [hphase]; exact Bool.false_ne_true
  exact ⟨⟨_, next_congr (if_neg hrun), rfl, rfl, rfl⟩, ⟨_, next_congr (if_neg hrun), rfl, rfl⟩⟩

theorem selfTested {s : State} (hphase : s.toChip.inPhase 4 = true) :
    Completes (.benchmarkSelfTest []) s (fun t => t.start.phase = 5 ∧ t.toChip = { s.toChip with start := t.start })
    ∧ ∀ (g : Fin 16) (k : Fin 34) (a : Fin 17), Completes (.benchmarkSelfTest [.periphery g k a]) s (fun t =>
      (t.toChip.arr ((g.val * 34 + k.val) * 17 + a.val)).retiredPeri = true ∧ t.start.phase = 5) :=
  ⟨⟨_, next_congr (if_pos hphase), rfl, rfl⟩, fun _ _ _ => ⟨_, next_congr (if_pos hphase), Chip.retiredPeri_retirePeri .., rfl⟩⟩

theorem calibrated {s : State} {rs : List Int} (hphase : s.toChip.inPhase 5 = true) (hlength : rs.length = 8) :
    (∀ o gr, calibration rs = some (o, gr) → Completes (.levelCalibrationPhase rs) s (fun t =>
      t.start.phase = 6 ∧ t.lvl.offset = BitVec.ofInt 32 o ∧ t.lvl.gain = BitVec.ofNat 32 gr ∧ (∀ k, k < 91 → t.lvl.mask.getLsbD k = true)
      ∧ t.toChip = { s.toChip with start := t.start, lvl := t.lvl }))
    ∧ (calibration rs = none → Completes (.levelCalibrationPhase rs) s (fun t =>
      t.start = { s.start with recovery := true, reason := 5 } ∧ t.toChip = { s.toChip with start := t.start })) := by
  have hrun : ¬ (!s.toChip.inPhase 5) = true := by rw [hphase]; exact Bool.false_ne_true
  have hlegal : ¬ rs.length ≠ 8 := fun h => h hlength
  refine ⟨fun o gr hfound => ?_, fun hnone => ?_⟩
  · refine ⟨_, (if_neg hlegal).trans (next_congr ((if_neg hrun).trans (by rw [hfound]))), rfl, rfl, rfl, fun k hk => ?_, rfl⟩
    have hbit : (BitVec.ofNat 96 (2 ^ 91 - 1)).getLsbD k = true := by
      rw [BitVec.getLsbD_ofNat, Nat.testBit_two_pow_sub_one]
      simp only [Bool.and_eq_true, decide_eq_true_eq]
      omega
    exact hbit
  · exact ⟨_, (if_neg hlegal).trans (next_congr ((if_neg hrun).trans (by rw [hnone]))), rfl, rfl⟩

theorem Chip.mem_seatAbsents (c : Chip) (gs : List Nat) : (overAll gs Chip.seatAbsent c).mem = c.mem :=
  overAll_keep Chip.mem _ _ _ fun _ _ => Chip.mem_of_vaultMem (Chip.seatAbsent_vaultMem ..)

theorem Chip.mem_startSurveys (c : Chip) (rs : List (SurveyUnit × SurveyResult)) : (overAll rs Chip.startSurvey c).mem = c.mem :=
  overAll_keep Chip.mem _ _ _ fun _ _ => Chip.mem_of_vaultMem (Chip.startSurvey_vaultMem ..)

theorem surveyed {s : State} (hphase : s.toChip.inPhase 7 = true) (rs : List (SurveyUnit × SurveyResult)) :
    Completes (.surveyPhase rs) s (fun t => t.start.phase = 8 ∧ t.mem = s.mem) := by
  have hmem := (Chip.mem_seatAbsents (overAll rs Chip.startSurvey s.toChip) (List.range 16)).trans (Chip.mem_startSurveys s.toChip rs)
  refine ⟨_, next_congr (if_pos hphase), rfl, ?_⟩
  generalize overAll (List.range 16) Chip.seatAbsent _ = d at hmem
  exact hmem

/-- Settles O52, each phase by what it says of the start-up's record: what it runs besides leaves that record alone. -/
theorem startupPhasesComplete : Obligations.StartupPhasesComplete := by
  intro s
  refine ⟨resetReleased, identityChecked, fun bad0 bad1 hphase => ?_, fun failed b0 b1 bad hphase hmemory => ?_, selfTested, fun rs => calibrated,
    fun hphase hrem => ?_, surveyed, fun hphase => ?_⟩
  · obtain ⟨hnext, hreason0, hreason1, hneither, hfirst, hsecond, hothers⟩ := s.toChip.configPhase_spec bad0 bad1
    exact ⟨_, next_congr (if_pos hphase), hnext, hreason0, hreason1, hneither, hfirst, hsecond, hothers⟩
  · exact ⟨_, next_congr (if_pos (by rw [hphase, hmemory]; rfl)), s.toChip.start_memoryPhase .., s.toChip.mem_memoryPhase ..⟩
  · have hlit := s.toChip.lightPhase_spec hrem
    refine ⟨_, next_congr (if_pos hphase), ?_⟩
    generalize s.toChip.lightPhase [] [] = d at hlit
    exact hlit
  · obtain ⟨hready, hquiet, hidle⟩ := s.toChip.linksPhase_spec
    exact ⟨_, next_congr (if_pos hphase), hready, hquiet, hidle, Chip.mem_of_vaultMem (Chip.linksPhase_vaultMem ..)⟩

end Sys2Proof.Machine

/-! Configuration writes and access levels (R331, R390 to R392, R395): the obligation O53. -/

namespace Sys2Proof.Machine

/-! ## Configuration writes -/

section
variable (c : Chip)

/-- A configuration write of an image in the data space, while no write runs, is the verification of that image. -/
theorem Chip.cmdConfigWrite_of_free (hidle : c.cfg.writing = none) (hready : c.start.ready = true) (htap : c.tapHolds = false)
    (haligned : c.cfg.src.toNat % 16 = 0) (hfits : c.cfg.src.toNat + cfgLength ≤ dataSpace) {b : List Byte}
    (hb : readWindow c.mem.hbm 0 c.cfg.src.toNat cfgLength = b) :
    c.cmdConfigWrite =
      if verifyConfig c.vault false b ≠ 0 then
        { c with cfg := { c.cfg with result := 4, verify := BitVec.ofNat 4 (verifyConfig c.vault false b) } }
      else if c.start.recovery && c.start.reason = 1 then { c with cfg := { c.cfg with result := 4, verify := 4 } }
      else if c.copySequences.any (fun n => decide (leAt b 0xC 4 ≤ n)) then { c with cfg := { c.cfg with result := 5, verify := 0 } }
      else
        { c with
          cfg := { c.cfg with result := 1, verify := 0, writing := some !(c.cfg.loaded && c.cfg.inUse == 1) }
          mem := { c.mem with flash := writeBytes c.mem.flash (copyBase !(c.cfg.loaded && c.cfg.inUse == 1)) b } } := by
  have hbusy : ¬ (c.cfg.writing.isSome || !(c.start.ready || c.start.recovery) || c.tapHolds) = true := by
    rw [hidle, hready, htap]
    exact Bool.false_ne_true
  have hrange : ¬ (decide (c.cfg.src.toNat % 16 ≠ 0) || decide (dataSpace < c.cfg.src.toNat + cfgLength)) = true := by
    simp only [Bool.or_eq_true, decide_eq_true_eq]
    omega
  unfold Chip.cmdConfigWrite
  extract_lets _ answer src image why dest
  have himage : image = b := hb
  clear_value image
  subst himage
  rw [if_neg hbusy, if_neg hrange]
  rfl

/-- A configuration image written reads back from its copy. -/
theorem flashCopy_written {m : Mem} {copy : Bool} {b : List Byte} (hlength : b.length = cfgLength) :
    readBytes (writeBytes m (copyBase copy) b) (copyBase copy) cfgLength = b := by
  rw [← hlength]
  exact readBytes_eq_of_getByte _ _ _ (holdsAt_writeBytes _ _ _)

theorem mem_readBytes_zeroBytes (m : Mem) (a n : Nat) {x : Byte} (h : x ∈ readBytes (zeroBytes m a n) a n) : x = 0 := by
  obtain ⟨k, hk, rfl⟩ := List.getElem_of_mem h
  have hk' : k < n := by simpa using hk
  have hget := getElem?_readBytes (zeroBytes m a n) a n k hk'
  rw [List.getElem?_eq_getElem hk, getByte_zeroBytes, if_pos ⟨by omega, by omega⟩] at hget
  exact Option.some.inj hget

end

/-- What a configuration write of a free source leaves, by what verification and the copies' sequences say. -/
theorem configWritten {s : State} (hidle : s.cfg.writing = none) (hready : s.start.ready = true) (hrec : s.start.recovery = false)
    (htap : s.toChip.tapHolds = false) (haligned : s.cfg.src.toNat % 16 = 0) (hfits : s.cfg.src.toNat + cfgLength ≤ dataSpace) :
    let b := readWindow s.mem.hbm 0 s.cfg.src.toNat cfgLength
    let dest := !(s.cfg.loaded && s.cfg.inUse == 1)
    Completes .configWrite s (fun t =>
      (verifyConfig s.vault false b = 0 → (∀ n ∈ s.toChip.copySequences, n < leAt b 0xC 4) →
        t.cfg.result = 1 ∧ t.cfg.writing = some dest ∧ t.toChip.flashCopy dest = b
        ∧ sameOutside s.mem.flash t.mem.flash (copyBase dest) cfgLength
        ∧ t.toChip = { s.toChip with cfg := t.cfg, mem := { s.mem with flash := t.mem.flash } })
      ∧ (verifyConfig s.vault false b ≠ 0 →
        t.toChip = { s.toChip with
          cfg := { s.cfg with result := 4, verify := BitVec.ofNat 4 (verifyConfig s.vault false b) } })) := by
  intro b dest
  have hb : readWindow s.mem.hbm 0 s.cfg.src.toNat cfgLength = b := rfl
  have hlength : b.length = cfgLength := by rw [← hb, length_readWindow]
  clear_value b
  have hrun := s.toChip.cmdConfigWrite_of_free hidle hready htap haligned hfits hb
  have hreason : ¬ (s.start.recovery && s.start.reason = 1) = true := by rw [hrec]; exact Bool.false_ne_true
  by_cases hwhy : verifyConfig s.vault false b = 0
  · rw [if_neg (fun h => h hwhy), if_neg hreason] at hrun
    by_cases hold : s.toChip.copySequences.any (fun n => decide (leAt b 0xC 4 ≤ n)) = true
    · rw [if_pos hold] at hrun
      refine ⟨_, next_congr hrun, fun _ hnewer => ?_, fun h => absurd hwhy h⟩
      obtain ⟨n, hn, hle⟩ := List.any_eq_true.mp hold
      have hlt := hnewer n hn
      have hle' : leAt b 0xC 4 ≤ n := of_decide_eq_true hle
      omega
    · rw [if_neg hold] at hrun
      refine ⟨_, next_congr hrun, fun _ _ => ⟨rfl, rfl, flashCopy_written hlength, ?_, rfl⟩, fun h => absurd hwhy h⟩
      exact sameOutside_writeBytes _ _ _ _ (le_of_eq hlength)
  · rw [if_pos hwhy] at hrun
    exact ⟨_, next_congr hrun, fun h => absurd h hwhy, fun _ => rfl⟩

theorem configWriteEnded {s : State} {copy : Bool} (hcopy : s.cfg.writing = some copy) :
    Completes (.configWriteDone true) s (fun t => t.toChip = { s.toChip with cfg := { s.cfg with writing := none, result := 2 } })
    ∧ Completes (.configWriteDone false) s (fun t =>
      t.cfg = { s.cfg with writing := none, result := 7 } ∧ (∀ x ∈ t.toChip.flashCopy copy, x = 0)
      ∧ t.toChip = { s.toChip with cfg := t.cfg, mem := { s.mem with flash := t.mem.flash } }) := by
  have hrun (ok : Bool) : exec (.configWriteDone ok) s = .next { s with toChip :=
      if ok then { s.toChip with cfg := { s.cfg with writing := none, result := 2 } }
      else { s.toChip with
        cfg := { s.cfg with writing := none, result := 7 }
        mem := { s.mem with flash := zeroBytes s.mem.flash (copyBase copy) cfgLength } } } := by
    refine next_congr ?_
    dsimp only
    rw [hcopy]
  exact ⟨⟨_, hrun true, rfl⟩, ⟨_, hrun false, rfl, fun x hx => mem_readBytes_zeroBytes _ _ _ hx, rfl⟩⟩

/-! ## Access levels -/

section
variable {s : State} {n : BitVec 7} (haccess : s.cfg.access.getLsbD 0 = true) (hopen : s.toChip.lockedOut = false) (hlow : 8 ≤ n.toNat)
  (hhigh : n.toNat ≤ 64)
include haccess hopen hlow hhigh

/-- A password attempt that nothing turns away is compared, and the password's registers are cleared. -/
theorem Chip.cmdPassword_of_open :
    s.toChip.cmdPassword n.toNat =
      { s.toChip with acc :=
          if sha512Field (s.cfg.salt ++ s.acc.pw.take n.toNat ++ List.replicate (n.toNat - s.acc.pw.length) 0) = s.cfg.verifier
          then Access.pass { s.acc with pw := [] } s.clk.aon else Access.fail { s.acc with pw := [] } s.clk.aon } := by
  have hlength : ¬ (decide (n.toNat < 8) || decide (64 < n.toNat)) = true := by
    simp only [Bool.or_eq_true, decide_eq_true_eq]
    omega
  have hpermitted : ¬ (!s.cfg.access.getLsbD 0) = true := by rw [haccess]; exact Bool.false_ne_true
  unfold Chip.cmdPassword
  rw [List.append_assoc]
  extract_lets bytes now locked _ cleared
  rw [if_neg hpermitted, if_neg (show ¬ locked = true from fun h => absurd (hopen.symm.trans h) Bool.false_ne_true), if_neg hlength]
  exact (apply_ite (fun a => ({ s.toChip with acc := a } : Chip)) _ _ _).symm

end

/-- The third failure in a row locks attempts out. -/
theorem Access.fail_spec (a : Access) (now : Nat) :
    (a.fail now).level = a.level ∧ (a.fail now).result = 8 ∧ (a.fail now).pw = a.pw ∧ (a.fail now).failures = satAdd a.failures 1
      ∧ (a.failures = 2 → a.lockoutLen = 0 → (a.fail now).lockoutUntil = some (now + secCycles 60)) := by
  unfold Access.fail
  extract_lets n len
  have hn : a.failures = 2 → ¬ n.toNat < 3 := fun h => by
    simp only [n, h]
    decide
  split
  · next hless => exact ⟨rfl, rfl, rfl, rfl, fun h => absurd hless (hn h)⟩
  · refine ⟨rfl, rfl, rfl, rfl, fun _ h => ?_⟩
    simp only [len, if_pos h]

/-- A password of a legal length, while attempts are open: level 1 where it matches, a failure where it does not. -/
theorem passwordTried {s : State} (n : BitVec 7) (haccess : s.cfg.access.getLsbD 0 = true) (hopen : s.toChip.lockedOut = false) (hlow : 8 ≤ n.toNat)
    (hhigh : n.toNat ≤ 64) :
    let a := s.acc
    let given := s.cfg.salt ++ a.pw.take n.toNat ++ List.replicate (n.toNat - a.pw.length) 0
    (sha512Field given = s.cfg.verifier → a.level ≠ 2 → Completes (.accessPassword n) s (fun t =>
      t.acc = { a with pw := [], failures := 0, lockoutLen := 0, lockoutUntil := none, result := 2, level := 1, expiry := s.clk.aon + secCycles 900 }
      ∧ t.toChip = { s.toChip with acc := t.acc }))
    ∧ (sha512Field given ≠ s.cfg.verifier → Completes (.accessPassword n) s (fun t =>
      t.acc.level = a.level ∧ t.acc.result = 8 ∧ t.acc.pw = [] ∧ t.acc.failures = satAdd a.failures 1
      ∧ (a.failures = 2 → a.lockoutLen = 0 → t.acc.lockoutUntil = some (s.clk.aon + secCycles 60))
      ∧ t.toChip = { s.toChip with acc := t.acc })) := by
  intro a given
  have hrun := Chip.cmdPassword_of_open haccess hopen hlow hhigh
  refine ⟨fun hmatch hlevel => ?_, fun hmatch => ?_⟩
  · rw [if_pos hmatch] at hrun
    exact ⟨_, next_congr hrun, if_neg hlevel, rfl⟩
  · rw [if_neg hmatch] at hrun
    obtain ⟨hlevel, hresult, hpw, hfailures, hlockout⟩ := Access.fail_spec { s.acc with pw := [] } s.clk.aon
    exact ⟨_, next_congr hrun, hlevel, hresult, hpw, hfailures, hlockout, rfl⟩

/-- A signed request in order gives level 2 for its seconds, and the challenge is used up. -/
theorem requestGranted {s : State} (d : Nat) (hfits : s.acc.src.toNat + 196 ≤ dataSpace)
    (hgood : s.toChip.requestGood (readWindow s.mem.hbm 0 s.acc.src.toNat 196) = some d) :
    Completes .accessSignedRequest s (fun t =>
      t.toChip = { s.toChip with acc := { s.acc with level := 2, expiry := s.clk.aon + secCycles d, challenge := none, result := 2 } }) := by
  refine ⟨_, next_congr (c := s.toChip.cmdRequest) ?_, rfl⟩
  unfold Chip.cmdRequest
  dsimp only
  rw [if_neg (by omega), hgood]

/-- Settles O53: each command by the branch its hypotheses name. -/
theorem configurationAndAccessComplete : Obligations.ConfigurationAndAccessComplete := by
  intro s a b dest
  refine ⟨configWritten, fun copy => configWriteEnded, passwordTried, ⟨_, rfl, rfl, rfl, rfl, rfl⟩, requestGranted, ⟨_, rfl, rfl⟩,
    fun hlevel hend => ?_, fun until_ huntil hend => ?_, fun ch until_ hch hend => ?_⟩
  · refine ⟨_, next_congr (if_pos ?_), rfl⟩
    simp only [Bool.and_eq_true, decide_eq_true_eq]
    exact ⟨hlevel, hend⟩
  · refine ⟨{ s with toChip := { s.toChip with acc := { a with lockoutUntil := none } } }, next_congr ?_, rfl⟩
    dsimp only
    rw [show s.acc.lockoutUntil = some until_ from huntil]
    exact if_pos hend
  · refine ⟨{ s with toChip := { s.toChip with acc := { a with challenge := none } } }, next_congr ?_, rfl⟩
    dsimp only
    rw [show s.acc.challenge = some (ch, until_) from hch]
    exact if_pos hend

end Sys2Proof.Machine

/-! Attestation, the owner key, the diagnostic window and the test port (R387 to R389, R393, R394): the obligation O54. -/

namespace Sys2Proof.Machine

/-! ## Attestation and the owner key -/

theorem attestStarted {s : State} (hidle : s.acc.attesting = none) (hsrc : s.acc.src.toNat % 16 = 0) (hdst : s.acc.dst.toNat % 16 = 0)
    (hread : s.toChip.dataFree s.acc.src.toNat 64 = true) (hwrite : s.toChip.dataFree s.acc.dst.toNat 2516 = true) :
    Completes .attest s (fun t =>
      t.toChip = { s.toChip with acc := { s.acc with attesting := some (s.acc.src.toNat, s.acc.dst.toNat), keyResult := 1 } }) := by
  have hbusy : ¬ s.acc.attesting.isSome = true := by rw [hidle]; exact Bool.false_ne_true
  have hlegal : ¬ (decide (s.acc.src.toNat % 16 ≠ 0) || decide (s.acc.dst.toNat % 16 ≠ 0) || !(s.toChip.dataFree s.acc.src.toNat 64)
      || !(s.toChip.dataFree s.acc.dst.toNat 2516)) = true := by
    rw [hsrc, hdst, hread, hwrite]
    exact Bool.false_ne_true
  exact ⟨_, next_congr (c := s.toChip.cmdAttest) ((if_neg hbusy).trans (if_neg hlegal)), rfl⟩

/-- The report's body stands in the data space before its signature, and no other memory changes. -/
theorem attestEnded {s : State} {src dst : Nat} (hpending : s.acc.attesting = some (src, dst)) :
    Completes .attestationReportWritten s (fun t =>
      (∀ n b, (s.toChip.reportBody (readWindow s.mem.hbm 0 src 64))[n]? = some b → getByte t.mem.hbm (windowAddr 0 (dst + n)) = b)
      ∧ t.acc = { s.acc with attesting := none, keyResult := 2 } ∧ t.mem = { s.mem with hbm := t.mem.hbm }) := by
  let body := s.toChip.reportBody (readWindow s.mem.hbm 0 src 64)
  let signed := body ++ signatureBytes (Config.signature (beNat (sha512 body)) s.freeCtr)
  have hrun : s.toChip.attestDone
      = { s.toChip.draw.2.writeData dst signed with acc := { s.acc with attesting := none, keyResult := 2 } } := by
    unfold Chip.attestDone
    rw [hpending]
    rfl
  have hsigned : ∀ (n : Nat) (b : Byte), body[n]? = some b → signed[n]? = some b := fun n b h => by
    rw [List.getElem?_append_left (List.getElem?_eq_some_iff.mp h).1, h]
  clear_value signed
  refine ⟨_, next_congr hrun, fun n b h => ?_, rfl, rfl⟩
  exact getByte_writeWindow_inside _ _ _ _ _ _ (hsigned n b h)

theorem ownerRecorded {s : State} {k : Nat × Nat} (hidle : s.acc.attesting = none) (hfits : s.acc.src.toNat + 308 ≤ dataSpace)
    (hrec : s.start.recovery = false) (hkey : s.toChip.recordKey (readWindow s.mem.hbm 0 s.acc.src.toNat 308) = some k) :
    Completes .ownerRecord s (fun t =>
      t.vault.ownerKey = some k
      ∧ t.vault.ownerSeq = BitVec.ofNat 32 (leAt (readWindow s.mem.hbm 0 s.acc.src.toNat 308) 24 4)
      ∧ t.acc = { s.acc with level := 0, expiry := 0, tap := .idle, keyResult := 2 }
      ∧ t.toChip = { s.toChip with vault := t.vault, acc := t.acc }) := by
  have hbusy : ¬ s.acc.attesting.isSome = true := by rw [hidle]; exact Bool.false_ne_true
  have hreason : ¬ (s.start.recovery && s.start.reason = 1) = true := by rw [hrec]; exact Bool.false_ne_true
  let record := readWindow s.mem.hbm 0 s.acc.src.toNat 308
  have hrun : s.toChip.cmdOwner
      = { s.toChip with
          vault := { s.vault with ownerKey := some k, ownerSeq := BitVec.ofNat 32 (leAt record 24 4) }
          acc := { s.acc.toLevel0 with keyResult := 2 } } := by
    unfold Chip.cmdOwner
    dsimp only
    rw [if_neg hbusy, if_neg (by omega), if_neg hreason, hkey]
  exact ⟨_, next_congr hrun, rfl, rfl, rfl, rfl⟩

/-! ## The diagnostic window -/

theorem diagRead_spec {s : State} (hlevel : s.acc.level ≠ 0) : Completes .diagRead s (fun t =>
    (∀ d, s.toChip.diagBytes s.acc.diagSpace.toNat s.acc.diagAddr.toNat = some d → t.acc.diagData = d ∧ t.acc.diagOut = false)
    ∧ (s.toChip.diagBytes s.acc.diagSpace.toNat s.acc.diagAddr.toNat = none → t.acc.diagData = List.replicate 16 0 ∧ t.acc.diagOut = true)
    ∧ t.toChip = { s.toChip with acc := t.acc }) := by
  have hrun : s.toChip.diagRead = { s.toChip with acc := { s.acc with
      diagData := (s.toChip.diagBytes s.acc.diagSpace.toNat s.acc.diagAddr.toNat).getD (List.replicate 16 0)
      diagOut := (s.toChip.diagBytes s.acc.diagSpace.toNat s.acc.diagAddr.toNat).isNone } } := if_neg hlevel
  generalize s.toChip.diagBytes s.acc.diagSpace.toNat s.acc.diagAddr.toNat = bytes at hrun ⊢
  refine ⟨_, next_congr hrun, fun d h => ?_, fun h => ?_, rfl⟩
  · subst h
    exact ⟨rfl, rfl⟩
  · subst h
    exact ⟨rfl, rfl⟩

/-! ## The test port -/

section
variable {s : State} (t : Tap) (scan chain : List Bool)

/-- At level 2 an instruction of the test port is taken. -/
theorem Chip.tapSelect_of_level2 {c : Chip} (h : c.acc.level = 2) : c.tapSelect t scan = { c with acc := { c.acc with tap := t, scan := scan } } :=
  if_pos h

/-- At another level it is not. -/
theorem Chip.tapSelect_of_not_level2 {c : Chip} (h : c.acc.level ≠ 2) : c.tapSelect t scan = c := if_neg h

theorem tapInstructions_of_level2 (h : s.acc.level = 2) :
    Completes .tapBypass s (fun t => t.toChip = { s.toChip with acc := { s.acc with tap := .bypass, scan := [false] } })
    ∧ Completes .tapIdcode s (fun t =>
        t.toChip = { s.toChip with acc := { s.acc with tap := .idcode, scan := (List.range 32).map (fun k => bitOf 0x05A1623D k) } })
    ∧ Completes (.tapSamplePreload chain) s (fun t =>
        t.toChip = { s.toChip with acc := { s.acc with tap := .samplePreload, scan := chain, chain := chain } })
    ∧ Completes .tapExtest s (fun t => t.toChip = { s.toChip with acc := { s.acc with tap := .extest, scan := s.acc.chain } })
    ∧ Completes .tapClamp s (fun t => t.toChip = { s.toChip with acc := { s.acc with tap := .clamp, scan := [false] } })
    ∧ Completes .tapHighz s (fun t => t.toChip = { s.toChip with acc := { s.acc with tap := .highz, scan := [false] } }) := by
  have htaken (t : Tap) (scan : List Bool) := Chip.tapSelect_of_level2 t scan (c := s.toChip) h
  have hpreload : (s.toChip.tapSelect .samplePreload chain).when (s.acc.level == 2) (fun c => { c with acc := { c.acc with chain := chain } })
      = { s.toChip with acc := { s.acc with tap := .samplePreload, scan := chain, chain := chain } } := by
    rw [htaken, h]
    rfl
  exact ⟨⟨_, next_congr (htaken _ _), rfl⟩, ⟨_, next_congr (htaken _ _), rfl⟩, ⟨_, next_congr hpreload, rfl⟩, ⟨_, next_congr (htaken _ _), rfl⟩,
    ⟨_, next_congr (htaken _ _), rfl⟩, ⟨_, next_congr (htaken _ _), rfl⟩⟩

theorem tapInstructions_of_not_level2 (h : s.acc.level ≠ 2) :
    exec .tapBypass s = .next s ∧ exec .tapIdcode s = .next s ∧ exec (.tapSamplePreload chain) s = .next s
    ∧ exec .tapExtest s = .next s ∧ exec .tapClamp s = .next s ∧ exec .tapHighz s = .next s := by
  have hkept (t : Tap) (scan : List Bool) := Chip.tapSelect_of_not_level2 t scan (c := s.toChip) h
  have hpreload : (s.toChip.tapSelect .samplePreload chain).when (s.acc.level == 2) (fun c => { c with acc := { c.acc with chain := chain } })
      = s.toChip := by
    rw [hkept, beq_eq_false_iff_ne.mpr h]
    rfl
  exact ⟨next_congr (hkept _ _), next_congr (hkept _ _), next_congr hpreload, next_congr (hkept _ _), next_congr (hkept _ _), next_congr (hkept _ _)⟩

end

/-- Settles O54: each command by the branch its hypotheses name. -/
theorem identityCommandsComplete : Obligations.IdentityCommandsComplete := by
  intro s a
  exact ⟨attestStarted, fun src dst hpending _ _ => attestEnded hpending, fun k => ownerRecorded, diagRead_spec,
    fun h chain => tapInstructions_of_level2 chain h, fun h chain => tapInstructions_of_not_level2 chain h⟩

end Sys2Proof.Machine
